-- ==== Sys2Proof/Word.lean ====
section
/-! DEFINITION. The word types of the G96 (00_scope R7, 01_execution_model R29) and their plainest arithmetic. -/

namespace Sys2Proof

/-- A byte of storage (R7). -/
abbrev Byte := BitVec 8
/-- A register of one lane (R29). -/
abbrev Word := BitVec 32
/-- A pair, an address, an instruction word (R29, R45). -/
abbrev DWord := BitVec 64
/-- A mask of the 8 lanes of a wave (R10, R12). -/
abbrev Mask := BitVec 8
/-- One register of a wave: element l is lane l (R10). -/
abbrev Row := Vector Word 8
/-- A byte string, lowest address first (R7). -/
abbrev Bytes := List Byte

namespace Word

/-- The row that holds the same word in every lane. -/
def splat (w : Word) : Row := Vector.replicate 8 w

/-- The low half of a 64-bit value, as the even register of a pair holds it (R29). -/
def lo (d : DWord) : Word := d.setWidth 32

/-- The high half of a 64-bit value (R29). -/
def hi (d : DWord) : Word := (d >>> 32).setWidth 32

/-- A pair read as one 64-bit value, the low half in the even register (R29). -/
def pair (l h : Word) : DWord := (h.setWidth 64 <<< 32) ||| l.setWidth 64

/-- Sign-extension to 64 bits, the `sx` of R128. -/
def sx64 {n : Nat} (b : BitVec n) : DWord := b.signExtend 64

/-- Bits hi..lo of a value, as a number (R7). -/
def bits {n : Nat} (b : BitVec n) (hi lo : Nat) : Nat := b.toNat / 2 ^ lo % 2 ^ (hi + 1 - lo)

end Word

end Sys2Proof
end

