-- ==== Sys2Proof/Machine/Sparse.lean ====
section
/-! DEFINITION. Sparse storage as plain data: lists of (key, value) pairs with keys strictly rising and no pair that holds what
an unlisted key reads as, so that equal contents are equal data. Memory (18 R362), vault memory (18 R359) and the register
blocks (22 R411) are such lists; scratch (R27) keeps every byte that was written. -/

namespace Sys2Proof.Machine

/-- A sparse map: keys strictly rising. -/
abbrev Sparse (α : Type) := List (Nat × α)

/-- Bytes of memory by address; an unlisted byte reads 0 (log 2). -/
abbrev Memory := List Host.Cell

/-- 64-bit registers by byte offset; an unlisted register reads 0, its reset value (18 R363, 19 R365, 20 R391, 22 R407). -/
abbrev RegFile := Sparse DWord

/-- What a key holds, `dflt` where it is not listed. -/
def Sparse.get {α : Type} (dflt : α) : Sparse α → Nat → α
  | [], _ => dflt
  | (k, v) :: m, a => if k = a then v else if a < k then dflt else Sparse.get dflt m a

/-- What a key holds, if it is listed. -/
def Sparse.get? {α : Type} : Sparse α → Nat → Option α
  | [], _ => none
  | (k, v) :: m, a => if k = a then some v else if a < k then none else Sparse.get? m a

/-- Lists the pair (a, v), in place of what the key held. -/
def Sparse.insert {α : Type} : Sparse α → Nat → α → Sparse α
  | [], a, v => [(a, v)]
  | (k, w) :: m, a, v =>
    if a < k then (a, v) :: (k, w) :: m
    else if a = k then (a, v) :: m
    else (k, w) :: Sparse.insert m a v

/-- Takes the key off the list. -/
def Sparse.erase {α : Type} : Sparse α → Nat → Sparse α
  | [], _ => []
  | (k, w) :: m, a => if a < k then (k, w) :: m else if a = k then m else (k, w) :: Sparse.erase m a

/-- Writes a key; writing the default takes the key off the list, which keeps the canonical form. -/
def Sparse.put {α : Type} [DecidableEq α] (dflt : α) (m : Sparse α) (a : Nat) (v : α) : Sparse α :=
  if v = dflt then m.erase a else m.insert a v

/-- Keys strictly rising above `lo`. -/
def Sparse.sortedFrom {α : Type} : Nat → Sparse α → Bool
  | _, [] => true
  | lo, (k, _) :: m => decide (lo ≤ k) && Sparse.sortedFrom (k + 1) m

/-- The canonical form: keys strictly rising, no pair holding the default. -/
def Sparse.wf {α : Type} [DecidableEq α] (dflt : α) (m : Sparse α) : Bool :=
  Sparse.sortedFrom 0 m && m.all fun p => decide (p.2 ≠ dflt)

/-- The canonical form of memory. -/
def Memory.wf (m : Memory) : Bool := Sparse.wf (α := Byte) 0 m

/-- One byte of memory (log 2: a byte nothing has written reads 0). -/
def Memory.read (m : Memory) (a : Nat) : Byte := Sparse.get (α := Byte) 0 m a

/-- Writes one byte of memory. -/
def Memory.write (m : Memory) (a : Nat) (b : Byte) : Memory := Sparse.put (α := Byte) 0 m a b

/-- `n` bytes from address `a`, lowest first (R7). -/
def Memory.readBytes (m : Memory) (a : Nat) : Nat → Bytes
  | 0 => []
  | n + 1 => m.read a :: Memory.readBytes m (a + 1) n

/-- Writes a byte string from address `a` up (R7). -/
def Memory.writeBytes (m : Memory) (a : Nat) : Bytes → Memory
  | [] => m
  | b :: bs => Memory.writeBytes (m.write a b) (a + 1) bs

/-- A byte string read as a little-endian number (R7). -/
def leNat : Bytes → Nat
  | [] => 0
  | b :: bs => b.toNat + 256 * leNat bs

/-- The low `n` bytes of a number, little-endian (R7). -/
def natLe : Nat → Nat → Bytes
  | 0, _ => []
  | n + 1, v => BitVec.ofNat 8 v :: natLe n (v / 256)

/-- A register of a block. -/
def RegFile.read (r : RegFile) (off : Nat) : DWord := Sparse.get (α := DWord) 0 r off

/-- Sets a register of a block. -/
def RegFile.set (r : RegFile) (off : Nat) (v : DWord) : RegFile := Sparse.put (α := DWord) 0 r off v

end Sys2Proof.Machine
end

