-- ==== Sys2Proof/Machine/Bits.lean ====
section
/-! DEFINITION. Rows, lanes and masks (01 R10, R12), bit counts, and byte strings cut into pieces. -/

namespace Sys2Proof.Machine

/-- The lanes of a wave (R10). -/
def lanes : List Nat := [0, 1, 2, 3, 4, 5, 6, 7]

/-- The row whose lane l is f l. -/
def rowOf (f : Nat → Word) : Row := #v[f 0, f 1, f 2, f 3, f 4, f 5, f 6, f 7]

/-- Lane l of a row (lane 0 to 7). -/
def Row.lane (r : Row) (l : Nat) : Word := r.toList.getD l 0

/-- The row with the lanes of `m` taken from `new` and the others kept (R13). -/
def mergeRow (m : Mask) (old new : Row) : Row := rowOf fun l => if m.getLsbD l then Row.lane new l else Row.lane old l

/-- The lanes whose bit is set, ascending. -/
def lanesOf (m : Mask) : List Nat := lanes.filter fun l => m.getLsbD l

/-- The mask of the lanes for which `p` holds. -/
def maskOf (p : Nat → Bool) : Mask :=
  BitVec.ofNat 8 ((p 0).toNat + 2 * (p 1).toNat + 4 * (p 2).toNat + 8 * (p 3).toNat + 16 * (p 4).toNat + 32 * (p 5).toNat
    + 64 * (p 6).toNat + 128 * (p 7).toNat)

/-- The mask of a list of lanes. -/
def maskOfList (ls : List Nat) : Mask := maskOf fun l => ls.contains l

/-- The lowest lane of a mask. -/
def lowest (m : Mask) : Option Nat := (lanesOf m).head?

/-- The number of lanes of a mask. -/
def laneCount (m : Mask) : Nat := (lanesOf m).length

/-- The lane that lane l reads under a permutation field (R64); `act` gives `^bclo`. -/
def permLane (p : BitVec 3) (act : Mask) (l : Nat) : Nat :=
  match p.toNat with
  | 0 => l
  | 1 => (l + 1) % 8
  | 2 => l ^^^ 1
  | 3 => l ^^^ 2
  | 4 => l ^^^ 4
  | 5 => 7 - l
  | 6 => 0
  | _ => (lowest act).getD 0

/-- Set bits of the low `n` bits of a number. -/
def popcount : Nat → Nat → Nat
  | 0, _ => 0
  | n + 1, v => v % 2 + popcount n (v / 2)

/-- The number of bits a number needs: 0 for 0, else one more than the place of its top bit. -/
def bitLen (n : Nat) : Nat := if n = 0 then 0 else Nat.log2 n + 1

/-- The place of the lowest set bit among bits `k` up, looking at `fuel` bits. -/
def lowBit : Nat → Nat → Option Nat
  | 0, _ => none
  | fuel + 1, v => if v % 2 = 1 then some 0 else (lowBit fuel (v / 2)).map (· + 1)

/-- Bits `hi` down to `lo` of a number (R7). -/
def bitsN (v hi lo : Nat) : Nat := v / 2 ^ lo % 2 ^ (hi + 1 - lo)

/-- Bit k of a number. -/
def bitN (v k : Nat) : Bool := v / 2 ^ k % 2 == 1

/-- The signed value of the low `w` bits of a number. -/
def signedN (w v : Nat) : Int := if v % 2 ^ w < 2 ^ (w - 1) then (v % 2 ^ w : Nat) else ((v % 2 ^ w : Nat) : Int) - 2 ^ w

/-- A number rounded up to a multiple of `m`. -/
def roundUp (v m : Nat) : Nat := (v + m - 1) / m * m

/-- Replaces `bs.length` elements of a byte string from place `off`. -/
def overlay (old : Bytes) (off : Nat) (bs : Bytes) : Bytes := old.take off ++ bs ++ old.drop (off + bs.length)

/-- Element k of a list replaced. -/
def setAt {α : Type} (xs : List α) (k : Nat) (v : α) : List α := xs.set k v

/-- The element of a list with the least key, the earliest among equals. -/
def argMin {α : Type} (key : α → Nat) : List α → Option α
  | [] => none
  | x :: xs =>
    match argMin key xs with
    | none => some x
    | some y => if key x ≤ key y then some x else some y

/-- The least number below `bound` that is not in the list. -/
def lowestFree (bound : Nat) (used : List Nat) : Option Nat := (List.range bound).find? fun k => !used.contains k

/-- The `n` least numbers below `bound` that are not in the list, ascending. -/
def lowestFreeN (n bound : Nat) (used : List Nat) : List Nat := ((List.range bound).filter fun k => !used.contains k).take n

end Sys2Proof.Machine
end

