-- ==== Sys2Proof/Machine/Float.lean ====
section
/-! DEFINITION. Floating-point arithmetic (04 R87-R103): exact values, one rounding function, exceptions, NaN results, minifloats,
block scales and stochastic rounding. Values are exact dyadic numbers; nothing is rounded before the one rounding of R88. -/

namespace Sys2Proof.Machine

/-- The rounding modes (R89). -/
inductive Rm where
  | rne | rtz | rup | rdn | rna
deriving DecidableEq, Repr

/-- `%fcr`.RM (R34). -/
def Rm.ofFcr (fcr : BitVec 9) : Rm :=
  match fcr.toNat % 4 with
  | 0 => .rne
  | 1 => .rtz
  | 2 => .rup
  | _ => .rdn

/-- An RND field (R136); 0 takes `%fcr`.RM. -/
def Rm.ofRnd (rnd : Nat) (fcr : BitVec 9) : Rm :=
  match rnd with
  | 1 => .rne
  | 2 => .rtz
  | 3 => .rup
  | 4 => .rdn
  | 5 => .rna
  | _ => .ofFcr fcr

/-- The sticky bits of `%fcr` (R34): NV, DZ, OF, UF, NX. -/
def fNV : BitVec 9 := 0x100
def fDZ : BitVec 9 := 0x080
def fOF : BitVec 9 := 0x040
def fUF : BitVec 9 := 0x020
def fNX : BitVec 9 := 0x010
/-- `%fcr`.FTZ (R34). -/
def fcrFtz (fcr : BitVec 9) : Bool := fcr.getLsbD 2
/-- `%fcr`.DNAN (R34). -/
def fcrDnan (fcr : BitVec 9) : Bool := fcr.getLsbD 3

/-- An IEEE format (R87): exponent bits, fraction bits, bias. -/
structure Fmt where
  eb : Nat
  mb : Nat
  bias : Nat
deriving DecidableEq, Repr

/-- FP32 (R87). -/
def fp32 : Fmt := { eb := 8, mb := 23, bias := 127 }
/-- FP16 (R87). -/
def fp16 : Fmt := { eb := 5, mb := 10, bias := 15 }
/-- BF16 (R87). -/
def bf16 : Fmt := { eb := 8, mb := 7, bias := 127 }

/-- The sign bit's weight. -/
def Fmt.signBit (f : Fmt) : Nat := 2 ^ (f.eb + f.mb)
/-- The code of +∞. -/
def Fmt.infCode (f : Fmt) : Nat := (2 ^ f.eb - 1) * 2 ^ f.mb
/-- The canonical quiet NaN (R87). -/
def Fmt.qnan (f : Fmt) : Nat := f.infCode + 2 ^ (f.mb - 1)
/-- Puts a sign on a magnitude code. -/
def Fmt.sign (f : Fmt) (neg : Bool) (code : Nat) : Nat := if neg then f.signBit + code else code

/-- A value read from a format: NaN with its sign, whether it signals, and its fraction bits left-aligned in 23 bits; ±∞; or the
exact number (−1)^neg · m · 2^e. -/
inductive Val where
  | nan (neg sig : Bool) (frac : Nat)
  | inf (neg : Bool)
  | fin (neg : Bool) (m : Nat) (e : Int)
deriving DecidableEq, Repr

/-- A zero. -/
def Val.zero (neg : Bool) : Val := .fin neg 0 0

/-- Whether it is a NaN. -/
def Val.isNan : Val → Bool
  | .nan _ _ _ => true
  | _ => false

/-- Whether it is a signalling NaN. -/
def Val.isSnan : Val → Bool
  | .nan _ s _ => s
  | _ => false

/-- Whether it is a zero. -/
def Val.isZero : Val → Bool
  | .fin _ m _ => m == 0
  | _ => false

/-- The sign. -/
def Val.neg? : Val → Bool
  | .nan n _ _ => n
  | .inf n => n
  | .fin n _ _ => n

/-- The negation. -/
def Val.negate : Val → Val
  | .nan n s f => .nan (!n) s f
  | .inf n => .inf (!n)
  | .fin n m e => .fin (!n) m e

/-- Reads a code of a format (R87). -/
def Fmt.read (f : Fmt) (code : Nat) : Val :=
  let neg := bitN code (f.eb + f.mb)
  let e := code / 2 ^ f.mb % 2 ^ f.eb
  let m := code % 2 ^ f.mb
  if e = 2 ^ f.eb - 1 then
    if m = 0 then .inf neg else .nan neg (!bitN m (f.mb - 1)) (m * 2 ^ (23 - f.mb))
  else if e = 0 then .fin neg m (1 - (f.bias : Int) - f.mb)
  else .fin neg (2 ^ f.mb + m) ((e : Int) - f.bias - f.mb)

/-- A source as `%fcr`.FTZ reads it: a subnormal becomes zero of the same sign (R92). -/
def Fmt.flushIn (f : Fmt) (ftz : Bool) (code : Nat) : Nat :=
  if ftz && code / 2 ^ f.mb % 2 ^ f.eb == 0 then f.sign (bitN code (f.eb + f.mb)) 0 else code % (2 * f.signBit)

/-- A source value under FTZ (R92). -/
def Fmt.readZ (f : Fmt) (ftz : Bool) (code : Nat) : Val := f.read (f.flushIn ftz code)

/-- Whether rounding away from zero is due, from the part that rounds off: `rem` of `unit`, the kept part being odd or not. -/
def roundsUp (rm : Rm) (neg odd : Bool) (rem unit : Nat) : Bool :=
  match rm with
  | .rne => decide (unit < 2 * rem) || (decide (2 * rem = unit) && odd)
  | .rna => decide (unit ≤ 2 * rem)
  | .rtz => false
  | .rup => !neg && decide (rem ≠ 0)
  | .rdn => neg && decide (rem ≠ 0)

/-- m · 2^e cut at 2^q: the whole part, the rest, and the unit the rest is measured in. -/
def cutAt (m : Nat) (e q : Int) : Nat × Nat × Nat :=
  if q ≤ e then (m * 2 ^ (e - q).toNat, 0, 1)
  else (m / 2 ^ (q - e).toNat, m % 2 ^ (q - e).toNat, 2 ^ (q - e).toNat)

/-- The exponent of the last place of m · 2^e with `mb` fraction bits and least exponent `emin`. -/
def lastPlace (m : Nat) (e : Int) (mb : Nat) (emin : Int) : Int := max (e + bitLen m - 1 - mb) (emin - mb)

/-- The magnitude code of a significand cut at 2^q in a format with `mb` fraction bits and least exponent `emin`; a carry out of the
significand moves into the exponent. -/
def magCode (sig : Nat) (q : Int) (mb : Nat) (emin : Int) : Nat :=
  if sig < 2 ^ mb then sig else (q - (emin - mb)).toNat * 2 ^ mb + sig

/-- A rounded magnitude (R88): the code as if the exponent range had no top, whether it is inexact, and whether it is tiny after
rounding (R91). -/
def roundMag (rm : Rm) (neg : Bool) (m : Nat) (e : Int) (mb : Nat) (emin : Int) : Nat × Bool × Bool :=
  if m = 0 then (0, false, false)
  else
    let q := lastPlace m e mb emin
    let c := cutAt m e q
    let sig := if roundsUp rm neg (c.1 % 2 == 1) c.2.1 c.2.2 then c.1 + 1 else c.1
    let top := e + bitLen m - 1
    let u := cutAt m e (top - mb)
    let usig := if roundsUp rm neg (u.1 % 2 == 1) u.2.1 u.2.2 then u.1 + 1 else u.1
    (magCode sig q mb emin, c.2.1 != 0, decide (top < emin) && !(decide (top = emin - 1) && usig == 2 ^ (mb + 1)))

/-- What overflow gives (R90). -/
def Fmt.overflow (f : Fmt) (rm : Rm) (neg : Bool) : Nat :=
  match rm with
  | .rne | .rna => f.infCode
  | .rtz => f.infCode - 1
  | .rup => if neg then f.infCode - 1 else f.infCode
  | .rdn => if neg then f.infCode else f.infCode - 1

/-- The least normal exponent. -/
def Fmt.emin (f : Fmt) : Int := 1 - (f.bias : Int)

/-- A finite exact value rounded once to a format (R88-R92): the code with its sign, and the sticky bits. -/
def Fmt.round (f : Fmt) (rm : Rm) (ftz neg : Bool) (m : Nat) (e : Int) : Nat × BitVec 9 :=
  let r := roundMag rm neg m e f.mb f.emin
  if f.infCode ≤ r.1 then (f.sign neg (f.overflow rm neg), fOF ||| fNX)
  else if ftz && decide (r.1 ≠ 0 ∧ r.1 < 2 ^ f.mb) then (f.sign neg 0, fUF ||| fNX)
  else (f.sign neg r.1, (if r.2.1 then fNX else 0) ||| (if r.2.1 && r.2.2 then fUF else 0))

/-- The NaN a NaN source gives in a format (R93): quieted, its sign kept, the top fraction bits that fit. -/
def Fmt.quiet (f : Fmt) (neg : Bool) (frac : Nat) : Nat :=
  f.sign neg (f.infCode + (frac / 2 ^ (23 - f.mb) ||| 2 ^ (f.mb - 1)))

/-- A NaN result (R93): the first NaN of the sources, or the canonical NaN with NV when there is none or under DNAN. -/
def Fmt.nanResult (f : Fmt) (dnan : Bool) (vs : List Val) : Nat × BitVec 9 :=
  let snan := if vs.any Val.isSnan then fNV else 0
  match vs.find? Val.isNan with
  | some (.nan neg _ frac) => (if dnan then f.qnan else f.quiet neg frac, snan)
  | _ => (f.qnan, fNV)

/-- An exact value, or NaN of the sources, written in a format. -/
def Fmt.write (f : Fmt) (rm : Rm) (fcr : BitVec 9) (srcs : List Val) (v : Val) : Nat × BitVec 9 :=
  match v with
  | .nan _ _ _ => f.nanResult (fcrDnan fcr) srcs
  | .inf neg => (f.sign neg f.infCode, 0)
  | .fin neg m e => f.round rm (fcrFtz fcr) neg m e

/-- The number a finite value stands for, in units of 2^q, for q at most its exponent. -/
def scaled (neg : Bool) (m : Nat) (e q : Int) : Int :=
  let n : Int := (m * 2 ^ (e - q).toNat : Nat)
  if neg then -n else n

/-- The exact sum of two values that are no NaN (R88); none for ∞ − ∞. An exact zero from unlike signs is −0 only under RDN. -/
def Val.add (rdn : Bool) (a b : Val) : Option Val :=
  match a, b with
  | .inf n, .inf k => if n = k then some (.inf n) else none
  | .inf n, _ => some (.inf n)
  | _, .inf n => some (.inf n)
  | .fin n m e, .fin k l g =>
    let q := min e g
    let t := scaled n m e q + scaled k l g q
    if t = 0 then some (.zero (if n = k then n else rdn)) else some (.fin (decide (t < 0)) t.natAbs q)
  | _, _ => none

/-- The exact product of two values that are no NaN (R88); none for 0 · ∞. -/
def Val.mul (a b : Val) : Option Val :=
  match a, b with
  | .inf n, .inf k => some (.inf (n != k))
  | .inf n, .fin k m _ => if m = 0 then none else some (.inf (n != k))
  | .fin k m _, .inf n => if m = 0 then none else some (.inf (n != k))
  | .fin n m e, .fin k l g => some (.fin (n != k) (m * l) (e + g))
  | _, _ => none

/-- An exact result of sources: a NaN among them, or an invalid operation, makes it a NaN (R93). -/
def Fmt.result (f : Fmt) (rm : Rm) (fcr : BitVec 9) (srcs : List Val) (r : Option Val) : Nat × BitVec 9 :=
  if srcs.any Val.isNan then f.nanResult (fcrDnan fcr) srcs
  else match r with
    | none => (f.qnan, fNV)
    | some v => f.write rm fcr srcs v

/-- a + b (R140, R146). -/
def Fmt.add (f : Fmt) (rm : Rm) (fcr : BitVec 9) (a b : Nat) : Nat × BitVec 9 :=
  let x := f.readZ (fcrFtz fcr) a
  let y := f.readZ (fcrFtz fcr) b
  f.result rm fcr [x, y] (x.add (rm = .rdn) y)

/-- a − b (R140): b with its sign inverted unless it is a NaN. -/
def Fmt.sub (f : Fmt) (rm : Rm) (fcr : BitVec 9) (a b : Nat) : Nat × BitVec 9 :=
  let x := f.readZ (fcrFtz fcr) a
  let y := f.readZ (fcrFtz fcr) b
  f.result rm fcr [x, y] (x.add (rm = .rdn) y.negate)

/-- a · b (R140, R146). -/
def Fmt.mul (f : Fmt) (rm : Rm) (fcr : BitVec 9) (a b : Nat) : Nat × BitVec 9 :=
  let x := f.readZ (fcrFtz fcr) a
  let y := f.readZ (fcrFtz fcr) b
  f.result rm fcr [x, y] (x.mul y)

/-- a · b + c rounded once (R88, R140, R146); 0 · ∞ with a NaN addend sets NV too (R93). -/
def Fmt.fma (f : Fmt) (rm : Rm) (fcr : BitVec 9) (a b c : Nat) : Nat × BitVec 9 :=
  let x := f.readZ (fcrFtz fcr) a
  let y := f.readZ (fcrFtz fcr) b
  let z := f.readZ (fcrFtz fcr) c
  let p := x.mul y
  let r := f.result rm fcr [x, y, z] (p.bind fun v => v.add (rm = .rdn) z)
  (r.1, if !x.isNan && !y.isNan && p.isNone then r.2 ||| fNV else r.2)

/-- The order of two values that are no NaN, −0 equal to +0. -/
def Val.cmp (a b : Val) : Ordering :=
  match a, b with
  | .inf n, .inf k => if n = k then .eq else if n then .lt else .gt
  | .inf n, _ => if n then .lt else .gt
  | _, .inf n => if n then .gt else .lt
  | .fin n m e, .fin k l g => compare (scaled n m e (min e g)) (scaled k l g (min e g))
  | _, _ => .eq

/-- Whether a comes before b with −0 below +0 (R141, R171). -/
def Val.before (a b : Val) : Bool :=
  match a.cmp b with
  | .lt => true
  | .gt => false
  | .eq => a.isZero && b.isZero && a.neg? && !b.neg?

/-- The smaller (or larger) of two codes by R141. -/
def Fmt.minMax (f : Fmt) (max : Bool) (fcr : BitVec 9) (a b : Nat) : Nat × BitVec 9 :=
  let ca := f.flushIn (fcrFtz fcr) a
  let cb := f.flushIn (fcrFtz fcr) b
  let x := f.read ca
  let y := f.read cb
  let nv := if x.isSnan || y.isSnan then fNV else 0
  match x.isNan, y.isNan with
  | true, true => f.nanResult (fcrDnan fcr) [x, y]
  | true, false => (cb, nv)
  | false, true => (ca, nv)
  | false, false => (if (if max then x.before y else y.before x) then cb else ca, 0)

/-- FCMP (R142): the condition and its sticky bits. -/
def fcmpOp (cond : Nat) (fcr : BitVec 9) (a b : Nat) : Bool × BitVec 9 :=
  let x := fp32.readZ (fcrFtz fcr) a
  let y := fp32.readZ (fcrFtz fcr) b
  let un := x.isNan || y.isNan
  let c := x.cmp y
  let quietNv := if x.isSnan || y.isSnan then fNV else 0
  let orderNv := if un then fNV else 0
  match cond with
  | 0 => (!un && c == .eq, quietNv)
  | 1 => (un || c != .eq, quietNv)
  | 2 => (!un && c == .lt, orderNv)
  | 3 => (!un && c != .gt, orderNv)
  | 4 => (!un && c == .gt, orderNv)
  | 5 => (!un && c != .lt, orderNv)
  | 6 => (un, quietNv)
  | _ => (!un, quietNv)

/-- FCLASS (R143). -/
def fclassOp (a : Nat) : Nat :=
  let sub := a / 2 ^ 23 % 256 == 0
  match fp32.read a with
  | .nan _ s _ => if s then 1 else 2
  | .inf n => if n then 4 else 512
  | .fin n m _ =>
    if m = 0 then (if n then 32 else 64)
    else if sub then (if n then 16 else 128)
    else if n then 8 else 256

/-- m · 2^e rounded to a whole number: its magnitude, and whether it was not whole. -/
def roundInt (rm : Rm) (neg : Bool) (m : Nat) (e : Int) : Nat × Bool :=
  let c := cutAt m e 0
  (if roundsUp rm neg (c.1 % 2 == 1) c.2.1 c.2.2 then c.1 + 1 else c.1, c.2.1 != 0)

/-- FRND (R144): no NX. -/
def frndOp (rm : Rm) (fcr : BitVec 9) (a : Nat) : Nat × BitVec 9 :=
  match fp32.readZ (fcrFtz fcr) a with
  | .fin neg m e => ((fp32.round .rne false neg (roundInt rm neg m e).1 0).1, 0)
  | v => fp32.write rm fcr [v] v

/-- FSCL (R140): a · 2^n; beyond 1000 the scale no longer changes the rounded result. -/
def fsclOp (rm : Rm) (fcr : BitVec 9) (a : Nat) (n : Int) : Nat × BitVec 9 :=
  match fp32.readZ (fcrFtz fcr) a with
  | .fin neg m e => if m = 0 then (fp32.sign neg 0, 0) else fp32.round rm (fcrFtz fcr) neg m (e + max (-1000) (min 1000 n))
  | v => fp32.write rm fcr [v] v

/-- The integer square root: the largest r with r² ≤ n, one bit at a time from bit k − 1 down. -/
def isqrtFrom (n : Nat) : Nat → Nat → Nat
  | 0, r => r
  | k + 1, r => if (r + 2 ^ k) * (r + 2 ^ k) ≤ n then isqrtFrom n k (r + 2 ^ k) else isqrtFrom n k r

/-- The integer square root. -/
def isqrt (n : Nat) : Nat := isqrtFrom n (bitLen n / 2 + 1) 0

/-- √(m · 2^e) to `p` bits or more with the lost part kept as one more bit, so that one rounding of it is correct (R88). -/
def sqrtVal (m : Nat) (e : Int) (p : Nat) : Val :=
  let k : Nat := 2 * p + (e.emod 2).toNat
  let n := m * 2 ^ k
  let r := isqrt n
  .fin false (2 * r + (if r * r = n then 0 else 1)) ((e - k) / 2 - 1)

/-- (m · 2^e) / (l · 2^g) to `p` bits or more with the lost part kept as one more bit (R88). -/
def divVal (neg : Bool) (m : Nat) (e : Int) (l : Nat) (g : Int) (p : Nat) : Val :=
  let k := p + bitLen l
  let n := m * 2 ^ k
  .fin neg (2 * (n / l) + (if n % l = 0 then 0 else 1)) (e - g - k - 1)

/-- FSQRT (R145): correctly rounded. -/
def fsqrtOp (rm : Rm) (fcr : BitVec 9) (a : Nat) : Nat × BitVec 9 :=
  match fp32.readZ (fcrFtz fcr) a with
  | .fin neg m e =>
    if m = 0 then (fp32.sign neg 0, 0)
    else if neg then (fp32.qnan, fNV)
    else fp32.write rm fcr [] (sqrtVal m e 30)
  | .inf true => (fp32.qnan, fNV)
  | v => fp32.write rm fcr [v] v

/-- One step of the stochastic-rounding generator (R94). -/
def srStep (s : Word) : Word :=
  let s := if s = 0 then 1 else s
  let s := s ^^^ (s <<< 13)
  let s := s ^^^ (s >>> 17)
  s ^^^ (s <<< 5)

/-- Stochastic rounding of a magnitude (R94) to a code, given the code of the largest finite value: the code (one above it when hi
lies beyond), whether it is inexact, and whether hi was selected. -/
def srMag (seed : Word) (m : Nat) (e : Int) (mb : Nat) (emin : Int) (maxCode : Nat) : Nat × Bool × Bool :=
  if m = 0 then (0, false, false)
  else
    let q := lastPlace m e mb emin
    let c := cutAt m e q
    let code := magCode c.1 q mb emin
    if code ≤ maxCode then
      if c.2.1 = 0 then (code, false, false)
      else if seed.toNat < c.2.1 * 2 ^ 32 / c.2.2 then (code + 1, true, true)
      else (code, true, false)
    else
      -- |x| lies beyond the largest finite value: its spacing is the last place of its binade
      let ex : Int := emin - mb + ((maxCode / 2 ^ mb - 1 : Nat) : Int)
      let sig := if maxCode / 2 ^ mb = 0 then maxCode else 2 ^ mb + maxCode % 2 ^ mb
      let lo := min e ex
      let past := m * 2 ^ (e - lo).toNat - sig * 2 ^ (ex - lo).toNat
      if seed.toNat < past * 2 ^ 32 / 2 ^ (ex - lo).toNat then (maxCode + 1, true, true) else (maxCode, true, false)

/-- A conversion to FP16 or BF16 with `.sr` (R94): a result of lo sets NX only. -/
def Fmt.sr (f : Fmt) (seed : Word) (fcr : BitVec 9) (srcs : List Val) (v : Val) : Nat × BitVec 9 :=
  match v with
  | .fin neg m e =>
    let r := srMag seed m e f.mb f.emin (f.infCode - 1)
    if f.infCode ≤ r.1 then (f.sign neg f.infCode, fOF ||| fNX)
    else if fcrFtz fcr && decide (r.1 ≠ 0 ∧ r.1 < 2 ^ f.mb) then (f.sign neg 0, fUF ||| fNX)
    else (f.sign neg r.1, (if r.2.1 then fNX else 0) ||| (if r.2.2 && decide (r.1 < 2 ^ f.mb) then fUF else 0))
  | _ => f.write .rne fcr srcs v

/-- An NFMT word (R95). -/
structure Nfmt where
  sctrap : Bool
  scale : Nat
  spec : Nat
  bias : Nat
  sign : Bool
  man : Nat
  exp : Nat
deriving DecidableEq, Repr

/-- Reads an NFMT word (R95). -/
def Nfmt.of (w : Nat) : Nfmt :=
  { sctrap := bitN w 19, scale := bitsN w 18 17, spec := bitsN w 16 15, bias := bitsN w 14 9, sign := bitN w 8,
    man := bitsN w 7 4, exp := bitsN w 3 0 }

/-- The validity of an NFMT word for a class width (R96). -/
def Nfmt.valid (n : Nfmt) (width : Nat) : Bool :=
  n.sign.toNat + n.exp + n.man == width && decide (1 ≤ n.exp)
  && (n.spec != 1 || decide (1 ≤ n.man)) && (n.spec != 2 || (decide (2 ≤ n.exp) && decide (1 ≤ n.man)))
  && n.spec != 3 && n.scale != 3 && (!n.sctrap || n.scale == 1)

/-- The width of an element class (R59, R207): FP16, BF16, mf8, mf6, mf4, INT8, INT4, byte data. -/
def classWidth : Nat → Nat
  | 0 | 1 => 16
  | 2 | 5 | 7 => 8
  | 3 => 6
  | _ => 4

/-- The value of an element (R97); a NaN reads as the canonical NaN with its sign. -/
def Nfmt.read (n : Nfmt) (code : Nat) : Val :=
  let neg := n.sign && bitN code (n.exp + n.man)
  let e := code / 2 ^ n.man % 2 ^ n.exp
  let m := code % 2 ^ n.man
  let emax := 2 ^ n.exp - 1
  if e = 0 then .fin neg m (1 - (n.bias : Int) - n.man)
  else if n.spec = 1 ∧ e = emax ∧ m = 2 ^ n.man - 1 then .nan neg false (2 ^ 22)
  else if n.spec = 2 ∧ e = emax then (if m = 0 then .inf neg else .nan neg false (2 ^ 22))
  else .fin neg (2 ^ n.man + m) ((e : Int) - n.bias - n.man)

/-- The code of the largest finite magnitude (R97, R98). -/
def Nfmt.maxCode (n : Nfmt) : Nat :=
  match n.spec with
  | 1 => 2 ^ (n.exp + n.man) - 2
  | 2 => (2 ^ n.exp - 1) * 2 ^ n.man - 1
  | _ => 2 ^ (n.exp + n.man) - 1

/-- Puts a sign on a magnitude code of a minifloat. -/
def Nfmt.signed (n : Nfmt) (neg : Bool) (code : Nat) : Nat := if neg && n.sign then 2 ^ (n.exp + n.man) + code else code

/-- A rounded magnitude held to the largest finite value, with its sticky bits (R99, R94). -/
def Nfmt.finish (n : Nfmt) (neg : Bool) (r : Nat × Bool × Bool) : Nat × BitVec 9 :=
  if n.maxCode < r.1 then (n.signed neg n.maxCode, fOF ||| fNX)
  else (n.signed neg r.1, (if r.2.1 then fNX else 0) ||| (if r.2.1 && r.2.2 then fUF else 0))

/-- A conversion to a minifloat (R99), with `some` seed stochastically (R94). -/
def Nfmt.write (n : Nfmt) (rm : Rm) (seed : Option Word) (v : Val) : Nat × BitVec 9 :=
  match v with
  | .nan neg _ _ =>
    if n.spec = 0 then (0, fNV)
    else if n.spec = 1 then (n.signed neg (2 ^ (n.exp + n.man) - 1), 0)
    else (n.signed neg ((2 ^ n.exp - 1) * 2 ^ n.man + 2 ^ (n.man - 1)), 0)
  | .inf neg =>
    if neg && !n.sign then (0, fNX)
    else if n.spec = 2 then (n.signed neg ((2 ^ n.exp - 1) * 2 ^ n.man), 0)
    else (n.signed neg n.maxCode, fOF)
  | .fin neg m e =>
    if neg && !n.sign then (0, if m = 0 then 0 else fNX)
    else match seed with
      | none => n.finish neg (roundMag rm neg m e n.man (1 - (n.bias : Int)))
      | some s =>
        let r := srMag s m e n.man (1 - (n.bias : Int)) n.maxCode
        n.finish neg (r.1, r.2.1, r.2.2 && decide (r.1 < 2 ^ n.man))

/-- The value of a scale byte (R100-R102): NaN for the scale NaN and for bit 7 of an E4M3 byte; 1.0 when SCALE is 0. -/
def scaleVal (scale b : Nat) : Val :=
  if scale = 1 then
    if 0x7F ≤ b then .nan false false (2 ^ 22)
    else if b / 8 = 0 then .fin false (b % 8) (-9)
    else .fin false (8 + b % 8) ((b / 8 : Nat) - 10)
  else if scale = 2 then
    if b = 0xFF then .nan false false (2 ^ 22) else .fin false 1 ((b : Int) - 127)
  else .fin false 1 0

/-- Whether a scale byte has bit 7 set under SCALE 1 (R102). -/
def scaleSign (scale b : Nat) : Bool := scale == 1 && decide (0x80 ≤ b)

/-- FP32 addition as the memory units do it (R171, R177): RNE, subnormals kept, any NaN canonical, no flags. -/
def Fmt.memAdd (f : Fmt) (a b : Nat) : Nat :=
  let r := (f.add .rne 0 a b).1
  if (f.read r).isNan then f.qnan else r

/-- FP32 minimum or maximum as ATOM does it (R171). -/
def atomMinMax (max : Bool) (a b : Nat) : Nat :=
  let r := (fp32.minMax max 0 a b).1
  if (fp32.read r).isNan then fp32.qnan else r

end Sys2Proof.Machine
end

