-- ==== Sys2Proof/Syntax.lean ====
section
/-! DEFINITION. The whole of the opcode table as ONE inductive: 177 instruction words, whose argument is the record of the
fields of their format (02_clauses_and_encoding R55-R60), and 90 steps of the machine that are no instruction word
(95_what_each_step_holds), whose arguments are the step's own operands. -/

namespace Sys2Proof

/-- The V3 format (R55, R57). `c` is also the MOD field (R113, R136) and `pc` the RND field (R136). -/
structure V3 where
  pm : BitVec 2
  preg : BitVec 8
  d : BitVec 8
  a : BitVec 8
  pa : BitVec 3
  b : BitVec 8
  pb : BitVec 3
  c : BitVec 8
  pc : BitVec 3
  latch : BitVec 3
deriving DecidableEq, Repr

/-- The VI format (R57). -/
structure VI where
  pm : BitVec 2
  preg : BitVec 8
  d : BitVec 8
  a : BitVec 8
  pa : BitVec 3
  imm : BitVec 25
deriving DecidableEq, Repr

/-- The K32 format (R57), used by MOVI. -/
structure K32 where
  pm : BitVec 2
  preg : BitVec 8
  d : BitVec 8
  imm : BitVec 32
  sub : BitVec 4
deriving DecidableEq, Repr

/-- The M format (R58); `f` is bits 24:11, which the three instruction groups read in their own way. -/
structure MWord where
  pm : BitVec 2
  preg : BitVec 8
  d : BitVec 8
  a : BitVec 8
  pa : BitVec 3
  f : BitVec 14
  size : BitVec 3
  scope : BitVec 3
  ord : BitVec 2
  rc : BitVec 3
deriving DecidableEq, Repr

/-- The X format (R59); `rest` is bits 8:0. -/
structure XWord where
  pm : BitVec 2
  preg : BitVec 8
  d : BitVec 8
  acc : BitVec 2
  ya : BitVec 3
  yb : BitVec 3
  ysa : BitVec 3
  ysb : BitVec 3
  ym : BitVec 3
  fa : BitVec 3
  fb : BitVec 3
  spn : BitVec 2
  neg : BitVec 1
  sat : BitVec 1
  rest : BitVec 9
deriving DecidableEq, Repr

/-- The K format (R60). -/
structure KWord where
  pm : BitVec 2
  preg : BitVec 8
  d : BitVec 8
  a : BitVec 8
  b : BitVec 8
  c : BitVec 8
  y : BitVec 3
  imm : BitVec 9
deriving DecidableEq, Repr

/-- The S format (R60). -/
structure SWord where
  pm : BitVec 2
  preg : BitVec 8
  d : BitVec 8
  a : BitVec 8
  b : BitVec 8
  imm : BitVec 20
deriving DecidableEq, Repr

/-- The C format (R60); `off` is OFF32, BARF or CODE (R185). -/
structure CWord where
  pm : BitVec 2
  preg : BitVec 8
  d : BitVec 8
  off : BitVec 32
  sub : BitVec 4
deriving DecidableEq, Repr

/-- Which half of a 64-bit register a write covers (R411). -/
inductive Half where
  | full | low | high
deriving DecidableEq, Repr

/-- A BAR0 write: the value, the half it covers, and whether it comes through the hank's virtual function (R411). -/
structure RegWrite where
  val : BitVec 64
  half : Half
  vf : Bool
deriving DecidableEq, Repr

/-- A BAR0 access (R411): a write, or a read of `size` bytes through the physical function, or through the virtual function of a hank. -/
inductive RegAccess where
  | write (x : RegWrite)
  | read (size : Nat) (vf : Option Nat)
deriving DecidableEq, Repr

/-- How an AtomicOp reaches the device (R412, R415): from the host through the coherent or the direct aperture, or from a peer through the
coherent one. -/
inductive AtomicVia where
  | coherent | direct | peer
deriving DecidableEq, Repr

/-- A 16-byte granule of some storage, which poison marks (R421). -/
inductive Granule where
  /-- Root memory: physical address div 16. -/
  | phys (g : Nat)
  /-- A version: hank, ply, physical address div 16. -/
  | version (h p g : Nat)
  /-- Scratch: team and slice offset div 16 (four slices of 2^19 bytes, R166). -/
  | scratch (team g : Nat)
  /-- Vault memory: core (14·row + col) and offset div 16 (R169). -/
  | vault (core g : Nat)
  /-- A register of a wave: number and lane div 4. -/
  | reg (w n q : Nat)
  /-- An accumulator of a bay: core, bay, tile, row, column div 4. -/
  | acc (core bay t i q : Nat)
  /-- A queued stage of a wave's yarn, with the granule of the stage. -/
  | stage (w y k g : Nat)
  /-- The control store of a media sequencer (R420). -/
  | store (sq : Nat)
deriving DecidableEq, Repr

/-- The unit an error in shared state strikes (R423). -/
inductive SharedUnit where
  /-- Strand table, scoreboard, needle FIFO or ME control of a bay. -/
  | bay (row col bay : Nat)
  /-- Tag or state array of an L1 slice, with the set. -/
  | l1 (row col set : Nat)
  /-- Tag or directory array of an L2 home slice, with the set. -/
  | l2 (row col set : Nat)
  /-- Version directory of a hank. -/
  | versionDir (h : Nat)
deriving DecidableEq, Repr

/-- What a failed transfer carried (R420): a line of root memory, by an address in it, a granule of vault memory, or a version of a line. -/
inductive Transfer where
  | root (pa : Nat)
  | vault (core g : Nat)
  | version (h p pa : Nat)
deriving DecidableEq, Repr

/-- The flit an injector meets (R430): the line it carries data or an address for, its place in the line, where its bytes go, and the lane that
carries it where the link has lanes of bytes or of differential pairs (GDDR 7, PCI Express). -/
inductive InjectHit where
  /-- A response that fills the line into a cluster's L1. -/
  | copy (cluster line beat : Nat)
  /-- A response to an outstanding load: the operation, register and lane of one result, the place of its `n` bytes in the flit, and
  whether the load sign-extends. -/
  | load (id reg lane off n : Nat) (sext : Bool) (line beat : Nat)
  /-- A request that carries a store's bytes to the home copy, from a tile (14·row + col). -/
  | home (src line beat : Nat)
  /-- A transfer that fills the home copy, down from the vault or from GDDR 7 on a byte lane. -/
  | fill (bond : Bool) (lane line beat : Nat)
  /-- A write-back of the home copy, up to the vault or to GDDR 7 on a byte lane. -/
  | back (bond : Bool) (lane line beat : Nat)
  /-- A mesh flit that carries no data of a line, on its way between two tiles (14·row + col), as a request or a response. -/
  | other (src dst : Nat) (resp : Bool) (line : Nat)
  /-- A flit of the PCI Express link, on one of its lanes. -/
  | host (lane : Nat)
deriving DecidableEq, Repr

/-- One step of the G96: a constructor for each row of the opcode table. -/
inductive Instr where
  /-- IADD (R118): V3 form: adds sources A and B in each active lane. -/
  | iadd (x : V3)
  /-- IADD_VI (R118): VI form: adds source A and the sign-extended IMM25 in each active lane. -/
  | iaddVi (x : VI)
  /-- ISUB (R118): V3 form: subtracts B from A in each active lane. -/
  | isub (x : V3)
  /-- ISUB_VI (R118): VI form: subtracts the sign-extended IMM25 from A in each active lane. -/
  | isubVi (x : VI)
  /-- IADDX (R118): Adds A, B and bit 0 of C in each active lane. -/
  | iaddx (x : V3)
  /-- ICRY (R118): Writes the carry out of A + B + (C and 1) in each active lane. -/
  | icry (x : V3)
  /-- IMUL (R118): V3 form: writes the low 32 bits of A times B. -/
  | imul (x : V3)
  /-- IMUL_VI (R118): VI form: writes the low 32 bits of A times the immediate. -/
  | imulVi (x : VI)
  /-- IMULH (R118): V3 form: writes the high 32 bits of the signed or unsigned 64-bit product. -/
  | imulh (x : V3)
  /-- IMULH_VI (R118): VI form: writes the high 32 bits of the signed product of A and the immediate. -/
  | imulhVi (x : VI)
  /-- IMAD (R118): Writes the low 32 bits of A times B plus C. -/
  | imad (x : V3)
  /-- IMIN (R118): V3 form: writes the signed or unsigned minimum of A and B. -/
  | imin (x : V3)
  /-- IMIN_VI (R118): VI form: writes the signed minimum of A and the immediate. -/
  | iminVi (x : VI)
  /-- IMAX (R118): V3 form: writes the signed or unsigned maximum of A and B. -/
  | imax (x : V3)
  /-- IMAX_VI (R118): VI form: writes the signed maximum of A and the immediate. -/
  | imaxVi (x : VI)
  /-- IABS (R118): Writes the absolute value of A, optionally saturating. -/
  | iabs (x : V3)
  /-- INEG (R118): Writes the negation of A, optionally saturating. -/
  | ineg (x : V3)
  /-- AND (R120): V3 form: bitwise AND of A and B. -/
  | and (x : V3)
  /-- AND_VI (R120): VI form: bitwise AND of A and the immediate. -/
  | andVi (x : VI)
  /-- OR (R120): V3 form: bitwise OR of A and B. -/
  | or (x : V3)
  /-- OR_VI (R120): VI form: bitwise OR of A and the immediate. -/
  | orVi (x : VI)
  /-- XOR (R120): V3 form: bitwise XOR of A and B. -/
  | xor (x : V3)
  /-- XOR_VI (R120): VI form: bitwise XOR of A and the immediate. -/
  | xorVi (x : VI)
  /-- ANDN (R120): V3 form: A AND NOT B. -/
  | andn (x : V3)
  /-- ANDN_VI (R120): VI form: A AND NOT the immediate. -/
  | andnVi (x : VI)
  /-- NOT (R120): Bitwise complement of A. -/
  | not (x : V3)
  /-- BLUT (R121): Computes an arbitrary three-input bitwise function of A, B and D from an 8-bit truth table. -/
  | blut (x : V3)
  /-- SHL (R120): V3 form: logical left shift of A by B. -/
  | shl (x : V3)
  /-- SHL_VI (R120): VI form: logical left shift of A by the immediate. -/
  | shlVi (x : VI)
  /-- SHR (R120): V3 form: logical right shift of A by B. -/
  | shr (x : V3)
  /-- SHR_VI (R120): VI form: logical right shift of A by the immediate. -/
  | shrVi (x : VI)
  /-- SAR (R120): V3 form: arithmetic right shift of A by B. -/
  | sar (x : V3)
  /-- SAR_VI (R120): VI form: arithmetic right shift of A by the immediate. -/
  | sarVi (x : VI)
  /-- ROTL (R120): V3 form: rotates A left by B mod 32. -/
  | rotl (x : V3)
  /-- ROTL_VI (R120): VI form: rotates A left by the immediate mod 32. -/
  | rotlVi (x : VI)
  /-- BFX (R122): Extracts a bit field of A, signed or unsigned. -/
  | bfx (x : V3)
  /-- BFI (R122): Inserts low bits of A into a field of C. -/
  | bfi (x : V3)
  /-- BREV (R123): Reverses the bits of A. -/
  | brev (x : V3)
  /-- POPC (R123): Counts the set bits of A. -/
  | popc (x : V3)
  /-- CLZ (R123): Counts leading zero bits of A. -/
  | clz (x : V3)
  /-- CTZ (R123): Counts trailing zero bits of A. -/
  | ctz (x : V3)
  /-- BITLV (R123): Spreads the bits of A by 2 or 3 for Morton codes. -/
  | bitlv (x : V3)
  /-- BDLV (R123): Gathers every second or third bit of A, undoing BITLV. -/
  | bdlv (x : V3)
  /-- ICMP (R124): Writes 1 or 0 by comparing A with B signed or unsigned. -/
  | icmp (x : V3)
  /-- SEL (R125): Selects A when C is non-zero, else B. -/
  | sel (x : V3)
  /-- ICLAMP (R125): Clamps A signed between B and C. -/
  | iclamp (x : V3)
  /-- MOV (R125): Copies A, possibly across lanes by permutation. -/
  | mov (x : V3)
  /-- MOVI (R126): Writes or combines a 32-bit immediate into D as SUB selects. -/
  | movi (x : K32)
  /-- IDP4 (R119): Accumulates a four-byte dot product of A and B into D, optionally saturating. -/
  | idp4 (x : V3)
  /-- FADD (R140): Correctly rounded FP32 addition. -/
  | fadd (x : V3)
  /-- FSUB (R140): Correctly rounded FP32 subtraction. -/
  | fsub (x : V3)
  /-- FMUL (R140): Correctly rounded FP32 multiplication. -/
  | fmul (x : V3)
  /-- FFMA (R140): FP32 fused multiply-add rounded once. -/
  | ffma (x : V3)
  /-- FMIN (R141): FP32 minimum with -0 below +0 and NaN handling. -/
  | fmin (x : V3)
  /-- FMAX (R141): FP32 maximum with -0 below +0 and NaN handling. -/
  | fmax (x : V3)
  /-- FCMP (R142): Writes 1 or 0 from an FP32 comparison condition. -/
  | fcmp (x : V3)
  /-- FCLASS (R143): Writes a one-hot class mask of an FP32 value. -/
  | fclass (x : V3)
  /-- FRND (R144): Rounds an FP32 value to an integral FP32 value. -/
  | frnd (x : V3)
  /-- FRCP (R145): Approximate FP32 reciprocal within 1 ulp. -/
  | frcp (x : V3)
  /-- FRSQ (R145): Approximate FP32 reciprocal square root within 1 ulp. -/
  | frsq (x : V3)
  /-- FSQRT (R145): Correctly rounded FP32 square root. -/
  | fsqrt (x : V3)
  /-- FEXP2 (R145): Approximate base-2 exponential. -/
  | fexp2 (x : V3)
  /-- FLOG2 (R145): Approximate base-2 logarithm. -/
  | flog2 (x : V3)
  /-- FSIN (R145): Approximate sine of 2 pi a. -/
  | fsin (x : V3)
  /-- FCOS (R145): Approximate cosine of 2 pi a. -/
  | fcos (x : V3)
  /-- FTANH (R145): Approximate hyperbolic tangent. -/
  | ftanh (x : V3)
  /-- FSCL (R140): V3 form: scales A by 2 to the power B. -/
  | fscl (x : V3)
  /-- FSCL_VI (R140): VI form: scales A by 2 to the power of the immediate. -/
  | fsclVi (x : VI)
  /-- HPADD (R146): Packed FP16 or BF16 addition of two elements. -/
  | hpadd (x : V3)
  /-- HPMUL (R146): Packed FP16 or BF16 multiplication of two elements. -/
  | hpmul (x : V3)
  /-- HPFMA (R146): Packed FP16 or BF16 fused multiply-add into D. -/
  | hpfma (x : V3)
  /-- CVTI (R148): Converts an integer to FP32, FP16 or BF16. -/
  | cvti (x : V3)
  /-- CVTF (R148): Converts a float to a 32- or 64-bit integer with saturation. -/
  | cvtf (x : V3)
  /-- CVTFF (R148): Converts between FP32, FP16 and BF16. -/
  | cvtff (x : V3)
  /-- PKN (R150): Packs four scaled FP32 values per lane into minifloat slots. -/
  | pkn (x : V3)
  /-- UPKN (R151): Expands four minifloat slots into scaled FP32 values. -/
  | upkn (x : V3)
  /-- NDOT (R152): Accumulates a scaled narrow dot product into FP32 D. -/
  | ndot (x : V3)
  /-- AMOV (R128): Writes an affine pair from a base and stride of the lowest active lane. -/
  | amov (x : V3)
  /-- ALDI (R128): Writes an affine pair from immediate base and stride. -/
  | aldi (x : VI)
  /-- AADD (R128): V3 form: adds a sign-extended register to a 64-bit pair. -/
  | aadd (x : V3)
  /-- AADD_VI (R128): VI form: adds a sign-extended immediate to a 64-bit pair. -/
  | aaddVi (x : VI)
  /-- ASUB (R128): V3 form: subtracts a sign-extended register from a 64-bit pair. -/
  | asub (x : V3)
  /-- ASUB_VI (R128): VI form: subtracts a sign-extended immediate from a 64-bit pair. -/
  | asubVi (x : VI)
  /-- AMULI (R128): Multiplies a 64-bit pair by an immediate. -/
  | amuli (x : VI)
  /-- ASHLI (R128): Shifts a 64-bit pair left by an immediate. -/
  | ashli (x : VI)
  /-- ACMP (R129): Compares two 64-bit pairs and writes 1 or 0. -/
  | acmp (x : V3)
  /-- SHFL (R130): Reads A from the lane indexed by B. -/
  | shfl (x : V3)
  /-- SHFLI (R130): Reads A from a lane chosen by immediate mode and offset. -/
  | shfli (x : VI)
  /-- VOTE (R131): Writes any, all or ballot of a predicate over active lanes. -/
  | vote (x : V3)
  /-- LRED (R132): Reduces A across lanes in butterfly order. -/
  | lred (x : V3)
  /-- LSCAN (R132): Inclusive or exclusive scan of A across lanes. -/
  | lscan (x : V3)
  /-- MREAD (R133): Reads the strand mask or the wave's live-lane mask. -/
  | mread (x : V3)
  /-- MWRITE (R134): Sets the strand's mask under the rules of R12. -/
  | mwrite (x : V3)
  /-- LD (R161): Loads from global memory through the wave's ply. -/
  | ld (x : MWord)
  /-- ST (R161): Stores to global memory as a version of the wave's ply. -/
  | st (x : MWord)
  /-- LDS (R166): Loads from team scratch. -/
  | lds (x : MWord)
  /-- STS (R166): Stores to team scratch. -/
  | sts (x : MWord)
  /-- LDV (R169): Loads from vault memory of a named vault. -/
  | ldv (x : MWord)
  /-- STV (R169): Stores to vault memory of a named vault. -/
  | stv (x : MWord)
  /-- LDK (R165): Loads from the launch's parameter block. -/
  | ldk (x : MWord)
  /-- ATOM (R172): Performs an atomic read-modify-write at the line's home slice, or defers it at system scope in a non-root ply. -/
  | atom (x : MWord)
  /-- ACAS (R173): Atomic compare-and-swap at the home slice. -/
  | acas (x : MWord)
  /-- ATOMS (R174): Atomic read-modify-write on scratch. -/
  | atoms (x : MWord)
  /-- CADD (R176): Adds into the cluster's partial-sum line of a commutative page. -/
  | cadd (x : MWord)
  /-- FENCE_MEM (R178): Orders the lane's memory accesses with acquire and/or release at a scope. -/
  | fenceMem (x : MWord)
  /-- FENCE_VAULT (R178): Orders the core's vault accesses before and after the fence. -/
  | fenceVault (x : MWord)
  /-- MON (R179): Arms the wave's monitor on a 128-byte line. -/
  | mon (x : MWord)
  /-- MWAIT (R180): Parks the strand until the monitor triggers or the timeout expires. -/
  | mwait (x : MWord)
  /-- PREF (R181): Asks for lines to be filled into L1, never faulting. -/
  | pref (x : MWord)
  /-- CINV (R182): Writes back and removes a line from the caches. -/
  | cinv (x : MWord)
  /-- CWB (R182): Writes back a dirty line and leaves it clean. -/
  | cwb (x : MWord)
  /-- NTAKE (R225): Takes the bay's needle, parking until it is received. -/
  | ntake (x : XWord)
  /-- NPASS (R225): Zeroes the accumulators and passes the needle to a waiter. -/
  | npass (x : XWord)
  /-- MMA (R229): Pops yarn stages and accumulates a dense 8x32x96 product into a tile. -/
  | mma (x : XWord)
  /-- MMAS (R229): Pops yarn stages and accumulates a product with N-of-12 sparse B. -/
  | mmas (x : XWord)
  /-- AZERO (R230): Zeroes the active rows of an accumulator tile. -/
  | azero (x : XWord)
  /-- AFILL (R230): Writes eight registers into a column group of a tile. -/
  | afill (x : XWord)
  /-- ADRAIN (R230): Reads a column group of a tile into eight registers. -/
  | adrain (x : XWord)
  /-- MEPI (R233): Applies scale, bias, activation and conversion to a tile and stores its rows. -/
  | mepi (x : XWord)
  /-- MSTAT (R231): Reads and optionally clears the ME's sticky flags. -/
  | mstat (x : XWord)
  /-- YOPEN (R210): Reads a yarn descriptor, checks it and opens the yarn. -/
  | yopen (x : KWord)
  /-- YCLOSE (R212): Cancels fills, discards stages and closes a yarn. -/
  | yclose (x : KWord)
  /-- YPUSH (R211): Appends a stage to a yarn and starts its fill. -/
  | ypush (x : KWord)
  /-- YDROP (R212): Discards the first stages of an open yarn. -/
  | ydrop (x : KWord)
  /-- CPY (R216): Copies bytes between global, scratch and vault spaces on the stream engine. -/
  | cpy (x : KWord)
  /-- CPYD (R217): Decodes a canonical entropy-coded stream into scratch. -/
  | cpyd (x : KWord)
  /-- GATH (R218): Gathers indexed rows from a global table into scratch. -/
  | gath (x : KWord)
  /-- SCAT (R218): Scatters scratch rows to indexed rows of a global table. -/
  | scat (x : KWord)
  /-- KWAIT (R220): Parks until an in-flight counter falls to a threshold. -/
  | kwait (x : KWord)
  /-- TRACE (R285): Casts one ray per active lane into a ray slot on the core's traversal unit. -/
  | trace (x : KWord)
  /-- TRES (R286): Reads a ray slot's result into four registers. -/
  | tres (x : KWord)
  /-- MSUB (R284): Submits a command block to a media sequencer, or defers it in a non-root ply. -/
  | msub (x : KWord)
  /-- SMAP (R288): Maps a range of team scratch into a scratch window. -/
  | smap (x : KWord)
  /-- SUNMAP (R288): Frees a scratch window after its accesses are performed. -/
  | sunmap (x : KWord)
  /-- BRA (R187): Conditional branch that splits the strand when lanes disagree. -/
  | bra (x : CWord)
  /-- BRU (R187): Uniform branch on all or any taken lanes, never splitting. -/
  | bru (x : CWord)
  /-- BRX (R189): Indirect branch to per-lane targets, splitting by target. -/
  | brx (x : CWord)
  /-- CALL (R187): Branches and writes the link address into a pair. -/
  | call (x : CWord)
  /-- RET (R189): Returns to per-lane link targets as BRX does. -/
  | ret (x : CWord)
  /-- JOIN (R192): Arrives at a reconvergence point and parks until the group is released. -/
  | join (x : CWord)
  /-- BAR (R198): Arrives at a barrier and parks until the phase completes. -/
  | bar (x : CWord)
  /-- BARA (R198): Arrives at a barrier without waiting. -/
  | bara (x : CWord)
  /-- BARW (R198): Waits for the phase of the lanes' last arrival to complete. -/
  | barw (x : CWord)
  /-- EXIT (R200): Ends the taken lanes. -/
  | exit (x : CWord)
  /-- YIELD (R201): Hints the issue logic to prefer another strand. -/
  | yield (x : CWord)
  /-- TRAP (R202): Raises TRAP_INSN in the taken lanes. -/
  | trap (x : CWord)
  /-- BPT (R202): Raises BREAKPOINT in the taken lanes. -/
  | bpt (x : CWord)
  /-- NOP (R201): Does nothing. -/
  | nop (x : CWord)
  /-- ERET (R203): Ends the handler strand and resumes the parked lanes at %fpc. -/
  | eret (x : CWord)
  /-- SYSRD (R263): Reads a special register into D. -/
  | sysrd (x : SWord)
  /-- SYSWR (R263): Writes a special register from the lowest active lane. -/
  | syswr (x : SWord)
  /-- PHINT (R264): Marks a pre-emption point at which a pending request saves the wave under a liveness record. -/
  | phint (x : SWord)
  /-- IDEM (R266): Opens an idempotent region, copying named registers to the restart area. -/
  | idem (x : SWord)
  /-- IDEM_END (R266): Closes the wave's idempotent region. -/
  | idemEnd (x : SWord)
  /-- GSET (R268): Sets a gauge's bounds, type and mode. -/
  | gset (x : SWord)
  /-- PFORK (R242): Creates n child plies of the wave's ply. -/
  | pfork (x : SWord)
  /-- PENTER (R243): Moves the wave to an ancestor or descendant ply. -/
  | penter (x : SWord)
  /-- PKEEP (R244): Merges a ply into its parent in one step, optionally frogging siblings. -/
  | pkeep (x : SWord)
  /-- PFROG (R245): Discards a ply and its descendants, retiring their waves. -/
  | pfrog (x : SWord)
  /-- PQRY (R246): Reads a ply's state or the hank's ply summary. -/
  | pqry (x : SWord)
  /-- LLINE (R249): Creates a lifeline over an address range and enters it. -/
  | lline (x : SWord)
  /-- ARBEG (R253): Opens an atomic region with a fallback PC. -/
  | arbeg (x : SWord)
  /-- AREND (R257): Sends the atomic region to the darners for commit, repair or abort. -/
  | arend (x : SWord)
  /-- ARABT (R258): Aborts the atomic region with an explicit code. -/
  | arabt (x : SWord)
  /-- RPAIR (R271): Gives both waves of a redundant pair the leader's value. -/
  | rpair (x : SWord)
  /-- RCHK (R272): Meets the partner at a checkpoint and compares signatures, keeping or rolling back. -/
  | rchk (x : SWord)
  /-- REND (R273): Ends pairing with a final signature compare. -/
  | rend (x : SWord)
  /-- FMAP (R274): Maps a zeroed frame from the device-local pool at a virtual address. -/
  | fmap (x : SWord)
  /-- INVPG (R275): Invalidates TLB entries of a page, or all, and waits for completion. -/
  | invpg (x : SWord)
  /-- LAUNCH (R276): Places a launch record in a queue of the hank. -/
  | launch (x : SWord)
  /-- EMIT (R277): Appends a record to a launch bin. -/
  | emit (x : SWord)
  /-- RECV (R278): Copies the team's bin records into scratch. -/
  | recv (x : SWord)
  /-- QPUSH (R280): Pushes an entry onto a queue ring, or hands off pages with .xfer. -/
  | qpush (x : SWord)
  /-- QPOP (R280): Pops an entry from a queue ring, parking while empty. -/
  | qpop (x : SWord)
  /-- QTOK_PUT (R282): Fills an empty token cell or reports FULL. -/
  | qtokPut (x : SWord)
  /-- QTOK_TAKE (R282): Takes a full token cell's value, parking while empty. -/
  | qtokTake (x : SWord)
  /-- FLIP (R283): Appends a surface to a head's flip queue, or defers it in a non-root ply. -/
  | flip (x : SWord)
  /-- CLAUSE_START (R41): The issue logic starts the next clause of a ready strand on a free port. -/
  | clauseStart (w n : Nat)
  /-- HELD_WORD_ISSUE (R79): A word that held at issue issues once its condition is met. -/
  | heldWordIssue (w n : Nat)
  /-- STRAND_WAKE (R40): A parked strand becomes ready when its flag, pending bit or other wait ends. -/
  | strandWake (w n : Nat)
  /-- OPPORTUNISTIC_FUSION (R195): The G96 fuses two strands standing at the same header. -/
  | opportunisticFusion (w n m : Nat)
  /-- SLOT_FREE (R200): A retired wave's slot is freed once its W, S and Y accesses are performed. -/
  | slotFree (w : Nat)
  /-- RESULT_WRITEBACK (R66): A long-latency result is written and the register's pending bit clears. -/
  | resultWriteback (id : Nat)
  /-- ACCESS_PERFORMED (R299): A store, atomic or async command becomes performed at its scope and its flags and counters drop. -/
  | accessPerformed (id : Nat)
  /-- YARN_FILL_COMPLETE (R211): Every byte of a yarn stage arrives and the stage becomes filled or poisoned. -/
  | yarnFillComplete (id : Nat)
  /-- ENGINE_COMMAND_COMPLETE (R216): A CPY, CPYD, GATH or SCAT finishes and releases its lines. -/
  | engineCommandComplete (id : Nat)
  /-- ME_OPERATION_COMPLETE (R226): The ME finishes an X operation and takes the next queued one. -/
  | meOperationComplete (id : Nat)
  /-- TRAVERSAL_COMPLETE (R399): A traversal unit finishes the rays of a TRACE and fills the slot. -/
  | traversalComplete (id : Nat)
  /-- DARNER_COMMIT (R257): The darners commit, repair or abort an atomic region. -/
  | darnerCommit (w : Nat)
  /-- DEFERRED_ENTRY_ISSUE (R248): A keep into the root issues a logged deferred effect once its target has room. -/
  | deferredEntryIssue (h : Nat)
  /-- PLY_RECONCILE (R241): The version directory reconciles the lines of a kept or frogged ply and frees its number. -/
  | plyReconcile (h p : Nat)
  /-- PARTIAL_EVICTION (R304): An evicted partial-sum line is added into the home value. -/
  | partialEviction (cl line : Nat)
  /-- MONITOR_SPURIOUS_TRIGGER (R179): The G96 triggers a monitor for no visible cause. -/
  | monitorSpuriousTrigger (w : Nat)
  /-- MWAIT_TIMEOUT (R180): An MWAIT's timeout expires and it completes. -/
  | mwaitTimeout (w n : Nat)
  /-- WATCHDOG (R322): A strand parked beyond the hank's watchdog limit raises WATCHDOG. -/
  | watchdog (w n : Nat)
  /-- TRAP_TAKEN (R314): Once every strand is parked the trap is taken and the handler starts at the trap base. -/
  | trapTaken (w : Nat)
  /-- WALK_STARVATION (R389): A walk request that has waited 4096 ACLK is started next. -/
  | walkStarvation (w : Nat)
  /-- ACCESS_REJECT_RETRY (R381): A rejected L1 miss is retried every 16 ACLK. -/
  | accessRejectRetry (id : Nat)
  /-- AGED_RESERVATION (R381): After 64 rejections a request takes a reserved miss-status entry. -/
  | agedReservation (id : Nat)
  /-- BANK_DROWSY (R351): A register bank idle for DROWSY x 256 ACLK enters retention. -/
  | bankDrowsy (w bank : Nat)
  /-- QUEUE_DISPATCH (R368): The queue processor takes a head record, takes its WAIT_TOKEN and checks it. -/
  | queueDispatch (h : Nat)
  /-- TEAM_PLACEMENT (R374): A pending team is allocated slots and scratch and its waves start. -/
  | teamPlacement (h : Nat)
  /-- BIN_LAUNCH (R378): A bin holding BATCH records launches one team of its template. -/
  | binLaunch (h b : Nat)
  /-- BIN_TIMER_EXPIRY (R378): A bin's oldest record reaches TIMER x 1024 FCLK and a team is launched. -/
  | binTimerExpiry (h b : Nat)
  /-- DONE_TOKEN_PUT (R371): When a launch ends the queue processor puts its completion value into DONE_TOKEN. -/
  | doneTokenPut (launch : Nat)
  /-- DONE_TOKEN_RETRY (R371): A held completion put is retried every 1024 FCLK. -/
  | doneTokenRetry (launch : Nat)
  /-- PREEMPT_REQUEST (R383): The pre-emption sequencer chooses victims and requests their pre-emption. -/
  | preemptRequest (h : Nat)
  /-- PROMISE_BROKEN (R325): A lane's clause count reaches 4096 and the team falls to a full save. -/
  | promiseBroken (w : Nat)
  /-- FULL_SAVE (R325): A wave is saved with all its registers, yarns, accumulators and scratch. -/
  | fullSave (w : Nat)
  /-- TEAM_RESTORE (R329): A saved team is restored on one cluster and resumes. -/
  | teamRestore (team : Nat)
  /-- HOST_DOORBELL (R367): A write of QTAIL, or its doorbell page, advances a host queue's tail. -/
  | hostDoorbell (h p q : Nat) (page : Bool) (x : RegWrite)
  /-- QRING_WRITE (R366): A QRING write reconfigures an empty queue and resets HEAD and TAIL. -/
  | qringWrite (h p q : Nat) (x : RegWrite)
  /-- QSTAT_WRITE (R366): A QSTAT write clears REFUSED and BADDB where it writes 1. -/
  | qstatWrite (h p q : Nat) (x : RegWrite)
  /-- BINCFG_WRITE (R375): A BINCFG write configures a bin and copies and checks its template. -/
  | bincfgWrite (h b : Nat) (x : RegWrite)
  /-- HANKCTL_WRITE (R407): A HANKCTL write sets QUIESCE and, while quiescent, the hank's class and flags. -/
  | hankctlWrite (h : Nat) (x : RegWrite)
  /-- WAYS_WRITE (R407): A WAYS write reassigns cache ways, writing back removed ways under BUSY. -/
  | waysWrite (h : Nat) (x : RegWrite)
  /-- WAY_CHANGE_COMPLETE (R407): Write-back and invalidation of removed ways finishes and BUSY clears. -/
  | wayChangeComplete (h : Nat)
  /-- MEMCFG_WRITE (R364): A MEMCFG write sets vault-memory ways and the drowsy time. -/
  | memcfgWrite (h : Nat) (x : RegWrite)
  /-- SHADOW_POOL_WRITE (R364): A write of SHBASE or SHCHUNKS sets up a new empty shadow pool. -/
  | shadowPoolWrite (h : Nat) (chunks : Bool) (x : RegWrite)
  /-- TRAVERSAL_LOAD_COMPLETE (R401): A context load finishes, setting LOADED or BADIMG. -/
  | traversalLoadComplete (h c : Nat)
  /-- TRAVERSAL_CONTEXT_FAULT (R403): An error or microcode trap faults a context on one unit. -/
  | traversalContextFault (row col c : Nat)
  /-- VBLANK (R418): At a head's vblank the next non-immediate flip entry is popped and shown. -/
  | vblank (head : Nat)
  /-- MEDIA_COMMAND (R406): A media sequencer executes its next queued command. -/
  | mediaCommand (sq : Nat)
  /-- MEDIA_DONE_RETRY (R406): A completion put on a full cell is retried every 1024 FCLK. -/
  | mediaDoneRetry (sq : Nat)
  /-- CORRECTED_ERROR (R420): An error repaired by correction adds 1 to CECOUNT. -/
  | correctedError
  /-- POISON (R421): An uncorrectable data error poisons a 16-byte granule. -/
  | poison (loc : Granule) (src : Nat)
  /-- SHARED (R423): An uncorrectable error in shared state is contained in its unit. -/
  | shared (u : SharedUnit)
  /-- LINKFAIL (R420): A link transfer fails its CRC and is retried, poisoned after 4 retries. -/
  | linkfail (link : BitVec 20) (what : Transfer)
  /-- INJECT (R430): An armed injector reaches its N-th matching flit and fires. -/
  | inject (i : Nat) (hit : InjectHit)
  /-- INJECTOR_DELAY_EXPIRY (R430): A flit held by a delay action is released after DELAY cycles. -/
  | injectorDelayExpiry (i : Nat)
  /-- QUOTE_COMPLETE (R439): SYSC writes the signed quote and sets ATTSTAT. -/
  | quoteComplete (ok : Bool)
  /-- POWER_ON (R431): Power-on holds SYSC in RESET and starts bring-up. -/
  | powerOn
  /-- FUNDAMENTAL_RESET (R432): A PCI Express Fundamental Reset restarts the device, leaving HALT. -/
  | fundamentalReset
  /-- ROM (R436): SYSC runs mask ROM, reads the rollback counter and derives the PUF identity. -/
  | rom
  /-- FLOORPLAN (R433): SYSC reads and checks the signed floorplan record. -/
  | floorplan (selfTest : DWord)
  /-- FIRMWARE (R434): SYSC reads and checks the Notil firmware image. -/
  | firmware
  /-- MEMORY (R431): GDDR 7 training, Skein and SRAM self-test and control-store loading. -/
  | memory (trained : Bool)
  /-- GOVERNOR_EVALUATION (R441): Every 100 us the power governor re-evaluates and sets ACLK. -/
  | governorEvaluation (mhz watts temp : Nat)
  /-- THERMAL_TRIP (R441): The junction reaching 115 C halts the device with cause 8. -/
  | thermalTrip
  /-- DEBUGGER_ACCESS (R37): A debugger reads or writes a wave's register: a gated register reads 0 or ignores the write and sets
  DBGSTAT.GATED, and a drowsy bank wakes. -/
  | debuggerAccess (w reg lane : Nat) (wr : Option Word)
  /-- MIGHEAD_WRITE (R392): The host advances MIGHEAD, which frees migration-ring entries so that requests waiting inside the G96 are
  written in arrival order. -/
  | migheadWrite (h : Nat) (x : RegWrite)
  /-- INVALIDATION_COMPLETE (R394): An invalidation requested through INVREQ finishes: INVREQ bit 0 clears, and writes held by WP re-walk
  and are performed or park for migration. -/
  | invalidationComplete (h : Nat)
  /-- TRAVERSAL_RESET_COMPLETE (R401): A traversal context reset written through TRCTL finishes and TRSTAT.BUSY clears. -/
  | traversalResetComplete (h c : Nat)
  /-- POOLFREE_WRITE (R391): A POOLFREE write returns a frame to the device-local pool. -/
  | poolfreeWrite (h : Nat) (x : RegWrite)
  /-- INVREQ_PAGE (R391): An INVREQ write with ALL = 0 invalidates the translations of one page. -/
  | invreqPage (h : Nat) (va : DWord)
  /-- INVREQ_ALL (R391): An INVREQ write with ALL = 1 invalidates every translation of the hank. -/
  | invreqAll (h : Nat)
  /-- MIGACK_DONE (R393): A MIGACK with STATUS 0 makes parked lanes re-walk the page. -/
  | migackDone (h : Nat) (va : DWord)
  /-- MIGACK_REFUSED (R393): A MIGACK with STATUS 1 raises MIGRATED in the parked lanes. -/
  | migackRefused (h : Nat) (va : DWord)
  /-- TRCTL_LOAD (R401): A TRCTL write with LOAD resets a traversal context and loads and verifies its image. -/
  | trctlLoad (h c : Nat) (x : RegWrite)
  /-- TRCTL_RESET (R402): A TRCTL write with RESET drops the context's rays and retires their waves. -/
  | trctlReset (h c : Nat) (x : RegWrite)
  /-- HEADCTL_WRITE (R417): A HEADCTL write enables, disables or reconfigures a display head. -/
  | headctlWrite (head : Nat) (x : RegWrite)
  /-- HOST_COHERENT_READ (R412): A host or peer read through the coherent aperture at the home slice. -/
  | hostCoherentRead (pa size : Nat) (peer : Bool)
  /-- HOST_COHERENT_WRITE (R412): A host or peer write through the coherent aperture at the home slice. -/
  | hostCoherentWrite (pa : Nat) (bs : Bytes) (peer : Bool)
  /-- HOST_DIRECT_READ (R412): A host or peer read of GDDR 7 through the direct aperture. -/
  | hostDirectRead (pa size : Nat) (peer : Bool)
  /-- HOST_DIRECT_WRITE (R412): A host or peer write of GDDR 7 through the direct aperture; `hint` is a caching hint that the transfer may
  carry, which has no effect, for no cache is looked in (R387). -/
  | hostDirectWrite (pa : Nat) (bs : Bytes) (peer hint : Bool)
  /-- FETCHADD (R412): A PCI Express FetchAdd performed as a system-scope ATOM. -/
  | fetchadd (pa size : Nat) (v : DWord) (via : AtomicVia)
  /-- SWAP (R412): A PCI Express Swap performed as a system-scope exchange. -/
  | swap (pa size : Nat) (v : DWord) (via : AtomicVia)
  /-- CAS (R412): A PCI Express CAS performed as a system-scope ACAS. -/
  | cas (pa size : Nat) (cmp new : BitVec 128) (via : AtomicVia)
  /-- VF_WINDOW_ACCESS (R411): A level 2 BAR2 access translated through the hank's tables. -/
  | vfWindowAccess (h off size : Nat) (wr : Option Bytes)
  /-- INJSEL_WRITE (R429): An INJSEL write arms or disarms a link injector. -/
  | injselWrite (i : Nat) (x : RegWrite)
  /-- ERRBASE_WRITE (R427): An ERRBASE write sets the error ring and resets TAIL and HEAD. -/
  | errbaseWrite (x : RegWrite)
  /-- CECOUNT_WRITE (R427): Any write clears CECOUNT. -/
  | cecountWrite (x : RegWrite)
  /-- GAUGEC_WRITE (R424): Any write clears a gauge's FAILS count. -/
  | gaugecWrite (h g : Nat) (x : RegWrite)
  /-- FEATACK_WRITE (R438): The driver's FEATACK write stores acknowledged features and moves to RUN. -/
  | featackWrite (x : RegWrite)
  /-- ATTCTL_GO (R439): An ATTCTL write with GO starts an attestation quote. -/
  | attctlGo (x : RegWrite)
  /-- REGISTER_WRITE (R8): A write to a device register with no behaviour of its own. -/
  | registerWrite (off : Nat) (x : RegAccess)
  /-- POWER_WRITE (R442): Writing 1 to POWER bit 40 clears THROT. -/
  | powerWrite (x : RegWrite)
deriving DecidableEq, Repr

end Sys2Proof
end

