-- ==== Sys2Proof/WellFormed.lean ====
section
/-! DEFINITION. The field rules of every instruction (R55-R62 and the entries of 05 to 11): a word that names an assigned form
and breaks one of them raises ILLEGAL_FIELD (R84). The rules that depend on the running wave (declared registers R62, launch
levels R196, handler-only registers R33) are the machine's. A machine step is well formed when the units it names exist. -/

namespace Sys2Proof

/-- PM is not 3, and PREG is zero when PM is 00 (R55). -/
def predOk (pm : BitVec 2) (preg : BitVec 8) : Bool := pm != 3 && (pm != 0 || preg == 0)

/-- An even register, the base of a pair (R29). -/
def isPair (r : BitVec 8) : Bool := r.toNat % 2 == 0
/-- The base of a quad (R137, R156). -/
def isQuad (r : BitVec 8) : Bool := r.toNat % 4 == 0
/-- The base of a block of eight (R224, R262). -/
def isOct (r : BitVec 8) : Bool := r.toNat % 8 == 0

/-- Which of A, B and C the entry reads, and which MOD bits it defines (R113). -/
def V3.srcOk (x : V3) (ua ub uc : Bool) (mods : BitVec 8) : Bool :=
  predOk x.pm x.preg
  && (ua || (x.a == 0 && x.pa == 0 && x.latch.getLsbD 0 == false))
  && (ub || (x.b == 0 && x.pb == 0 && x.latch.getLsbD 1 == false))
  && (uc || (x.c &&& ~~~mods == 0 && x.latch.getLsbD 2 == false))

/-- A V-class or A-class V3 word: bits 5:3 are zero unless C is read (R113). -/
def V3.intOk (x : V3) (ua ub uc : Bool) (mods : BitVec 8 := 0) : Bool :=
  x.srcOk ua ub uc mods && (uc || x.pc == 0)

/-- An F-class word with an RND field of at most `rnd` (R136, R137). -/
def V3.floatOk (x : V3) (ua ub : Bool) (mods : BitVec 8) (rnd : Nat) : Bool :=
  x.srcOk ua ub false mods && decide (x.pc.toNat ≤ rnd)

/-- A condition code of ICMP and ACMP is 0 to 5 (R124). -/
def V3.condOk (x : V3) : Bool := decide (x.c.toNat % 8 < 6)

/-- The element class of PKN, UPKN and NDOT is mf8, mf6 or mf4 (R137). -/
def V3.clsOk (x : V3) : Bool := decide (2 ≤ x.c.toNat / 32 ∧ x.c.toNat / 32 ≤ 4)

/-- LRED and LSCAN: op 0 to 8, U only for min and max (R132). -/
def V3.redOk (x : V3) : Bool :=
  decide (x.c.toNat % 16 ≤ 8) && (x.c.getLsbD 4 == false || x.c.toNat % 16 == 1 || x.c.toNat % 16 == 2)

/-- A VI word (R57). -/
def VI.ok (x : VI) : Bool := predOk x.pm x.preg

/-- ROW of the vault layout (R58). -/
def MWord.vrow (x : MWord) : Nat := x.f.toNat / 1024
/-- COL of the vault layout (R58). -/
def MWord.vcol (x : MWord) : Nat := x.f.toNat / 64 % 16
/-- B of the atomic layout (R58). -/
def MWord.b (x : MWord) : BitVec 8 := BitVec.ofNat 8 (x.f.toNat / 64)
/-- OFF6 (R58). -/
def MWord.off6 (x : MWord) : BitVec 6 := BitVec.ofNat 6 x.f.toNat
/-- KIND of FENCE (R178). -/
def MWord.kind (x : MWord) : Nat := x.f.toNat % 4

/-- The data register's alignment by SIZE (R156). -/
def MWord.widthOk (x : MWord) (r : BitVec 8) : Bool :=
  if x.size == 3 then isPair r else if x.size == 4 then isQuad r else true

/-- The (ROW, COL) pair names a core or the own vault (R58). -/
def MWord.vaultOk (x : MWord) : Bool :=
  decide ((x.vrow = 15 ∧ x.vcol = 15) ∨ (x.vrow ≤ 7 ∧ x.vcol ≤ 13))

/-- The row of R157: largest SIZE, largest SCOPE, ORD values, RC values. -/
def MWord.fieldsOk (x : MWord) (size scope : Nat) (ords rcs : List Nat) : Bool :=
  predOk x.pm x.preg && decide (x.size.toNat ≤ size) && decide (x.scope.toNat ≤ scope)
  && ords.contains x.ord.toNat && rcs.contains x.rc.toNat

/-- The AOP, AVAR and SIZE combinations of R171. -/
def MWord.atomOk (x : MWord) : Bool :=
  let op := x.pa.toNat; let v := x.rc.toNat; let sz := x.size.toNat
  (sz == 2 || sz == 3)
  && (if op ≤ 2 then decide (v ≤ 1) || (v == 2 && sz == 2)
      else if op = 7 then decide (v ≤ 1)
      else v == 0)

/-- MON, PREF, CINV, CWB: an address pair and nothing else (R157). -/
def MWord.lineOk (x : MWord) (rcs : List Nat) : Bool :=
  x.fieldsOk 0 0 [0] rcs && x.d == 0 && isPair x.a

/-- Bits 35:0 of an X word as a number (R59). -/
def XWord.low36 (x : XWord) : Nat :=
  x.acc.toNat * 2 ^ 34 + x.ya.toNat * 2 ^ 31 + x.yb.toNat * 2 ^ 28 + x.ysa.toNat * 2 ^ 25 + x.ysb.toNat * 2 ^ 22
  + x.ym.toNat * 2 ^ 19 + x.fa.toNat * 2 ^ 16 + x.fb.toNat * 2 ^ 13 + x.spn.toNat * 2 ^ 11 + x.neg.toNat * 2 ^ 10
  + x.sat.toNat * 2 ^ 9 + x.rest.toNat

/-- Bits 33:26, VREG, AREG or TREG (R224). -/
def XWord.vreg (x : XWord) : Nat := x.low36 / 2 ^ 26 % 256
/-- Bits 25:18, EREG (R224). -/
def XWord.ereg (x : XWord) : Nat := x.low36 / 2 ^ 18 % 256
/-- Bit 25, TO or CLR (R224). -/
def XWord.flag (x : XWord) : Bool := x.low36 / 2 ^ 25 % 2 == 1
/-- Bits 24:23, the column group (R224). -/
def XWord.group (x : XWord) : Nat := x.low36 / 2 ^ 23 % 4

/-- Every X word: D is zero (R59). -/
def XWord.ok (x : XWord) : Bool := predOk x.pm x.preg && x.d == 0

/-- The field rules of MMA and MMAS (R59, R106, R228). -/
def XWord.mmaOk (x : XWord) (sparse : Bool) : Bool :=
  x.ok && x.rest == 0 && x.fa != 7 && x.fb != 7
  && (decide (x.fa.toNat ≤ 4) == decide (x.fb.toNat ≤ 4))
  && (x.sat == 0 || decide (5 ≤ x.fa.toNat))
  && (sparse || x.spn == 0) && (x.spn != 0 || x.ym == 0)

/-- The X word has only the given bits of 35:0 (R224). -/
def XWord.only (x : XWord) (bits : Nat) : Bool := x.ok && x.low36 &&& bits == x.low36

/-- A K word whose unused fields are zero (R209, R262): which of D, A, B, C and Y are used, and the largest IMM9. -/
def KWord.ok (x : KWord) (ud ua ub uc uy : Bool) (imm : Nat := 0) : Bool :=
  predOk x.pm x.preg && (ud || x.d == 0) && (ua || x.a == 0) && (ub || x.b == 0) && (uc || x.c == 0) && (uy || x.y == 0)
  && decide (x.imm.toNat ≤ imm)

/-- An S word whose unused fields are zero (R239, R252, R261): which of D, A and B are used, and the bound on IMM20. -/
def SWord.ok (x : SWord) (ud ua ub : Bool) (imm : Nat := 0) : Bool :=
  predOk x.pm x.preg && (ud || x.d == 0) && (ua || x.a == 0) && (ub || x.b == 0) && decide (x.imm.toNat ≤ imm)

/-- A C word: whether PM is free, D used, the bound on bits 35:4 and on SUB (R185). -/
def CWord.ok (x : CWord) (cond ud : Bool) (off : Nat) (sub : Nat) : Bool :=
  predOk x.pm x.preg && (cond || x.pm == 0) && (ud || x.d == 0) && decide (x.off.toNat ≤ off) && decide (x.sub.toNat ≤ sub)

/-- The special registers SYSWR may name (R33). -/
def writableSpecial (i : Nat) : Bool := [0x02, 0x08, 0x09, 0x0B, 0x22].contains i

/-- The field rules of every row of the opcode table. -/
def WellFormed : Instr → Bool
  | .iadd x | .isub x | .imul x | .and x | .or x | .xor x | .andn x | .shl x | .shr x | .sar x | .rotl x => x.intOk true true false
  | .iaddx x | .icry x | .imad x | .bfi x | .sel x | .iclamp x => x.intOk true true true
  | .imulh x | .imin x | .imax x | .bfx x => x.intOk true true false 1
  | .iabs x | .ineg x | .bitlv x | .bdlv x => x.intOk true false false 1
  | .not x | .brev x | .popc x | .clz x | .ctz x | .mov x => x.intOk true false false
  | .blut x => x.intOk true true false 0xFF
  | .icmp x => x.intOk true true false 0xF && x.condOk
  | .idp4 x => x.intOk true true false 7
  | .iaddVi x | .isubVi x | .imulVi x | .imulhVi x | .iminVi x | .imaxVi x | .andVi x | .orVi x | .xorVi x | .andnVi x
  | .shlVi x | .shrVi x | .sarVi x | .rotlVi x | .fsclVi x => x.ok
  | .movi x => predOk x.pm x.preg && decide (x.sub.toNat ≤ 4)
  | .fadd x | .fsub x | .fmul x | .fscl x => x.floatOk true true 0 5
  | .ffma x => x.srcOk true true true 0
  | .fmin x | .fmax x => x.floatOk true true 0 0
  | .fcmp x => x.floatOk true true 7 0
  | .fclass x | .frcp x | .frsq x | .fexp2 x | .flog2 x | .fsin x | .fcos x | .ftanh x => x.floatOk true false 0 0
  | .frnd x | .fsqrt x => x.floatOk true false 0 5
  | .hpadd x | .hpmul x | .hpfma x => x.floatOk true true 1 5
  | .cvti x => x.floatOk true false 0xF 6 && decide (x.c.toNat / 4 ≤ 2) && (decide (x.c.toNat % 4 < 2) || isPair x.a)
      && (x.pc != 6 || (isPair x.d && decide (1 ≤ x.c.toNat / 4)))
  | .cvtf x => x.floatOk true false 0xF 5 && decide (x.c.toNat % 4 ≤ 2) && (decide (x.c.toNat / 4 < 2) || isPair x.d)
  | .cvtff x => x.floatOk true false 0xF 6 && decide (x.c.toNat % 4 ≤ 2) && decide (x.c.toNat / 4 ≤ 2)
      && decide (x.c.toNat % 4 ≠ x.c.toNat / 4) && (x.pc != 6 || (isPair x.d && decide (1 ≤ x.c.toNat / 4)))
  | .pkn x => x.floatOk true true 0xFF 6 && x.clsOk && isQuad x.a && isPair x.b && x.pb == 0 && (x.pc != 6 || isPair x.d)
  | .upkn x => x.floatOk true true 0xFF 5 && x.clsOk && isQuad x.d && isPair x.b && x.pb == 0
  | .ndot x => x.floatOk true true 0xFF 5 && x.clsOk && isQuad x.a && x.pb == 0
  | .amov x => x.intOk true true false && isPair x.d && isPair x.a && x.pa == 0 && x.pb == 0
  | .aldi x => x.ok && isPair x.d && x.pa == 0
  | .aadd x | .asub x => x.intOk true true false && isPair x.d && isPair x.a
  | .aaddVi x | .asubVi x | .amuli x => x.ok && isPair x.d && isPair x.a
  | .ashli x => x.ok && isPair x.d && isPair x.a && decide (x.imm.toNat ≤ 63)
  | .acmp x => x.intOk true true false 0xF && isPair x.a && isPair x.b && x.condOk
  | .shfl x => x.intOk true true false && x.pb == 0
  | .shfli x => x.ok && decide (x.imm.toNat < 32)
  | .vote x => x.intOk true false false 3 && x.c != 3
  | .lred x => x.intOk true false false 0x1F && x.redOk
  | .lscan x => x.intOk true false false 0x3F && x.redOk
  | .mread x => x.intOk false false false 1
  | .mwrite x => x.intOk true false false && x.d == 0
  | .ld x => x.fieldsOk 6 5 [0, 1] [0, 1, 2, 3, 4, 5, 6, 7] && x.widthOk x.d && isPair x.a
  | .st x => x.fieldsOk 4 5 [0, 2] [0, 7] && x.widthOk x.d && isPair x.a
  | .lds x => x.fieldsOk 6 2 [0, 1] [0] && x.widthOk x.d
  | .sts x => x.fieldsOk 4 2 [0, 2] [0] && x.widthOk x.d
  | .ldv x => x.fieldsOk 6 5 [0, 1] [0] && x.widthOk x.d && x.vaultOk
  | .stv x => x.fieldsOk 4 5 [0, 2] [0] && x.widthOk x.d && x.vaultOk
  | .ldk x => x.fieldsOk 4 0 [0] [0] && decide (2 ≤ x.size.toNat) && x.widthOk x.d && x.pa == 0
  | .atom x => x.fieldsOk 3 5 [0, 1, 2, 3] [0, 1, 2] && x.atomOk && x.widthOk x.d && x.widthOk x.b && isPair x.a
  | .acas x => x.fieldsOk 3 5 [0, 1, 2, 3] [0] && decide (2 ≤ x.size.toNat) && x.widthOk x.d && isPair x.a
      && (if x.size == 2 then isPair x.b else isQuad x.b)
  | .atoms x => x.fieldsOk 3 2 [0, 1, 2, 3] [0, 1, 2] && x.atomOk && x.widthOk x.d && x.widthOk x.b
  | .cadd x => x.fieldsOk 2 4 [0, 2] [1, 2, 3] && x.size == 2 && x.d == 0 && isPair x.a
  | .fenceMem x => x.fieldsOk 0 5 [1, 2, 3] [0] && x.d == 0 && x.a == 0 && x.pa == 0 && x.f == 0
  | .fenceVault x => x.fieldsOk 0 0 [0] [0] && x.d == 0 && x.a == 0 && x.pa == 0 && x.f == 1
  | .mon x | .cinv x | .cwb x => x.lineOk [0]
  | .pref x => x.lineOk [0, 1, 2, 3, 4, 5, 6]
  | .mwait x => x.fieldsOk 0 0 [0] [0] && x.d == 0 && x.a == 0 && x.pa == 0
  | .ntake x => x.only 0
  | .npass x => x.only 0x3FE000000 && (x.flag || x.vreg == 0)
  | .mma x => x.mmaOk false
  | .mmas x => x.mmaOk true
  | .azero x => x.only 0xC00000000
  | .afill x | .adrain x => x.only 0xFFD800000 && decide (x.vreg % 8 = 0)
  | .mepi x => x.only 0xFFFFC0000 && decide (x.ereg % 2 = 0)
  | .mstat x => x.only 0x3FE000000
  | .yopen x => x.ok false true false false true && isPair x.a
  | .yclose x => x.ok false false false false true
  | .ypush x => x.ok false true true false true && isPair x.a
  | .ydrop x => x.ok false false false false true 8 && x.imm != 0
  | .cpy x => x.ok false true true true false 15 && isPair x.a && isPair x.b && decide (x.imm.toNat % 4 ≤ 2)
      && decide (x.imm.toNat / 4 ≤ 2) && x.imm != 10
  | .cpyd x => x.ok false true true true false && isPair x.a && isPair x.b
  | .gath x | .scat x => x.ok false true true true false && isPair x.a && isPair x.b && isPair x.c
  | .kwait x => x.ok false true false false false 4
  | .trace x => x.ok false true true true true && isOct x.a && isPair x.b && isQuad x.c
  | .tres x => x.ok true false false false true && isQuad x.d
  | .msub x => x.ok false true true false false && isPair x.a
  | .smap x => x.ok true false true true false 1 && isPair x.d
  | .sunmap x => x.ok false true false false false && isPair x.a
  | .bra x => x.ok true false 0xFFFFFFFF 0
  | .bru x => x.ok true false 0xFFFFFFFF 1
  | .brx x | .ret x => x.ok true true 0 0 && isPair x.d
  | .call x => x.ok true true 0xFFFFFFFF 0 && isPair x.d
  | .join x => x.ok false true 0 0
  | .bar x | .bara x | .barw x => x.ok false false 0x7F 1
  | .exit x => x.ok true false 0 0
  | .yield x | .nop x | .eret x => x.ok false false 0 0
  | .trap x | .bpt x => x.ok true false 0xFFFFFFFF 0
  | .sysrd x => x.ok true false false 0xFF
  | .syswr x => x.ok false true false 0xFF && writableSpecial x.imm.toNat
  | .phint x | .idem x | .rchk x => x.ok false false false 1023
  | .idemEnd x => x.ok false false false 1024 && x.imm == 1024
  | .gset x => x.ok false true true 15 && isPair x.a
  | .pfork x => x.ok true false false 7 && x.imm != 0 && isPair x.d
  | .penter x => x.ok true true false
  | .pkeep x => x.ok true true false 1
  | .pfrog x => x.ok false true false
  | .pqry x => x.ok true true false 1 && (x.imm == 0 || x.a == 0)
  | .lline x => x.ok true true true && isPair x.a && isPair x.b
  | .arbeg x => x.ok false false false 0xFFFFF
  | .arend x => x.ok true false false
  | .arabt x => x.ok false false false 255
  | .rpair x => x.ok true true false
  | .rend x => x.ok false false false
  | .fmap x => x.ok true true true && isPair x.a
  | .invpg x => x.ok false true false 1 && isPair x.a && (x.imm == 0 || x.a == 0)
  | .launch x => x.ok false true false 63 && isPair x.a
  | .emit x => x.ok false true true && isPair x.b
  | .recv x => x.ok true true false
  | .qpush x => x.ok false true true 8191 && isPair x.a && isPair x.b && (decide (4096 < x.imm.toNat) || x.imm == 0)
  | .qpop x => x.ok true true false && isPair x.d && isPair x.a
  | .qtokPut x => x.ok true true true && isPair x.a && isPair x.b
  | .qtokTake x => x.ok true true false 1 && x.imm == 1 && isPair x.d && isPair x.a
  | .flip x => x.ok false true true && isPair x.a
  | .deferredEntryIssue h | .queueDispatch h | .teamPlacement h | .preemptRequest h | .wayChangeComplete h
  | .invalidationComplete h | .invreqAll h => decide (h < 8)
  | .plyReconcile h p | .binLaunch h p | .binTimerExpiry h p | .bincfgWrite h p _ => decide (h < 8 ∧ p < 64)
  | .hostDoorbell h p q _ _ | .qringWrite h p q _ | .qstatWrite h p q _ => decide (h < 8 ∧ p < 4 ∧ q < 16)
  | .hankctlWrite h _ | .waysWrite h _ | .memcfgWrite h _ | .shadowPoolWrite h _ _ | .poolfreeWrite h _ | .migheadWrite h _
  | .invreqPage h _ | .migackDone h _ | .migackRefused h _ | .vfWindowAccess h _ _ _ => decide (h < 8)
  | .trctlLoad h c _ | .trctlReset h c _ => decide (h < 8 ∧ c < 8)
  | .traversalLoadComplete h c | .traversalResetComplete h c => decide (h < 8 ∧ c < 8)
  | .traversalContextFault r cl c => decide (r < 8 ∧ cl < 14 ∧ c < 8)
  | .gaugecWrite h g _ => decide (h < 8 ∧ g < 16)
  | .headctlWrite n _ => decide (n < 4)
  | .vblank n => decide (n < 4)
  | .mediaCommand n | .mediaDoneRetry n => decide (n < 2)
  | .injselWrite i _ => decide (i < 32)
  | .inject i _ => decide (i < 32)
  | .injectorDelayExpiry i => decide (i < 32)
  | .bankDrowsy _ b => decide (b < 8)
  | .debuggerAccess _ r l _ => decide (r < 256 ∧ l < 8)
  | .clauseStart _ n | .heldWordIssue _ n | .strandWake _ n | .mwaitTimeout _ n | .watchdog _ n => decide (n ≤ 8)
  | .opportunisticFusion _ n m => decide (n < 8 ∧ m < 8 ∧ n ≠ m)
  | .fetchadd _ size _ _ | .swap _ size _ _ => size == 4 || size == 8
  | .cas _ size _ _ _ => size == 4 || size == 8 || size == 16
  | .slotFree _ | .resultWriteback _ | .accessPerformed _ | .yarnFillComplete _ | .engineCommandComplete _
  | .meOperationComplete _ | .traversalComplete _ | .darnerCommit _ | .partialEviction _ _ | .monitorSpuriousTrigger _
  | .trapTaken _ | .walkStarvation _ | .accessRejectRetry _ | .agedReservation _ | .doneTokenPut _ | .doneTokenRetry _
  | .promiseBroken _ | .fullSave _ | .teamRestore _ | .hostCoherentRead _ _ _ | .hostCoherentWrite _ _ _
  | .hostDirectRead _ _ _ | .hostDirectWrite _ _ _ _ | .correctedError | .poison _ _ | .shared _ | .linkfail _ _
  | .errbaseWrite _ | .cecountWrite _ | .featackWrite _ | .attctlGo _ | .quoteComplete _ | .registerWrite _ _ | .powerOn
  | .fundamentalReset | .rom | .floorplan _ | .firmware | .memory _ | .governorEvaluation _ _ _ | .thermalTrip
  | .powerWrite _ => true

end Sys2Proof
end

