-- ==== Sys2Proof/Decode.lean ====
section
/-! DEFINITION. The decoder of one 64-bit word (R55-R60, R77-R85), total, rejecting by name, and the encoder after it, both
written from the format tables of 02_clauses_and_encoding and the class tables of 03_opcode_map. -/

namespace Sys2Proof

/-- Why a word is no instruction (R84): the two faults in their order. -/
inductive DecodeError where
  | illegalOp | illegalField
deriving DecidableEq, Repr

/-- `w` bits of a number from bit `lo` up (R7). -/
def field (n lo w : Nat) : BitVec w := BitVec.ofNat w (n / 2 ^ lo)

/-- V3 fields of a word (R55, R57). -/
def V3.ofNat (n : Nat) : V3 :=
  { pm := field n 52 2, preg := field n 44 8, d := field n 36 8, a := field n 28 8, pa := field n 25 3, b := field n 17 8,
    pb := field n 14 3, c := field n 6 8, pc := field n 3 3, latch := field n 0 3 }

/-- VI fields of a word (R57). -/
def VI.ofNat (n : Nat) : VI :=
  { pm := field n 52 2, preg := field n 44 8, d := field n 36 8, a := field n 28 8, pa := field n 25 3, imm := field n 0 25 }

/-- K32 fields of a word (R57). -/
def K32.ofNat (n : Nat) : K32 :=
  { pm := field n 52 2, preg := field n 44 8, d := field n 36 8, imm := field n 4 32, sub := field n 0 4 }

/-- M fields of a word (R58). -/
def MWord.ofNat (n : Nat) : MWord :=
  { pm := field n 52 2, preg := field n 44 8, d := field n 36 8, a := field n 28 8, pa := field n 25 3, f := field n 11 14,
    size := field n 8 3, scope := field n 5 3, ord := field n 3 2, rc := field n 0 3 }

/-- X fields of a word (R59). -/
def XWord.ofNat (n : Nat) : XWord :=
  { pm := field n 52 2, preg := field n 44 8, d := field n 36 8, acc := field n 34 2, ya := field n 31 3, yb := field n 28 3,
    ysa := field n 25 3, ysb := field n 22 3, ym := field n 19 3, fa := field n 16 3, fb := field n 13 3, spn := field n 11 2,
    neg := field n 10 1, sat := field n 9 1, rest := field n 0 9 }

/-- K fields of a word (R60). -/
def KWord.ofNat (n : Nat) : KWord :=
  { pm := field n 52 2, preg := field n 44 8, d := field n 36 8, a := field n 28 8, b := field n 20 8, c := field n 12 8,
    y := field n 9 3, imm := field n 0 9 }

/-- S fields of a word (R60). -/
def SWord.ofNat (n : Nat) : SWord :=
  { pm := field n 52 2, preg := field n 44 8, d := field n 36 8, a := field n 28 8, b := field n 20 8, imm := field n 0 20 }

/-- C fields of a word (R60). -/
def CWord.ofNat (n : Nat) : CWord :=
  { pm := field n 52 2, preg := field n 44 8, d := field n 36 8, off := field n 4 32, sub := field n 0 4 }

/-- The assigned sub-opcodes of class V (0) (R81, R82); none is ILLEGAL_OP (R84, R85). -/
def formV (op n : Nat) : Option Instr :=
  match op with
  | 0x00 => some (.iadd (V3.ofNat n))
  | 0x40 => some (.iaddVi (VI.ofNat n))
  | 0x01 => some (.isub (V3.ofNat n))
  | 0x41 => some (.isubVi (VI.ofNat n))
  | 0x02 => some (.iaddx (V3.ofNat n))
  | 0x03 => some (.icry (V3.ofNat n))
  | 0x04 => some (.imul (V3.ofNat n))
  | 0x44 => some (.imulVi (VI.ofNat n))
  | 0x05 => some (.imulh (V3.ofNat n))
  | 0x45 => some (.imulhVi (VI.ofNat n))
  | 0x06 => some (.imad (V3.ofNat n))
  | 0x07 => some (.imin (V3.ofNat n))
  | 0x47 => some (.iminVi (VI.ofNat n))
  | 0x08 => some (.imax (V3.ofNat n))
  | 0x48 => some (.imaxVi (VI.ofNat n))
  | 0x09 => some (.iabs (V3.ofNat n))
  | 0x0a => some (.ineg (V3.ofNat n))
  | 0x0b => some (.and (V3.ofNat n))
  | 0x4b => some (.andVi (VI.ofNat n))
  | 0x0c => some (.or (V3.ofNat n))
  | 0x4c => some (.orVi (VI.ofNat n))
  | 0x0d => some (.xor (V3.ofNat n))
  | 0x4d => some (.xorVi (VI.ofNat n))
  | 0x0e => some (.andn (V3.ofNat n))
  | 0x4e => some (.andnVi (VI.ofNat n))
  | 0x0f => some (.not (V3.ofNat n))
  | 0x10 => some (.blut (V3.ofNat n))
  | 0x11 => some (.shl (V3.ofNat n))
  | 0x51 => some (.shlVi (VI.ofNat n))
  | 0x12 => some (.shr (V3.ofNat n))
  | 0x52 => some (.shrVi (VI.ofNat n))
  | 0x13 => some (.sar (V3.ofNat n))
  | 0x53 => some (.sarVi (VI.ofNat n))
  | 0x14 => some (.rotl (V3.ofNat n))
  | 0x54 => some (.rotlVi (VI.ofNat n))
  | 0x15 => some (.bfx (V3.ofNat n))
  | 0x16 => some (.bfi (V3.ofNat n))
  | 0x17 => some (.brev (V3.ofNat n))
  | 0x18 => some (.popc (V3.ofNat n))
  | 0x19 => some (.clz (V3.ofNat n))
  | 0x1a => some (.ctz (V3.ofNat n))
  | 0x1b => some (.bitlv (V3.ofNat n))
  | 0x1c => some (.bdlv (V3.ofNat n))
  | 0x1d => some (.icmp (V3.ofNat n))
  | 0x1e => some (.sel (V3.ofNat n))
  | 0x1f => some (.iclamp (V3.ofNat n))
  | 0x20 => some (.mov (V3.ofNat n))
  | 0x21 => some (.movi (K32.ofNat n))
  | 0x22 => some (.idp4 (V3.ofNat n))
  | _ => none

/-- The assigned sub-opcodes of class F (1) (R81, R82); none is ILLEGAL_OP (R84, R85). -/
def formF (op n : Nat) : Option Instr :=
  match op with
  | 0x00 => some (.fadd (V3.ofNat n))
  | 0x01 => some (.fsub (V3.ofNat n))
  | 0x02 => some (.fmul (V3.ofNat n))
  | 0x03 => some (.ffma (V3.ofNat n))
  | 0x04 => some (.fmin (V3.ofNat n))
  | 0x05 => some (.fmax (V3.ofNat n))
  | 0x06 => some (.fcmp (V3.ofNat n))
  | 0x07 => some (.fclass (V3.ofNat n))
  | 0x08 => some (.frnd (V3.ofNat n))
  | 0x09 => some (.frcp (V3.ofNat n))
  | 0x0a => some (.frsq (V3.ofNat n))
  | 0x0b => some (.fsqrt (V3.ofNat n))
  | 0x0c => some (.fexp2 (V3.ofNat n))
  | 0x0d => some (.flog2 (V3.ofNat n))
  | 0x0e => some (.fsin (V3.ofNat n))
  | 0x0f => some (.fcos (V3.ofNat n))
  | 0x10 => some (.ftanh (V3.ofNat n))
  | 0x11 => some (.fscl (V3.ofNat n))
  | 0x51 => some (.fsclVi (VI.ofNat n))
  | 0x12 => some (.hpadd (V3.ofNat n))
  | 0x13 => some (.hpmul (V3.ofNat n))
  | 0x14 => some (.hpfma (V3.ofNat n))
  | 0x15 => some (.cvti (V3.ofNat n))
  | 0x16 => some (.cvtf (V3.ofNat n))
  | 0x17 => some (.cvtff (V3.ofNat n))
  | 0x18 => some (.pkn (V3.ofNat n))
  | 0x19 => some (.upkn (V3.ofNat n))
  | 0x1a => some (.ndot (V3.ofNat n))
  | _ => none

/-- The assigned sub-opcodes of class A (2) (R81, R82); none is ILLEGAL_OP (R84, R85). -/
def formA (op n : Nat) : Option Instr :=
  match op with
  | 0x00 => some (.amov (V3.ofNat n))
  | 0x41 => some (.aldi (VI.ofNat n))
  | 0x02 => some (.aadd (V3.ofNat n))
  | 0x42 => some (.aaddVi (VI.ofNat n))
  | 0x03 => some (.asub (V3.ofNat n))
  | 0x43 => some (.asubVi (VI.ofNat n))
  | 0x44 => some (.amuli (VI.ofNat n))
  | 0x45 => some (.ashli (VI.ofNat n))
  | 0x06 => some (.acmp (V3.ofNat n))
  | 0x07 => some (.shfl (V3.ofNat n))
  | 0x48 => some (.shfli (VI.ofNat n))
  | 0x09 => some (.vote (V3.ofNat n))
  | 0x0a => some (.lred (V3.ofNat n))
  | 0x0b => some (.lscan (V3.ofNat n))
  | 0x0c => some (.mread (V3.ofNat n))
  | 0x0d => some (.mwrite (V3.ofNat n))
  | _ => none

/-- The assigned sub-opcodes of class M (3) (R81, R82); none is ILLEGAL_OP (R84, R85). -/
def formM (op n : Nat) : Option Instr :=
  match op with
  | 0x00 => some (.ld (MWord.ofNat n))
  | 0x01 => some (.st (MWord.ofNat n))
  | 0x02 => some (.lds (MWord.ofNat n))
  | 0x03 => some (.sts (MWord.ofNat n))
  | 0x04 => some (.ldv (MWord.ofNat n))
  | 0x05 => some (.stv (MWord.ofNat n))
  | 0x06 => some (.ldk (MWord.ofNat n))
  | 0x07 => some (.atom (MWord.ofNat n))
  | 0x08 => some (.acas (MWord.ofNat n))
  | 0x09 => some (.atoms (MWord.ofNat n))
  | 0x0a => some (.cadd (MWord.ofNat n))
  | 0x0b => some (if (MWord.ofNat n).kind = 1 then .fenceVault (MWord.ofNat n) else .fenceMem (MWord.ofNat n))
  | 0x0c => some (.mon (MWord.ofNat n))
  | 0x0d => some (.mwait (MWord.ofNat n))
  | 0x0e => some (.pref (MWord.ofNat n))
  | 0x0f => some (.cinv (MWord.ofNat n))
  | 0x10 => some (.cwb (MWord.ofNat n))
  | _ => none

/-- The assigned sub-opcodes of class X (4) (R81, R82); none is ILLEGAL_OP (R84, R85). -/
def formX (op n : Nat) : Option Instr :=
  match op with
  | 0x00 => some (.ntake (XWord.ofNat n))
  | 0x01 => some (.npass (XWord.ofNat n))
  | 0x02 => some (.mma (XWord.ofNat n))
  | 0x03 => some (.mmas (XWord.ofNat n))
  | 0x04 => some (.azero (XWord.ofNat n))
  | 0x05 => some (.afill (XWord.ofNat n))
  | 0x06 => some (.adrain (XWord.ofNat n))
  | 0x07 => some (.mepi (XWord.ofNat n))
  | 0x08 => some (.mstat (XWord.ofNat n))
  | _ => none

/-- The assigned sub-opcodes of class K (5) (R81, R82); none is ILLEGAL_OP (R84, R85). -/
def formK (op n : Nat) : Option Instr :=
  match op with
  | 0x00 => some (.yopen (KWord.ofNat n))
  | 0x01 => some (.yclose (KWord.ofNat n))
  | 0x02 => some (.ypush (KWord.ofNat n))
  | 0x03 => some (.ydrop (KWord.ofNat n))
  | 0x04 => some (.cpy (KWord.ofNat n))
  | 0x05 => some (.cpyd (KWord.ofNat n))
  | 0x06 => some (.gath (KWord.ofNat n))
  | 0x07 => some (.scat (KWord.ofNat n))
  | 0x08 => some (.kwait (KWord.ofNat n))
  | 0x09 => some (.trace (KWord.ofNat n))
  | 0x0a => some (.tres (KWord.ofNat n))
  | 0x0b => some (.msub (KWord.ofNat n))
  | 0x0c => some (.smap (KWord.ofNat n))
  | 0x0d => some (.sunmap (KWord.ofNat n))
  | _ => none

/-- The assigned sub-opcodes of class C (6) (R81, R82); none is ILLEGAL_OP (R84, R85). -/
def formC (op n : Nat) : Option Instr :=
  match op with
  | 0x00 => some (.bra (CWord.ofNat n))
  | 0x01 => some (.bru (CWord.ofNat n))
  | 0x02 => some (.brx (CWord.ofNat n))
  | 0x03 => some (.call (CWord.ofNat n))
  | 0x04 => some (.ret (CWord.ofNat n))
  | 0x05 => some (.join (CWord.ofNat n))
  | 0x06 => some (.bar (CWord.ofNat n))
  | 0x07 => some (.bara (CWord.ofNat n))
  | 0x08 => some (.barw (CWord.ofNat n))
  | 0x09 => some (.exit (CWord.ofNat n))
  | 0x0a => some (.yield (CWord.ofNat n))
  | 0x0b => some (.trap (CWord.ofNat n))
  | 0x0c => some (.bpt (CWord.ofNat n))
  | 0x0d => some (.nop (CWord.ofNat n))
  | 0x0e => some (.eret (CWord.ofNat n))
  | _ => none

/-- The assigned sub-opcodes of class S (7) (R81, R82); none is ILLEGAL_OP (R84, R85). -/
def formS (op n : Nat) : Option Instr :=
  match op with
  | 0x00 => some (.sysrd (SWord.ofNat n))
  | 0x01 => some (.syswr (SWord.ofNat n))
  | 0x02 => some (.phint (SWord.ofNat n))
  | 0x03 => some (if (SWord.ofNat n).imm.getLsbD 10 then .idemEnd (SWord.ofNat n) else .idem (SWord.ofNat n))
  | 0x04 => some (.gset (SWord.ofNat n))
  | 0x05 => some (.pfork (SWord.ofNat n))
  | 0x06 => some (.penter (SWord.ofNat n))
  | 0x07 => some (.pkeep (SWord.ofNat n))
  | 0x08 => some (.pfrog (SWord.ofNat n))
  | 0x09 => some (.pqry (SWord.ofNat n))
  | 0x0a => some (.lline (SWord.ofNat n))
  | 0x0b => some (.arbeg (SWord.ofNat n))
  | 0x0c => some (.arend (SWord.ofNat n))
  | 0x0d => some (.arabt (SWord.ofNat n))
  | 0x0e => some (.rpair (SWord.ofNat n))
  | 0x0f => some (.rchk (SWord.ofNat n))
  | 0x10 => some (.rend (SWord.ofNat n))
  | 0x11 => some (.fmap (SWord.ofNat n))
  | 0x12 => some (.invpg (SWord.ofNat n))
  | 0x13 => some (.launch (SWord.ofNat n))
  | 0x14 => some (.emit (SWord.ofNat n))
  | 0x15 => some (.recv (SWord.ofNat n))
  | 0x16 => some (.qpush (SWord.ofNat n))
  | 0x17 => some (.qpop (SWord.ofNat n))
  | 0x18 => some (if (SWord.ofNat n).imm.getLsbD 0 then .qtokTake (SWord.ofNat n) else .qtokPut (SWord.ofNat n))
  | 0x19 => some (.flip (SWord.ofNat n))
  | _ => none

/-- The assigned form that CLASS and OP name (R77, R84). -/
def formOf (cls op n : Nat) : Option Instr :=
  match cls with
  | 0 => formV op n
  | 1 => formF op n
  | 2 => formA op n
  | 3 => formM op n
  | 4 => formX op n
  | 5 => formK op n
  | 6 => formC op n
  | 7 => formS op n
  | _ => none

/-- The decoding of one word (R84): ILLEGAL_OP before ILLEGAL_FIELD. -/
def decodeNat (n : Nat) : Except DecodeError Instr :=
  match formOf (n / 2 ^ 61) (n / 2 ^ 54 % 128) n with
  | none => .error .illegalOp
  | some i => if WellFormed i then .ok i else .error .illegalField

/-- The decoding of a 64-bit word. -/
def decode (w : DWord) : Except DecodeError Instr := decodeNat w.toNat

/-- The common prefix below OP: PM, PREG and D (R55). -/
def headNat (pm : BitVec 2) (preg d : BitVec 8) : Nat := pm.toNat * 2 ^ 52 + preg.toNat * 2 ^ 44 + d.toNat * 2 ^ 36

/-- Bits 53:0 of a V3 word (R57). -/
def V3.toNat (x : V3) : Nat :=
  headNat x.pm x.preg x.d + x.a.toNat * 2 ^ 28 + x.pa.toNat * 2 ^ 25 + x.b.toNat * 2 ^ 17 + x.pb.toNat * 2 ^ 14
  + x.c.toNat * 2 ^ 6 + x.pc.toNat * 2 ^ 3 + x.latch.toNat

/-- Bits 53:0 of a VI word (R57). -/
def VI.toNat (x : VI) : Nat :=
  headNat x.pm x.preg x.d + x.a.toNat * 2 ^ 28 + x.pa.toNat * 2 ^ 25 + x.imm.toNat

/-- Bits 53:0 of a K32 word (R57). -/
def K32.toNat (x : K32) : Nat := headNat x.pm x.preg x.d + x.imm.toNat * 2 ^ 4 + x.sub.toNat

/-- Bits 53:0 of an M word (R58). -/
def MWord.toNat (x : MWord) : Nat :=
  headNat x.pm x.preg x.d + x.a.toNat * 2 ^ 28 + x.pa.toNat * 2 ^ 25 + x.f.toNat * 2 ^ 11 + x.size.toNat * 2 ^ 8
  + x.scope.toNat * 2 ^ 5 + x.ord.toNat * 2 ^ 3 + x.rc.toNat

/-- Bits 53:0 of an X word (R59). -/
def XWord.toNat (x : XWord) : Nat := headNat x.pm x.preg x.d + x.low36

/-- Bits 53:0 of a K word (R60). -/
def KWord.toNat (x : KWord) : Nat :=
  headNat x.pm x.preg x.d + x.a.toNat * 2 ^ 28 + x.b.toNat * 2 ^ 20 + x.c.toNat * 2 ^ 12 + x.y.toNat * 2 ^ 9 + x.imm.toNat

/-- Bits 53:0 of an S word (R60). -/
def SWord.toNat (x : SWord) : Nat :=
  headNat x.pm x.preg x.d + x.a.toNat * 2 ^ 28 + x.b.toNat * 2 ^ 20 + x.imm.toNat

/-- Bits 53:0 of a C word (R60). -/
def CWord.toNat (x : CWord) : Nat := headNat x.pm x.preg x.d + x.off.toNat * 2 ^ 4 + x.sub.toNat

/-- A word of a class and sub-opcode (R55). -/
def word (cls op low : Nat) : Option Nat := some (cls * 2 ^ 61 + op * 2 ^ 54 + low)

/-- The bits of a word: CLASS, OP and the fields of its format (R55, R77-R82); none for a machine step. -/
def encodeNat : Instr → Option Nat
  | .iadd x => word 0 0x00 x.toNat
  | .iaddVi x => word 0 0x40 x.toNat
  | .isub x => word 0 0x01 x.toNat
  | .isubVi x => word 0 0x41 x.toNat
  | .iaddx x => word 0 0x02 x.toNat
  | .icry x => word 0 0x03 x.toNat
  | .imul x => word 0 0x04 x.toNat
  | .imulVi x => word 0 0x44 x.toNat
  | .imulh x => word 0 0x05 x.toNat
  | .imulhVi x => word 0 0x45 x.toNat
  | .imad x => word 0 0x06 x.toNat
  | .imin x => word 0 0x07 x.toNat
  | .iminVi x => word 0 0x47 x.toNat
  | .imax x => word 0 0x08 x.toNat
  | .imaxVi x => word 0 0x48 x.toNat
  | .iabs x => word 0 0x09 x.toNat
  | .ineg x => word 0 0x0a x.toNat
  | .and x => word 0 0x0b x.toNat
  | .andVi x => word 0 0x4b x.toNat
  | .or x => word 0 0x0c x.toNat
  | .orVi x => word 0 0x4c x.toNat
  | .xor x => word 0 0x0d x.toNat
  | .xorVi x => word 0 0x4d x.toNat
  | .andn x => word 0 0x0e x.toNat
  | .andnVi x => word 0 0x4e x.toNat
  | .not x => word 0 0x0f x.toNat
  | .blut x => word 0 0x10 x.toNat
  | .shl x => word 0 0x11 x.toNat
  | .shlVi x => word 0 0x51 x.toNat
  | .shr x => word 0 0x12 x.toNat
  | .shrVi x => word 0 0x52 x.toNat
  | .sar x => word 0 0x13 x.toNat
  | .sarVi x => word 0 0x53 x.toNat
  | .rotl x => word 0 0x14 x.toNat
  | .rotlVi x => word 0 0x54 x.toNat
  | .bfx x => word 0 0x15 x.toNat
  | .bfi x => word 0 0x16 x.toNat
  | .brev x => word 0 0x17 x.toNat
  | .popc x => word 0 0x18 x.toNat
  | .clz x => word 0 0x19 x.toNat
  | .ctz x => word 0 0x1a x.toNat
  | .bitlv x => word 0 0x1b x.toNat
  | .bdlv x => word 0 0x1c x.toNat
  | .icmp x => word 0 0x1d x.toNat
  | .sel x => word 0 0x1e x.toNat
  | .iclamp x => word 0 0x1f x.toNat
  | .mov x => word 0 0x20 x.toNat
  | .movi x => word 0 0x21 x.toNat
  | .idp4 x => word 0 0x22 x.toNat
  | .fadd x => word 1 0x00 x.toNat
  | .fsub x => word 1 0x01 x.toNat
  | .fmul x => word 1 0x02 x.toNat
  | .ffma x => word 1 0x03 x.toNat
  | .fmin x => word 1 0x04 x.toNat
  | .fmax x => word 1 0x05 x.toNat
  | .fcmp x => word 1 0x06 x.toNat
  | .fclass x => word 1 0x07 x.toNat
  | .frnd x => word 1 0x08 x.toNat
  | .frcp x => word 1 0x09 x.toNat
  | .frsq x => word 1 0x0a x.toNat
  | .fsqrt x => word 1 0x0b x.toNat
  | .fexp2 x => word 1 0x0c x.toNat
  | .flog2 x => word 1 0x0d x.toNat
  | .fsin x => word 1 0x0e x.toNat
  | .fcos x => word 1 0x0f x.toNat
  | .ftanh x => word 1 0x10 x.toNat
  | .fscl x => word 1 0x11 x.toNat
  | .fsclVi x => word 1 0x51 x.toNat
  | .hpadd x => word 1 0x12 x.toNat
  | .hpmul x => word 1 0x13 x.toNat
  | .hpfma x => word 1 0x14 x.toNat
  | .cvti x => word 1 0x15 x.toNat
  | .cvtf x => word 1 0x16 x.toNat
  | .cvtff x => word 1 0x17 x.toNat
  | .pkn x => word 1 0x18 x.toNat
  | .upkn x => word 1 0x19 x.toNat
  | .ndot x => word 1 0x1a x.toNat
  | .amov x => word 2 0x00 x.toNat
  | .aldi x => word 2 0x41 x.toNat
  | .aadd x => word 2 0x02 x.toNat
  | .aaddVi x => word 2 0x42 x.toNat
  | .asub x => word 2 0x03 x.toNat
  | .asubVi x => word 2 0x43 x.toNat
  | .amuli x => word 2 0x44 x.toNat
  | .ashli x => word 2 0x45 x.toNat
  | .acmp x => word 2 0x06 x.toNat
  | .shfl x => word 2 0x07 x.toNat
  | .shfli x => word 2 0x48 x.toNat
  | .vote x => word 2 0x09 x.toNat
  | .lred x => word 2 0x0a x.toNat
  | .lscan x => word 2 0x0b x.toNat
  | .mread x => word 2 0x0c x.toNat
  | .mwrite x => word 2 0x0d x.toNat
  | .ld x => word 3 0x00 x.toNat
  | .st x => word 3 0x01 x.toNat
  | .lds x => word 3 0x02 x.toNat
  | .sts x => word 3 0x03 x.toNat
  | .ldv x => word 3 0x04 x.toNat
  | .stv x => word 3 0x05 x.toNat
  | .ldk x => word 3 0x06 x.toNat
  | .atom x => word 3 0x07 x.toNat
  | .acas x => word 3 0x08 x.toNat
  | .atoms x => word 3 0x09 x.toNat
  | .cadd x => word 3 0x0a x.toNat
  | .fenceMem x => word 3 0x0b x.toNat
  | .fenceVault x => word 3 0x0b x.toNat
  | .mon x => word 3 0x0c x.toNat
  | .mwait x => word 3 0x0d x.toNat
  | .pref x => word 3 0x0e x.toNat
  | .cinv x => word 3 0x0f x.toNat
  | .cwb x => word 3 0x10 x.toNat
  | .ntake x => word 4 0x00 x.toNat
  | .npass x => word 4 0x01 x.toNat
  | .mma x => word 4 0x02 x.toNat
  | .mmas x => word 4 0x03 x.toNat
  | .azero x => word 4 0x04 x.toNat
  | .afill x => word 4 0x05 x.toNat
  | .adrain x => word 4 0x06 x.toNat
  | .mepi x => word 4 0x07 x.toNat
  | .mstat x => word 4 0x08 x.toNat
  | .yopen x => word 5 0x00 x.toNat
  | .yclose x => word 5 0x01 x.toNat
  | .ypush x => word 5 0x02 x.toNat
  | .ydrop x => word 5 0x03 x.toNat
  | .cpy x => word 5 0x04 x.toNat
  | .cpyd x => word 5 0x05 x.toNat
  | .gath x => word 5 0x06 x.toNat
  | .scat x => word 5 0x07 x.toNat
  | .kwait x => word 5 0x08 x.toNat
  | .trace x => word 5 0x09 x.toNat
  | .tres x => word 5 0x0a x.toNat
  | .msub x => word 5 0x0b x.toNat
  | .smap x => word 5 0x0c x.toNat
  | .sunmap x => word 5 0x0d x.toNat
  | .bra x => word 6 0x00 x.toNat
  | .bru x => word 6 0x01 x.toNat
  | .brx x => word 6 0x02 x.toNat
  | .call x => word 6 0x03 x.toNat
  | .ret x => word 6 0x04 x.toNat
  | .join x => word 6 0x05 x.toNat
  | .bar x => word 6 0x06 x.toNat
  | .bara x => word 6 0x07 x.toNat
  | .barw x => word 6 0x08 x.toNat
  | .exit x => word 6 0x09 x.toNat
  | .yield x => word 6 0x0a x.toNat
  | .trap x => word 6 0x0b x.toNat
  | .bpt x => word 6 0x0c x.toNat
  | .nop x => word 6 0x0d x.toNat
  | .eret x => word 6 0x0e x.toNat
  | .sysrd x => word 7 0x00 x.toNat
  | .syswr x => word 7 0x01 x.toNat
  | .phint x => word 7 0x02 x.toNat
  | .idem x => word 7 0x03 x.toNat
  | .idemEnd x => word 7 0x03 x.toNat
  | .gset x => word 7 0x04 x.toNat
  | .pfork x => word 7 0x05 x.toNat
  | .penter x => word 7 0x06 x.toNat
  | .pkeep x => word 7 0x07 x.toNat
  | .pfrog x => word 7 0x08 x.toNat
  | .pqry x => word 7 0x09 x.toNat
  | .lline x => word 7 0x0a x.toNat
  | .arbeg x => word 7 0x0b x.toNat
  | .arend x => word 7 0x0c x.toNat
  | .arabt x => word 7 0x0d x.toNat
  | .rpair x => word 7 0x0e x.toNat
  | .rchk x => word 7 0x0f x.toNat
  | .rend x => word 7 0x10 x.toNat
  | .fmap x => word 7 0x11 x.toNat
  | .invpg x => word 7 0x12 x.toNat
  | .launch x => word 7 0x13 x.toNat
  | .emit x => word 7 0x14 x.toNat
  | .recv x => word 7 0x15 x.toNat
  | .qpush x => word 7 0x16 x.toNat
  | .qpop x => word 7 0x17 x.toNat
  | .qtokPut x => word 7 0x18 x.toNat
  | .qtokTake x => word 7 0x18 x.toNat
  | .flip x => word 7 0x19 x.toNat
  | .clauseStart _ _ | .heldWordIssue _ _ | .strandWake _ _ | .opportunisticFusion _ _ _ | .slotFree _ 
  | .resultWriteback _ | .accessPerformed _ | .yarnFillComplete _ | .engineCommandComplete _ 
  | .meOperationComplete _ | .traversalComplete _ | .darnerCommit _ | .deferredEntryIssue _ | .plyReconcile _ _ 
  | .partialEviction _ _ | .monitorSpuriousTrigger _ | .mwaitTimeout _ _ | .watchdog _ _ | .trapTaken _ 
  | .walkStarvation _ | .accessRejectRetry _ | .agedReservation _ | .bankDrowsy _ _ | .queueDispatch _ 
  | .teamPlacement _ | .binLaunch _ _ | .binTimerExpiry _ _ | .doneTokenPut _ | .doneTokenRetry _ 
  | .preemptRequest _ | .promiseBroken _ | .fullSave _ | .teamRestore _ | .hostDoorbell _ _ _ _ _ 
  | .qringWrite _ _ _ _ | .qstatWrite _ _ _ _ | .bincfgWrite _ _ _ | .hankctlWrite _ _ | .waysWrite _ _ 
  | .wayChangeComplete _ | .memcfgWrite _ _ | .shadowPoolWrite _ _ _ | .poolfreeWrite _ _ | .invreqPage _ _ 
  | .invreqAll _ | .migackDone _ _ | .migackRefused _ _ | .trctlLoad _ _ _ | .trctlReset _ _ _ 
  | .traversalLoadComplete _ _ | .traversalContextFault _ _ _ | .headctlWrite _ _ | .vblank _ | .mediaCommand _ 
  | .mediaDoneRetry _ | .hostCoherentRead _ _ _ | .hostCoherentWrite _ _ _ | .hostDirectRead _ _ _ 
  | .hostDirectWrite _ _ _ _ | .fetchadd _ _ _ _ | .swap _ _ _ _ | .cas _ _ _ _ _ | .vfWindowAccess _ _ _ _ 
  | .correctedError | .poison _ _ | .shared _ | .linkfail _ _ | .injselWrite _ _ | .inject _ _ 
  | .injectorDelayExpiry _ | .errbaseWrite _ | .cecountWrite _ | .gaugecWrite _ _ _ | .featackWrite _ 
  | .attctlGo _ | .quoteComplete _ | .registerWrite _ _ | .powerOn | .fundamentalReset | .rom | .floorplan _ 
  | .firmware | .memory _ | .governorEvaluation _ _ _ | .thermalTrip | .powerWrite _ | .debuggerAccess _ _ _ _ 
  | .migheadWrite _ _ | .invalidationComplete _ | .traversalResetComplete _ _ => none

/-- The word of an instruction; none for a machine step. -/
def encode (i : Instr) : Option DWord := (encodeNat i).map (BitVec.ofNat 64)

/-- The instruction the decoder reads from a word whose bits are `w` (every instruction is one 64-bit word, R45; the bits above
`nbits` are zero), none where it refuses or where `w` has more bits than a word. -/
def decodeTableWord (nbits w : Nat) : Option Instr :=
  if nbits ≤ 64 ∧ w < 2 ^ 64 then
    match decodeNat w with
    | .ok i => some i
    | .error _ => none
  else none

end Sys2Proof
end

