-- ==== Sys2Proof/Config.lean ====
section
/-! DEFINITION. What is fixed for the device (00_scope R2, R4; 01 R19), and the free values: opaque constants with no body, of
which no proof can see a value. Each is named in a log entry. -/

namespace Sys2Proof.Config

/-- Rows of the tile array (R4). -/
def rows : Nat := 8
/-- Columns of the tile array (R4). -/
def cols : Nat := 14
/-- Bays of a core (R2). -/
def bays : Nat := 12
/-- Bytes of GDDR 7 (R362). -/
def physBytes : Nat := 96 * 2 ^ 30

/-- Wave slots of a bay by slot class (R19). -/
def slotsPerBay : Nat → Nat
  | 0 => 48
  | 1 => 24
  | _ => 12

/-- Registers per lane by slot class (R19). -/
def regLimit : Nat → Nat
  | 0 => 64
  | 1 => 128
  | _ => 256

/-- Which of the strands with a clause under way issues its next word (R41, R42 and R379 leave the order open beyond a bound), by draw
(log 4). -/
opaque pick : Nat → Nat

/-- A byte of team scratch before its first write (R27): any byte, by team and offset (log 6). -/
opaque scratchInit : Nat → Nat → BitVec 8

/-- How far the device clock advances by one step of the model (R35): any number, by step (log 5). -/
opaque clkAdvance : Nat → Nat

/-- Which of the results inside the accuracy bound an approximated function returns (R110, R233), by function and operand (log 7). -/
opaque approxPick : Nat → BitVec 32 → Nat

/-- Whether an L1 has evicted a line of its own accord before a load that would hit it (R339, R356), by step and line (log 8). -/
opaque evicts : Nat → Nat → Bool

/-- The set of its L1 or L2 slice that a line falls in, by line (R350 and R356 give the number of sets, not the rule; log 8). -/
opaque l1Set : Nat → Nat
opaque l2Set : Nat → Nat

/-- Which line of a full set the pseudo-LRU replacement evicts (R356 does not give the order), by draw (log 8). -/
opaque victim : Nat → Nat

/-- Which of the translations that may still be held an access uses before its invalidation completes (R388), by step and page; 0 is the
entry in memory (log 27). -/
opaque oldEntry : Nat → Nat → Nat

/-- Whether a word issues in the cycle in which the wave's word before it issued (R117, R379), by step (log 4). -/
opaque sameCycle : Nat → Bool

/-- The value an RPAIR of a trailer gives a lane for which the leader sent none (R271), by draw (log 15). -/
opaque rpairMissing : Nat → BitVec 32

/-- What a ray with an infinite origin or direction component hits among the triangles that R399 does not skip (it solves finite inputs only):
t, packed u and v, and which triangle, or none; by the eight ray words and the root (log 16). -/
opaque rayOpen : List (BitVec 32) → BitVec 64 → Option (BitVec 32 × BitVec 32 × Nat)

/-- Which free 4 KiB granule of the context pool a saved team's block takes (R383 gives no place), by draw (log 21). -/
opaque ctxPick : Nat → Nat

/-- Which free place of its bin's store an emitted record takes (R376 gives no place), by draw (log 21). -/
opaque binPick : Nat → Nat

/-- The bytes of a barrier's state in a team block (R331 gives no layout), by draw (log 21). -/
opaque barrierImage : Nat → Nat → BitVec 8

/-- What a media codec answers (R404, R406), by command block, the data it reads and draw: whether the stream is good, or the output fits;
the bytes it consumes or writes; the output; and what it writes into the session area, by offset (log 14). -/
opaque codecGood : List (BitVec 8) → List (BitVec 8) → Nat → Bool
opaque codecCount : List (BitVec 8) → List (BitVec 8) → Nat → Nat
opaque codecOutput : List (BitVec 8) → List (BitVec 8) → Nat → Nat → BitVec 8
opaque codecSession : List (BitVec 8) → List (BitVec 8) → Nat → List (Nat × BitVec 8)

/-- Whether a decode command's stream has the profile, chroma format and level that its block names (R404), by command block and data (log 14). -/
opaque codecFits : List (BitVec 8) → List (BitVec 8) → Bool

/-- The line that a head scans when an immediate flip changes its surface (R418), by draw (log 22). -/
opaque scanLine : Nat → Nat

/-- How many of a faulting command's output pieces are written (R406: "output partial"), by draw (log 14). -/
opaque codecPartial : Nat → Nat

/-- Length of the firmware image in flash and the place of its SVN, which R434 does not give (log 12). -/
opaque fwSize : Nat
opaque fwSvnAt : Nat

/-- The vendor key hash in mask ROM (R433; log 12). -/
opaque vendorKeyHash : List (BitVec 8)

/-- Whether the platform raises its rollback counter when asked (R435), by draw (log 9). -/
opaque raisesCounter : Nat → Bool

/-- KIND, ADDR and INFO of the record of a thermal trip, which R428 does not give (log 23). -/
opaque tripKind : Nat
opaque tripAddr : BitVec 64
opaque tripInfo : BitVec 64

/-- Whether a signature verifies: key, message, signature (R434, R435; log 12). -/
opaque sigValid : List (BitVec 8) → List (BitVec 8) → List (BitVec 8) → Bool
/-- A signature made with the device's private key: key, message (R439; log 12). -/
opaque sigMake : List (BitVec 8) → List (BitVec 8) → List (BitVec 8)
/-- The SHA3-256 digest of a message (R434; log 12). -/
opaque sha3 : List (BitVec 8) → List (BitVec 8)
/-- The start-up pattern of the reserved SRAM as its helper data corrects it, none when the correction fails (R436; log 12). -/
opaque pufCorrect : List (BitVec 8) → List (BitVec 8) → Option (List (BitVec 8))
/-- The public and the private key that ML-DSA-44 generates from a seed (R436; log 12). -/
opaque keyGen : List (BitVec 8) → List (BitVec 8) × List (BitVec 8)
/-- Where the control-store images of the fixed units lie in flash, each by place and length (R434; log 12). -/
opaque storeImages : List (Nat × Nat)

end Sys2Proof.Config
end

