-- ==== Sys2Proof/Machine/State.lean ====
section
/-! DEFINITION. The state of the G96 as plain data (01_execution_model R27 and the register tables of 18 to 24), the reasons a
step can stop, and the state after reset. -/

namespace Sys2Proof.Machine

/-- The causes a fault reports (13 R313). -/
inductive Cause where
  | clauseForm | codePageFault | codeProtection | illegalOp | illegalField | divergentAccess | needle
  | trapInsn | breakpoint | desc | streamDesync | sparseMeta | scaleSign | misalign | pageFault | protection
  | versionEscape | shadowFull | logFull | gauge | uncorrectable | migrated | watchdog
deriving DecidableEq, Repr

/-- `%finfo`.SPACE (13 R315). -/
inductive Space where
  | none | global | scratch | vault | param | code | node | record
deriving DecidableEq, Repr

/-- One lane's fault at a word (R184, R315). `detail` is `%finfo`.DETAIL, or CODE for TRAP and BPT. -/
structure LaneFault where
  lane : Nat
  cause : Cause
  addr : DWord
  wr : Bool
  space : Space
  detail : Nat
deriving DecidableEq, Repr

/-- The issue ports of a clause (R47). -/
inductive Port where
  | v | m | x | k | s
deriving DecidableEq, Repr

/-- The clause state of a strand inside a clause (R53): port and word count of its header, the flag token it raised, the done mask. -/
structure Clause where
  port : Port
  count : Nat
  tok : Nat
  done : BitVec 16
deriving DecidableEq, Repr

/-- What a strand parked at a header, or at a word whose registers are pending, waits for (R40): the WAIT flags, a flag of SETA or SETB that
is full (R31), pending registers (R67), stages of yarns (R227), the values of an RPAIR (R271); `no` is no wait. -/
inductive Wait where
  | no | flags | full | pending | stages | values
deriving DecidableEq, Repr

/-- Why a strand is parked (R40). -/
inductive Park where
  | none
  /-- Lanes that faulted at the word (R53), with bits 63:54 of the word. -/
  | fault (opc : Nat) (fs : List LaneFault)
  /-- On what its next clause waits for (R40, R67). -/
  | wait (k : Wait)
  /-- A word that holds at issue (R79); the stamp is `progress` at the park. -/
  | hold (stamp : Nat)
  /-- A class B word whose wait is checked again (R79); the stamp is `progress` at the park, `setb` says that it counts towards SETB (R80). -/
  | block (stamp : Nat) (setb : Bool)
  /-- At a JOIN: its word address, and the mask it read (R192). -/
  | join (j : DWord) (m : Mask)
  /-- At BAR: level, ID and the phase its lanes recorded (R198). -/
  | bar (level id phase : Nat)
  /-- At BARW: level and ID (R198). -/
  | barw (level id : Nat)
  /-- In the needle FIFO (R225). -/
  | needle
  /-- At an MWAIT (R180). -/
  | mwait
  /-- On host-owned pages (R164): each lane with the access that waits, as the fault it raises when the page is refused (R321). -/
  | migrate (fs : List LaneFault)
  /-- At a PKEEP whose deferred effects are being issued (R248), with the register and the lanes that its status goes to. -/
  | keep (d : Nat) (m : Mask)
  /-- At an RCHK, with the register map of its record (R272). -/
  | check (map : BitVec 256)
  /-- At the REND of a trailer (R273). -/
  | rend
deriving DecidableEq, Repr

/-- A strand (R11, R53): number, mask, header address, clause state when inside a clause, parking, and whether it is a handler's. -/
structure Strand where
  num : Nat
  mask : Mask
  pc : DWord
  clause : Option Clause
  park : Park
  handler : Bool
deriving DecidableEq, Repr

/-- A clause whose SETA or SETB flag has not dropped yet (R31, R48). -/
structure Token where
  id : Nat
  seta : Option Nat
  setb : Option Nat
deriving DecidableEq, Repr

/-- The paths the counters count (R160, R220). -/
inductive Path where
  | g | w | s | y | v
deriving DecidableEq, Repr

/-- The state of a queued stage (R204); a poisoned stage carries its source. -/
inductive StageState where
  | filling | filled | poisoned (src : Nat)
deriving DecidableEq, Repr

/-- One stage of a yarn (R204), with the 16-byte granules of its yarn buffer that hold poison, each with its source (R420, R421). -/
structure Stage where
  seq : BitVec 16
  st : StageState
  data : Bytes
  marks : List (Nat × Nat)
deriving DecidableEq, Repr

/-- A yarn (R204): closed, or open with its descriptor's eight words. -/
structure Yarn where
  isOpen : Bool
  desc : Vector DWord 8
  seq : BitVec 16
  pushed : Nat
  popped : Nat
  stages : List Stage
deriving DecidableEq, Repr

/-- What TRACE read from its operands (R285): the ply, the lanes, their rays, root, table, control, count. -/
structure TraceArgs where
  ply : Nat
  mask : Mask
  rays : Vector (Vector Word 8) 8
  root : DWord
  table : DWord
  ctl : Word
  count : Nat
deriving DecidableEq, Repr

/-- A ray slot (R285, R286): the last TRACE, whether its traversal has finished, whether each lane's four result registers and faults are
known, and the lanes whose rays a TRES after a trap traces again. -/
structure RaySlot where
  args : Option TraceArgs
  finished : Bool
  known : Bool
  again : Mask
  result : Vector (Vector Word 4) 8
  faults : List LaneFault
deriving DecidableEq, Repr

/-- A symbolic tag of a register in a lane (R255). -/
structure Tag where
  reg : Nat
  lane : Nat
  slot : Nat
  c : Word
deriving DecidableEq, Repr

/-- A line an atomic region tracks (R254), the ply in which its accesses issued (R243), and whether another agent has changed the version that
this ply reads (R257). -/
structure Tracked where
  line : Nat
  ply : Nat
  changed : Bool
deriving DecidableEq, Repr

/-- One lane's part of a constraint (R256). `lhs` says the tagged operand is A. -/
structure LaneCond where
  idx : Nat
  lane : Nat
  slot : Nat
  c : Word
  cond : Nat
  unsigned : Bool
  lhs : Bool
  other : Word
  result : Bool
deriving DecidableEq, Repr

/-- A store of the region in program order (R254, R255), with the ply in which it issued (R243): plain bytes, or symbolic with slot and constant. -/
structure RegionStore where
  va : Nat
  pa : Nat
  ply : Nat
  lane : Nat
  data : Bytes
  sym : Option (Nat × Word)
deriving DecidableEq, Repr

/-- An open atomic region (R253-R256): its strand, and whether that is a handler's; the strand's lanes once AREND has sent it to the darners;
the fallback; what it tracks and has buffered. A slot holds lane, virtual address, physical address and ply of each of its loads. -/
structure Region where
  strand : Nat
  handler : Bool
  lanes : Mask
  fallback : DWord
  lines : List Tracked
  stores : List RegionStore
  tags : List Tag
  slots : List (List (Nat × Nat × Nat × Nat))
  conds : List LaneCond
  nConds : Nat
  nSyms : Nat
  committing : Bool
deriving DecidableEq, Repr

/-- An open idempotent region (R266, R267): its lanes, those whose registers it copied, and the poison of the copies (R421: register, lane div 4,
source). -/
structure Idem where
  lanes : Mask
  copied : Mask
  entry : DWord
  regmap : BitVec 256
  saved : List (Nat × Row)
  marks : List (Nat × Nat × Nat)
  restarts : Nat
deriving DecidableEq, Repr

/-- The wave slot's trap entry (R316, R319): the strands set aside, whether the access thread faulted, the lanes delivered, bits 63:32 of
the faulting word's address (R315), the lanes that have returned to their set-aside strands while other lanes of an access thread's
handler remain, and whether the access thread has had its answer: it goes on at the first ERET, and a fault of its own after that waits. -/
structure TrapEntry where
  aside : List Strand
  isAccess : Bool
  mask : Mask
  hi : Word
  back : Mask
  served : Bool
deriving DecidableEq, Repr

/-- The handler registers (R33, R315). -/
structure TrapRegs where
  fcause : Word
  fmask : Word
  fpc : Word
  faddrlo : Word
  faddrhi : Word
  finfo : Word
deriving DecidableEq, Repr

/-- The wave's monitor (R179): the watched physical line and its trigger. -/
structure Monitor where
  line : Nat
  triggered : Bool
deriving DecidableEq, Repr

/-- A lane's last arrival at a barrier (R197). -/
structure Arrival where
  level : Nat
  id : Nat
  lane : Nat
  phase : Nat
deriving DecidableEq, Repr

/-- The access thread of a wave (R21, R22). -/
structure AccessThread where
  strand : Strand
  regs : Vector Row 32
  affine : List Nat
  ended : Bool
deriving DecidableEq, Repr

/-- The life of a wave (R12, R44, R200, R329). -/
inductive Phase where
  | live | saved | retired | gone
deriving DecidableEq, Repr

/-- A saved accumulator set with the MSTAT flags (R26) and its poison: tile, row, column div 4, source. -/
structure MeImage where
  accs : Vector (Vector (Vector Word 32) 8) 4
  mstat : BitVec 6
  poison : List (Nat × Nat × Nat × Nat)
deriving DecidableEq, Repr

/-- What a save keeps beside the wave itself (R326, R330): the record it was made under, with its scratch ranges, and the ME image of a
needle holder. -/
structure Image where
  record : Option Nat
  ranges : List (Nat × Nat)
  me : Option MeImage
deriving DecidableEq, Repr

/-- A pre-emption request of a wave (R264, R325): none; pending; a hint taken, with its record's number and bytes; a full save begun. -/
inductive Preempt where
  | none | asked | hint (n : Nat) (bs : Bytes) | full
deriving DecidableEq, Repr

/-- What the registers of a wave held before the word that strand `n` issued last (R117, R153): another strand's word of the same cycle reads
it. `port` is the port on which that word issued (R46), `stamp` is `progress` after it; the latch counts only while no other step has come
between. -/
structure Latch where
  n : Nat
  port : Port
  stamp : Nat
  regs : Vector Row 256
  affine : List Nat
  fcr : BitVec 9
deriving DecidableEq, Repr

/-- A wave (R10, R27): its identity is its index in `State.waves`; `more` is the strand that the last trap
left parked under MORE (R315, R317); `finish` lists, while a trap is pending, the strands that finish their clause before it is taken (R314);
`ctx` is the place of its context in the context pool (R330, R383). -/
structure Wave where
  phase : Phase
  launch : Nat
  team : Nat
  hank : Nat
  core : Nat
  bay : Nat
  slot : Nat
  waveid : Word
  lvl : Vector Word 8
  ext : Vector Word 8
  kptr : DWord
  nregs : Nat
  regs : Vector Row 256
  affine : List Nat
  drowsy : List Nat
  strands : List Strand
  exited : Mask
  flags : Vector (BitVec 4) 12
  tokens : List Token
  nextTok : Nat
  ply : Nat
  fcr : BitVec 9
  ars : Word
  rpstat : Word
  gst : BitVec 16
  clkLatch : Option Word
  trapRegs : TrapRegs
  trap : Option TrapEntry
  more : Option Nat
  finish : Option (List Nat)
  monitor : Option Monitor
  yarns : Vector Yarn 8
  access : Option AccessThread
  rays : Vector RaySlot 8
  region : Option Region
  idem : Option Idem
  arrivals : List Arrival
  pair : Option Nat
  preempt : Preempt
  clauseCount : Vector Nat 8
  image : Option Image
  ctx : Nat
  latch : Option Latch
deriving DecidableEq, Repr

/-- A bay's matrix engine and needle (R25, R27, R225, R382). -/
structure Bay where
  core : Nat
  bay : Nat
  holder : Option Nat
  fifo : List Nat
  accs : Vector (Vector (Vector Word 32) 8) 4
  mstat : BitVec 6
deriving DecidableEq, Repr

/-- A marker of a core's range scoreboard (R221): granules of a team's scratch. -/
structure Marker where
  core : Nat
  team : Nat
  lo : Nat
  hi : Nat
  wr : Bool
  flight : Nat
deriving DecidableEq, Repr

/-- A result waiting to be written (R66). -/
structure RegResult where
  reg : Nat
  lane : Nat
  val : Word
deriving DecidableEq, Repr

/-- What an operation in flight is. -/
inductive FlightKind where
  | access | engine | fill (y : Nat) (seq : BitVec 16) (poison : Option Nat) | me | trace (slot : Nat) | tres | commit | clock
  | deferred
deriving DecidableEq, Repr

/-- An operation that issued and has not completed (R32, R48, R66, R299): the registers it keeps pending with their values, whether its
results wait to be written, whether it waits to be performed, the path whose counter it raised (counters fall in issue order, so a returned
operation stays listed until the earlier ones of its path have returned), the ply it acts in; the physical lines it reaches, which an engine
command owns until it is performed (R301, R357), and those that an engine command only reads; the lines that its L1 slice had to fetch, each
with the slice's tile, and those that their L2 home slice had to fetch, each with the home tile; how often it has been rejected while it
waits for miss-status entries (R356, R381), whether its entries of the L1 slice are reserved ones; and the tile from which the response for
a line comes to its core, where that is not the home tile (R355): by line the L1 slice's, by 0 the tile below a vault that it reads. -/
structure Flight where
  id : Nat
  wave : Nat
  isAccess : Bool
  tok : Option Nat
  kind : FlightKind
  path : Option Path
  regs : List Nat
  res : List RegResult
  wb : Bool
  perf : Bool
  ply : Nat
  lines : List Nat
  reads : List Nat
  miss : List (Nat × Nat)
  homeMiss : List (Nat × Nat)
  rejected : Option Nat
  aged : Bool
  route : List (Nat × Nat)
deriving DecidableEq, Repr

/-- One non-root version of a line (R295): hank, ply, physical line number, 128 bytes, and whether the root line of its page may stay
dirty in a cache (R387), which a keep into the root needs. -/
structure Version where
  hank : Nat
  ply : Nat
  line : Nat
  data : Bytes
  cached : Bool
deriving DecidableEq, Repr

/-- A partial-sum line (R177): cluster, physical line, CFMT, GIDX and hank of its page, whether the page's root lines may stay dirty in a cache
(R387), 128 bytes. -/
structure Partial where
  cluster : Nat
  line : Nat
  fmt : Nat
  gidx : Nat
  hank : Nat
  cached : Bool
  data : Bytes
deriving DecidableEq, Repr

/-- A line whose GDDR 7 bytes differ from the home copy (R182, R387). -/
structure Stale where
  line : Nat
  data : Bytes
  dirty : Bool
deriving DecidableEq, Repr

/-- A corrupted copy of a line in a cluster's L1 (R339, R430). -/
structure Corrupt where
  cluster : Nat
  line : Nat
  data : Bytes
deriving DecidableEq, Repr

/-- A line that an L1 slice holds (R350, R354, R356): its cluster, the hank that filled it, its ply (0: a root line), the loads a counted
line still expects (R162, R358; 0: not counted), whether the cluster owns it. -/
structure L1Line where
  cluster : Nat
  hank : Nat
  ply : Nat
  line : Nat
  count : Nat
  owned : Bool
deriving DecidableEq, Repr

/-- A line that an L2 home slice or the Skein cache of a vault holds (R350, R354, R360): the hank in whose ways it lies, its ply (0: a root
line). -/
structure CacheLine where
  hank : Nat
  ply : Nat
  line : Nat
deriving DecidableEq, Repr

/-- A translation that a TLB may hold (R388): the page (its number, and the number's lowest address bit), the leaf and where it lies. -/
structure TlbEntry where
  page : Nat
  sh : Nat
  pte : DWord
  loc : Nat
deriving DecidableEq, Repr

/-- A deferred effect (R247). Lanes carry lane number, virtual address and operands. -/
inductive LogKind where
  | flip (surf : DWord) (ctl : Word)
  | qpush (desc payload : DWord) (npages : Nat)
  | atom (aop avar size scope : Nat) (lanes : List (Nat × DWord × DWord))
  | acas (size scope : Nat) (lanes : List (Nat × DWord × DWord × DWord))
  | msub (blk : DWord) (sq : Nat)
deriving DecidableEq, Repr

/-- An entry of a ply's log with the ply in which it issued (R247, R428), and the operation that it performs (R299). -/
structure LogEntry where
  kind : LogKind
  ply : Nat
  flight : Nat
deriving DecidableEq, Repr

/-- A live ply (R236, R249): number, parent, depth, lifeline range (base, length), deferred-effect log. -/
structure Ply where
  num : Nat
  parent : Nat
  depth : Nat
  life : Option (Nat × Nat)
  log : List LogEntry
deriving DecidableEq, Repr

/-- A gauge (R268, R424). -/
structure Gauge where
  lo : Word
  hi : Word
  type : Nat
  mode : Nat
  fails : Nat
deriving DecidableEq, Repr

/-- A launch bin (R375-R378): its template and the records it holds in arrival order, each by its time and its place in the bin's store. -/
structure Bin where
  num : Nat
  template : Vector DWord 16
  recs : List (Nat × Nat)
deriving DecidableEq, Repr

/-- A migration request (R392): the page (its number and the lowest address bit of the number: 16, 29 or 42, R384), whether a parked access
writes, request number, whether its entry is in the ring. -/
structure MigRequest where
  page : Nat
  sh : Nat
  wr : Bool
  seq : Nat
  written : Bool
deriving DecidableEq, Repr

/-- A scratch window (R288): number, team, offset, length, read-only. -/
structure Window where
  num : Nat
  team : Nat
  off : Nat
  len : Nat
  ro : Bool
deriving DecidableEq, Repr

/-- A traversal context (R401), with the cores whose unit has lost it (R403). -/
structure TrContext where
  loaded : Bool
  busy : Bool
  badImg : Bool
  fault : Bool
  ndrop : Nat
  image : DWord
  loading : Bool
deriving DecidableEq, Repr

/-- The keep that holds a version directory (R241, R244): its target ply, the wave and strand of its PKEEP, whether it frogs siblings, and whether
it has merged the ply already and waits for its deferred effects (R248). -/
structure Keep where
  target : Nat
  wave : Nat
  strand : Nat
  sib : Bool
  merged : Bool
deriving DecidableEq, Repr

/-- A hank (R407): its control block and what its units hold. `keeper` is the keep that holds the directory, `dirQueue` the words that wait
behind it, in order of arrival, each by wave, strand and word address (R241). `refusing` is the page whose refusal by the host is being
acted on (R393). `tlb` holds the translations that its TLBs may hold (R388), `nodes` the table nodes that its walk caches may hold, each
under the number of the range it covers and that number's lowest address bit. `moves` holds the pages on which a write was held by WP
(R394). -/
structure Hank where
  ctl : RegFile
  gauges : Vector Gauge 16
  plies : List Ply
  recon : List (Nat × Nat)
  keeper : Option Keep
  dirQueue : List (Nat × Nat × Nat)
  draining : List LogEntry
  bins : List Bin
  taken : List Nat
  inv : List (Option Nat)
  migr : List MigRequest
  migSeq : Nat
  refusing : Option (Nat × Nat)
  tlb : List TlbEntry
  nodes : List (Nat × Nat × Nat)
  moves : List (Nat × Nat)
  windows : List Window
  ctxs : Vector TrContext 8
  wayBusy : Bool
  rrobin : Vector Nat 4
deriving DecidableEq, Repr

/-- Whether a team or wave is a pair's leader, a pair's trailer, or neither (R270). -/
inductive Role where
  | single | leader | trailer
deriving DecidableEq, Repr

/-- The life of a team (R16, R329, R373). -/
inductive TeamPhase where
  | placed | saved | ended
deriving DecidableEq, Repr

/-- A team or placement unit (R16): its launch, linear index, role, the cores of its slices, slice size in KiB, the scratch
bytes written so far, whether a restore zeroed the others (R329), the records RECV returns, placement order, and its block of the
context pool (offset, length) from the request of its pre-emption on (R383). -/
structure Team where
  launch : Nat
  index : Nat
  hank : Nat
  role : Role
  phase : TeamPhase
  wide : Bool
  cores : List Nat
  sliceKib : Nat
  scratch : Sparse Byte
  zeroed : Bool
  recs : List Bytes
  recLen : Nat
  order : Nat
  ctx : Option (Nat × Nat)
deriving DecidableEq, Repr

/-- A barrier of a group (R196, R197). -/
structure Barrier where
  launch : Nat
  level : Nat
  group : Nat
  id : Nat
  trailer : Bool
  count : Nat
  phase : Nat
deriving DecidableEq, Repr

/-- The life of a launch (R368, R371). -/
inductive LaunchPhase where
  | pending | running | ended
deriving DecidableEq, Repr

/-- A launch (R369-R371): its record, its queue (none for a bin), the teams placed so far, the bin records. -/
structure Launch where
  hank : Nat
  queue : Option (Nat × Nat)
  bin : Option Nat
  record : Vector DWord 16
  phase : LaunchPhase
  nextTeam : Nat
  nabort : Nat
  reason : Nat
  recs : List Bytes
deriving DecidableEq, Repr

/-- A completion value waiting for its cell (R371). -/
structure Done where
  hank : Nat
  queue : Nat × Nat
  launch : Nat
  value : DWord
  cell : DWord
  held : Bool
deriving DecidableEq, Repr

/-- A signature (R337). -/
structure Sig where
  addr : DWord
  crc : Word
deriving DecidableEq, Repr

/-- A pair's checkpoint in one wave (R272): named registers with their poison (R421), live lanes, restart point. -/
structure Checkpoint where
  regs : List (Nat × Row)
  marks : List (Nat × Nat × Nat)
  lanes : Mask
  pc : DWord
deriving DecidableEq, Repr

/-- A redundant pair (R270-R273, R337, R425). `fork` says that two sibling plies are still to be forked (R272), and whether the waves
go back to their checkpoint. -/
structure Pair where
  hank : Nat
  leader : Nat
  trailer : Nat
  plyL : Nat
  plyT : Nat
  parent : Nat
  sigL : List Sig
  sigT : List Sig
  nchk : Nat
  retry : Nat
  ckL : Checkpoint
  ckT : Checkpoint
  vals : List (List (Nat × Word))
  rendL : Bool
  rendT : Bool
  fork : Option Bool
  active : Bool
deriving DecidableEq, Repr

/-- A display head (R417, R418): the timing values in effect, the flip queue (surface, IMM), SHOWN, CURSURF. -/
structure Head where
  regs : RegFile
  eff : Vector DWord 6
  flips : List (DWord × Bool)
  shown : Nat
  curSurf : DWord
deriving DecidableEq, Repr

/-- A queued media command (R405): the issuing hank and the block's address. -/
structure MediaCmd where
  hank : Nat
  blk : DWord
deriving DecidableEq, Repr

/-- A media sequencer (R404, R406): its queue, the completion waiting for its DONE cell (hank, cell, value), and whether an uncorrectable error
has struck its control store, which SYSC reloads after the command that it ends (R420). -/
structure Sequencer where
  queue : List MediaCmd
  done : Option (Nat × DWord × DWord)
  lost : Bool
deriving DecidableEq, Repr

/-- What the outside sees (R411-R414, R439): a read completion (EP set when poisoned), Unsupported Request, an MSI-X message, a write to
host memory; and what a head sends on its link for a frame, or for the rest of one after an immediate flip (R416, R418): the sixteenths of a bit
that a pixel takes there, and the pixels row by row. -/
inductive HostOut where
  | data (bs : Bytes) (ep : Bool)
  | ur
  | msix (fn vec : Nat)
  | busWrite (addr : Nat) (bs : Bytes)
  | frame (head bits : Nat) (rows : List (List Nat))
deriving DecidableEq, Repr

/-- The reliability block's own counters (R427), its registers being in `rel`; the flits that injectors hold (R430): the injector and
the load whose response it is; and how many matching flits each injector has counted since it was armed (R429). -/
structure ErrState where
  tail : Nat
  lost : Nat
  seq : Nat
  delayed : List (Nat × Option Nat)
  counts : Vector Nat 32
deriving DecidableEq, Repr

/-- What SYSC found at boot (R433-R437; the device's public and private key, R436), the attestation mailbox (R439), and what POWER shows
(R442), with the thermal hold (R441). -/
structure Sysc where
  stage : Nat
  halt : Nat
  enmask : BitVec 28
  features : DWord
  featack : DWord
  stepping : Word
  devkey : Bytes
  devpriv : Bytes
  fpDigest : Bytes
  fwDigest : Bytes
  vendorKey : Bytes
  fpSvn : Nat
  fwSvn : Nat
  rollback : Nat
  nonce : Bytes
  attctl : DWord
  attstat : Nat
  amhz : Nat
  watts : Nat
  temp : Nat
  throt : Bool
  hold : Bool
deriving DecidableEq, Repr

/-- The board's objects (R433-R436): flash, the platform's rollback counter, PUF helper data; and the start-up pattern of the part's reserved
SRAM. -/
structure Board where
  flash : Memory
  counter : Nat
  helper : Bytes
  sram : Bytes
deriving DecidableEq, Repr

/-- A strand of a wave (8 for the access thread) with a clause under way. -/
structure IssueRef where
  w : Nat
  n : Nat
deriving DecidableEq, Repr

/-- The state of the G96: the schedule (`inbox`, `running`, `progress`, `turn`, `timedTurn`, `fresh` are the model's own), memory, waves, the units, the
hanks and the device blocks. -/
structure State where
  inbox : List Instr
  running : List IssueRef
  progress : Nat
  turn : Nat
  timedTurn : Nat
  fresh : Nat
  clock : Nat
  mem : Memory
  stale : List Stale
  vault : Sparse Byte
  versions : List Version
  partials : List Partial
  poison : List (Granule × Nat)
  poisonTable : List Nat
  corrupt : List Corrupt
  l1 : List L1Line
  l2 : List CacheLine
  skein : List CacheLine
  waves : List Wave
  bays : List Bay
  markers : List Marker
  flights : List Flight
  nextFlight : Nat
  perf : Sparse DWord
  teams : List Team
  barriers : List Barrier
  launches : List Launch
  dones : List Done
  pairs : List Pair
  hanks : Vector Hank 8
  heads : Vector Head 4
  media : Vector Sequencer 2
  rel : RegFile
  err : ErrState
  sysc : Sysc
  board : Board
  gated : Bool
  host : List HostOut
deriving DecidableEq, Repr

/-- Reasons the model's machine stops; each is safe, since the hardware either takes no such step or the spec gives no effect. -/
inductive Fault where
  /-- Raised by a word's meaning when no strand or access thread is at a word; no run reaches it (safe). -/
  | noIssue
  /-- Raised by an access to a physical address beyond the 96 GiB of GDDR 7 (R362), which does not exist (safe). -/
  | physicalHole (pa : Nat)
deriving DecidableEq, Repr

/-- Reasons the model gives an instruction no meaning. -/
inductive Refusal where
  /-- Raised by an arm of exec that has no meaning yet (safe). -/
  | notModelled (mnemonic : String)
deriving DecidableEq, Repr

/-- A closed yarn (R204). -/
def Yarn.closed : Yarn :=
  { isOpen := false, desc := Vector.replicate 8 0, seq := 0, pushed := 0, popped := 0, stages := [] }

/-- A ray slot that was never traced (R286). -/
def RaySlot.empty : RaySlot :=
  { args := none, finished := true, known := true, again := 0, result := Vector.replicate 8 (Vector.replicate 4 0), faults := [] }

/-- A gauge after reset: MODE off (R268). -/
def Gauge.off : Gauge := { lo := 0, hi := 0, type := 0, mode := 0, fails := 0 }

/-- The root ply (R236). -/
def Ply.root : Ply := { num := 0, parent := 0, depth := 0, life := none, log := [] }

/-- A traversal context after reset (R401). -/
def TrContext.reset : TrContext :=
  { loaded := false, busy := false, badImg := false, fault := false, ndrop := 0, image := 0, loading := false }

/-- A hank after reset: HANKCTL has QUIESCE set (R407), every other register 0. -/
def Hank.reset : Hank :=
  { ctl := [(0, 1)], gauges := Vector.replicate 16 Gauge.off, plies := [Ply.root], recon := [], keeper := none, dirQueue := [],
    draining := [], bins := [], taken := [], inv := [], migr := [], migSeq := 0, refusing := none, tlb := [], nodes := [], moves := [], windows := [],
    ctxs := Vector.replicate 8 TrContext.reset, wayBusy := false, rrobin := Vector.replicate 4 0 }

/-- A head after reset (R417). -/
def Head.reset : Head :=
  { regs := [], eff := Vector.replicate 6 0, flips := [], shown := 0, curSurf := 0 }

/-- SYSC after power-on: STAGE 0 (R431). -/
def Sysc.reset : Sysc :=
  { stage := 0, halt := 0, enmask := 0, features := 0x1F, featack := 0, stepping := 0, devkey := [], devpriv := [], fpDigest := [],
    fwDigest := [], vendorKey := [], fpSvn := 0, fwSvn := 0, rollback := 0, nonce := List.replicate 32 0, attctl := 0,
    attstat := 0, amhz := 0, watts := 0, temp := 0, throt := false, hold := false }

/-- The machine right after reset: STAGE 0, every register at its reset value, nothing resident. -/
def State.reset : State :=
  { inbox := [], running := [], progress := 0, turn := 0, timedTurn := 0, fresh := 0, clock := 0, mem := [], stale := [], vault := [],
    versions := [], partials := [], poison := [], poisonTable := [], corrupt := [], l1 := [], l2 := [], skein := [], waves := [], bays := [], markers := [],
    flights := [], nextFlight := 0, perf := [], teams := [], barriers := [], launches := [], dones := [], pairs := [],
    hanks := Vector.replicate 8 Hank.reset, heads := Vector.replicate 4 Head.reset,
    media := Vector.replicate 2 { queue := [], done := none, lost := false }, rel := [],
    err := { tail := 0, lost := 0, seq := 0, delayed := [], counts := Vector.replicate 32 0 },
    sysc := Sysc.reset, board := { flash := [], counter := 0, helper := [], sram := [] }, gated := false, host := [] }

end Sys2Proof.Machine
end

