-- ==== Sys2Proof/Machine/Mem.lean ====
section
/-! DEFINITION. The state's parts by name, the ply tree as memory sees it (10 R236, R237), physical memory and its versions
(12 R294, R295), poison (23 R421), gauges (11 R268, R269), partial sums (07 R177), the page walk (20 R384-R390), scratch
(07 R166), vault memory (R169) and the error ring (23 R427). -/

namespace Sys2Proof.Machine

/-! ### Parts of the state -/

/-- Changes one wave. -/
def modWave (s : State) (w : Nat) (f : Wave → Wave) : State := { s with waves := s.waves.modify w f }

/-- A hank (there are eight, R407). -/
def hankOf (s : State) (h : Nat) : Hank := s.hanks[h]?.getD Hank.reset

/-- Changes one hank. -/
def modHank (s : State) (h : Nat) (f : Hank → Hank) : State :=
  { s with hanks := s.hanks.setIfInBounds h (f (hankOf s h)) }

/-- A register of a hank's control block (R407). -/
def hreg (s : State) (h off : Nat) : DWord := (hankOf s h).ctl.read off

/-- Sets a register of a hank's control block. -/
def setHreg (s : State) (h off : Nat) (v : DWord) : State := modHank s h fun k => { k with ctl := k.ctl.set off v }

/-- Changes one team. -/
def modTeam (s : State) (t : Nat) (f : Team → Team) : State := { s with teams := s.teams.modify t f }

/-- The cluster id of a core numbered 14·row + col (R3). -/
def clusterOf (core : Nat) : Nat := core / 14 / 2 * 7 + core % 14 / 2

/-- Whether a cluster is enabled (R4, R433). -/
def clusterEnabled (s : State) (c : Nat) : Bool := decide (c < 28) && s.sysc.enmask.getLsbD c

/-- Whether a core belongs to a hank (R407). -/
def coreInHank (s : State) (h core : Nat) : Bool :=
  decide (core < 112) && clusterEnabled s (clusterOf core) && (hreg s h 0x008).getLsbD (clusterOf core)

/-- The hank's slot class (R19, R407): HANKCTL.SLOT. -/
def slotClass (s : State) (h : Nat) : Nat := bitsN (hreg s h 0).toNat 4 3

/-! ### The ply tree -/

/-- A live ply other than the root, by number; the root is ply 0. -/
def plyOf? (k : Hank) (p : Nat) : Option Ply := k.plies.find? fun y => y.num == p

/-- Whether a ply is live (R236). -/
def isLive (k : Hank) (p : Nat) : Bool := (plyOf? k p).isSome

/-- The plies from `p` up to, and without, the root; no ply is deeper than 8 (R236). -/
def lineage (k : Hank) : Nat → Nat → List Nat
  | 0, _ => []
  | n + 1, p =>
    if p = 0 then []
    else match plyOf? k p with
      | none => []
      | some y => p :: lineage k n y.parent

/-- The path of a ply to the root, the root left out. -/
def pathOf (k : Hank) (p : Nat) : List Nat := lineage k 9 p

/-- Whether `q` is `p` or an ancestor of it (R243, R244). -/
def isUp (k : Hank) (p q : Nat) : Bool := q == 0 || (pathOf k p).contains q

/-- The live children of a ply. -/
def childrenOf (k : Hank) (p : Nat) : List Ply := k.plies.filter fun y => y.num != 0 && y.parent == p

/-- Whether a lifeline's range covers an address; a ply without a range covers every address (R250). -/
def covers (y : Ply) (va : Nat) : Bool :=
  match y.life with
  | none => true
  | some (b, l) => decide (b ≤ va ∧ va < b + l)

/-- The ply that a store of ply `p` to an address writes (R163, R250). -/
def storePly (k : Hank) (p va : Nat) : Nat :=
  ((pathOf k p).find? fun q => match plyOf? k q with | some y => covers y va | none => false).getD 0

/-! ### Versions -/

/-- The 128-byte line of a physical address (R350). -/
def lineOf (pa : Nat) : Nat := pa / 128

/-- The version of a line held by one ply. -/
def versionIn (s : State) (h p line : Nat) : Option Version :=
  s.versions.find? fun v => v.hank == h && v.ply == p && v.line == line

/-- The version a read in ply `p` returns: that of the nearest ply on the path to the root that holds one; none for the root's
(R163, R295). -/
def nearest (s : State) (h p line : Nat) : Option Version := (pathOf (hankOf s h) p).findSome? fun q => versionIn s h q line

/-- One byte of a global location as ply `p` of hank `h` reads it. -/
def readByte (s : State) (h p pa : Nat) : Byte :=
  match nearest s h p (lineOf pa) with
  | some v => v.data.getD (pa % 128) 0
  | none => s.mem.read pa

/-- `n` bytes as a ply reads them, lowest address first. -/
def readBytes (s : State) (h p pa n : Nat) : Bytes := (List.range n).map fun k => readByte s h p (pa + k)

/-- A 64-bit word of root memory. -/
def readQ (s : State) (pa : Nat) : DWord := BitVec.ofNat 64 (leNat (s.mem.readBytes pa 8))

/-! ### Poison -/

/-- The source code of a poisoned granule (R421). -/
def poisonAt (s : State) (g : Granule) : Option Nat := (s.poison.find? fun q => q.1 == g).map Prod.snd

/-- Marks a granule poisoned; an earlier code is kept. -/
def setPoison (s : State) (g : Granule) (src : Nat) : State :=
  if (poisonAt s g).isSome then s else { s with poison := (g, src) :: s.poison }

/-- Clears a granule's poison. -/
def clearPoison (s : State) (g : Granule) : State := { s with poison := s.poison.filter fun q => q.1 != g }

/-- The granules that the bytes [a, a + n) cover wholly. -/
def wholeGranules (a n : Nat) : List Nat :=
  ((List.range ((a + n) / 16 + 1 - (a + 15) / 16)).map fun k => (a + 15) / 16 + k).filter fun g => decide (16 * g + 16 ≤ a + n)

/-- The granules that the bytes [a, a + n) touch. -/
def touchedGranules (a n : Nat) : List Nat := if n = 0 then [] else (List.range ((a + n - 1) / 16 + 1 - a / 16)).map fun k => a / 16 + k

/-- The granule of a physical address as a ply reads it. -/
def granuleAt (s : State) (h p g : Nat) : Granule :=
  match nearest s h p (g / 8) with
  | some v => .version h v.ply g
  | none => .phys g

/-- The poison code among the granules of a global read, if any (R421). -/
def poisonOfRead (s : State) (h p pa n : Nat) : Option Nat :=
  if s.poison.isEmpty then none else (touchedGranules pa n).findSome? fun g => poisonAt s (granuleAt s h p g)

/-! ### Writes, monitors and atomic regions -/

/-- Whether an access in ply `ply` of hank `k` reads the version of a line that a write of ply `p` of hank `h` (none: the root) changed (R257). -/
def readsVersion (s : State) (k ply h : Nat) (p : Option Nat) (line : Nat) : Bool :=
  match p, nearest s k ply line with
  | none, none => true
  | some q, some r => k == h && r.ply == q
  | _, _ => false

/-- A wave's armed monitor triggers on a write to its line (R179). -/
def Wave.trigger (line : Nat) (v : Wave) : Wave :=
  match v.monitor with
  | some m => if m.line = line then { v with monitor := some { m with triggered := true } } else v
  | none => v

/-- The armed monitors of a line trigger (R179). -/
def triggerMonitors (s : State) (line : Nat) : State := { s with waves := s.waves.map (Wave.trigger line) }

/-- What a write to a line does to the agents that watch it: armed monitors trigger (R179), and the atomic regions of other waves
that read the changed version see a conflict (R257). `agent` is the wave whose threads write; an engine command, and any other agent of R290, is
none of a wave's threads. -/
def noteWrite (s : State) (agent : Option Nat) (h : Nat) (p : Option Nat) (line : Nat) : State :=
  { s with
    waves := s.waves.mapIdx fun i v =>
      let v := v.trigger line
      match v.region with
      | some r =>
        if agent == some i then v
        else { v with region := some { r with
          lines := r.lines.map fun t =>
            if t.line = line && readsVersion s v.hank t.ply h p line then { t with changed := true } else t } }
      | none => v }

/-- The lines that the bytes [pa, pa + n) touch. -/
def linesOf (pa n : Nat) : List Nat :=
  if n = 0 then [] else (List.range (lineOf (pa + n - 1) + 1 - lineOf pa)).map fun k => lineOf pa + k

/-- Notes that a line's GDDR 7 bytes no longer are its home copy (R356, R387): the bytes they keep, unless they were noted before. -/
def noteDirty (s : State) (line : Nat) : State :=
  match s.stale.find? fun t => t.line == line with
  | some _ => { s with stale := s.stale.map fun t => if t.line = line then { t with dirty := true } else t }
  | none => { s with stale := { line := line, data := s.mem.readBytes (128 * line) 128, dirty := true } :: s.stale }

/-- A write of root memory at the home slice. `cached` says that the line may stay dirty in a cache (MTYPE 0 and 1, R387); a write
that is not cached reaches GDDR 7. The copies that L1 slices hold are invalidated (R172, R357), poison of whole granules clears. -/
def rootWrite (s : State) (agent : Option Nat) (cached : Bool) (pa : Nat) (bs : Bytes) : State :=
  let ls := linesOf pa bs.length
  let s := if cached then ls.foldl noteDirty s
    else { s with stale := s.stale.map fun t =>
      if ls.contains t.line then
        { t with data := (List.range 128).map fun k =>
          if pa ≤ 128 * t.line + k ∧ 128 * t.line + k < pa + bs.length then bs.getD (128 * t.line + k - pa) 0 else t.data.getD k 0 }
      else t }
  let s := { s with
    mem := s.mem.writeBytes pa bs, corrupt := s.corrupt.filter fun c => !ls.contains c.line
    l1 := s.l1.filter fun e => !(e.ply == 0 && ls.contains e.line) }
  let s := if s.poison.isEmpty then s else (wholeGranules pa bs.length).foldl (fun s g => clearPoison s (.phys g)) s
  ls.foldl (fun s l => noteWrite s agent 0 none l) s

/-- The version slots of a hank's shadow pool (R361). -/
def shadowSlots (s : State) (h : Nat) : Nat := 448 * (hreg s h 0x110).toNat

/-- The reserved slots: every non-root version, and those of plies not yet reconciled (R361). -/
def reservedSlots (s : State) (h : Nat) : Nat :=
  (s.versions.filter fun v => v.hank == h).length + ((hankOf s h).recon.map Prod.snd).sum

/-- Whether a write of ply `p` to a line finds its version or a free slot (R361). -/
def slotFor (s : State) (h p line : Nat) : Bool :=
  p == 0 || (versionIn s h p line).isSome || decide (reservedSlots s h < shadowSlots s h)

/-- Creates ply `p`'s version of a line as a copy of what `p` reads, poison with it (R295, R421). -/
def makeVersion (s : State) (h p line : Nat) : State :=
  if (versionIn s h p line).isSome then s
  else
    let marks := if s.poison.isEmpty then []
      else (List.range 8).filterMap fun k => (poisonAt s (granuleAt s h p (8 * line + k))).map fun c => (8 * line + k, c)
    let s := { s with versions := { hank := h, ply := p, line := line, data := readBytes s h p (128 * line) 128, cached := true } :: s.versions }
    marks.foldl (fun s m => setPoison s (.version h p m.1) m.2) s

/-- Writes bytes of one line into ply `p`'s version (R295). -/
def versionWrite (s : State) (agent : Option Nat) (cached : Bool) (h p pa : Nat) (bs : Bytes) : State :=
  let s := makeVersion s h p (lineOf pa)
  let s := { s with
    versions := s.versions.map fun v =>
      if v.hank = h ∧ v.ply = p ∧ v.line = lineOf pa then { v with data := overlay v.data (pa % 128) bs, cached := cached } else v
    l1 := s.l1.filter fun e => !(e.hank == h && e.ply == p && e.line == lineOf pa) }
  let s := if s.poison.isEmpty then s else (wholeGranules pa bs.length).foldl (fun s g => clearPoison s (.version h p g)) s
  noteWrite s agent h (some p) (lineOf pa)

/-- Writes bytes of one line in ply `p`: a version, or root memory. -/
def plyWrite (s : State) (agent : Option Nat) (cached : Bool) (h p pa : Nat) (bs : Bytes) : State :=
  if p = 0 then rootWrite s agent cached pa bs else versionWrite s agent cached h p pa bs

/-! ### Gauges and partial sums -/

/-- The width in bytes of a gauge's TYPE (R268): f32, f16, bf16, i32. -/
def Gauge.width (g : Gauge) : Nat := if g.type = 1 ∨ g.type = 2 then 2 else 4

/-- An element below LO or NaN, above HI, or inside (R269). -/
def Gauge.test (g : Gauge) (code : Nat) : Bool × Bool :=
  if g.type = 3 then
    (decide (signedN 32 code < signedN 32 g.lo.toNat), decide (signedN 32 g.hi.toNat < signedN 32 code))
  else
    let f := if g.type = 0 then fp32 else if g.type = 1 then fp16 else bf16
    let v := f.read code
    (v.isNan || v.cmp (f.read g.lo.toNat) == .lt, !v.isNan && v.cmp (f.read g.hi.toNat) == .gt)

/-- What the check makes of an element: its code under clamp, and whether it fails (R269). -/
def Gauge.elem (g : Gauge) (code : Nat) : Nat × Bool :=
  let t := g.test code
  (if g.mode = 2 then (if t.1 then g.lo.toNat else if t.2 then g.hi.toNat else code) else code, t.1 || t.2)

/-- The gauge check of bytes written at an address (R269): the bytes as they are written and the number of failing elements.
Elements the write covers only in part are not tested. `fuel` is the number of bytes. -/
def Gauge.scan (g : Gauge) : Nat → Nat → Bytes → Bytes × Nat
  | 0, _, bs => (bs, 0)
  | _, _, [] => ([], 0)
  | fuel + 1, a, b :: bs =>
    if a % g.width = 0 ∧ g.width ≤ (b :: bs).length then
      let e := g.elem (leNat ((b :: bs).take g.width))
      let r := g.scan fuel (a + g.width) ((b :: bs).drop g.width)
      (natLe g.width e.1 ++ r.1, r.2 + e.2.toNat)
    else
      let r := g.scan fuel (a + 1) bs
      (b :: r.1, r.2)

/-- The gauge check of a write (R269); a gauge that is off changes nothing. -/
def Gauge.check (g : Gauge) (a : Nat) (bs : Bytes) : Bytes × Nat :=
  if g.mode = 0 then (bs, 0) else g.scan bs.length a bs

/-- Adds to a gauge's FAILS (R424). -/
def countFails (s : State) (h gi n : Nat) : State :=
  if n = 0 then s
  else modHank s h fun k =>
    let g := k.gauges[gi]?.getD Gauge.off
    { k with gauges := k.gauges.setIfInBounds gi { g with fails := min 0xFFFFFFFF (g.fails + n) } }

/-- A gauge of a hank. -/
def gaugeOf (s : State) (h gi : Nat) : Gauge := (hankOf s h).gauges[gi]?.getD Gauge.off

/-- One 4-byte element of a commutative line added (R176, R177): CTYPE 1 f32, 2 i32, 3 bf16x2. -/
def commAdd (fmt a b : Nat) : Nat :=
  match fmt with
  | 1 => fp32.memAdd a b
  | 2 => (a + b) % 2 ^ 32
  | _ => bf16.memAdd (a % 2 ^ 16) (b % 2 ^ 16) + 2 ^ 16 * bf16.memAdd (a / 2 ^ 16) (b / 2 ^ 16)

/-- Two lines added element by element. -/
def commAddLine (fmt : Nat) (a b : Bytes) : Bytes :=
  (List.range 32).flatMap fun k => natLe 4 (commAdd fmt (leNat ((a.drop (4 * k)).take 4)) (leNat ((b.drop (4 * k)).take 4)))

/-! ### Clock and error records -/

/-- A reading of the device clock (R35): free, but never behind an earlier one (log 5). -/
def readClock (s : State) : State × Nat :=
  let c := s.clock + Config.clkAdvance s.fresh
  ({ s with clock := c, fresh := s.fresh + 1 }, c)

/-- Sends an MSI-X message (R414, R427). -/
def sendMsix (s : State) (fn vec : Nat) : State := { s with host := s.host ++ [.msix fn vec] }

/-- An error record (R427, R428): it takes the next SEQ, and is written to the ring, as far as GDDR 7 (log 8), or dropped. -/
def errRecord (s : State) (sev core hank kind : Nat) (addr info : DWord) : State :=
  let r := readClock s
  let s := r.1
  let seq := s.err.seq
  let base := (s.rel.read 0x000).toNat
  let hd := (s.rel.read 0x010).toNat
  let s := { s with err := { s.err with seq := (seq + 1) % 2 ^ 32 } }
  if base = 0 ∨ (s.err.tail + 1) % 1024 = hd then
    { s with err := { s.err with lost := min 0xFFFFFFFF (s.err.lost + 1) } }
  else
    let w1 := sev * 2 ^ 56 + core * 2 ^ 48 + hank * 2 ^ 40 + kind * 2 ^ 32 + seq
    let s := rootWrite s none false (base + 32 * s.err.tail) (natLe 8 r.2 ++ natLe 8 w1 ++ natLe 8 addr.toNat ++ natLe 8 info.toNat)
    let ctl := (s.rel.read 0x018).toNat
    let s := { s with err := { s.err with tail := (s.err.tail + 1) % 1024 } }
    if bitN ctl 3 && decide (ctl % 8 ≤ sev) then sendMsix s 0 (bitsN ctl 26 16) else s

/-- The core field of a record: row 7:4, column 3:0 (R428). -/
def coreField (core : Nat) : Nat := core / 14 * 16 + core % 14

/-- An event of a hank (R407, R414): bit n of EVSTAT, and a message when it becomes 1 and is enabled. -/
def hankEvent (s : State) (h n : Nat) : State :=
  let st := hreg s h 0x040
  if st.getLsbD n then s
  else
    let s := setHreg s h 0x040 (st ||| (1 <<< n))
    let ctl := (hreg s h 0x048).toNat
    if bitN ctl n then sendMsix s (if (hreg s h 0).getLsbD 6 then h + 1 else 0) (bitsN ctl 26 16) else s

/-! ### Translation -/

/-- A leaf that a walk ends in: the physical address, the PTE and where it lies (R384, R385); the page, by number and lowest bit of the
address; and the table nodes of the walk below the first: address range and node. -/
structure Leaf where
  pa : Nat
  pte : DWord
  loc : Nat
  page : Nat
  sh : Nat
  path : List (Nat × Nat × Nat)
deriving DecidableEq, Repr

/-- Fields of a PTE (R385). -/
def pteHank (p : DWord) : Nat := bitsN p.toNat 21 19
def pteV (p : DWord) : Bool := p.getLsbD 0
def pteW (p : DWord) : Bool := p.getLsbD 1
def pteX (p : DWord) : Bool := p.getLsbD 2
def pteVer (p : DWord) : Bool := p.getLsbD 3
def pteGidx (p : DWord) : Nat := bitsN p.toNat 7 4
def pteCfmt (p : DWord) : Nat := bitsN p.toNat 10 8
def pteWp (p : DWord) : Bool := p.getLsbD 11
def pteD (p : DWord) : Bool := p.getLsbD 17
def pteOwn (p : DWord) : Bool := p.getLsbD 12
def pteMtype (p : DWord) : Nat := bitsN p.toNat 15 13
def pteLeaf (p : DWord) : Bool := p.getLsbD 18
def pteFrame (p : DWord) : Nat := bitsN p.toNat 57 22
/-- Whether root lines of the page may stay dirty in a cache (R387). -/
def pteCached (p : DWord) : Bool := pteMtype p != 2

/-- How a walk ends (R386); `hole` is an entry at a physical address that does not exist. -/
inductive Walk where
  | leaf (l : Leaf)
  | fault
  | poison (src : Nat)
  | hole (pa : Nat)
deriving DecidableEq, Repr

/-- The leaf of an entry at `loc` for a page whose lowest address bit is `sh` (R384). -/
def leafOf (va sh loc : Nat) (p : DWord) : Leaf :=
  { pa := pteFrame p * 2 ^ 16 / 2 ^ sh * 2 ^ sh + va % 2 ^ sh, pte := p, loc := loc, page := va / 2 ^ sh, sh := sh, path := [] }

/-- A walk that went through one more node above. -/
def Walk.via (e : Nat × Nat × Nat) : Walk → Walk
  | .leaf l => .leaf { l with path := e :: l.path }
  | w => w

/-- A walk from one level down (R384, R386): the levels left, each with its lowest VA bit, its index bits and whether a leaf may stand there. R386
faults an entry with a bit of 63:58 set, and R385 reads only V, LEAF, HANK and OWN of a leaf with OWN = 0: the model faults that leaf too (log
27). -/
def walkFrom (s : State) (va : Nat) (node : Nat) : List (Nat × Nat × Bool) → Walk
  | [] => .fault
  | (sh, w, leafOk) :: rest =>
    let a := node + 8 * (va / 2 ^ sh % 2 ^ w)
    if Config.physBytes ≤ a then .hole a
    else match poisonOfRead s 0 0 a 8 with
      | some c => .poison c
      | none =>
        let p := readQ s a
        if !pteV p || decide (2 ^ 58 ≤ p.toNat) then .fault
        else if pteLeaf p then
          if leafOk then .leaf (leafOf va sh a p) else .fault
        else (walkFrom s va (pteFrame p * 2 ^ 16) rest).via (va / 2 ^ sh, sh, pteFrame p * 2 ^ 16)

/-- The levels of a table (R384). -/
def walkLevels : List (Nat × Nat × Bool) := [(55, 9, false), (42, 13, true), (29, 13, true), (16, 13, true)]

/-- Whether two entries differ in A and D at most. -/
def sameEntry (p q : DWord) : Bool := (p ^^^ q) &&& 0xFFFFFFFFFFFCFFFF == 0

/-- Whether two walks end the same way. -/
def Walk.same : Walk → Walk → Bool
  | .leaf a, .leaf b => a.loc == b.loc && sameEntry a.pte b.pte
  | .fault, .fault | .poison _, .poison _ => true
  | _, _ => false

/-- The other ways in which an access may be translated before an invalidation completes (R388): by an entry that a TLB still holds (for a
write, one with D set and WP clear: it re-walks otherwise), or from a node that a walk cache still holds. `w` is the walk of the tables
as they are. -/
def oldWalks (s : State) (h va : Nat) (wr : Bool) (w : Walk) : List Walk :=
  let k := hankOf s h
  let held := k.tlb.filter fun e => va / 2 ^ e.sh == e.page && !(wr && (!pteD e.pte || pteWp e.pte))
  let nodes := k.nodes.filter fun n => va / 2 ^ n.2.1 == n.1
  let os := held.map (fun e => Walk.leaf (leafOf va e.sh e.loc e.pte))
    ++ nodes.map fun n => walkFrom s va n.2.2 (walkLevels.filter fun l => decide (l.1 < n.2.1))
  os.filter fun o => !o.same w && (match o with | .hole _ => false | _ => true)

/-- The walk of a virtual address of a hank (R384, R386): by the tables as they are, or by an entry not yet invalidated (R388, log 27). -/
def walkFor (s : State) (h va : Nat) (wr : Bool) : Walk :=
  let w := walkFrom s va (hreg s h 0x120).toNat walkLevels
  match oldWalks s h va wr w with
  | [] => w
  | os => match Config.oldEntry s.progress (va / 2 ^ 16) % (os.length + 1) with
    | 0 => w
    | k + 1 => os.getD k w

/-- The walk of a read. -/
def walk (s : State) (h va : Nat) : Walk := walkFor s h va false

/-- Whether an entry covers an address; none is every address. -/
def coversVa (va : Option Nat) (page sh : Nat) : Bool := match va with | none => true | some a => a / 2 ^ sh == page

/-- The entries that an invalidation removes (R275, R391): those for the page that holds an address, or all. -/
def dropTlb (k : Hank) (va : Option Nat) : Hank :=
  { k with
    tlb := k.tlb.filter fun e => !coversVa va e.page e.sh
    nodes := k.nodes.filter fun n => !coversVa va n.1 n.2.1 }

/-- Whether an access to a host-owned page asks the host (R392): the driver acknowledged the MIGRATE feature (R438), and the page is not
being refused (R321, R393). -/
def asksHost (s : State) (h va : Nat) : Bool :=
  s.sysc.featack.getLsbD 4 && (match (hankOf s h).refusing with | none => true | some p => p.1 != va / 2 ^ p.2)

/-! ### Scratch, windows and vaults -/

/-- Whether the bytes at a scratch offset are the team's (R166). -/
def scratchIn (t : Team) (off n : Nat) : Bool :=
  if t.wide then decide (off < 2 ^ 21 ∧ off % 2 ^ 19 + n ≤ 1024 * t.sliceKib) else decide (off + n ≤ 1024 * t.sliceKib)

/-- The core that holds slice k of a team's scratch (R352): the core at position k when the team has it, else its first core. -/
def sliceCore (t : Team) (off : Nat) : Nat :=
  let k := off / 2 ^ 19
  let here := t.cores.find? fun c => c / 14 % 2 == k / 2 && c % 14 % 2 == k % 2
  if t.wide then here.getD (t.cores.headD 0) else t.cores.headD 0

/-- A byte of a team's scratch: what was written, else undefined (R27, log 6), or 0 after a restore (R329). -/
def scratchByte (s : State) (t off : Nat) : Byte :=
  match s.teams[t]? with
  | none => 0
  | some m => (m.scratch.get? off).getD (if m.zeroed then 0 else Config.scratchInit t off)

/-- `n` bytes of scratch. -/
def scratchRead (s : State) (t off n : Nat) : Bytes := (List.range n).map fun k => scratchByte s t (off + k)

/-- Writes scratch bytes from an offset up. -/
def scratchPut (m : Sparse Byte) (off : Nat) : Bytes → Sparse Byte
  | [] => m
  | b :: bs => scratchPut (m.insert off b) (off + 1) bs

/-- A write of scratch; whole granules lose their poison (R421). -/
def scratchWrite (s : State) (t off : Nat) (bs : Bytes) : State :=
  let s := modTeam s t fun m => { m with scratch := scratchPut m.scratch off bs }
  if s.poison.isEmpty then s else (wholeGranules off bs.length).foldl (fun s g => clearPoison s (.scratch t g)) s

/-- The poison code among scratch bytes. -/
def scratchPoison (s : State) (t off n : Nat) : Option Nat :=
  if s.poison.isEmpty then none else (touchedGranules off n).findSome? fun g => poisonAt s (.scratch t g)

/-- Whether an outstanding marker overlaps a scratch range and one side writes (R168, R222). -/
def markerBlocks (s : State) (t off n : Nat) (wr : Bool) : Bool :=
  s.markers.any fun m => m.team == t && (wr || m.wr) && decide (m.lo ≤ (off + n - 1) / 16 ∧ off / 16 ≤ m.hi)

/-- The start of the scratch-window aperture (R288). -/
def apertureBase : Nat := 0xFFFFFF0000000000

/-- The window number and offset of an aperture address (R288). -/
def windowAt (va : Nat) : Option (Nat × Nat) :=
  if apertureBase ≤ va ∧ va < apertureBase + 64 * 2 ^ 24 then some ((va - apertureBase) / 2 ^ 24, va % 2 ^ 24) else none

/-- The vault byte behind an offset (R359): the (o div 4 MiB)-th set bit of VWAYS, then the byte of that way. -/
def vaultKey (vways core off : Nat) : Nat :=
  let ws := (List.range 16).filter fun b => bitN vways b
  core * 2 ^ 26 + (ws.getD (off / 2 ^ 22) 0) * 2 ^ 22 + off % 2 ^ 22

/-- VWAYS of a hank (R363). -/
def vwaysOf (s : State) (h : Nat) : Nat := bitsN (hreg s h 0x100).toNat 47 32

/-- The bounds of a vault access (R169, R216): the DETAIL of its PROTECTION fault, none when it passes. -/
def vaultFault (s : State) (h core off n : Nat) : Option Nat :=
  if !(decide (core < 112) && clusterEnabled s (clusterOf core)) then some 5
  else if !coreInHank s h core then some 0
  else if 2 ^ 22 * popcount 16 (vwaysOf s h) < off + n then some 3
  else none

/-- `n` bytes of vault memory. -/
def vaultRead (s : State) (h core off n : Nat) : Bytes :=
  (List.range n).map fun k => Sparse.get (α := Byte) 0 s.vault (vaultKey (vwaysOf s h) core (off + k))

/-- A write of vault memory. -/
def vaultWrite (s : State) (h core off : Nat) : Bytes → State
  | [] => s
  | b :: bs =>
    vaultWrite { s with vault := Sparse.put (α := Byte) 0 s.vault (vaultKey (vwaysOf s h) core off) b } h core (off + 1) bs

/-- The poison code among vault bytes. -/
def vaultPoison (s : State) (core off n : Nat) : Option Nat :=
  if s.poison.isEmpty then none else (touchedGranules off n).findSome? fun g => poisonAt s (.vault core g)

/-- Clears the poison of whole vault granules. -/
def vaultClear (s : State) (core off n : Nat) : State :=
  if s.poison.isEmpty then s else (wholeGranules off n).foldl (fun s g => clearPoison s (.vault core g)) s

end Sys2Proof.Machine
end

