-- ==== Sys2Proof/Machine/Cache.lean ====
section
/-! DEFINITION. Where lines live (18_memory_hierarchy R350-R361): the maps of R354, the lines that L1 slices, L2 home slices and Skein
caches hold, read counts (07 R162, R358), eviction and write-back to GDDR 7 with its poison tables (R421), and the lines that requests
wait for (R301, R356, R357, 19 R381). None of this changes a value that a coherent reader sees; it decides which copy a corrupted flit
stays in (R339), and what GDDR 7 holds (R387). -/

namespace Sys2Proof.Machine

/-! ### The maps of R354 -/

/-- The enabled tiles, in ascending order of 14·row + col (R354). -/
def tiles (s : State) : List Nat := (List.range 112).filter fun c => clusterEnabled s (clusterOf c)

/-- The home tile of a line (R354). -/
def homeTile (s : State) (line : Nat) : Nat :=
  let t := tiles s
  t.getD (((line % 2 ^ 16) ^^^ (line / 2 ^ 16 % 2 ^ 16) ^^^ (line / 2 ^ 32 % 2 ^ 13)) % t.length) 0

/-- The tile whose L1 slice a line uses in a cluster (R354). -/
def sliceTile (cl line : Nat) : Nat :=
  let k := (line % 4) ^^^ (line / 64 % 4)
  14 * (2 * (cl / 7) + k / 2) + (2 * (cl % 7) + k % 2)

/-- The GDDR 7 channel of a line (R354). -/
def channelOf (line : Nat) : Nat :=
  let g := line / 4
  (g % 16) ^^^ (g / 16 % 16) ^^^ (g / 256 % 16) ^^^ (g / 4096 % 16)

/-! ### GDDR 7 -/

/-- The poison code of a line of root memory, if a granule of it is poisoned. -/
def linePoison (s : State) (line : Nat) : Option Nat := (List.range 8).findSome? fun k => poisonAt s (.phys (8 * line + k))

/-- The device stops (R432). -/
def halt (s : State) (cause : Nat) : State := { s with sysc := { s.sysc with stage := 15, halt := cause }, running := [] }

/-- A poisoned line written back enters its controller's poison table (R421); a full table is device-fatal (R432). -/
def notePoisoned (s : State) (line : Nat) : State :=
  match linePoison s line with
  | none => s
  | some d =>
    let tbl := s.poisonTable.filter fun l => (linePoison s l).isSome
    if tbl.contains line then { s with poisonTable := tbl }
    else if 1024 ≤ (tbl.filter fun l => channelOf l == channelOf line).length then
      halt (errRecord { s with poisonTable := tbl } 4 0xFF 0 1 (BitVec.ofNat 64 (128 * line)) (BitVec.ofNat 64 d)) 7
    else { s with poisonTable := line :: tbl }

/-- Writes a line back to GDDR 7 if it is dirty (R182, R387). -/
def writeBack (s : State) (line : Nat) : State :=
  if s.stale.any fun t => t.line == line && t.dirty then
    notePoisoned { s with stale := s.stale.filter fun t => t.line != line } line
  else s

/-- A line's home copy is given up: a later read takes GDDR 7's bytes (R182, R356). -/
def forgetHome (s : State) (line : Nat) : State :=
  match s.stale.find? fun t => t.line == line with
  | none => s
  | some t => { s with mem := s.mem.writeBytes (128 * line) t.data, stale := s.stale.filter fun t => t.line != line }

/-- A root line that has left a cache: it is written back if dirty, and no home copy is left once no cache holds it (R356, R360). -/
def leaveCache (s : State) (line : Nat) : State :=
  let s := writeBack s line
  if (s.l2 ++ s.skein).any fun e => e.ply == 0 && e.line == line then s else forgetHome s line

/-- Whether a cache between the home slice and GDDR 7 may hold a root line (R356, R360): a line of the lists, or one whose home copy GDDR 7
does not have. -/
def resident (s : State) (line : Nat) : Bool :=
  s.l2.any (fun e => e.ply == 0 && e.line == line) || s.skein.any (fun e => e.ply == 0 && e.line == line)
    || s.stale.any fun t => t.line == line

/-! ### Eviction -/

/-- Whether two lists' entries are one line: the root's, or a version of one hank. -/
def sameLine (h p line h' p' line' : Nat) : Bool := line == line' && p == p' && (p == 0 || h == h')

/-- The L1 copies of a line go, a corrupted one with them (R356, R358); none keeps those of every cluster. -/
def dropL1 (s : State) (cl : Option Nat) (h p line : Nat) : State :=
  let here := fun (k : Nat) => match cl with | none => true | some c => k == c
  { s with
    l1 := s.l1.filter fun e => !(here e.cluster && sameLine h p line e.hank e.ply e.line)
    corrupt := s.corrupt.filter fun e => !(p == 0 && here e.cluster && e.line == line) }

/-- The clusters that hold a line: the presence vector of its home slice (R357). -/
def presence (s : State) (h p line : Nat) : List Nat :=
  (s.l1.filter fun e => sameLine h p line e.hank e.ply e.line).map (·.cluster)

/-- The cluster that owns a line, if one does (R356, R357). -/
def ownerOf (s : State) (h p line : Nat) : Option Nat :=
  (s.l1.find? fun e => e.owned && sameLine h p line e.hank e.ply e.line).map (·.cluster)

/-- One of some lines, by a draw: the victim of a replacement (R356, log 8). -/
def chooseVictim {α : Type} (s : State) : List α → State × Option α
  | [] => (s, none)
  | es => ({ s with fresh := s.fresh + 1 }, es[Config.victim s.fresh % es.length]?)

/-- The ways of every L2 home slice, and of every vault as Skein cache, that a hank has (R407). -/
def l2Ways (s : State) (h : Nat) : Nat := popcount 16 (bitsN (hreg s h 0x010).toNat 15 0)
def skWays (s : State) (h : Nat) : Nat := popcount 16 (bitsN (hreg s h 0x010).toNat 31 16)

/-- A line leaves a vault's Skein cache (R360, R361): a root line is written back, a version moves into its slot of the pool. The spec gives a chunk's
bytes no layout, and the model leaves those of the pool as they are (log 8). -/
def evictSkein (s : State) (e : CacheLine) : State :=
  let s := { s with skein := s.skein.filter fun x => x != e }
  if e.ply = 0 then leaveCache s e.line else s

/-- A line enters the Skein cache of the vault above its home (R356, R360, R361): 32768 lines a way; a root line leaves for it before a
version does. With no way for its hank the line passes on. -/
def placeSkein (s : State) (e : CacheLine) : State :=
  let n := 32768 * skWays s e.hank
  if n = 0 then (if e.ply = 0 then leaveCache s e.line else s)
  else if s.skein.any fun x => sameLine e.hank e.ply e.line x.hank x.ply x.line then s
  else
    let s := { s with skein := e :: s.skein }
    if s.skein.length ≤ n then s
    else
      let mates := s.skein.filter fun x => x != e && x.hank == e.hank && homeTile s x.line == homeTile s e.line
      if mates.length < n then s
      else
        let roots := mates.filter fun x => x.ply == 0
        match chooseVictim s (if roots.isEmpty then mates else roots) with
        | (s, some x) => evictSkein s x
        | (s, none) => s

/-- A line leaves its L2 home slice (R356, R361): its L1 copies are recalled first, and it goes to the Skein cache. -/
def evictL2 (s : State) (e : CacheLine) : State :=
  placeSkein (dropL1 { s with l2 := s.l2.filter fun x => x != e } none e.hank e.ply e.line) e

/-- The lines of the set of its L2 home slice into which a line falls (R354, R356). -/
def l2Set (s : State) (line : Nat) : List CacheLine :=
  s.l2.filter fun x => homeTile s x.line == homeTile s line && Config.l2Set x.line % 512 == Config.l2Set line % 512

/-- Which lines of its set may make room for a line of a hank with `n` ways (R356): at 8 versions one of the hank's own versions, else one of the
hank's lines when they fill its ways; none is needed otherwise. -/
def l2Victims (set : List CacheLine) (h p n : Nat) : List CacheLine :=
  let mine := set.filter fun x => x.hank == h
  if p ≠ 0 ∧ 8 ≤ (set.filter fun x => x.ply != 0).length then mine.filter fun x => x.ply != 0
  else if n ≤ mine.length then mine
  else []

/-- Whether an L2 home slice has no place for a version (R356, R361): its set holds 8 versions, none of them the hank's. -/
def l2Shut (set : List CacheLine) (h p : Nat) : Bool :=
  p != 0 && decide (8 ≤ (set.filter fun x => x.ply != 0).length) && !(set.any fun x => x.ply != 0 && x.hank == h)

/-- A line enters its L2 home slice (R354, R356), in the ways of the hank that asks; at most 8 versions lie in a set, and a version that finds no
place goes on to the Skein cache (R361). -/
def placeL2 (s : State) (h p line : Nat) : State :=
  let n := l2Ways s h
  let e : CacheLine := { hank := h, ply := p, line := line }
  if n = 0 || s.l2.any (fun x => sameLine h p line x.hank x.ply x.line) then s
  else if s.l2.length < min n 8 then { s with l2 := e :: s.l2 }
  else
    let set := l2Set s line
    if l2Shut set h p then placeSkein s e
    else
      let s := match chooseVictim s (l2Victims set h p n) with
        | (s, some x) => evictL2 s x
        | (s, none) => s
      { s with l2 := e :: s.l2 }

/-- Whether an L2 home slice or a Skein cache lists a root line. -/
def homeListed (s : State) (line : Nat) : Bool := (s.l2 ++ s.skein).any fun e => e.ply == 0 && e.line == line

/-- A root line that was written at its home slice lies in a cache (R354, R356): where one lists it already, else in the ways of hank `h`; with
no way for the hank it goes to GDDR 7. -/
def cacheRoot (s : State) (h line : Nat) : State :=
  if homeListed s line then s
  else
    let s := placeL2 s h 0 line
    if homeListed s line then s else leaveCache s line

/-- A write of root memory at its home slices by a unit of hank `h` (R182, R387): a line that may stay dirty lies in the hank's ways. -/
def homeWrite (s : State) (h : Nat) (cached : Bool) (pa : Nat) (bs : Bytes) : State :=
  let s := rootWrite s none cached pa bs
  if cached then (linesOf pa bs.length).foldl (fun s l => cacheRoot s h l) s else s

/-- A line enters its slice of a cluster's L1 (R354, R356): 16 ways, at most 4 versions in a set. -/
def placeL1 (s : State) (e : L1Line) : State :=
  let s := { s with
    l1 := e :: s.l1.filter fun x => !(x.cluster == e.cluster && sameLine e.hank e.ply e.line x.hank x.ply x.line) }
  if s.l1.length ≤ 4 then s
  else
    let set := s.l1.filter fun x =>
      x != e && sliceTile x.cluster x.line == sliceTile e.cluster e.line && Config.l1Set x.line % 128 == Config.l1Set e.line % 128
    let olds := set.filter fun x => x.ply != 0
    let out := if e.ply ≠ 0 ∧ 4 ≤ olds.length then olds else if 16 ≤ set.length then set else []
    match chooseVictim s out with
    | (s, some x) => dropL1 s (some x.cluster) x.hank x.ply x.line
    | (s, none) => s

/-! ### What accesses do to the caches -/

/-- Whether the page's root lines may be held in an L1 (R387). -/
def pteL1 (p : DWord) : Bool := pteMtype p != 1 && pteMtype p != 2

/-- The RC of a load from a page (R162): an uncached page's is ignored. -/
def loadRc (pte : DWord) (rc : Nat) : Nat := if pteL1 pte then rc else 0

/-- Whether an access to a version of ply `p` (0: the root) of a page goes through the L1, and through the L2 (R355, R361, R387). -/
def byL1 (pte : DWord) (p rc : Nat) : Bool := rc != 7 && (p != 0 || pteL1 pte)
def byL2 (pte : DWord) (p : Nat) : Bool := p != 0 || pteCached pte

/-- Whether a line's L2 home slice lists it (no hank with clusters is without ways, R407). -/
def inL2 (s : State) (h p line : Nat) : Bool := l2Ways s h == 0 || s.l2.any fun x => sameLine h p line x.hank x.ply x.line

/-- A line that a load or a PREF of a cluster reaches (R162, R356, R358): a hit lowers a counted line's count by one, and drops it at zero
when `hits` says that it is a load; a miss fills it, with the count of RC. The L2 holds every line that an L1 does (R356). -/
def fillLine (s : State) (cl h p line : Nat) (pte : DWord) (rc : Nat) (hits : Bool) : State :=
  let rc := loadRc pte rc
  let s := if byL2 pte p then placeL2 s h p line else s
  if !byL1 pte p rc || !inL2 s h p line then s
  else match s.l1.find? fun e => e.cluster == cl && sameLine h p line e.hank e.ply e.line with
    | some e =>
      if !hits || e.count = 0 then s
      else if e.count = 1 then dropL1 s (some cl) h p line
      else { s with l1 := s.l1.map fun x => if x = e then { x with count := e.count - 1 } else x }
    | none =>
      placeL1 s { cluster := cl, hank := h, ply := p, line := line, count := if 1 ≤ rc ∧ rc ≤ 6 then rc else 0, owned := false }

/-- A line that a store of a cluster has written (R162, R356, R357): every other copy is gone; without RC 7 the cluster owns it. -/
def ownLine (s : State) (cl h p line : Nat) (pte : DWord) (rc : Nat) : State :=
  let s := if byL2 pte p then placeL2 s h p line else s
  if !byL1 pte p rc || !inL2 s h p line then s
  else placeL1 s { cluster := cl, hank := h, ply := p, line := line, count := 0, owned := true }

/-- A corrupted L1 copy that its slice evicts of its own accord before a load reads it (R339, R356, log 8). -/
def evictCopy (s : State) (cl line : Nat) : State :=
  if s.corrupt.any (fun e => e.cluster == cl && e.line == line) && Config.evicts s.progress line then dropL1 s (some cl) 0 0 line else s

/-- A hank's plies lose their lines in the caches (R245), or their lines become those of ply `p` (R244). -/
def retagLines (s : State) (h : Nat) (ps : List Nat) (p : Option Nat) : State :=
  let out := fun (k q : Nat) => k == h && ps.contains q
  match p with
  | none =>
    { s with
      l1 := s.l1.filter fun e => !out e.hank e.ply, l2 := s.l2.filter fun e => !out e.hank e.ply
      skein := s.skein.filter fun e => !out e.hank e.ply }
  | some p =>
    let old := fun (es : List CacheLine) (e : CacheLine) =>
      e.hank == h && e.ply == p && es.any fun x => out x.hank x.ply && x.line == e.line
    let tag := fun (es : List CacheLine) =>
      (es.filter fun e => !old es e).map fun e => if out e.hank e.ply then { e with ply := p } else e
    let gone := fun (e : L1Line) =>
      e.hank == h && e.ply == p && s.l1.any fun x => out x.hank x.ply && x.line == e.line && x.cluster == e.cluster
    { s with
      l1 := (s.l1.filter fun e => !gone e).map fun e => if out e.hank e.ply then { e with ply := p } else e
      l2 := tag s.l2, skein := tag s.skein }

/-- Every line of a hank leaves the ways that it has in L2 home slices and vaults, dirty root lines to GDDR 7 (R407): more than the removed ways
hold, which a cache may do at any time (R356). So does a dirty line that no list names. -/
def flushHank (s : State) (h : Nat) : State :=
  let ls := (s.l2 ++ s.skein).filter fun e => e.hank == h
  ls.foldl (fun s e =>
    let s := dropL1 { s with l2 := s.l2.filter (· != e), skein := s.skein.filter (· != e) } none e.hank e.ply e.line
    if e.ply = 0 then leaveCache s e.line else s)
    ((s.stale.filter fun t => !homeListed s t.line).foldl (fun s t => leaveCache s t.line) s)

/-! ### Requests that wait -/

/-- Operations that hold miss-status entries: those whose misses are not answered yet. -/
def missing (s : State) : List Flight := s.flights.filter fun f => f.rejected.isNone && (f.wb || f.perf)

/-- The miss-status entries of an L1 slice in use, ordinary or reserved ones (R356, R381), and those of an L2 home slice towards the Skein and
GDDR 7: one a line, whichever accesses wait for it. -/
def missBusy (s : State) (aged : Bool) (tile : Nat) : List Nat :=
  (((((missing s).filter fun f => f.aged == aged).flatMap (·.miss)).filter fun m => m.2 == tile).map (·.1)).dedup
def homeBusy (s : State) (tile : Nat) : List Nat := ((((missing s).flatMap (·.homeMiss)).filter fun m => m.2 == tile).map (·.1)).dedup

/-- Whether new lines find entries where `busy` are in use and at most `room` may be; misses to one line share one. -/
def entriesFree (room : Nat) (busy new : List Nat) : Bool :=
  let ns := new.dedup.filter fun l => !busy.contains l
  ns.isEmpty || decide (busy.length + ns.length ≤ room)

/-- The lines among some misses that go to one tile. -/
def missAt (ms : List (Nat × Nat)) (tile : Nat) : List Nat := (ms.filter fun m => m.2 == tile).map (·.1)

/-- Whether an access finds entries for all its misses (R356, R381): 184 ordinary ones of an L1 slice, or, when it is aged, 8 reserved ones, and
128 of an L2 home slice. -/
def missRoom (s : State) (aged : Bool) (ms hs : List (Nat × Nat)) : Bool :=
  s.flights.isEmpty
    || ((ms.map (·.2)).dedup.all fun t =>
          let other := missBusy s (!aged) t
          entriesFree (if aged then 8 else 184) (missBusy s aged t) ((missAt ms t).filter fun l => !other.contains l))
      && (hs.map (·.2)).dedup.all fun t => entriesFree 128 (homeBusy s t) (missAt hs t)

/-- Whether an operation in flight waits for an older one: for the engine command that owns a line of it (R301, R357), or for a rejected
access of its wave to the same line (R381). -/
def Flight.behind (s : State) (f : Flight) : Bool :=
  s.flights.any fun g =>
    decide (g.id < f.id) && (g.kind == .engine && g.perf || g.rejected.isSome && g.wave == f.wave) && (f.lines ++ f.reads).any g.lines.contains

/-! ### Partial sums and used entries -/

/-- Partial sums are added into a home line (R177): of each element the home value is a part, so what was poisoned stays so (R421). -/
def sumWrite (s : State) (p : Partial) (bs : Bytes) : State :=
  let t := rootWrite s none p.cached (128 * p.line) bs
  let t := { t with poison := s.poison }
  if p.cached then cacheRoot t p.hank p.line else t

/-- Adds one evicted partial line into the home value (R177, R304). -/
def evictPartial (s : State) (p : Partial) : State :=
  sumWrite s p (commAddLine p.fmt (s.mem.readBytes (128 * p.line) 128) p.data)

/-- Sorts partial lines by cluster. -/
def insertPartial (p : Partial) : List Partial → List Partial
  | [] => [p]
  | q :: qs => if p.cluster < q.cluster then p :: q :: qs else q :: insertPartial p qs

/-- The home line and its partials added in ascending cluster order. -/
def foldSum (s : State) (line : Nat) (ps : List Partial) : Bytes :=
  ps.foldl (fun acc p => commAddLine p.fmt acc p.data) (s.mem.readBytes (128 * line) 128)

/-- The fold of a commutative line that any other access makes first (R177): every partial is added in ascending cluster order, the
gauge is checked on the folded value, and the partials reset. -/
def foldLine (s : State) (line : Nat) : State :=
  match (s.partials.filter fun p => p.line == line).foldr insertPartial [] with
  | [] => s
  | p :: ps =>
    let r := (gaugeOf s p.hank p.gidx).check (128 * line) (foldSum s line (p :: ps))
    let s := { s with partials := s.partials.filter fun p => p.line != line }
    countFails (sumWrite s p r.1) p.hank p.gidx r.2

/-- Folds every line that the bytes [pa, pa + n) touch. -/
def foldRange (s : State) (pa n : Nat) : State := if s.partials.isEmpty then s else (linesOf pa n).foldl foldLine s

/-- The translations that the TLBs of a hank's cores can hold at once (R388): 512 a core, and 32 in each of its bays. -/
def tlbRoom (s : State) (h : Nat) : Nat := 4 * popcount 28 (hreg s h 0x008).toNat * (512 + 32 * Config.bays)

/-- A translation enters the TLBs of the hank that walked, where a leaf with V and OWN is that hank's (R388), and the nodes of its walk the walk
caches; the oldest ones make room. -/
def noteTlb (s : State) (h : Nat) (l : Leaf) (q : DWord) : State :=
  modHank s h fun k =>
    { k with
      tlb :=
        if pteHank q ≠ h ∨ !pteOwn q then k.tlb
        else ({ page := l.page, sh := l.sh, pte := q, loc := l.loc }
          :: k.tlb.filter fun e => !(e.page == l.page && e.sh == l.sh && e.loc == l.loc && sameEntry e.pte q)).take (tlbRoom s h)
      nodes := (l.path.filter fun n => !k.nodes.contains n) ++ k.nodes }

/-- The A and D update of a leaf (R390): an atomic update at the home slice, made only when a bit changes and the entry is the one that the
walk of hank `h` read. -/
def markUsed (s : State) (h : Nat) (l : Leaf) (wr : Bool) : State :=
  let p := readQ s l.loc
  let q := p ||| 0x10000 ||| (if wr then 0x20000 else 0)
  if !sameEntry p l.pte then s
  else noteTlb (if p = q then s else homeWrite s h true l.loc (natLe 8 q.toNat)) h l q

end Sys2Proof.Machine
end

