-- ==== Sys2Proof/Machine/Operands.lean ====
section
/-! DEFINITION. Which registers and lanes a word reads and writes (R61, R64, R113, R136, R155, R185, R209, R224, R239, R261), its
latency class (R78), and the parts of a register file as an operand sees them. -/

namespace Sys2Proof.Machine

/-- The lane a source is read from (R61, R64, R130, R149). -/
inductive Sel where
  /-- Each lane its own, through a permutation. -/
  | lane (p : BitVec 3)
  /-- The lowest active lane. -/
  | lo
  /-- What the lowest active lane reads through a permutation. -/
  | loPerm (p : BitVec 3)
  /-- One named lane. -/
  | at (l : Nat)
  /-- SHFL: the permuted source at the lane that register `b` gives. -/
  | shfl (p : BitVec 3) (b : Nat)
  /-- SHFLI: the permuted source at the lane that mode and offset give. -/
  | shfli (p : BitVec 3) (imm : Nat)
deriving DecidableEq, Repr

/-- A register a word reads. -/
structure Src where
  reg : Nat
  sel : Sel
deriving DecidableEq, Repr

/-- vn and vn+1 (R29). -/
def pairRegs (r : BitVec 8) : List Nat := [r.toNat, r.toNat + 1]
/-- vn to vn+3 (R137, R156). -/
def quadRegs (r : BitVec 8) : List Nat := [r.toNat, r.toNat + 1, r.toNat + 2, r.toNat + 3]
/-- vn to vn+7 (R224, R285). -/
def octRegs (r : Nat) : List Nat := [r, r + 1, r + 2, r + 3, r + 4, r + 5, r + 6, r + 7]
/-- The registers that hold data of a SIZE (R156). -/
def dataRegs (size : BitVec 3) (r : BitVec 8) : List Nat :=
  if size = 3 then pairRegs r else if size = 4 then quadRegs r else [r.toNat]

/-- A register read lane by lane. -/
def laneSrc (r : Nat) : Src := ⟨r, .lane 0⟩
/-- A pair read lane by lane. -/
def lanePair (r : BitVec 8) : List Src := (pairRegs r).map laneSrc
/-- A pair read from the lowest active lane. -/
def loPair (r : BitVec 8) : List Src := (pairRegs r).map fun k => ⟨k, .lo⟩

end Sys2Proof.Machine

namespace Sys2Proof

open Sys2Proof.Machine

/-- Source A (R113). -/
def V3.sA (x : V3) : Src := ⟨x.a.toNat, .lane x.pa⟩
/-- Source B (R113). -/
def V3.sB (x : V3) : Src := ⟨x.b.toNat, .lane x.pb⟩
/-- Source C (R113). -/
def V3.sC (x : V3) : Src := ⟨x.c.toNat, .lane x.pc⟩
/-- D read before the instruction (R113). -/
def V3.sD (x : V3) : Src := ⟨x.d.toNat, .lane 0⟩
/-- A pair read through PA (R64). -/
def V3.sAPair (x : V3) : List Src := (pairRegs x.a).map fun k => ⟨k, .lane x.pa⟩
/-- A quad read through PA (R149). -/
def V3.sAQuad (x : V3) : List Src := (quadRegs x.a).map fun k => ⟨k, .lane x.pa⟩
/-- B pair read through PB (R129). -/
def V3.sBPair (x : V3) : List Src := (pairRegs x.b).map fun k => ⟨k, .lane x.pb⟩
/-- The lane of the scale byte that bsel picks (R103). -/
def V3.scaleLane (x : V3) : Nat := x.c.toNat % 32 / 4
/-- The format register and its scale register (R149). -/
def V3.fmtSrcs (x : V3) : List Src := [⟨x.b.toNat, .lo⟩, ⟨x.b.toNat + 1, .at x.scaleLane⟩]
/-- The scale registers of NDOT (R149). -/
def V3.ndotScales (x : V3) : List Src := [⟨x.a.toNat + 2, .at x.scaleLane⟩, ⟨x.a.toNat + 3, .at x.scaleLane⟩]
/-- The seed register of a stochastic conversion (R138). -/
def V3.seed (x : V3) : List Src := if x.pc = 6 then [⟨x.d.toNat + 1, .lane 0⟩] else []
/-- D of a conversion, with the seed under RND 6 (R138). -/
def V3.srDst (x : V3) : List Nat := if x.pc = 6 then pairRegs x.d else [x.d.toNat]
/-- Source A of a VI word (R113). -/
def VI.sA (x : VI) : Src := ⟨x.a.toNat, .lane x.pa⟩
/-- A pair of a VI word read through PA. -/
def VI.sAPair (x : VI) : List Src := (pairRegs x.a).map fun k => ⟨k, .lane x.pa⟩
/-- D of a K32 word read before the instruction (R126). -/
def K32.sD (x : K32) : Src := ⟨x.d.toNat, .lane 0⟩
/-- The address register of an M word (R155). -/
def MWord.sA (x : MWord) : Src := ⟨x.a.toNat, .lane x.pa⟩
/-- The address pair of an M word (R155). -/
def MWord.sAPair (x : MWord) : List Src := (pairRegs x.a).map fun k => ⟨k, .lane x.pa⟩
/-- The data registers of a store (R156). -/
def MWord.sData (x : MWord) : List Src := (dataRegs x.size x.d).map laneSrc
/-- What CPY reads of an operand in space `sp` (R209): the pair of a global address, the even register of a scratch or vault offset. -/
def KWord.side (_ : KWord) (sp : Nat) (r : BitVec 8) : List Src := if sp % 4 = 0 then loPair r else [Src.mk r.toNat .lo]

end Sys2Proof

namespace Sys2Proof.Machine

/-- The registers a word reads, each with the lane it is read from (R61, R64, R113, R155, R209, R224, R239, R261, R262). -/
def srcs : Instr → List Src
  | .iadd x | .isub x | .imul x | .imulh x | .imin x | .imax x | .and x | .or x | .xor x | .andn x | .shl x
  | .shr x | .sar x | .rotl x | .bfx x | .icmp x | .fadd x | .fsub x | .fmul x | .fmin x | .fmax x
  | .fcmp x | .fscl x | .hpadd x | .hpmul x => [x.sA, x.sB]
  | .iaddVi x | .isubVi x | .imulVi x | .imulhVi x | .iminVi x | .imaxVi x | .iabs x | .ineg x | .andVi x
  | .orVi x | .xorVi x | .andnVi x | .not x | .shlVi x | .shrVi x | .sarVi x | .rotlVi x | .brev x
  | .popc x | .clz x | .ctz x | .bitlv x | .bdlv x | .mov x | .fclass x | .frnd x | .frcp x | .frsq x
  | .fsqrt x | .fexp2 x | .flog2 x | .fsin x | .fcos x | .ftanh x | .fsclVi x | .cvtf x | .vote x | .lred x
  | .lscan x | .lds x | .ldv x | .ldk x => [x.sA]
  | .iaddx x | .icry x | .imad x | .bfi x | .sel x | .iclamp x | .ffma x => [x.sA, x.sB, x.sC]
  | .blut x | .idp4 x | .hpfma x => [x.sA, x.sB, x.sD]
  | .movi x => (if x.sub = 0 then [] else [x.sD])
  | .cvti x => (if x.c.toNat % 4 < 2 then [x.sA] else x.sAPair) ++ x.seed
  | .cvtff x => [x.sA] ++ x.seed
  | .pkn x => x.sAQuad ++ x.fmtSrcs ++ x.seed
  | .upkn x => [x.sA] ++ x.fmtSrcs
  | .ndot x => x.sAPair ++ x.ndotScales ++ [Src.mk x.b.toNat .lo, x.sD]
  | .amov x | .ypush x | .msub x | .gset x | .fmap x | .flip x => loPair x.a ++ [Src.mk x.b.toNat .lo]
  | .aldi _ | .mread _ | .fenceMem _ | .fenceVault _ | .mwait _ | .ntake _ | .mma _ | .mmas _ | .azero _
  | .adrain _ | .mstat _ | .yclose _ | .ydrop _ | .tres _ | .bra _ | .bru _ | .call _ | .bar _ | .bara _
  | .barw _ | .exit _ | .yield _ | .trap _ | .bpt _ | .nop _ | .eret _ | .sysrd _ | .phint _ | .idem _
  | .idemEnd _ | .pfork _ | .arbeg _ | .arend _ | .arabt _ | .rchk _ | .rend _ => []
  | .aadd x | .asub x => x.sAPair ++ [x.sB]
  | .aaddVi x | .asubVi x | .amuli x | .ashli x | .ld x | .pref x | .cinv x | .cwb x => x.sAPair
  | .acmp x => x.sAPair ++ x.sBPair
  | .shfl x => [Src.mk x.a.toNat (.shfl x.pa x.b.toNat), x.sB]
  | .shfli x => [Src.mk x.a.toNat (.shfli x.pa x.imm.toNat)]
  | .mwrite x => [Src.mk x.a.toNat (.loPerm x.pa)]
  | .st x => x.sAPair ++ x.sData
  | .sts x | .stv x => [x.sA] ++ x.sData
  | .atom x => lanePair x.a ++ (dataRegs x.size x.b).map laneSrc
  | .acas x => x.sAPair ++ ((if x.size = 2 then pairRegs x.b else quadRegs x.b).map laneSrc)
  | .atoms x => [laneSrc x.a.toNat] ++ (dataRegs x.size x.b).map laneSrc
  | .cadd x => x.sAPair ++ [laneSrc x.b.toNat]
  | .mon x => [Src.mk x.a.toNat (.loPerm x.pa), Src.mk (x.a.toNat + 1) (.loPerm x.pa)]
  | .npass x => (if x.flag then [Src.mk x.vreg .lo] else [])
  | .afill x => (octRegs x.vreg).map laneSrc
  | .mepi x => [laneSrc x.vreg, Src.mk x.ereg .lo, Src.mk (x.ereg + 1) .lo]
  | .yopen x | .sunmap x | .launch x | .qpop x | .qtokTake x => loPair x.a
  | .cpy x => x.side x.imm.toNat x.a ++ x.side (x.imm.toNat / 4) x.b ++ [Src.mk x.c.toNat .lo]
  | .cpyd x => [Src.mk x.a.toNat .lo] ++ loPair x.b ++ [Src.mk x.c.toNat .lo]
  | .gath x | .scat x => loPair x.a ++ [Src.mk x.b.toNat .lo] ++ loPair x.c
  | .kwait x | .syswr x | .penter x | .pkeep x | .pfrog x | .recv x => [Src.mk x.a.toNat .lo]
  | .trace x => (octRegs x.a.toNat).map laneSrc ++ loPair x.b ++ (quadRegs x.c).map (Src.mk · .lo)
  | .smap x => [Src.mk x.b.toNat .lo, Src.mk x.c.toNat .lo]
  | .brx x | .ret x => lanePair x.d
  | .join x => [Src.mk x.d.toNat .lo]
  | .pqry x => (if x.imm = 0 then [Src.mk x.a.toNat .lo] else [])
  | .lline x | .qpush x | .qtokPut x => loPair x.a ++ loPair x.b
  | .rpair x => [laneSrc x.a.toNat]
  | .invpg x => (if x.imm = 0 then loPair x.a else [])
  | .emit x => [Src.mk x.a.toNat .lo] ++ loPair x.b
  | .clauseStart _ _ | .heldWordIssue _ _ | .strandWake _ _ | .opportunisticFusion _ _ _ | .slotFree _
  | .resultWriteback _ | .accessPerformed _ | .yarnFillComplete _ | .engineCommandComplete _
  | .meOperationComplete _ | .traversalComplete _ | .darnerCommit _ | .deferredEntryIssue _
  | .plyReconcile _ _ | .partialEviction _ _ | .monitorSpuriousTrigger _ | .mwaitTimeout _ _
  | .watchdog _ _ | .trapTaken _ | .walkStarvation _ | .accessRejectRetry _ | .agedReservation _
  | .bankDrowsy _ _ | .queueDispatch _ | .teamPlacement _ | .binLaunch _ _ | .binTimerExpiry _ _
  | .doneTokenPut _ | .doneTokenRetry _ | .preemptRequest _ | .promiseBroken _ | .fullSave _
  | .teamRestore _ | .hostDoorbell _ _ _ _ _ | .qringWrite _ _ _ _ | .qstatWrite _ _ _ _ | .bincfgWrite _ _ _
  | .hankctlWrite _ _ | .waysWrite _ _ | .wayChangeComplete _ | .memcfgWrite _ _ | .shadowPoolWrite _ _ _
  | .poolfreeWrite _ _ | .invreqPage _ _ | .invreqAll _ | .migackDone _ _ | .migackRefused _ _
  | .trctlLoad _ _ _ | .trctlReset _ _ _ | .traversalLoadComplete _ _ | .traversalContextFault _ _ _
  | .headctlWrite _ _ | .vblank _ | .mediaCommand _ | .mediaDoneRetry _ | .hostCoherentRead _ _ _
  | .hostCoherentWrite _ _ _ | .hostDirectRead _ _ _ | .hostDirectWrite _ _ _ _ | .fetchadd _ _ _ _
  | .swap _ _ _ _ | .cas _ _ _ _ _ | .vfWindowAccess _ _ _ _ | .correctedError | .poison _ _ | .shared _
  | .linkfail _ _ | .injselWrite _ _ | .inject _ _ | .injectorDelayExpiry _ | .errbaseWrite _
  | .cecountWrite _ | .gaugecWrite _ _ _ | .featackWrite _ | .attctlGo _ | .quoteComplete _
  | .registerWrite _ _ | .powerOn | .fundamentalReset | .rom | .floorplan _ | .firmware | .memory _
  | .governorEvaluation _ _ _ | .thermalTrip | .powerWrite _ | .debuggerAccess _ _ _ _ | .migheadWrite _ _
  | .invalidationComplete _ | .traversalResetComplete _ _ => []

/-- The odd registers of pairs that a word names but does not read (R209): those of scratch and vault operands. -/
def halfNamed : Instr → List Nat
  | .cpy x => [x.a.toNat + 1, x.b.toNat + 1]
  | .cpyd x => [x.a.toNat + 1]
  | .gath x | .scat x => [x.b.toNat + 1]
  | _ => []

/-- The registers a word writes (R113, R137, R156, R209, R224, R239, R261, R262). -/
def dsts : Instr → List Nat
  | .iadd x | .iaddVi x | .isub x | .isubVi x | .iaddx x | .icry x | .imul x | .imulVi x | .imulh x
  | .imulhVi x | .imad x | .imin x | .iminVi x | .imax x | .imaxVi x | .iabs x | .ineg x | .and x
  | .andVi x | .or x | .orVi x | .xor x | .xorVi x | .andn x | .andnVi x | .not x | .blut x | .shl x
  | .shlVi x | .shr x | .shrVi x | .sar x | .sarVi x | .rotl x | .rotlVi x | .bfx x | .bfi x | .brev x
  | .popc x | .clz x | .ctz x | .bitlv x | .bdlv x | .icmp x | .sel x | .iclamp x | .mov x | .movi x
  | .idp4 x | .fadd x | .fsub x | .fmul x | .ffma x | .fmin x | .fmax x | .fcmp x | .fclass x | .frnd x
  | .frcp x | .frsq x | .fsqrt x | .fexp2 x | .flog2 x | .fsin x | .fcos x | .ftanh x | .fscl x | .fsclVi x
  | .hpadd x | .hpmul x | .hpfma x | .ndot x | .acmp x | .shfl x | .shfli x | .vote x | .lred x | .lscan x
  | .mread x | .sysrd x | .penter x | .pkeep x | .pqry x | .lline x | .arend x | .rpair x | .fmap x
  | .recv x | .qtokPut x => [x.d.toNat]
  | .cvti x | .cvtff x | .pkn x => x.srDst
  | .cvtf x => (if x.c.toNat / 4 < 2 then [x.d.toNat] else pairRegs x.d)
  | .upkn x | .tres x => quadRegs x.d
  | .amov x | .aldi x | .aadd x | .aaddVi x | .asub x | .asubVi x | .amuli x | .ashli x | .smap x | .call x
  | .pfork x | .qpop x | .qtokTake x => pairRegs x.d
  | .mwrite _ | .st _ | .sts _ | .stv _ | .cadd _ | .fenceMem _ | .fenceVault _ | .mon _ | .mwait _
  | .pref _ | .cinv _ | .cwb _ | .ntake _ | .npass _ | .mma _ | .mmas _ | .azero _ | .afill _ | .mepi _
  | .yopen _ | .yclose _ | .ypush _ | .ydrop _ | .cpy _ | .cpyd _ | .gath _ | .scat _ | .kwait _ | .trace _
  | .msub _ | .sunmap _ | .bra _ | .bru _ | .brx _ | .ret _ | .join _ | .bar _ | .bara _ | .barw _
  | .exit _ | .yield _ | .trap _ | .bpt _ | .nop _ | .eret _ | .syswr _ | .phint _ | .idem _ | .idemEnd _
  | .gset _ | .pfrog _ | .arbeg _ | .arabt _ | .rchk _ | .rend _ | .invpg _ | .launch _ | .emit _
  | .qpush _ | .flip _ => []
  | .ld x | .lds x | .ldv x | .ldk x | .atom x | .acas x | .atoms x => dataRegs x.size x.d
  | .adrain x => octRegs x.vreg
  | .mstat x => [x.vreg]
  | .clauseStart _ _ | .heldWordIssue _ _ | .strandWake _ _ | .opportunisticFusion _ _ _ | .slotFree _
  | .resultWriteback _ | .accessPerformed _ | .yarnFillComplete _ | .engineCommandComplete _
  | .meOperationComplete _ | .traversalComplete _ | .darnerCommit _ | .deferredEntryIssue _
  | .plyReconcile _ _ | .partialEviction _ _ | .monitorSpuriousTrigger _ | .mwaitTimeout _ _
  | .watchdog _ _ | .trapTaken _ | .walkStarvation _ | .accessRejectRetry _ | .agedReservation _
  | .bankDrowsy _ _ | .queueDispatch _ | .teamPlacement _ | .binLaunch _ _ | .binTimerExpiry _ _
  | .doneTokenPut _ | .doneTokenRetry _ | .preemptRequest _ | .promiseBroken _ | .fullSave _
  | .teamRestore _ | .hostDoorbell _ _ _ _ _ | .qringWrite _ _ _ _ | .qstatWrite _ _ _ _ | .bincfgWrite _ _ _
  | .hankctlWrite _ _ | .waysWrite _ _ | .wayChangeComplete _ | .memcfgWrite _ _ | .shadowPoolWrite _ _ _
  | .poolfreeWrite _ _ | .invreqPage _ _ | .invreqAll _ | .migackDone _ _ | .migackRefused _ _
  | .trctlLoad _ _ _ | .trctlReset _ _ _ | .traversalLoadComplete _ _ | .traversalContextFault _ _ _
  | .headctlWrite _ _ | .vblank _ | .mediaCommand _ | .mediaDoneRetry _ | .hostCoherentRead _ _ _
  | .hostCoherentWrite _ _ _ | .hostDirectRead _ _ _ | .hostDirectWrite _ _ _ _ | .fetchadd _ _ _ _
  | .swap _ _ _ _ | .cas _ _ _ _ _ | .vfWindowAccess _ _ _ _ | .correctedError | .poison _ _ | .shared _
  | .linkfail _ _ | .injselWrite _ _ | .inject _ _ | .injectorDelayExpiry _ | .errbaseWrite _
  | .cecountWrite _ | .gaugecWrite _ _ _ | .featackWrite _ | .attctlGo _ | .quoteComplete _
  | .registerWrite _ _ | .powerOn | .fundamentalReset | .rom | .floorplan _ | .firmware | .memory _
  | .governorEvaluation _ _ _ | .thermalTrip | .powerWrite _ | .debuggerAccess _ _ _ _ | .migheadWrite _ _
  | .invalidationComplete _ | .traversalResetComplete _ _ => []

/-- PM and PREG of a word (R55). -/
def predOf : Instr → BitVec 2 × BitVec 8
  | .iadd x | .iaddVi x | .isub x | .isubVi x | .iaddx x | .icry x | .imul x | .imulVi x | .imulh x
  | .imulhVi x | .imad x | .imin x | .iminVi x | .imax x | .imaxVi x | .iabs x | .ineg x | .and x
  | .andVi x | .or x | .orVi x | .xor x | .xorVi x | .andn x | .andnVi x | .not x | .blut x | .shl x
  | .shlVi x | .shr x | .shrVi x | .sar x | .sarVi x | .rotl x | .rotlVi x | .bfx x | .bfi x | .brev x
  | .popc x | .clz x | .ctz x | .bitlv x | .bdlv x | .icmp x | .sel x | .iclamp x | .mov x | .movi x
  | .idp4 x | .fadd x | .fsub x | .fmul x | .ffma x | .fmin x | .fmax x | .fcmp x | .fclass x | .frnd x
  | .frcp x | .frsq x | .fsqrt x | .fexp2 x | .flog2 x | .fsin x | .fcos x | .ftanh x | .fscl x | .fsclVi x
  | .hpadd x | .hpmul x | .hpfma x | .cvti x | .cvtf x | .cvtff x | .pkn x | .upkn x | .ndot x | .amov x
  | .aldi x | .aadd x | .aaddVi x | .asub x | .asubVi x | .amuli x | .ashli x | .acmp x | .shfl x
  | .shfli x | .vote x | .lred x | .lscan x | .mread x | .mwrite x | .ld x | .st x | .lds x | .sts x
  | .ldv x | .stv x | .ldk x | .atom x | .acas x | .atoms x | .cadd x | .fenceMem x | .fenceVault x
  | .mon x | .mwait x | .pref x | .cinv x | .cwb x | .ntake x | .npass x | .mma x | .mmas x | .azero x
  | .afill x | .adrain x | .mepi x | .mstat x | .yopen x | .yclose x | .ypush x | .ydrop x | .cpy x
  | .cpyd x | .gath x | .scat x | .kwait x | .trace x | .tres x | .msub x | .smap x | .sunmap x | .bra x
  | .bru x | .brx x | .call x | .ret x | .join x | .bar x | .bara x | .barw x | .exit x | .yield x
  | .trap x | .bpt x | .nop x | .eret x | .sysrd x | .syswr x | .phint x | .idem x | .idemEnd x | .gset x
  | .pfork x | .penter x | .pkeep x | .pfrog x | .pqry x | .lline x | .arbeg x | .arend x | .arabt x
  | .rpair x | .rchk x | .rend x | .fmap x | .invpg x | .launch x | .emit x | .recv x | .qpush x | .qpop x
  | .qtokPut x | .qtokTake x | .flip x => (x.pm, x.preg)
  | .clauseStart _ _ | .heldWordIssue _ _ | .strandWake _ _ | .opportunisticFusion _ _ _ | .slotFree _
  | .resultWriteback _ | .accessPerformed _ | .yarnFillComplete _ | .engineCommandComplete _
  | .meOperationComplete _ | .traversalComplete _ | .darnerCommit _ | .deferredEntryIssue _
  | .plyReconcile _ _ | .partialEviction _ _ | .monitorSpuriousTrigger _ | .mwaitTimeout _ _
  | .watchdog _ _ | .trapTaken _ | .walkStarvation _ | .accessRejectRetry _ | .agedReservation _
  | .bankDrowsy _ _ | .queueDispatch _ | .teamPlacement _ | .binLaunch _ _ | .binTimerExpiry _ _
  | .doneTokenPut _ | .doneTokenRetry _ | .preemptRequest _ | .promiseBroken _ | .fullSave _
  | .teamRestore _ | .hostDoorbell _ _ _ _ _ | .qringWrite _ _ _ _ | .qstatWrite _ _ _ _ | .bincfgWrite _ _ _
  | .hankctlWrite _ _ | .waysWrite _ _ | .wayChangeComplete _ | .memcfgWrite _ _ | .shadowPoolWrite _ _ _
  | .poolfreeWrite _ _ | .invreqPage _ _ | .invreqAll _ | .migackDone _ _ | .migackRefused _ _
  | .trctlLoad _ _ _ | .trctlReset _ _ _ | .traversalLoadComplete _ _ | .traversalContextFault _ _ _
  | .headctlWrite _ _ | .vblank _ | .mediaCommand _ | .mediaDoneRetry _ | .hostCoherentRead _ _ _
  | .hostCoherentWrite _ _ _ | .hostDirectRead _ _ _ | .hostDirectWrite _ _ _ _ | .fetchadd _ _ _ _
  | .swap _ _ _ _ | .cas _ _ _ _ _ | .vfWindowAccess _ _ _ _ | .correctedError | .poison _ _ | .shared _
  | .linkfail _ _ | .injselWrite _ _ | .inject _ _ | .injectorDelayExpiry _ | .errbaseWrite _
  | .cecountWrite _ | .gaugecWrite _ _ _ | .featackWrite _ | .attctlGo _ | .quoteComplete _
  | .registerWrite _ _ | .powerOn | .fundamentalReset | .rom | .floorplan _ | .firmware | .memory _
  | .governorEvaluation _ _ _ | .thermalTrip | .powerWrite _ | .debuggerAccess _ _ _ _ | .migheadWrite _ _
  | .invalidationComplete _ | .traversalResetComplete _ _ => (0, 0)

/-- The long-latency words (R66, R78). -/
def isLong : Instr → Bool
  | .ld _ | .lds _ | .ldv _ | .ldk _ | .atom _ | .acas _ | .atoms _ | .adrain _ | .mstat _ | .tres _ | .pfork _ | .pqry _
  | .arend _ => true
  | .sysrd x => x.imm == 0x0C || x.imm == 0x0D
  | _ => false

/-- The class B words (R78). -/
def isBlocking : Instr → Bool
  | .mwait _ | .ntake _ | .kwait _ | .join _ | .bar _ | .barw _ | .pkeep _ | .rchk _ | .recv _ | .qpop _ | .qtokPut _
  | .qtokTake _ => true
  | _ => false

/-- The words of the C class whose PM gives a condition and not the active lanes (R186). -/
def isCond : Instr → Bool
  | .bra _ | .bru _ | .call _ | .exit _ | .trap _ | .bpt _ => true
  | _ => false

/-- What the access slice may execute (R23, R83). -/
def accessOk : Instr → Bool
  | .amov _ | .aldi _ | .aadd _ | .aaddVi _ | .asub _ | .asubVi _ | .amuli _ | .ashli _ | .acmp _ | .shfl _ | .shfli _ | .vote _
  | .lred _ | .lscan _ | .mread _ | .mwrite _ | .yopen _ | .yclose _ | .ypush _ | .ydrop _ | .cpy _ | .cpyd _ | .gath _
  | .scat _ | .kwait _ | .trace _ | .tres _ | .msub _ | .smap _ | .sunmap _ | .bra _ | .bru _ | .exit _ => true
  | _ => false

/-- What an atomic region may execute (R254). -/
def regionOk : Instr → Bool
  | .mwrite _ => false
  | .iadd _ | .iaddVi _ | .isub _ | .isubVi _ | .iaddx _ | .icry _ | .imul _ | .imulVi _ | .imulh _ | .imulhVi _ | .imad _
  | .imin _ | .iminVi _ | .imax _ | .imaxVi _ | .iabs _ | .ineg _ | .and _ | .andVi _ | .or _ | .orVi _ | .xor _ | .xorVi _
  | .andn _ | .andnVi _ | .not _ | .blut _ | .shl _ | .shlVi _ | .shr _ | .shrVi _ | .sar _ | .sarVi _ | .rotl _ | .rotlVi _
  | .bfx _ | .bfi _ | .brev _ | .popc _ | .clz _ | .ctz _ | .bitlv _ | .bdlv _ | .icmp _ | .sel _ | .iclamp _ | .mov _
  | .movi _ | .idp4 _ | .fadd _ | .fsub _ | .fmul _ | .ffma _ | .fmin _ | .fmax _ | .fcmp _ | .fclass _ | .frnd _ | .frcp _
  | .frsq _ | .fsqrt _ | .fexp2 _ | .flog2 _ | .fsin _ | .fcos _ | .ftanh _ | .fscl _ | .fsclVi _ | .hpadd _ | .hpmul _
  | .hpfma _ | .cvti _ | .cvtf _ | .cvtff _ | .pkn _ | .upkn _ | .ndot _ | .amov _ | .aldi _ | .aadd _ | .aaddVi _ | .asub _
  | .asubVi _ | .amuli _ | .ashli _ | .acmp _ | .shfl _ | .shfli _ | .vote _ | .lred _ | .lscan _ | .mread _ => true
  | .ld _ | .st _ | .bra _ | .bru _ | .nop _ | .yield _ | .arend _ | .arabt _ | .sysrd _ => true
  | _ => false

/-- The registers a word reads or writes: sources, destinations and the predicate (R67). -/
def usedRegs (i : Instr) : List Nat :=
  (srcs i).map Src.reg ++ dsts i ++ (if (predOf i).1 = 0 then [] else [(predOf i).2.toNat])

/-- The registers a word names, which must all be among those the wave has (R62). -/
def namedRegs (i : Instr) : List Nat := usedRegs i ++ halfNamed i

/-- The words that consume a poisoned register they read (R422): those that use it as an address and whose table marks UNCORRECTABLE, or that
stand in no table. The others raise no such fault (R116, R139, R183, R235, R289); what they write carries the poison on (log 28). -/
def consumesRegs : Instr → Bool
  | .ld _ | .ldk _ | .lds _ | .ldv _ | .atom _ | .acas _ | .atoms _ | .cinv _ | .cwb _ | .yopen _ | .launch _ | .emit _ | .qpush _
  | .qpop _ | .qtokPut _ | .qtokTake _ | .lline _ | .brx _ | .ret _ => true
  | _ => false

/-- A register of a wave; every register reads 0 until written (R27, R64). -/
def Wave.reg (v : Wave) (r : Nat) : Row := v.regs[r]?.getD (Word.splat 0)

/-- A register of an access thread (R22). -/
def AccessThread.reg (t : AccessThread) (r : Nat) : Row := t.regs[r]?.getD (Word.splat 0)

/-- The base of the even register pair of a register (R30). -/
def pairBase (r : Nat) : Nat := r / 2 * 2

/-- Writes a whole register of a wave; an affine pair it belongs to is expanded (R30), and its bank wakes (R36, R351). -/
def Wave.setReg (v : Wave) (r : Nat) (row : Row) : Wave :=
  { v with
    regs := v.regs.setIfInBounds r row, affine := v.affine.filter (· != pairBase r), drowsy := v.drowsy.filter (· != r / 32) }

/-- Writes a register of an access thread (R22, R30). -/
def AccessThread.setReg (t : AccessThread) (r : Nat) (row : Row) : AccessThread :=
  { t with regs := t.regs.setIfInBounds r row, affine := t.affine.filter (· != pairBase r) }

/-- The lanes whose predicate passes under PM and PREG (R13, R63): 1 passes on non-zero, 2 on zero. -/
def predLanes (pm : BitVec 2) (p : Row) : Mask :=
  maskOf fun l =>
    match pm.toNat with
    | 0 => true
    | 1 => Row.lane p l != 0
    | 2 => Row.lane p l == 0
    | _ => false

end Sys2Proof.Machine
end

