-- ==== Sys2Proof/Machine/Record.lean ====
section
/-! DEFINITION. The launch record (19 R369) and what follows from its levels: team level, units, groups (01 R14-R18, 08 R196). -/

namespace Sys2Proof.Machine

/-- Dword k of a launch record. -/
def recWord (r : Vector DWord 16) (k : Nat) : Nat := (r[k]?.getD 0).toNat

/-- Fields of the CTRL dword (R369). -/
def recSlot (r : Vector DWord 16) : Nat := bitsN (recWord r 3) 1 0
def recScratch (r : Vector DWord 16) : Nat := bitsN (recWord r 3) 12 2
def recPrio (r : Vector DWord 16) : Nat := bitsN (recWord r 3) 14 13
def recPaired (r : Vector DWord 16) : Bool := bitN (recWord r 3) 15
def recCoop (r : Vector DWord 16) : Bool := bitN (recWord r 3) 16
def recPly (r : Vector DWord 16) : Nat := bitsN (recWord r 3) 22 17
def recNlev (r : Vector DWord 16) : Nat := bitsN (recWord r 3) 25 23
def recPromise (r : Vector DWord 16) : Bool := bitN (recWord r 3) 26
def recRegs (r : Vector DWord 16) : Nat := bitsN (recWord r 3) 34 27
def recDone (r : Vector DWord 16) : DWord := r[12]?.getD 0
def recWait (r : Vector DWord 16) : DWord := r[13]?.getD 0
def recLiveBase (r : Vector DWord 16) : Nat := recWord r 15 / 4096 * 4096
def recNlive (r : Vector DWord 16) : Nat := recWord r 15 % 2048
/-- Bin fields (R369, R377). -/
def recRlen (r : Vector DWord 16) : Nat := bitsN (recWord r 14) 4 0
def recMaxrec (r : Vector DWord 16) : Nat := bitsN (recWord r 14) 15 8
def recBatch (r : Vector DWord 16) : Nat := bitsN (recWord r 14) 47 32
def recTimer (r : Vector DWord 16) : Nat := bitsN (recWord r 14) 63 48

/-- EXTENT, DOMAIN and SCOPE of level i; above NLEV the extent is 1 (R17). -/
def recExtent (r : Vector DWord 16) (i : Nat) : Nat := if i ≤ recNlev r then recWord r (4 + i) % 2 ^ 32 else 1
def recDomain (r : Vector DWord 16) (i : Nat) : Nat := bitsN (recWord r (4 + i)) 35 32
def recScope (r : Vector DWord 16) (i : Nat) : Nat := bitsN (recWord r (4 + i)) 39 36

/-- The levels of a record. -/
def recLevels (r : Vector DWord 16) : List Nat := List.range (recNlev r + 1)

/-- The team level: the lowest level of DOMAIN core or cluster (R16). -/
def teamLevel? (r : Vector DWord 16) : Option Nat := (recLevels r).find? fun i => recDomain r i == 3 || recDomain r i == 4

/-- The level whose elements are placed whole: the team level, else the highest level of DOMAIN bay, else waves (R16). -/
def unitLevel (r : Vector DWord 16) : Nat :=
  match teamLevel? r with
  | some t => t
  | none => ((recLevels r).reverse.find? fun i => recDomain r i == 2).getD 1

/-- The product of the extents of levels `lo` to `hi - 1`. -/
def extentProd (r : Vector DWord 16) (lo hi : Nat) : Nat :=
  ((List.range hi).filter fun i => decide (lo ≤ i)).foldl (fun a i => a * recExtent r i) 1

/-- Waves in one placement unit (R16). -/
def wavesPerUnit (r : Vector DWord 16) : Nat := extentProd r 1 (unitLevel r)

/-- Placement units of a launch; a bin launch has one (R378). -/
def unitCount (l : Launch) : Nat := if l.bin.isSome then 1 else extentProd l.record (unitLevel l.record) 8

/-- The linear number of a thread's group at level i among the launch's groups of that level (R14, R18, R196). -/
def groupIndex (r : Vector DWord 16) (waveid i : Nat) : Nat := waveid / extentProd r 1 (i + 1)

/-- The registers a launch declares per lane; 0 means the class limit (R369). -/
def declaredRegs (r : Vector DWord 16) (slot : Nat) : Nat := if recRegs r = 0 then Config.regLimit slot else recRegs r

/-- A slice of scratch in KiB (R20, R166). -/
def sliceSize (r : Vector DWord 16) : Nat :=
  match teamLevel? r with
  | none => 0
  | some t => if recDomain r t = 4 then (recScratch r + 3) / 4 else recScratch r

end Sys2Proof.Machine
end

