-- ==== Sys2Proof/Machine/Ops.lean ====
section
/-! DEFINITION. The shared operations on waves: strand tables (08 R187-R195), clause state (02 R53), flags, counters and pending
bits (01 R31, R32, 02 R48, R66), barriers (R196-R198), the needle (09 R225), retirement (R200), atomic-region abort (10 R258),
idempotent restart (11 R267), taking a trap (13 R314-R319) and returning from one (R317, R54). -/

namespace Sys2Proof.Machine

/-! ### Clause state -/

/-- The word of the clause that issues next (R53): the first whose done bit is clear. -/
def Clause.idx (c : Clause) : Nat := (lowBit 16 (~~~c.done).toNat).getD 16

/-- The address of the word a strand stands at: its header when it is between clauses. -/
def Strand.wordPc (st : Strand) : DWord :=
  match st.clause with
  | none => st.pc
  | some c => st.pc + BitVec.ofNat 64 (8 + 8 * c.idx)

/-- The header after the strand's clause (R52). -/
def Strand.nextPc (st : Strand) : DWord :=
  match st.clause with
  | none => st.pc
  | some c => st.pc + BitVec.ofNat 64 (8 + 8 * c.count)

/-- The strand after its word is done (R53): at the next word, or at the next header when the clause is over. -/
def Strand.advance (st : Strand) : Strand :=
  match st.clause with
  | none => { st with park := .none }
  | some c =>
    if c.count ≤ c.idx + 1 then { st with pc := st.nextPc, clause := none, park := .none }
    else { st with clause := some { c with done := c.done ||| (1 <<< c.idx) }, park := .none }

/-- The strand at a header with no clause state (R188, R194, R258). -/
def Strand.goto (st : Strand) (pc : DWord) : Strand := { st with pc := pc, clause := none, park := .none }

/-- The words a strand's clause counts as done. -/
def Strand.inClause (st : Strand) : Bool := st.clause.isSome

/-- Whether a strand is not parked. -/
def Strand.free (st : Strand) : Bool := st.park == .none

/-- Whether a strand holds lanes that faulted (R40). -/
def Strand.faulted (st : Strand) : Bool :=
  match st.park with
  | .fault _ _ => true
  | _ => false

/-! ### Waves and strands -/

/-- A strand of a wave by number, or the access thread as number 8. -/
def Wave.thread (v : Wave) (n : Nat) : Option Strand :=
  if n = 8 then (v.access.filter fun t => !t.ended).map (·.strand) else v.strands.find? fun t => t.num == n

/-- Changes a strand of a wave, or the access thread (8). -/
def Wave.modThread (v : Wave) (n : Nat) (f : Strand → Strand) : Wave :=
  if n = 8 then { v with access := v.access.map fun t => { t with strand := f t.strand } }
  else { v with strands := v.strands.map fun t => if t.num = n then f t else t }

/-- Changes a strand in the state. -/
def modThread (s : State) (w n : Nat) (f : Strand → Strand) : State := modWave s w fun v => v.modThread n f

/-- The lanes in a strand of the wave (R11), those that have returned to a strand set aside among them (R319). -/
def Wave.inStrands (v : Wave) : Mask :=
  v.strands.foldl (fun m t => m ||| t.mask) (match v.trap with | some e => e.back | none => 0)

/-- Changes every strand of the wave, those set aside by a trap too (R316, R319). -/
def Wave.modAll (v : Wave) (f : Strand → Strand) : Wave :=
  { v with strands := v.strands.map f, trap := v.trap.map fun e => { e with aside := e.aside.map f } }

/-- The strands of the wave and those set aside by its access thread's trap (R319). -/
def Wave.everyStrand (v : Wave) : List Strand :=
  v.strands ++ (match v.trap with | some e => if e.isAccess then e.aside else [] | none => [])

/-- The lanes of the wave that have not exited (R133). -/
def Wave.notExited (v : Wave) : Mask := ~~~v.exited

/-- The strands that finish their clause while a trap is pending (R314). -/
def Wave.finishing (v : Wave) : List Nat := v.finish.getD []

/-- What a pending trap lets go on (R314): the strands that were inside a clause and not parked when it became pending, for as long as they are;
none without a pending trap. -/
def Wave.noteFinish (v : Wave) : Wave :=
  let on := fun (n : Nat) => v.strands.any fun t => t.num == n && t.free && t.inClause
  let all := (v.strands.filter fun t => t.free && t.inClause).map (·.num)
  { v with
    finish :=
      if v.trap.isNone && (v.strands.any Strand.faulted || (match v.access with | some t => t.strand.faulted | none => false)) then
        some ((v.finish.getD all).filter on)
      else none }

/-- Whether a trap is pending or a handler runs (R314). -/
def Wave.trapPending (v : Wave) : Bool :=
  v.trap.isSome || v.strands.any Strand.faulted || (match v.access with | some t => t.strand.faulted | none => false)

/-- Banks of registers that something reads wake (R36, R351). -/
def Wave.wake (v : Wave) (rs : List Nat) : Wave :=
  if v.drowsy.isEmpty then v else { v with drowsy := v.drowsy.filter fun b => !(rs.map (· / 32)).contains b }

/-- A new strand number: the lowest free in the wave (R188). -/
def Wave.freeNum (v : Wave) : Nat := (lowestFree 8 (v.strands.map (·.num))).getD 0

/-- Adds strands; each takes the lowest free number in turn (R188, R189). -/
def Wave.addStrands (v : Wave) (ts : List Strand) : Wave :=
  ts.foldl (fun v t => { v with strands := v.strands ++ [{ t with num := v.freeNum }] }) v

/-- Takes lanes from their strand; a strand left without lanes ends (R11, R200). -/
def Wave.dropLanes (v : Wave) (m : Mask) : Wave :=
  { v with strands := (v.strands.map fun t => { t with mask := t.mask &&& ~~~m }).filter fun t => t.mask != 0 }

/-- Takes lanes from the strands that a trap set aside as well (R267). -/
def Wave.dropAside (v : Wave) (m : Mask) : Wave :=
  { v with trap := v.trap.map fun e =>
      { e with
        aside := (e.aside.map fun t => { t with mask := t.mask &&& ~~~m }).filter fun t => t.mask != 0
        mask := e.mask &&& ~~~m, back := e.back &&& ~~~m } }

/-- The registers of the wave, or of its access thread (R22). -/
def Wave.file (v : Wave) (acc : Bool) (r : Nat) : Row :=
  if acc then (match v.access with | some t => t.reg r | none => Word.splat 0) else v.reg r

/-- Writes the active lanes of a register (R13), of the wave or of its access thread. -/
def Wave.put (v : Wave) (acc : Bool) (m : Mask) (r : Nat) (row : Row) : Wave :=
  if acc then { v with access := v.access.map fun t => t.setReg r (mergeRow m (t.reg r) row) }
  else v.setReg r (mergeRow m (v.reg r) row)

/-- Writes the active lanes of a register in the state. -/
def putReg (s : State) (w : Nat) (acc : Bool) (m : Mask) (r : Nat) (row : Row) : State := modWave s w fun v => v.put acc m r row

/-- Writes the active lanes of a pair (R29). -/
def putPair (s : State) (w : Nat) (acc : Bool) (m : Mask) (r : Nat) (f : Nat → DWord) : State :=
  putReg (putReg s w acc m r (rowOf fun l => Word.lo (f l))) w acc m (r + 1) (rowOf fun l => Word.hi (f l))

/-- Whether a wave is a pair's trailer (R270). -/
def isTrailer (s : State) (v : Wave) : Bool :=
  match s.teams[v.team]? with
  | some t => t.role == .trailer
  | none => false

/-- Takes a strand off the list of running clauses. -/
def stopRunning (s : State) (w n : Nat) : State := { s with running := s.running.filter fun r => r != ⟨w, n⟩ }

/-- Takes every strand of a wave off the list of running clauses. -/
def stopWave (s : State) (w : Nat) : State := { s with running := s.running.filter fun r => r.w != w }

/-- Keeps in the list of running clauses only strands that are inside a clause and not parked (R46, R79). -/
def pruneRunning (s : State) : State :=
  { s with running := s.running.filter fun r =>
    match s.waves[r.w]? with
    | none => false
    | some v =>
      v.phase == .live && (match v.thread r.n with | none => false | some t => t.free && t.inClause) }

/-! ### Flights, counters and pending bits -/

/-- Puts an operation in flight. -/
def addFlight (s : State) (f : Flight) : State :=
  { s with flights := s.flights ++ [{ f with id := s.nextFlight }], nextFlight := s.nextFlight + 1 }

/-- A path's in-flight counter (R32, R220). -/
def inFlight (s : State) (w : Nat) (p : Path) : Nat := (s.flights.filter fun f => f.wave == w && f.path == some p).length

/-- The pending registers of a wave's file (R66). -/
def pendingRegs (s : State) (w : Nat) (acc : Bool) : List Nat :=
  (s.flights.filter fun f => f.wave == w && f.isAccess == acc && f.wb).flatMap (·.regs)

/-- Whether an operation waits for nothing more but its turn to lower its counter (R32). -/
def Flight.returned (f : Flight) : Bool := !f.wb && !f.perf

/-- Takes returned operations off the list in issue order within each path (R32). `seen` holds the (wave, path) pairs of the
operations before that have not returned. -/
def sweepFlights (seen : List (Nat × Path)) : List Flight → List Flight
  | [] => []
  | f :: fs =>
    match f.path with
    | none => if f.returned then sweepFlights seen fs else f :: sweepFlights seen fs
    | some p =>
      if f.returned && !seen.contains (f.wave, p) then sweepFlights seen fs else f :: sweepFlights ((f.wave, p) :: seen) fs

/-- Changes one operation in flight. -/
def modFlight (s : State) (id : Nat) (f : Flight → Flight) : State :=
  { s with flights := s.flights.map fun x => if x.id = id then f x else x }

/-- An operation in flight by number. -/
def flightOf (s : State) (id : Nat) : Option Flight := s.flights.find? fun f => f.id == id

/-- Retires the markers of an operation (R221). -/
def retireMarkers (s : State) (id : Nat) : State := { s with markers := s.markers.filter fun m => m.flight != id }

/-- Cancels operations: their results are dropped and their markers retire (R200, R212). -/
def cancelFlights (s : State) (p : Flight → Bool) : State :=
  let ids := (s.flights.filter p).map (·.id)
  { s with
    flights := sweepFlights [] (s.flights.map fun f => if p f then { f with wb := false, perf := false, regs := [], res := [] } else f)
    markers := s.markers.filter fun m => !ids.contains m.flight }

/-- Changes an operation in flight, and takes returned ones off the list (R32). -/
def updateFlight (s : State) (id : Nat) (f : Flight → Flight) : State :=
  let s := modFlight s id f
  { s with flights := sweepFlights [] s.flights }

/-- An operation is performed (R48, R299): its markers retire (R221). -/
def performed (s : State) (id : Nat) : State := retireMarkers (updateFlight s id fun f => { f with perf := false }) id

/-! ### Completion flags -/

/-- Whether a strand is parked at a class B word, the last of its clause: every word of the clause has issued (R48, R79). A QTOK.take there
still counts towards SETB (R80). -/
def Strand.allIssued (t : Strand) (setb : Bool) : Bool :=
  match t.clause with
  | none => true
  | some c =>
    decide (c.count ≤ c.idx + 1) && (match t.park with
      | .block _ b => !(b && setb)
      | .join _ _ | .bar _ _ _ | .barw _ _ | .needle | .mwait | .keep _ _ | .check _ => true
      | _ => false)

/-- Whether some strand still holds words of a clause's token that its SETA (or `setb`: its SETB) flag waits for. -/
def Wave.holdsTok (v : Wave) (id : Nat) (setb : Bool) : Bool :=
  let own := fun (t : Strand) => (match t.clause with | some c => c.tok == id | none => false) && !t.allIssued setb
  v.strands.any own || (match v.trap with | some e => e.aside.any own | none => false)

/-- Drops a flag by 1 (R31). -/
def dropFlag (fs : Vector (BitVec 4) 12) (k : Option Nat) : Vector (BitVec 4) 12 :=
  match k with
  | none => fs
  | some n => fs.setIfInBounds n ((fs[n]?.getD 0) - 1)

/-- The flags a clause still has to drop (R48): SETA once all its words have issued and no result is outstanding, SETB once they have and
every access is performed. -/
def Token.settle (s : State) (w : Nat) (v : Wave) (t : Token) : Token :=
  let mine := s.flights.filter fun f => f.wave == w && f.tok == some t.id
  { t with
    seta := if v.holdsTok t.id false || mine.any (·.wb) then t.seta else none
    setb := if v.holdsTok t.id true || mine.any (·.perf) then t.setb else none }

/-- Drops the flags whose conditions are met (R31, R48). -/
def settleFlags (s : State) (w : Nat) : State :=
  modWave s w fun v =>
    let ts := v.tokens.map fun t => (t, t.settle s w v)
    let fs := ts.foldl (fun fs p =>
      let fs := if p.1.seta != p.2.seta then dropFlag fs p.1.seta else fs
      if p.1.setb != p.2.setb then dropFlag fs p.1.setb else fs) v.flags
    { v with flags := fs, tokens := (ts.map Prod.snd).filter fun t => t.seta.isSome || t.setb.isSome }

/-- The engine commands that own some lines, and those before them that own lines of theirs (R301, R357). -/
def ownersOf (s : State) (ls : List Nat) : List Flight :=
  (s.flights.foldr (fun f a =>
    if f.kind == .engine && f.perf && f.lines.any a.2.contains then (f :: a.1, f.lines ++ f.reads ++ a.2) else a) ([], ls)).1

/-- A request that meets engine-owned lines waits until the commands release them (R357): they are performed before it. -/
def releaseLines (s : State) (ls : List Nat) : State :=
  (ownersOf s ls).foldl (fun s f => settleFlags (performed s f.id) f.wave) s

/-! ### JOIN -/

/-- The lanes of a wave's strands that pass a test. -/
def lanesWhere (ts : List Strand) (p : Strand → Bool) : Mask := (ts.filter p).foldl (fun m t => m ||| t.mask) 0

/-- Whether a strand has arrived at the JOIN at `j` (R192). -/
def Strand.atJoin (j : DWord) (t : Strand) : Bool :=
  match t.park with
  | .join k _ => k == j
  | _ => false

/-- The rejoin mask a parked strand read (R192). -/
def Strand.joinMask (t : Strand) : Mask :=
  match t.park with
  | .join _ m => m
  | _ => 0

/-- Whether a strand is parked at another JOIN, at BAR or at BARW (R193). -/
def Strand.lostAt (j : DWord) (t : Strand) : Bool :=
  match t.park with
  | .join k _ => k != j
  | .bar _ _ _ | .barw _ _ => true
  | _ => false

/-- Whether the group at a JOIN is released (R193): nothing is missing, or every missing lane is parked elsewhere. -/
def joinReleased (ts : List Strand) (j : DWord) : Bool :=
  let g := ts.filter (Strand.atJoin j)
  let want := g.foldl (fun m t => m ||| t.joinMask) 0 &&& lanesWhere ts fun _ => true
  let miss := want &&& ~~~lanesWhere ts (Strand.atJoin j)
  miss == 0 || miss &&& ~~~lanesWhere ts (Strand.lostAt j) == 0

/-- Fuses a released group (R194): one strand at the header after the JOIN, under the lowest number; it is a handler's when one of them
is (R316). -/
def fuseJoin (ts : List Strand) (j : DWord) : List Strand :=
  match ts.filter (Strand.atJoin j) with
  | [] => ts
  | t :: g =>
    let num := g.foldl (fun n u => min n u.num) t.num
    { num := num, mask := lanesWhere ts (Strand.atJoin j), pc := j + 8, clause := none, park := .none, handler := (t :: g).any (·.handler) }
      :: ts.filter fun u => !u.atJoin j

/-- Releases every JOIN group of a wave whose condition holds (R193). -/
def settleJoins (v : Wave) : Wave :=
  let js := (v.strands.filterMap fun t => match t.park with | .join j _ => some j | _ => none).dedup
  let go := js.filter (joinReleased v.strands)
  { v with strands := go.foldl fuseJoin v.strands }

/-! ### Barriers -/

/-- The launch of a wave. -/
def launchOf (s : State) (v : Wave) : Option Launch := s.launches[v.launch]?

/-- The record of a wave's launch. -/
def recordOf (s : State) (v : Wave) : Vector DWord 16 :=
  match launchOf s v with
  | some l => l.record
  | none => Vector.replicate 16 0

/-- The barrier a wave's word names (R196). -/
def barrierOf (s : State) (v : Wave) (level id : Nat) : Barrier :=
  let g := groupIndex (recordOf s v) v.waveid.toNat level
  let tr := isTrailer s v
  (s.barriers.find? fun b => b.launch == v.launch && b.level == level && b.group == g && b.id == id && b.trailer == tr).getD
    { launch := v.launch, level := level, group := g, id := id, trailer := tr, count := 0, phase := 0 }

/-- Whether two barriers are the same one. -/
def Barrier.same (a b : Barrier) : Bool :=
  a.launch == b.launch && a.level == b.level && a.group == b.group && a.id == b.id && a.trailer == b.trailer

/-- Stores a barrier. -/
def setBarrier (s : State) (b : Barrier) : State := { s with barriers := b :: s.barriers.filter fun c => !c.same b }

/-- Whether a wave's threads belong to a barrier's group. -/
def inGroup (s : State) (b : Barrier) (v : Wave) : Bool :=
  (v.phase == .live || v.phase == .saved) && v.launch == b.launch && isTrailer s v == b.trailer
    && groupIndex (recordOf s v) v.waveid.toNat b.level == b.group

/-- The expected count E of a barrier (R197). -/
def expected (s : State) (b : Barrier) : Nat := ((s.waves.filter (inGroup s b)).map fun v => laneCount v.inStrands).sum

/-- The phase of the last arrival of a lane on an ID (R198). -/
def arrivalOf (v : Wave) (level id l : Nat) : Option Nat :=
  (v.arrivals.find? fun a => a.level == level && a.id == id && a.lane == l).map (·.phase)

/-- Whether a strand's barrier wait has ended (R198). -/
def barrierOver (s : State) (v : Wave) (t : Strand) : Bool :=
  match t.park with
  | .bar level id ph => decide (ph < (barrierOf s v level id).phase)
  | .barw level id =>
    let ph := (barrierOf s v level id).phase
    (lanesOf t.mask).all fun l => match arrivalOf v level id l with | none => true | some q => decide (q < ph)
  | _ => false

/-- Completes the phases whose arrivals have reached E (R197), and lets the strands that wait on them go on (R198). -/
def settleBarriers (s : State) (launch : Nat) : State :=
  let s : State := { s with
    barriers := s.barriers.map fun b =>
      if b.launch = launch then
        let e := expected s b
        if e = 0 then b else { b with count := b.count % e, phase := b.phase + b.count / e }
      else b }
  { s with
    waves := s.waves.map fun v =>
      if v.launch = launch ∧ v.phase = .live then
        v.modAll fun t => if barrierOver s v t then t.advance else t
      else v }

/-! ### The needle -/

/-- A bay; before any use it is as at reset. -/
def bayOf (s : State) (core bay : Nat) : Bay :=
  (s.bays.find? fun b => b.core == core && b.bay == bay).getD
    { core := core, bay := bay, holder := none, fifo := [], mstat := 0,
      accs := Vector.replicate 4 (Vector.replicate 8 (Vector.replicate 32 0)) }

/-- Changes a bay. -/
def modBay (s : State) (core bay : Nat) (f : Bay → Bay) : State :=
  { s with bays := f (bayOf s core bay) :: s.bays.filter fun b => !(b.core == core && b.bay == bay) }

/-- A bay's accumulators and flags zeroed. -/
def Bay.zero (b : Bay) : Bay :=
  { b with accs := Vector.replicate 4 (Vector.replicate 8 (Vector.replicate 32 0)), mstat := 0 }

/-- Gives the needle of a bay to a wave (R225): its NTAKE words complete, or its saved accumulators are loaded (R26, R329). -/
def giveNeedle (s : State) (core bay w : Nat) : State :=
  let s := modBay s core bay fun b => { b with holder := some w, fifo := b.fifo.filter (· != w) }
  match s.waves[w]? with
  | none => s
  | some v =>
    let s := modWave s w fun v => v.modAll fun t => if t.park = .needle then t.advance else t
    match v.image with
    | some im =>
      match im.me with
      | some me =>
        let s := modWave (modBay s core bay fun b => { b with accs := me.accs, mstat := me.mstat }) w fun v => { v with image := none }
        me.poison.foldl (fun s q => setPoison s (.acc core bay q.1 q.2.1 q.2.2.1) q.2.2.2) s
      | none => s
    | none => s

/-- Clears the poison of a bay's accumulators, which a zeroing writes (R225, R421). -/
def clearAccs (s : State) (core bay : Nat) : State :=
  { s with poison := s.poison.filter fun q => match q.1 with | .acc c b _ _ _ => !(c == core && b == bay) | _ => true }

/-- Zeroes the accumulators and the flags and passes the needle on (R225): to a named waiter, else to the first, else it is free. -/
def passNeedle (s : State) (core bay : Nat) (tgt : Option Nat) : State :=
  let s := clearAccs (modBay s core bay fun b => { b.zero with holder := none }) core bay
  let b := bayOf s core bay
  match (match tgt with | some w => if b.fifo.contains w then some w else b.fifo.head? | none => b.fifo.head?) with
  | none => s
  | some w => giveNeedle s core bay w

/-- A wave leaves the needle FIFO (R225). -/
def leaveFifo (s : State) (w : Nat) (v : Wave) : State :=
  if (bayOf s v.core v.bay).fifo.contains w then modBay s v.core v.bay fun b => { b with fifo := b.fifo.filter (· != w) } else s

/-- A wave leaves its bay's needle: it releases it when it holds it, and leaves the FIFO (R26, R382). -/
def leaveNeedle (s : State) (w : Nat) (v : Wave) : State :=
  let s := leaveFifo s w v
  if (bayOf s v.core v.bay).holder = some w then passNeedle s v.core v.bay none else s

/-! ### Retirement -/

/-- Whether every wave of a launch has retired and every unit was placed (R371). -/
def launchDone (s : State) (li : Nat) (l : Launch) : Bool :=
  l.phase == .running && decide (unitCount l ≤ l.nextTeam)
    && s.waves.all fun v => v.launch != li || v.phase == .retired || v.phase == .gone

/-- The completion value of a launch (R371). -/
def doneValue (l : Launch) : DWord :=
  BitVec.ofNat 64 (l.nabort * 2 ^ 32 + l.reason * 2 ^ 8 + (if l.reason ≠ 0 then 1 else if l.nabort ≠ 0 then 2 else 0))

/-- A launch ends: its completion value waits for its cell (R371), and an aborted one signals (R407). -/
def endLaunch (s : State) (li : Nat) (l : Launch) : State :=
  let s := { s with launches := s.launches.modify li fun l => { l with phase := .ended } }
  let s := match l.queue with
    | some q =>
      if recDone l.record = 0 then s
      else { s with dones := s.dones ++ [{ hank := l.hank, queue := q, launch := li, value := doneValue l, cell := recDone l.record, held := false }] }
    | none => s
  if l.nabort = 0 then s else hankEvent s l.hank 3

/-- Ends the launch of a wave once it is over. -/
def settleLaunch (s : State) (li : Nat) : State :=
  match s.launches[li]? with
  | none => s
  | some l => if launchDone s li l then endLaunch s li l else s

/-- The retired wave (R24, R200): no strand, no access thread, yarns closed, monitor disarmed, regions closed. -/
def Wave.retired (v : Wave) : Wave :=
  { v with
    phase := .retired, strands := [], exited := 0xFF, finish := none, tokens := [], flags := Vector.replicate 12 0, access := none,
    yarns := Vector.replicate 8 Yarn.closed, monitor := none, region := none, idem := none, trap := none, more := none, image := none,
    latch := none }

/-- A pair's pairing ends (R272, R273): its reservation is freed and PAIRED becomes 0 in both waves. -/
def endPair (s : State) (k : Nat) : State :=
  match s.pairs[k]? with
  | none => s
  | some p =>
    let off := fun (v : Wave) => { v with rpstat := v.rpstat &&& ~~~1 }
    modWave (modWave { s with pairs := s.pairs.modify k fun p => { p with active := false } } p.leader off) p.trailer off

/-- A team ends with its last wave (R288): its windows are freed. -/
def settleTeam (s : State) (ti : Nat) : State :=
  match s.teams[ti]? with
  | none => s
  | some t =>
    if t.phase == .ended || !(s.waves.all fun v => v.team != ti || v.phase == .retired || v.phase == .gone) then s
    else
      let s := modTeam s ti fun t => { t with phase := .ended, scratch := [], recs := [] }
      modHank s t.hank fun k => { k with windows := k.windows.filter fun x => x.team != ti }

/-- Slices of a team's scratch as ranges of offsets (R166). -/
def Team.slices (t : Team) : List (Nat × Nat) :=
  (List.range (if t.wide then 4 else 1)).map fun k => (k * 2 ^ 19, 1024 * t.sliceKib)

/-- The place of a scratch offset in the team's image (R331, R383). -/
def Team.imageAt (t : Team) (off : Nat) : Nat := off / 2 ^ 19 * (1024 * t.sliceKib) + off % 2 ^ 19

/-- The scratch ranges that a team's saved waves name (R265, R331); a full save names all of it. -/
def savedRanges (s : State) (ti : Nat) (t : Team) : List (Nat × Nat) :=
  let ims := (s.waves.filter fun v => v.team == ti && v.phase == .saved).filterMap (·.image)
  if ims.any fun m => m.record.isNone then t.slices else ims.flatMap (·.ranges)

/-- Whether an offset lies in one of some ranges. -/
def inRanges (rs : List (Nat × Nat)) (off : Nat) : Bool := rs.any fun r => decide (r.1 ≤ off ∧ off < r.1 + r.2)

/-- The context pool of a hank (R365). -/
def ctxBase (s : State) (h : Nat) : Nat := bitsN (hreg s h 0x188).toNat 51 16 * 2 ^ 16

/-- The barriers of groups that lie wholly within a team (R331). -/
def teamBarriers (s : State) (ti : Nat) (t : Team) : List Barrier :=
  match s.launches[t.launch]? with
  | none => []
  | some l =>
    let unit := unitLevel l.record
    s.barriers.filter fun b =>
      b.launch == t.launch && decide (b.level < unit) && b.trailer == (t.role == .trailer)
        && s.waves.any fun v => v.team == ti && groupIndex l.record v.waveid.toNat b.level == b.group

/-- Writes the team's barrier state behind its scratch image (R331, R383): 16 bytes a barrier, of which the spec does not give the
layout (log 21). -/
def saveBarriers (s : State) (ti : Nat) (t : Team) (base : Nat) : State :=
  (teamBarriers s ti t).zipIdx.foldl (fun s b =>
    homeWrite { s with fresh := s.fresh + 1 } t.hank true (base + t.slices.length * (1024 * t.sliceKib) + 16 * (b.2 % 256))
      ((List.range 16).map (Config.barrierImage s.fresh))) s

/-- The scratch granules of some ranges that hold poison take it to the team's block (R421). -/
def savePoison (s : State) (ti : Nat) (t : Team) (rs : List (Nat × Nat)) (base : Nat) : State :=
  s.poison.foldl (fun u q => match q.1 with
    | .scratch k g => if k = ti && inRanges rs (16 * g) then setPoison u (.phys ((base + t.imageAt (16 * g)) / 16)) q.2 else u
    | _ => u) s

/-- A team whose waves have all been saved, retired ones apart, is saved (R331): its block is written, and scratch that no record names
is 0 from then on (R265). -/
def settleSave (s : State) (ti : Nat) : State :=
  match s.teams[ti]? with
  | none => s
  | some t =>
    let mine := s.waves.filter fun v => v.team == ti
    if t.phase != .placed || mine.any (fun v => v.phase == .live) || !(mine.any fun v => v.phase == .saved) then s
    else
      let rs := savedRanges s ti t
      let base := ctxBase s t.hank + (t.ctx.map Prod.fst).getD 0
      let s := rs.foldl (fun s r => homeWrite s t.hank true (base + t.imageAt r.1) (scratchRead s ti r.1 r.2)) s
      let s := savePoison s ti t rs base
      let s := saveBarriers s ti t base
      let s := modTeam s ti fun t =>
        { t with
          phase := .saved, scratch := t.scratch.filter fun p => inRanges rs p.1
          zeroed := t.zeroed || !(t.slices.all fun x => rs.contains x) }
      { s with poison := s.poison.filter fun q => match q.1 with | .scratch u g => u != ti || inRanges rs (16 * g) | _ => true }

/-- The directory's keep is over when its wave is gone (R241). -/
def freeKeeper (s : State) (h w : Nat) : State :=
  modHank s h fun k => { k with keeper := k.keeper.filter fun x => x.wave != w, dirQueue := k.dirQueue.filter fun x => x.1 != w }

/-- A wave retires (R200): outstanding results are dropped, its fills are cancelled, the needle is released, and its launch may end.
With a cause it counts in NABORT and leaves a RETIRE record (R318, R371, R428). -/
def retireWave (s : State) (w : Nat) (cause : Option Nat) : State :=
  match s.waves[w]? with
  | none => s
  | some v =>
    if v.phase = .live ∨ v.phase = .saved then
      let s := stopWave s w
      let s := cancelFlights s fun f =>
        f.wave == w && (match f.kind with | .fill _ _ _ | .trace _ | .clock | .commit => true | _ => f.wb && !f.perf)
      let s := { s with flights := s.flights.map fun f => if f.wave = w then { f with wb := false, regs := [], res := [] } else f }
      let s := freeKeeper (settleSave (settleTeam (modWave s w Wave.retired) v.team) v.team) v.hank w
      let s := if v.phase = .live then leaveNeedle s w v else s
      let s := match cause with
        | none => s
        | some c =>
          let s := { s with launches := s.launches.modify v.launch fun l => { l with nabort := l.nabort + 1 } }
          errRecord s 1 (coreField v.core) v.hank 6 (v.trapRegs.fpc.setWidth 64) (BitVec.ofNat 64 (v.waveid.toNat + c * 2 ^ 32))
      let s := match v.pair with
        | some k => endPair s k
        | none => s
      settleBarriers (settleLaunch s v.launch) v.launch
    else s

/-- Whether a wave has no live strand and none parked on a fault or set aside (R12, R44). -/
def Wave.empty (v : Wave) : Bool := v.strands.isEmpty

/-- A step that may let waiting words go on (log 4). -/
def bump (s : State) : State := { s with progress := s.progress + 1 }

/-! ### Atomic regions and idempotent regions -/

/-- `%ars` after an abort (R258, R259). -/
def arsAbort (ars : Word) (cause code detail : Nat) : Word :=
  (ars &&& 0x80) ||| BitVec.ofNat 32 (detail * 2 ^ 16 + code * 2 ^ 8 + cause)

/-- The region's stores and its AREND are no longer in flight. -/
def endRegionFlights (s : State) (w : Nat) : State :=
  { s with flights := sweepFlights [] (s.flights.map fun f =>
    if f.wave = w ∧ f.kind = .commit then { f with wb := false, perf := false, regs := [], res := [] } else f) }

/-- Whether an access thread's trap has set a region's strand aside (R319). -/
def Wave.regionAside (v : Wave) (r : Region) : Bool :=
  match v.trap with
  | some e => e.isAccess && !r.handler
  | none => false

/-- Changes a region's strand, wherever it is. -/
def Wave.modRegion (v : Wave) (r : Region) (f : Strand → Strand) : Wave :=
  if v.regionAside r then
    { v with trap := v.trap.map fun e => { e with aside := e.aside.map fun t => if t.num = r.strand then f t else t } }
  else v.modThread r.strand f

/-- Lanes leave the strands they are in, those that a trap set aside too, and are one strand at a header (R258, R267). -/
def Wave.regather (v : Wave) (lanes : Mask) (pc : DWord) (handler : Bool) : Wave :=
  let v := (v.dropLanes lanes).dropAside lanes
  if lanes = 0 then v else v.addStrands [{ num := 0, mask := lanes, pc := pc, clause := none, park := .none, handler := handler }]

/-- A region's strand goes to the fallback (R258). After its AREND its lanes may stand in several strands; lanes that have exited do not come
back (log 19). -/
def Wave.toFallback (v : Wave) (r : Region) : Wave :=
  let lanes := r.lanes &&& v.notExited
  if !r.committing then v.modRegion r fun t => t.goto r.fallback
  else if !v.regionAside r then v.regather lanes r.fallback r.handler
  else
    { v with trap := v.trap.map fun e =>
        let ts := (e.aside.map fun t => { t with mask := t.mask &&& ~~~lanes }).filter fun t => t.mask != 0
        let n := (lowestFree 8 (ts.map (·.num))).getD 0
        { e with aside := if lanes = 0 then ts
            else ts ++ [{ num := n, mask := lanes, pc := r.fallback, clause := none, park := .none, handler := r.handler }] } }

/-- A wave leaves the needle FIFO when all its strands that wait there are among some lanes. -/
def leaveFifoIn (s : State) (w : Nat) (lanes : Mask) : State :=
  match s.waves[w]? with
  | some v => if v.strands.any (fun t => t.park == .needle && t.mask &&& ~~~lanes == 0) then leaveFifo s w v else s
  | none => s

/-- An atomic region aborts (R258): stores and tags are discarded, `%ars` is written, the strand goes to the fallback. -/
def abortRegion (s : State) (w cause code detail : Nat) : State :=
  match s.waves[w]? with
  | none => s
  | some v =>
    match v.region with
    | none => s
    | some r =>
      let s := if r.committing && !v.regionAside r then leaveFifoIn (stopWave s w) w r.lanes else s
      let s := modWave s w fun v => { v.toFallback r with region := none, ars := arsAbort v.ars cause code detail }
      let s := endRegionFlights s w
      if v.regionAside r then s else stopRunning s w r.strand

/-- The poison that some registers of a wave hold: register, lane div 4, source (R421). -/
def regMarks (s : State) (w : Nat) (rs : List Nat) : List (Nat × Nat × Nat) :=
  s.poison.filterMap fun q => match q.1 with
    | .reg k r l => if k = w ∧ rs.contains r then some (r, l, q.2) else none
    | _ => none

/-- What becomes of the poison of registers that are written back in some lanes from copies (R421): the copy's poison comes with it, and clean
copies of whole granules clear it. -/
def restoreMarks (s : State) (w : Nat) (m : Mask) (rs : List Nat) (marks : List (Nat × Nat × Nat)) : State :=
  let whole := fun (l : Nat) => (List.range 4).all fun k => m.getLsbD (4 * l + k)
  let some' := fun (l : Nat) => (List.range 4).any fun k => m.getLsbD (4 * l + k)
  if s.poison.isEmpty && marks.isEmpty then s
  else
    let s := { s with poison := s.poison.filter fun q => match q.1 with
      | .reg k r l => !(k == w && rs.contains r && whole l)
      | _ => true }
    marks.foldl (fun s q => if some' q.2.1 then setPoison s (.reg w q.1 q.2.1) q.2.2 else s) s

/-- An idempotent region restarts (R267): outstanding loads of its lanes are dropped, its lanes become one strand at the entry, the
named registers are restored in those lanes, the monitor is disarmed. -/
def restartIdem (s : State) (w : Nat) (r : Idem) : State :=
  let s := { s with
    flights := s.flights.map fun f =>
      if f.wave = w ∧ !f.isAccess then
        let res := f.res.filter fun x => !r.lanes.getLsbD x.lane
        if res.isEmpty && !f.res.isEmpty then { f with res := [], regs := [], wb := false } else { f with res := res }
      else f }
  let s := leaveFifoIn (stopWave s w) w r.lanes
  let lanes := match s.waves[w]? with | some v => r.lanes &&& v.notExited | none => 0
  let s := restoreMarks s w (lanes &&& r.copied) (r.saved.map Prod.fst) r.marks
  modWave s w fun v =>
    let v := v.regather lanes r.entry false
    let v := r.saved.foldl (fun v p => v.setReg p.1 (mergeRow (lanes &&& r.copied) (v.reg p.1) p.2)) v
    { v with monitor := none, idem := some { r with restarts := r.restarts + 1 } }

/-! ### Taking a trap -/

/-- Code and priority of a cause (R313). -/
def Cause.code : Cause → Nat
  | .clauseForm => 0x03 | .codePageFault => 0x05 | .codeProtection => 0x06 | .illegalOp => 0x01 | .illegalField => 0x02
  | .divergentAccess => 0x0F | .needle => 0x14 | .trapInsn => 0x10 | .breakpoint => 0x11 | .desc => 0x0E | .streamDesync => 0x0A
  | .sparseMeta => 0x0B | .scaleSign => 0x0C | .misalign => 0x04 | .pageFault => 0x05 | .protection => 0x06
  | .versionEscape => 0x07 | .shadowFull => 0x08 | .logFull => 0x09 | .gauge => 0x0D | .uncorrectable => 0x12
  | .migrated => 0x15 | .watchdog => 0x13

/-- The place of a cause in the order of R313; 0 is highest. -/
def Cause.prio : Cause → Nat
  | .clauseForm => 1 | .codePageFault => 2 | .codeProtection => 2 | .illegalOp => 3 | .illegalField => 4 | .divergentAccess => 5
  | .needle => 6 | .trapInsn => 7 | .breakpoint => 7 | .desc => 8 | .streamDesync => 9 | .sparseMeta => 10 | .scaleSign => 11
  | .misalign => 12 | .pageFault => 13 | .protection => 14 | .versionEscape => 15 | .shadowFull => 16 | .logFull => 17
  | .gauge => 18 | .uncorrectable => 19 | .migrated => 20 | .watchdog => 21

/-- `%finfo`.SPACE (R315). -/
def Space.num : Space → Nat
  | .none => 0 | .global => 1 | .scratch => 2 | .vault => 3 | .param => 4 | .code => 5 | .node => 6 | .record => 7

/-- `%finfo` for a lane's fault at word `idx` with bits 63:54 `opc` (R315). -/
def finfoOf (f : LaneFault) (acc : Bool) (idx opc : Nat) : Word :=
  if f.cause = .trapInsn ∨ f.cause = .breakpoint then BitVec.ofNat 32 f.detail
  else BitVec.ofNat 32 (acc.toNat * 2 ^ 31 + f.wr.toNat * 2 ^ 30 + f.space.num * 2 ^ 27 + idx % 16 * 2 ^ 20
    + f.detail % 64 * 2 ^ 10 + opc % 1024)

/-- The handler registers for the lanes of a parked strand with the highest-priority cause (R315). -/
def trapRegsOf (t : Strand) (acc : Bool) (opc : Nat) (fs : List LaneFault) (f : LaneFault) (lanes : Mask) (more : Bool) : TrapRegs :=
  let first := (argMin (·.lane) (fs.filter fun g => g.cause == f.cause && (acc || lanes.getLsbD g.lane))).getD f
  let idx := match t.clause with | some c => c.idx | none => 0
  { fcause := BitVec.ofNat 32 (more.toNat * 2 ^ 31 + f.cause.code)
    fmask := if acc then 0 else lanes.setWidth 32
    fpc := Word.lo t.wordPc
    faddrlo := Word.lo first.addr
    faddrhi := Word.hi first.addr
    finfo := finfoOf first acc idx opc }

/-- Bits 63:32 of the faulting word's address (R315); TRAP and BPT report the word in the fault's address (R202). -/
def trapHi (t : Strand) (f : LaneFault) : Word :=
  if f.cause = .trapInsn ∨ f.cause = .breakpoint then Word.hi f.addr else Word.hi t.wordPc

/-- The faults of a parked strand. -/
def Strand.faults (t : Strand) : Nat × List LaneFault :=
  match t.park with
  | .fault opc fs => (opc, fs)
  | _ => (0, [])

/-- The fault of highest priority among a strand's lanes, the lowest lane first (R313). -/
def topFault (fs : List LaneFault) : Option LaneFault := argMin (fun f => 16 * f.cause.prio + f.lane) fs

/-- Whether every strand of a wave has stopped (R314): the clause of none is running, and none is still to finish its clause. -/
def quiet (s : State) (w : Nat) : Bool :=
  !(s.running.any fun r => r.w == w && r.n != 8) && (match s.waves[w]? with | some v => v.finishing.isEmpty | none => true)

/-- Takes the trap of a strand of the execute slice (R314-R316, R318): the handler strand starts at the trap base in the lanes of the
highest-priority cause, the lanes' state is set aside, lanes of other causes stay parked. With no trap base the wave retires. -/
def takeStrandTrap (s : State) (w : Nat) (v : Wave) (t : Strand) : State :=
  let (opc, fs) := t.faults
  match topFault fs with
  | none => s
  | some f =>
    let lanes := maskOf fun l => t.mask.getLsbD l && fs.any fun g => g.lane == l && g.cause == f.cause
    let rest := t.mask &&& ~~~lanes
    let regs := trapRegsOf t false opc fs f lanes (rest != 0)
    let base := hreg s v.hank 0x020
    let s := modWave s w fun v => { v with trapRegs := regs }
    if base = 0 then retireWave s w (some f.cause.code)
    else modWave s w fun v =>
      let v := v.modThread t.num fun _ => { num := t.num, mask := lanes, pc := base, clause := none, park := .none, handler := true }
      let n := v.freeNum
      let v := if rest = 0 then v
        else v.addStrands [{ t with mask := rest, park := .fault opc (fs.filter fun g => rest.getLsbD g.lane) }]
      { v with
        more := if rest = 0 then none else some n
        trap := some { aside := [{ t with mask := lanes, park := .none }], isAccess := false, mask := lanes, hi := trapHi t f, back := 0, served := false } }

/-- Takes the trap of the access thread (R319): every live lane enters the handler. -/
def takeAccessTrap (s : State) (w : Nat) (v : Wave) (t : Strand) : State :=
  let (opc, fs) := t.faults
  match topFault fs with
  | none => s
  | some f =>
    let lanes := v.inStrands
    let s := modWave s w fun v => { v with trapRegs := trapRegsOf t true opc fs f lanes false }
    let base := hreg s v.hank 0x020
    if base = 0 ∨ lanes = 0 then retireWave s w (some f.cause.code)
    else modWave s w fun v =>
      { v with
        strands := [{ num := (v.strands.map (·.num)).foldl min 7, mask := lanes, pc := base, clause := none, park := .none, handler := true }]
        trap := some { aside := v.strands, isAccess := true, mask := lanes, hi := trapHi t f, back := 0, served := false } }

/-- The strand parked on a fault whose trap is taken next: the one that the last trap left under MORE (R317), else the lowest number
(R314). -/
def Wave.nextFault (v : Wave) : Option Strand :=
  let fs := v.strands.filter Strand.faulted
  match v.more.bind fun n => fs.find? fun t => t.num == n with
  | some t => some t
  | none => argMin (·.num) fs

/-- Whether a wave's trap can be taken now (R314). -/
def trapReady (s : State) (w : Nat) (v : Wave) : Bool := v.phase == .live && v.trap.isNone && v.trapPending && quiet s w

/-- A trap is taken (R314): the one operation behind every fault that a program raises. -/
def takeTrap (s : State) (w : Nat) : State :=
  match s.waves[w]? with
  | none => s
  | some v =>
    match v.nextFault with
    | some t => takeStrandTrap s w v t
    | none =>
      match v.access with
      | some a => if a.strand.faulted then takeAccessTrap s w v a.strand else s
      | none => s

/-- Lanes fault in a handler strand: the wave retires (R318). -/
def doubleFault (s : State) (w : Nat) (v : Wave) : State := retireWave s w (some (v.trapRegs.fcause.toNat % 256))

/-! ### Returning from a trap -/

/-- A set-aside strand at the resume address (R54): at its word under its clause state, or afresh at a header. -/
def Strand.resumeAt (t : Strand) (pc : DWord) : Strand := if pc = t.wordPc then { t with park := .none } else t.goto pc

/-- The lanes of a handler strand of an access thread's trap return to the strands set aside (R319), which come back once no handler lane
remains. -/
def Wave.returnLanes (v : Wave) (m : Mask) : Wave := { v with trap := v.trap.map fun e => { e with back := e.back ||| m } }

/-- The trap is over when no handler lane remains (R317): the strands that an access thread's trap set aside come back. -/
def Wave.endTrap (v : Wave) : Wave :=
  if v.strands.any (·.handler) then v
  else match v.trap with
    | some e =>
      { v with
        trap := none
        strands := v.strands ++ (if e.isAccess then
          (e.aside.map fun t => { t with mask := t.mask &&& e.back }).filter fun t => t.mask != 0 else []) }
    | none => v

/-- The return from a trap in handler strand n (R203, R317, R319, R54). -/
def returnTrap (s : State) (w n : Nat) : State :=
  match s.waves[w]? with
  | none => s
  | some v =>
    match v.trap, v.thread n with
    | some e, some t =>
      let pc := Word.pair v.trapRegs.fpc e.hi
      let s := stopRunning s w n
      if e.isAccess then
        modWave s w fun v =>
          let v : Wave := { v with
            access := v.access.map fun a => if a.strand.faulted && !e.served then { a with strand := a.strand.resumeAt pc } else a
            trap := v.trap.map fun e => { e with served := true } }
          let v := { v with strands := v.strands.filter fun u => u.num != n }
          (v.returnLanes t.mask).endTrap
      else
        match e.aside with
        | [] => s
        | a :: _ => modWave s w fun v => (v.modThread n fun _ => { a.resumeAt pc with num := n, mask := t.mask }).endTrap
    | _, _ => s

end Sys2Proof.Machine
end

