-- ==== Sys2Proof/Machine/Plies.lean ====
section
/-! DEFINITION. The ply tree's changes at the version directory (10 R236, R241-R245): free numbers, forks, frogs and keeps. -/

namespace Sys2Proof.Machine

/-! ### The directory -/

/-- Whether a keep holds the hank's version directory (R241): one that waits, or one whose deferred effects are being issued. -/
def keepBusy (s : State) (h : Nat) : Bool := (hankOf s h).keeper.isSome || !(hankOf s h).draining.isEmpty

/-- A word waits behind the directory's keep (R241): it takes its place in the order of arrival. -/
def joinDir (s : State) (h w n pc : Nat) : State :=
  modHank s h fun k =>
    { k with dirQueue := if k.dirQueue.contains (w, n, pc) then k.dirQueue
        else (k.dirQueue.filter fun x => !(x.1 == w && x.2.1 == n)) ++ [(w, n, pc)] }

/-- A word that the directory serves gives up its place (R241). -/
def leaveDir (s : State) (h w n : Nat) : State :=
  if (hankOf s h).dirQueue.any fun x => x.1 == w && x.2.1 == n then
    modHank s h fun k => { k with dirQueue := k.dirQueue.filter fun x => !(x.1 == w && x.2.1 == n) }
  else s

/-- The free ply numbers, ascending (R236): neither live nor being reconciled. -/
def freePlies (k : Hank) : List Nat := (List.range 64).filter fun p => !(isLive k p || k.recon.any fun r => r.1 == p)

/-- Makes children of a ply (R242, R249). -/
def addPlies (s : State) (h parent : Nat) (life : Option (Nat × Nat)) (ns : List Nat) : State :=
  modHank s h fun k =>
    let d := match plyOf? k parent with | some y => y.depth + 1 | none => 1
    { k with plies := k.plies ++ ns.map fun n => { num := n, parent := parent, depth := d, life := life, log := [] } }

/-- DEPTH or LIMIT for `n` new children of a ply, or OK (R240). -/
def forkStatus (k : Hank) (p n : Nat) : Nat :=
  match plyOf? k p with
  | some y => if 8 ≤ y.depth then 7 else if (freePlies k).length < n then 6 else 0
  | none => 7

/-- Moves a wave to a ply (R243). -/
def moveWave (s : State) (w p : Nat) : State := modWave s w fun v => { v with ply := p }

/-- The accesses of an atomic region that issued in some plies act in `p` from now on (R244, R307). -/
def Region.repoint (ps : List Nat) (p : Nat) (r : Region) : Region :=
  let now := fun (q : Nat) => if ps.contains q then p else q
  { r with
    lines := r.lines.map fun t => { t with ply := now t.ply }
    stores := r.stores.map fun t => { t with ply := now t.ply }
    slots := r.slots.map fun ls => ls.map fun x => (x.1, x.2.1, x.2.2.1, now x.2.2.2) }

/-- What a frog leaves of an atomic region of a wave that it spares (R245, R307): the stores made in the frogged plies are dropped, and what was
read there has changed. -/
def Region.frogged (ps : List Nat) (r : Region) : Region :=
  { r with
    lines := r.lines.map fun t => if ps.contains t.ply then { t with changed := true } else t
    stores := r.stores.filter fun t => !ps.contains t.ply }

/-- Operations in flight that act in some plies act in `p` from now on: traversals (R238), the accesses of an atomic region, and those that keeps
and frogs ask for. -/
def repointOps (s : State) (h : Nat) (ps : List Nat) (p : Nat) : State :=
  { s with
    waves := s.waves.map fun v =>
      if v.hank = h then
        { v with
          rays := v.rays.map fun r => { r with args := r.args.map fun a => if ps.contains a.ply then { a with ply := p } else a }
          region := v.region.map (Region.repoint ps p) }
      else v
    flights := s.flights.map fun f =>
      if ps.contains f.ply && (match s.waves[f.wave]? with | some v => v.hank == h | none => false) then { f with ply := p } else f }

/-- The live and saved waves of a hank whose ply passes a test. -/
def wavesIn (s : State) (h : Nat) (f : Nat → Bool) : List Nat :=
  (s.waves.mapIdx fun i v => (i, v)).filterMap fun q =>
    if (q.2.phase == .live || q.2.phase == .saved) && q.2.hank == h && f q.2.ply then some q.1 else none

/-- Operations end that stood for deferred effects: they are performed, or dropped with their log (R299, R308). -/
def endDeferred (s : State) (es : List LogEntry) : State :=
  if es.isEmpty then s
  else
    { s with flights := sweepFlights [] (s.flights.map fun f =>
        if f.kind == .deferred && es.any (fun e => e.flight == f.id) then { f with perf := false } else f) }

/-- Drops plies with their versions and logs (R245); their slots stay reserved until they are reconciled (R236, R361). -/
def dropPlies (s : State) (h : Nat) (ps : List Nat) : State :=
  let s := endDeferred s (((hankOf s h).plies.filter fun y => ps.contains y.num).flatMap (·.log))
  let rec' := ps.map fun p => (p, (s.versions.filter fun v => v.hank == h && v.ply == p).length)
  let s := modHank s h fun k => { k with plies := k.plies.filter fun y => !ps.contains y.num, recon := rec' ++ k.recon }
  retagLines { s with
    versions := s.versions.filter fun v => !(v.hank == h && ps.contains v.ply)
    poison := s.poison.filter fun q => match q.1 with | .version g p _ => !(g == h && ps.contains p) | _ => true } h ps none

/-- Frogs a ply with its subtree (R245): the waves in it retire, except the `spare` ones, which move to its parent, and with them what is
in flight there (R307). -/
def frog (s : State) (h t : Nat) (spare : List Nat) : State :=
  let k := hankOf s h
  match plyOf? k t with
  | none => s
  | some y =>
    if t = 0 then s
    else
      let sub := (k.plies.map (·.num)).filter fun q => isUp k q t
      let s := (wavesIn s h sub.contains).foldl (fun s w =>
        if spare.contains w then moveWave (modWave s w fun v => { v with region := v.region.map (Region.frogged sub) }) w y.parent
        else cancelFlights (retireWave s w none) fun f => f.wave == w) s
      dropPlies (repointOps s h sub y.parent) h sub

/-! ### Keeps -/

/-- The live siblings of a ply. -/
def siblingsOf (k : Hank) (y : Ply) : List Nat := ((childrenOf k y.parent).map (·.num)).filter fun n => n != y.num

/-- Whether a keep of a ply would take its parent's log past 512 entries (R244). -/
def logFull (k : Hank) (y : Ply) : Bool :=
  y.parent != 0 && (match plyOf? k y.parent with | some p => decide (512 < p.log.length + y.log.length) | none => false)

/-- The status of PKEEP, by the checks of R244 in their order; `ip` is the issuer's ply. A subtree that SIB would frog never holds
T, P or an ancestor of P. -/
def keepStatus (k : Hank) (ip t : Nat) (sib : Bool) : Nat :=
  match plyOf? k t with
  | none => 1
  | some y =>
    if t = 0 then 1
    else if !(ip == t || isUp k y.parent ip) then 4
    else if !(childrenOf k t).isEmpty then 2
    else if !sib && !(siblingsOf k y).isEmpty then 3
    else if logFull k y then 5
    else 0

/-- Whether an access that seals wait for is still unperformed (R244, R290, R334): a store, atomic or engine command (yarn fills are such)
issued in the ply by a wave whose ply it still is. -/
def keepWaits (s : State) (h t : Nat) : Bool :=
  s.flights.any fun f =>
    f.perf && f.ply == t && (match f.kind with | .access | .engine | .fill _ _ _ => true | _ => false)
      && (match s.waves[f.wave]? with | some v => v.hank == h && v.ply == t | none => false)

/-- What a keep of `t` into `p` does to the watchers of one line that `t` holds (R179, R257, R260): monitors trigger; the regions of
waves in `t` conflict where `p` held a version; the regions that read `p`'s view of the line conflict. -/
def noteKeep (s : State) (h t p line : Nat) : State :=
  let k := hankOf s h
  let had := p == 0 || (versionIn s h p line).isSome
  let at' := fun (q : Nat) => ((pathOf k q).find? fun q => (versionIn s h q line).isSome).getD 0
  { s with waves := s.waves.map fun v =>
      let v := v.trigger line
      match v.region with
      | some r =>
        if v.hank == h then
          { v with region := some { r with lines := r.lines.map fun x =>
              if x.line = line && (if x.ply = t then had else isUp k x.ply p && isUp k p (at' x.ply)) then { x with changed := true } else x } }
        else v
      | none => v }

/-- One version becomes the root's (R244): the line, and the poison of its granules. -/
def versionToRoot (s : State) (v : Version) : State :=
  let marks := if s.poison.isEmpty then []
    else (List.range 8).filterMap fun j => (poisonAt s (.version v.hank v.ply (8 * v.line + j))).map fun c => (8 * v.line + j, c)
  let s := homeWrite s v.hank v.cached (128 * v.line) v.data
  marks.foldl (fun s m => setPoison s (.phys m.1) m.2) s

/-- A ply's versions become its non-root parent's, superseding the parent's own (R244). -/
def renameVersions (s : State) (h t p : Nat) (ls : List Nat) : State :=
  { s with
    versions := s.versions.filterMap fun v =>
      if v.hank = h ∧ v.ply = p ∧ ls.contains v.line then none
      else if v.hank = h ∧ v.ply = t then some { v with ply := p } else some v
    poison := s.poison.filterMap fun q =>
      match q.1 with
      | .version g r x =>
        if g = h ∧ r = p ∧ ls.contains (x / 8) then none else if g = h ∧ r = t then some (.version g p x, q.2) else some q
      | _ => some q }

/-- Step 4 and 5 of R244: the versions of `y` become its parent's, its waves move there, its log is appended or goes to its targets
(R248), its number waits for reconciliation (R236). -/
def mergePly (s : State) (h : Nat) (y : Ply) : State :=
  let t := y.num
  let p := y.parent
  let mine := s.versions.filter fun v => v.hank == h && v.ply == t
  let ls := mine.map (·.line)
  let lost := if p = 0 then mine.length else (s.versions.filter fun v => v.hank == h && v.ply == p && ls.contains v.line).length
  let s := ls.foldl (fun s l => noteKeep s h t p l) s
  let s : State := if p = 0 then
      let s := mine.foldl versionToRoot s
      { s with
        versions := s.versions.filter fun v => !(v.hank == h && v.ply == t)
        poison := s.poison.filter fun q => match q.1 with | .version g r _ => !(g == h && r == t) | _ => true }
    else renameVersions (retagLines s h [t] (some p)) h t p ls
  let s := repointOps (if p = 0 then retagLines s h [t] none else s) h [t] p
  let s := modHank s h fun k =>
    { k with
      plies := (k.plies.filter fun q => q.num != t).map fun q => if p ≠ 0 ∧ q.num = p then { q with log := q.log ++ y.log } else q
      recon := (t, lost) :: k.recon
      draining := if p = 0 then k.draining ++ y.log else k.draining }
  { s with waves := s.waves.map fun v => if v.hank = h ∧ v.ply = t then { v with ply := p } else v }

/-- A keep that passed its checks (R244): with SIB, or for a pair, other children of the parent are frogged first. -/
def applyKeep (s : State) (h t : Nat) (others spare : List Nat) : State :=
  let s := others.foldl (fun s q => frog s h q spare) s
  match plyOf? (hankOf s h) t with
  | none => s
  | some y => mergePly s h y

/-- Marks who holds the directory. -/
def setKeeper (s : State) (h : Nat) (k : Option Keep) : State := modHank s h fun y => { y with keeper := k }

/-- The siblings that a keep frogs (R244). -/
def keepFrogs (s : State) (h t : Nat) (sib : Bool) : List Nat :=
  if sib then (match plyOf? (hankOf s h) t with | some y => siblingsOf (hankOf s h) y | none => []) else []

/-- A clean write of a register in some lanes unpoisons its whole granules (R421). -/
def cleanReg (s : State) (w d : Nat) (m : Mask) : State := restoreMarks s w m [d] []

/-- Writes the status OK of a PKEEP (R244, R248) into its register. -/
def keepDone (s : State) (w d : Nat) (m : Mask) : State :=
  cleanReg (modWave s w fun v => (v.wake [d]).setReg d (mergeRow m (v.reg d) (Word.splat 0))) w d m

/-- A keep is over (R244, R248): the directory is free, and the strands that wait at it have their status and go on, those of a saved wave from
where they were saved (R325). -/
def endKeep (s : State) (h : Nat) : State :=
  let waits := fun (t : Strand) => match t.park with | .keep d m => some (d, m) | _ => none
  let go := fun (s : State) (w : Nat) =>
    match s.waves[w]? with
    | some v =>
      if v.hank = h ∧ (v.phase = .live ∨ v.phase = .saved) then
        let s := (v.everyStrand.filterMap waits).foldl (fun s p => keepDone s w p.1 p.2) s
        settleFlags (modWave s w fun v => v.modAll fun t => if (waits t).isSome then t.advance else t) w
      else s
    | none => s
  (List.range s.waves.length).foldl go (setKeeper s h none)

/-- A keep whose accesses are all performed merges its ply (R244 step 3 to 5), and is over when no deferred effect waits (R248). -/
def mergeKeep (s : State) (h : Nat) (k : Keep) : State :=
  let s := applyKeep s h k.target (keepFrogs s h k.target k.sib) []
  if (hankOf s h).draining.isEmpty then endKeep s h else setKeeper s h (some { k with merged := true })

/-- The directory's keep goes on when what it waits for is done (R244 step 2), whatever its wave does meanwhile. -/
def settleKeep (s : State) (h : Nat) : State :=
  match (hankOf s h).keeper with
  | some k => if k.merged || keepWaits s h k.target then s else mergeKeep s h k
  | none => s

/-- Settles the keep of every hank. -/
def settleKeeps (s : State) : State :=
  if s.hanks.toList.all (·.keeper.isNone) then s else (List.range 8).foldl settleKeep s

end Sys2Proof.Machine
end

