-- ==== Sys2Proof/Machine/Pairs.lean ====
section
/-! DEFINITION. Redundant pairs (11 R270-R273, 15 R337, 23 R425, R426): the compare, the pair keep, checkpoints and restarts; faults
raised in every strand of a wave (R273, 23 R423); and what follows every change of a wave's strands or operations. -/

namespace Sys2Proof.Machine

/-! ### Faults in every strand -/

/-- Bits 63:54 of the word at an address, 0 when it cannot be read. -/
def opcAt (s : State) (v : Wave) (pc : DWord) : Nat :=
  match walk s v.hank pc.toNat with
  | .leaf l =>
    if Config.physBytes ≤ l.pa then 0
    else leNat (readBytes s v.hank (if pteVer l.pte then v.ply else 0) l.pa 8) / 2 ^ 54
  | _ => 0

/-- A strand whose lanes raise a cause at its word; lanes that already fault there keep their earlier causes too (R313). -/
def Strand.raise (s : State) (v : Wave) (cause : Cause) (detail : Nat) (t : Strand) : Strand :=
  let fs := (lanesOf t.mask).map fun l =>
    { lane := l, cause := cause, addr := 0, wr := false, space := .none, detail := detail : LaneFault }
  match t.park with
  | .fault o gs => { t with park := .fault o (gs ++ fs) }
  | _ => { t with park := .fault (opcAt s v t.wordPc) fs }

/-- Whether a strand is that of the wave's open atomic region (R253). -/
def inRegion (v : Wave) (t : Strand) : Bool :=
  match v.region with
  | some r => !r.committing && r.strand == t.num && r.handler == t.handler
  | none => false

/-- Every live strand of a wave raises a cause at the word it would issue next, or at the word where it is parked; in a handler that is
a double fault (R318). The strand of an open atomic region does not trap: the region aborts with FAULT (R254, R320). -/
def raiseAll (s : State) (w : Nat) (cause : Cause) (detail : Nat) : State :=
  match s.waves[w]? with
  | none => s
  | some v =>
    if v.strands.any (·.handler) then doubleFault s w v
    else
      let all := { s with running := s.running.filter fun r => r.w != w || r.n == 8 }
      let fell := (v.strands.filter (inRegion v)).map (·.num)
      let t := if fell.isEmpty then all else abortRegion all w 6 0 0
      modWave t w fun u => { u with strands := u.strands.map fun t => if fell.contains t.num then t else t.raise s v cause detail }

/-! ### Pairs -/

/-- Whether the wave is one of an active pair that has not been released by its final compare (R273). -/
def pairedLive (s : State) (v : Wave) : Bool :=
  match v.pair with
  | none => false
  | some k => match s.pairs[k]? with | some p => p.active | none => false

/-- A wave of a pair performs REND (R273): the leader adds no more signatures, the trailer waits. -/
def markRend (s : State) (w k : Nat) : State :=
  { s with pairs := s.pairs.modify k fun p => if p.leader = w then { p with rendL := true } else { p with rendT := true } }

/-- The first position at which the signatures differ; a position that one side lacks differs (R426). -/
def firstDiff : Nat → List Sig → List Sig → Option Nat
  | _, [], [] => none
  | n, a :: as, b :: bs => if a = b then firstDiff (n + 1) as bs else some n
  | n, _, _ => some n

/-- The core field of a wave's record. -/
def waveCore (s : State) (w : Nat) : Nat := match s.waves[w]? with | some v => coreField v.core | none => 0xFF

/-- The MISMATCH and MISMATCHT records of a compare (R426, R428). -/
def mismatchRecords (s : State) (p : Pair) (n : Nat) : State :=
  let info := BitVec.ofNat 64 (p.retry * 2 ^ 32 + n)
  let at' := fun (g : List Sig) => ((g[n]?).map (·.addr)).getD 0
  errRecord (errRecord s 1 (waveCore s p.leader) p.hank 5 (at' p.sigL) info) 1 (waveCore s p.trailer) p.hank 12 (at' p.sigT) info

/-- How a pair keep goes (R272): it waits, it is refused with LOGFULL, or it is made. -/
inductive KeepTry where
  | wait
  | logFull
  | kept (s : State)

/-- The pair keep (R272): no LINEAGE and no SIBLINGS check; only the trailer's ply is frogged, and neither wave retires. -/
def pairKeep (s : State) (p : Pair) : KeepTry :=
  let k := hankOf s p.hank
  match plyOf? k p.plyL with
  | none => .kept s
  | some y =>
    if keepBusy s p.hank || keepWaits s p.hank p.plyL || !(childrenOf k p.plyL).isEmpty then .wait
    else if logFull k y then .logFull
    else .kept (applyKeep s p.hank p.plyL [p.plyT] [p.leader, p.trailer])

/-- Changes a pair. -/
def modPair (s : State) (k : Nat) (f : Pair → Pair) : State := { s with pairs := s.pairs.modify k f }

/-- Whether every live lane of a wave is parked at one RCHK word (R272). -/
def Wave.atCheck (v : Wave) : Bool :=
  v.phase == .live && (match v.strands with
    | [] => false
    | t :: ts => (t :: ts).all fun u => u.wordPc == t.wordPc && (match u.park with | .check _ => true | _ => false))

/-- The strands that met at an RCHK as one (R272, R194). -/
def Wave.fuseCheck (v : Wave) : Wave :=
  match v.strands with
  | [] => v
  | t :: ts => { v with strands := [{ t with num := ts.foldl (fun n u => min n u.num) t.num, mask := v.inStrands }] }

/-- The checkpoint of wave `w`, parked at an RCHK (R272): the named registers with their poison, the live lanes, the header after the clause. -/
def checkpointOf (s : State) (w : Nat) (v : Wave) : Checkpoint :=
  match v.strands with
  | [] => { regs := [], marks := [], lanes := 0, pc := 0 }
  | t :: _ =>
    let map := match t.park with | .check m => m | _ => 0
    let named := (List.range v.nregs).filter fun r => map.getLsbD r
    { regs := named.map fun r => (r, v.reg r), marks := regMarks s w named, lanes := v.inStrands, pc := t.nextPc }

/-- The wave back at its checkpoint (R272): its registers, every other register 0, which wakes every bank (R351), its lanes one strand at the
restart point, parked until the plies are forked. -/
def Wave.rollback (ck : Checkpoint) (v : Wave) : Wave :=
  let v := { v with
    regs := Vector.replicate 256 (Word.splat 0), affine := [], drowsy := [], trap := none, more := none, finish := none, region := none
    ars := v.ars &&& ~~~0x40, latch := none
    exited := v.exited &&& ~~~ck.lanes
    strands := [{ num := 0, mask := ck.lanes, pc := ck.pc, clause := none, park := .check 0, handler := false }] }
  ck.regs.foldl (fun v r => v.setReg r.1 r.2) v

/-- A wave goes back to its checkpoint: results still outstanding are dropped, an open region's stores with them, and its registers hold the
poison of the checkpoint's (R421). -/
def rollbackWave (s : State) (w : Nat) (ck : Checkpoint) : State :=
  let s := restoreMarks (endRegionFlights s w) w 0xFF (List.range 256) ck.marks
  let s := { s with
    flights := s.flights.map fun f => if f.wave = w ∧ !f.isAccess then { f with wb := false, regs := [], res := [] } else f
    running := s.running.filter fun r => r.w != w || r.n == 8 }
  modWave s w (Wave.rollback ck)

/-- Two sibling plies are forked for a pair once two numbers are free (R272); the waves then go on from the RCHK, or from their
checkpoint. -/
def forkPair (s : State) (k : Nat) (p : Pair) (back : Bool) : State :=
  let y := hankOf s p.hank
  match freePlies y with
  | a :: b :: _ =>
    if keepBusy s p.hank || forkStatus y p.parent 2 != 0 then s
    else
      let s := addPlies s p.hank p.parent ((plyOf? y p.parent).bind (·.life)) [a, b]
      let s := modPair s k fun p =>
        { p with plyL := a, plyT := b, fork := none, retry := if back then p.retry else 0
                 nchk := if back then p.nchk else (p.nchk + 1) % 256 }
      let go := fun (v : Wave) =>
        if back then { v with strands := v.strands.map fun t => { t with park := .none } }
        else
          let v := v.fuseCheck
          { v with strands := v.strands.map Strand.advance }
      modWave (modWave s p.leader fun v => { go v with ply := a }) p.trailer fun v => { go v with ply := b }
  | _ => s

/-- Both plies of a pair are frogged, and neither wave retires with them (R272). -/
def frogPair (s : State) (p : Pair) : State :=
  frog (frog s p.hank p.plyL [p.leader, p.trailer]) p.hank p.plyT [p.leader, p.trailer]

/-- A mismatch with RETRY below 3 (R272): both waves go back to the last checkpoint. -/
def retryPair (s : State) (k : Nat) (p : Pair) : State :=
  let s := frogPair s p
  let s := modPair s k fun p => { p with retry := p.retry + 1, sigL := [], sigT := [], vals := [], rendL := false, rendT := false, fork := some true }
  rollbackWave (rollbackWave s p.leader p.ckL) p.trailer p.ckT

/-- Every strand of a wave raises a cause, those that met at an RCHK as one strand (R272, R273); a leader with no live lane retires and
counts in NABORT. -/
def raiseMet (s : State) (w : Nat) (cause : Cause) (detail : Nat) : State :=
  match s.waves[w]? with
  | none => s
  | some v =>
    if v.strands.isEmpty then retireWave s w (some cause.code)
    else raiseAll (if v.atCheck then modWave s w Wave.fuseCheck else s) w cause detail

/-- A mismatch with RETRY 3 (R272, R273): the trailer retires, pairing ends, and the leader raises UNCORRECTABLE with DETAIL 7. -/
def breakPair (s : State) (k : Nat) (p : Pair) : State :=
  raiseMet (retireWave (endPair (frogPair s p) k) p.trailer (some Cause.uncorrectable.code)) p.leader .uncorrectable 7

/-- What a mismatch does (R272, R273, R426). -/
def mismatch (s : State) (k : Nat) (p : Pair) (n : Nat) : State :=
  let s := mismatchRecords s p n
  if 3 ≤ p.retry then breakPair s k p else retryPair s k p

/-- The compare of a pair whose waves have met at an RCHK (R272). -/
def checkPair (s : State) (k : Nat) (p : Pair) (a b : Wave) : State :=
  match firstDiff 0 p.sigL p.sigT with
  | some n => if keepBusy s p.hank then s else mismatch s k p n
  | none =>
    match pairKeep s p with
    | .wait => s
    | .logFull => raiseMet (raiseMet s p.leader .logFull 0) p.trailer .logFull 0
    | .kept s =>
      let read := fun (ck : Checkpoint) (v : Wave) => v.wake (ck.regs.map (·.1))
      let ckL := checkpointOf s p.leader a
      let ckT := checkpointOf s p.trailer b
      modPair (modWave (modWave s p.leader (read ckL)) p.trailer (read ckT)) k fun p =>
        { p with sigL := [], sigT := [], ckL := ckL, ckT := ckT, fork := some false }

/-- The final compare of a pair (R273). -/
def finalPair (s : State) (k : Nat) (p : Pair) (a : Wave) : State :=
  match firstDiff 0 p.sigL p.sigT with
  | some n => if keepBusy s p.hank then s else mismatch s k p n
  | none =>
    if a.trapPending then s
    else match pairKeep s p with
      | .wait => s
      | .logFull => raiseMet s p.leader .logFull 0
      | .kept s =>
        let s := retireWave (endPair s k) p.trailer none
        if a.strands.isEmpty then retireWave s p.leader none else s

/-- Whether a trailer waits at REND with every strand, or has none left (R273). -/
def Wave.atRend (v : Wave) : Bool := v.phase == .live && v.strands.all fun t => t.park == .rend

/-- What a pair's waves have been waiting for is done (R272, R273). -/
def settlePair (s : State) (k : Nat) : State :=
  match s.pairs[k]? with
  | none => s
  | some p =>
    if !p.active then s
    else match s.waves[p.leader]?, s.waves[p.trailer]? with
      | some a, some b =>
        match p.fork with
        | some back => forkPair s k p back
        | none =>
          if p.rendL && p.rendT && b.atRend && a.phase == .live then finalPair s k p a
          else if !p.rendL && a.atCheck && b.atCheck then checkPair s k p a b
          else s
      | _, _ => s

/-- Settles the keep of every hank, then every pair, and the forks that its keep or frog made possible. -/
def settlePairs (s : State) : State :=
  let s := settleKeeps s
  let go := fun (s : State) => (List.range s.pairs.length).foldl settlePair s
  if s.pairs.isEmpty then s else go (go s)

/-! ### Which strands may issue -/

/-- Whether a wave is pinned (R324): a fault is not delivered yet, or a strand waits for a migration. -/
def Wave.pinned (v : Wave) : Bool :=
  let migr := fun (t : Strand) => match t.park with | .migrate _ => true | _ => false
  v.phase == .live && ((v.trap.isNone && v.trapPending) || v.everyStrand.any migr || (v.access.any fun a => migr a.strand))

/-- Whether every strand of a wave is parked (R325): its save is a full one. -/
def Wave.allParked (v : Wave) : Bool := v.strands.all fun t => !t.free

/-- Whether a wave is on its way to a save (R264, R325, R347): its strands finish the clauses they are in and start no other, and its access
thread issues no word. A full save begins once no wave of the team is pinned (R324). -/
def stopping (s : State) (v : Wave) : Bool :=
  let free := fun (_ : Unit) => !(s.waves.any fun u => u.team == v.team && u.pinned)
  match v.preempt with
  | .none => false
  | .hint _ _ => true
  | .full => free ()
  | .asked => (!recPromise (recordOf s v) || v.trap.isSome || v.allParked) && free ()

/-- Whether a restored team resumes (R329): all its waves at once, when those that held a needle have it again. A wave does not wait for one
that queues behind another wave of the team (log 21). -/
def resumed (s : State) (v : Wave) : Bool :=
  v.image.isNone && !(s.waves.any fun u =>
    u.team == v.team && u.phase == .live && u.image.isSome
      && (match ((bayOf s u.core u.bay).holder).bind fun k => s.waves[k]? with | some x => x.team != v.team | none => true))

/-- Whether a strand, or the access thread, of a wave may start or resume a clause (R314, R316, R329, R347, R432): under a pending trap those that
finish their clause before it is taken, and in a handler the handler's. -/
def mayIssue (s : State) (v : Wave) (n : Nat) (t : Strand) : Bool :=
  v.phase == .live && s.sysc.stage != 15 && resumed s v
    && (!stopping s v || (n != 8 && t.free && t.inClause))
    && (n == 8 || !v.trapPending || t.handler || (v.trap.isNone && t.free && t.inClause && v.finishing.contains n))

/-! ### After every word -/

/-- What follows a change of a wave's strands or operations: a trap without a handler lane is over (R317), the wave retires when it is empty
and no commit of its region is under way (R257, log 19), a paired wave whose last lane exits performs REND (R273), barriers, JOINs and pairs
are checked again (R192, R197, R200), and flags drop (R48). Under a pending trap the strands are noted that finish their clause (R314). -/
def settle (s : State) (w : Nat) : State :=
  let s := modWave s w fun v => if v.phase = .live then v.endTrap else v
  match s.waves[w]? with
  | none => s
  | some v =>
    if v.phase ≠ .live then pruneRunning (settlePairs (settleFlags s w))
    else
      let s :=
        if v.empty && !(match v.region with | some r => r.committing | none => false) then
          (match v.pair with
           | some k => if pairedLive s v then markRend s w k else retireWave s w none
           | none => retireWave s w none)
        else s
      let s := settleBarriers s v.launch
      let s := modWave s w fun v => if v.phase = .live then (settleJoins v).noteFinish else v
      pruneRunning (settlePairs (settleFlags s w))

end Sys2Proof.Machine
end

