-- ==== Sys2Proof/Machine/Issue.lean ====
section
/-! DEFINITION. What every instruction word shares: the order of its checks (02 R50, R62, R63, 03 R84, 13 R313), its active lanes
(01 R13, 08 R186), the poison its sources hold (23 R421, R422), the symbolic tags of an atomic region (10 R255, R256), and what
becomes of lanes that fault, park or go on (02 R53, R79, 07 R184). -/

namespace Sys2Proof.Machine

/-- The word being issued: wave, strand number (8 for the access thread), wave and strand before the word, active lanes, the mask
that reads as `%exec`, the lanes the word is active in and the lowest of them (what `^bclo` and uniform operands read, R61, R64, though
`act` may leave out lanes that do not complete), the word's address and its bits 63:54. -/
structure Ctx where
  w : Nat
  n : Nat
  v : Wave
  st : Strand
  acc : Bool
  act : Mask
  ex : Mask
  all : Mask
  lo : Nat
  pc : DWord
  opc : Nat
deriving DecidableEq, Repr

/-- Lanes that do not complete a word: they fault, wait for a page to migrate, or hold. -/
structure Stops where
  faults : List LaneFault
  migr : List LaneFault
  holds : Mask
deriving DecidableEq, Repr

/-- No lane stops. -/
def Stops.none : Stops := { faults := [], migr := [], holds := 0 }

/-- What a word's meaning answers: it is done in the lanes that did not stop; it holds; it parks its strand (class B); it has moved
its strand itself; it aborts the atomic region; the model stops. `holdIn` holds in a state that has noted what it waits for. -/
inductive Res where
  | done (s : State) (st : Stops)
  | hold
  | holdIn (s : State)
  | park (s : State) (p : Park)
  | moved (s : State)
  | abort (cause code detail : Nat)
  | stuck (f : Fault)
deriving DecidableEq, Repr

/-- The word is done in every active lane. -/
def Res.ok (s : State) : Res := .done s Stops.none

/-! ### Reading operands -/

/-- The lane that lane l of a SHFLI reads (R130). -/
def shfliLane (imm l : Nat) : Nat :=
  let n := imm % 8
  match imm / 8 % 4 with
  | 0 => n
  | 1 => if n ≤ l then l - n else l
  | 2 => if l + n ≤ 7 then l + n else l
  | _ => l ^^^ n

/-- The lane of a source register that lane l reads (R61, R64, R130). -/
def Ctx.lane (c : Ctx) (sel : Sel) (l : Nat) : Nat :=
  match sel with
  | .lane p => permLane p c.all l
  | .lo => c.lo
  | .loPerm p => permLane p c.all c.lo
  | .at k => k
  | .shfl p b => permLane p c.all ((Row.lane (c.v.file c.acc b) l).toNat % 8)
  | .shfli p imm => permLane p c.all (shfliLane imm l)

/-- A register before the word. -/
def Ctx.reg (c : Ctx) (r : Nat) : Row := c.v.file c.acc r

/-- What lane l reads from a source. -/
def Ctx.src (c : Ctx) (s : Src) (l : Nat) : Word := Row.lane (c.reg s.reg) (c.lane s.sel l)

/-- What lane l reads from a register through a permutation (R64). -/
def Ctx.perm (c : Ctx) (r : BitVec 8) (p : BitVec 3) (l : Nat) : Word := Row.lane (c.reg r.toNat) (permLane p c.all l)

/-- What lane l reads from a pair through a permutation (R64). -/
def Ctx.perm64 (c : Ctx) (r : BitVec 8) (p : BitVec 3) (l : Nat) : DWord :=
  let k := permLane p c.all l
  Word.pair (Row.lane (c.reg r.toNat) k) (Row.lane (c.reg (r.toNat + 1)) k)

/-- A uniform operand: the lowest active lane's value (R61). -/
def Ctx.u (c : Ctx) (r : Nat) : Word := Row.lane (c.reg r) c.lo

/-- A uniform pair. -/
def Ctx.u64 (c : Ctx) (r : Nat) : DWord := Word.pair (c.u r) (c.u (r + 1))

/-- The wave in a later state. -/
def Ctx.wave (c : Ctx) (s : State) : Wave := (s.waves[c.w]?).getD c.v

/-- Writes the active lanes of a register. -/
def Ctx.put (c : Ctx) (s : State) (r : Nat) (f : Nat → Word) : State := putReg s c.w c.acc c.act r (rowOf f)

/-- Writes the active lanes of a pair. -/
def Ctx.put64 (c : Ctx) (s : State) (r : Nat) (f : Nat → DWord) : State := putPair s c.w c.acc c.act r f

/-- A flight of this word: class L results, SETB, the path it counts on. -/
def Ctx.flight (c : Ctx) (kind : FlightKind) (path : Option Path) (regs : List Nat) (res : List RegResult) (wb perf : Bool) : Flight :=
  { id := 0, wave := c.w, isAccess := c.acc, tok := if c.acc then none else c.st.clause.map (·.tok), kind := kind, path := path,
    regs := regs, res := res, wb := wb, perf := perf, ply := c.v.ply, lines := [], reads := [], miss := [], homeMiss := [], rejected := none, aged := false
    route := [] }

/-- A fault in one lane. -/
def laneFault (l : Nat) (cause : Cause) (addr : DWord := 0) (wr : Bool := false) (space : Space := .none) (detail : Nat := 0) : LaneFault :=
  { lane := l, cause := cause, addr := addr, wr := wr, space := space, detail := detail }

/-- A fault in every active lane: that of a word whose operands are uniform (R61). -/
def Ctx.faultAll (c : Ctx) (cause : Cause) (addr : DWord := 0) (wr : Bool := false) (space : Space := .none) (detail : Nat := 0) : Stops :=
  { Stops.none with faults := (lanesOf c.act).map fun l => laneFault l cause addr wr space detail }

/-- The word faults in every active lane and does nothing. -/
def Ctx.fault (c : Ctx) (s : State) (cause : Cause) (addr : DWord := 0) (wr : Bool := false) (space : Space := .none) (detail : Nat := 0) : Res :=
  .done s (c.faultAll cause addr wr space detail)

/-! ### The context of a word -/

/-- The lanes whose predicate passes, or all of `%exec` where PM is a condition (R63, R186). -/
def activeLanes (i : Instr) (v : Wave) (acc : Bool) (ex : Mask) : Mask :=
  if isCond i then ex
  else ex &&& predLanes (predOf i).1 (v.file acc (predOf i).2.toNat)

/-- The odd half of a MEPI's address pair, which it reads when the control word of its lowest active lane gives a global destination (R224, R232,
R234). -/
def mepiHigh (v : Wave) (acc : Bool) (ex : Mask) (i : Instr) : List Nat :=
  match i with
  | .mepi x =>
    (match lowest (activeLanes i v acc ex) with
     | some l => if x.vreg % 2 = 0 ∧ !(Row.lane (v.file acc x.ereg) l).getLsbD 7 then [x.vreg + 1] else []
     | none => [])
  | _ => []

/-- The registers that a word of strand `n` reads when it issues in the cycle of another strand's word of its wave (R117): those before that
word. A bay issues one word a cycle on a port (R46, R379), and the changes of one cycle go by ascending strand number (R135). Whether it does is
free (log 4). -/
def latchOf (s : State) (v : Wave) (n : Nat) : Option Latch :=
  v.latch.filter fun l =>
    decide (l.n < n) && n != 8 && l.stamp == s.progress
      && (match (v.thread n).bind (·.clause) with | some k => k.port != l.port | none => false) && Config.sameCycle s.progress

/-- The wave as a word of strand `n` reads it. -/
def readWave (s : State) (v : Wave) (n : Nat) : Wave :=
  match latchOf s v n with
  | some l => { v with regs := l.regs, affine := l.affine, fcr := l.fcr }
  | none => v

/-- The context of instruction `i` when its strand is the one that issues. -/
def ctxOf (s : State) (i : Instr) : Option Ctx :=
  match s.running with
  | [] => none
  | r :: _ =>
    match s.waves[r.w]? with
    | none => none
    | some v =>
      match v.thread r.n with
      | none => none
      | some t =>
        if t.free && t.inClause && v.phase == .live then
          let acc := r.n == 8
          let v := readWave s v r.n
          let act := activeLanes i v acc t.mask
          some { w := r.w, n := r.n, v := v, st := t, acc := acc, act := act, ex := t.mask, all := act, lo := (lowest act).getD 0,
                 pc := t.wordPc, opc := (encodeNat i).getD 0 / 2 ^ 54 }
        else none

/-- The least register number a word may not name (R22, R28, R62). -/
def Ctx.regCount (c : Ctx) : Nat := if c.acc then 32 else c.v.nregs

/-- Whether a special register may be accessed only in a handler (R33). -/
def handlerOnly (idx : Nat) : Bool := decide (0x20 ≤ idx ∧ idx ≤ 0x25)

/-- Words that raise ILLEGAL_OP outside a handler (R203, R274). -/
def handlerWord : Instr → Bool
  | .eret _ | .fmap _ | .invpg _ => true
  | _ => false

/-- The level of a barrier's BARF (R185). -/
def barLevel (x : CWord) : Nat := x.off.toNat % 8

/-- The ID of a barrier's BARF (R185). -/
def barId (x : CWord) : Nat := x.off.toNat / 8 % 16

/-- Whether a barrier names a level its launch may not use (R196). -/
def badLevel (r : Vector DWord 16) (level : Nat) : Bool :=
  decide (recNlev r < level)
    || (!recCoop r && (match teamLevel? r with | some t => decide (t ≤ level) | none => decide (1 ≤ level)))

/-- ILLEGAL_FIELD that depends on the wave (R33, R62, R196). -/
def stateIllegal (s : State) (c : Ctx) (i : Instr) : Bool :=
  (namedRegs i).any (fun r => decide (c.regCount ≤ r))
    || (match i with
        | .sysrd x => handlerOnly x.imm.toNat && !c.st.handler
        | .syswr x => handlerOnly x.imm.toNat && !c.st.handler
        | .bar x | .bara x | .barw x => badLevel (recordOf s c.v) (barLevel x)
        | _ => false)

/-- The A-class words (R83). -/
def isAffine : Instr → Bool
  | .amov _ | .aldi _ | .aadd _ | .aaddVi _ | .asub _ | .asubVi _ | .amuli _ | .ashli _ | .acmp _ | .shfl _ | .shfli _ | .vote _
  | .lred _ | .lscan _ | .mread _ | .mwrite _ => true
  | _ => false

/-- An A-class word of the access slice whose predicate differs between lanes (R116). -/
def divergent (c : Ctx) (i : Instr) : Bool := c.acc && isAffine i && c.act != 0 && c.act != c.ex

/-! ### Poisoned sources -/

/-- The granule of a register lane; the access thread's registers follow the wave's. -/
def regGranule (w : Nat) (acc : Bool) (r l : Nat) : Granule := .reg w (if acc then 256 + r else r) (l / 4)

/-- Words that combine their source over the lanes (R131, R132). -/
def acrossLanes : Instr → Bool
  | .vote _ | .lred _ | .lscan _ => true
  | _ => false

/-- What a source register that a word does not read holds no part in it: the scale registers under SCALE 0 (R149). -/
def unread (c : Ctx) (i : Instr) (r : Src) : Bool :=
  match i with
  | .pkn x | .upkn x => r == ⟨x.b.toNat + 1, .at x.scaleLane⟩ && (Nfmt.of ((c.u x.b.toNat).toNat % 2 ^ 20)).scale == 0
  | .ndot x => x.ndotScales.contains r && (Nfmt.of ((c.u x.b.toNat).toNat % 2 ^ 20)).scale == 0
  | _ => false

/-- The poison code a lane's sources hold, if any (R421). -/
def lanePoison (s : State) (c : Ctx) (i : Instr) (l : Nat) : Option Nat :=
  (srcs i).findSome? fun r => if unread c i r then none else poisonAt s (regGranule c.w c.acc r.reg (c.lane r.sel l))

/-- The poison code of what a lane computes from (log 28): its own sources, or those of all active lanes. -/
def inPoison (s : State) (c : Ctx) (i : Instr) (l : Nat) : Option Nat :=
  if acrossLanes i then (lanesOf c.all).findSome? (lanePoison s c i) else lanePoison s c i l

/-- The lanes that consume poison of their sources, as faults (R422). -/
def poisonFaults (s : State) (c : Ctx) (i : Instr) : List LaneFault :=
  if s.poison.isEmpty || !consumesRegs i then []
  else (lanesOf c.act).filterMap fun l => (lanePoison s c i l).map fun d => laneFault l .uncorrectable 0 false .none d

/-- What a write of registers makes of a granule's poison (R421): a code carried into it stays, a clean write of all of it clears it. -/
def markReg (s : State) (c : Ctx) (code : Nat → Option Nat) (r q : Nat) : State :=
  let ls := (lanesOf c.act).filter fun l => l / 4 == q
  match ls.findSome? code with
  | some d => setPoison s (regGranule c.w c.acc r (4 * q)) d
  | none => if ls.length = 4 then clearPoison s (regGranule c.w c.acc r (4 * q)) else s

/-- Writes of registers with the poison that each lane carries (R421). -/
def markRegs (s : State) (c : Ctx) (code : Nat → Option Nat) (rs : List Nat) : State :=
  if s.poison.isEmpty then s else rs.foldl (fun s r => markReg (markReg s c code r 0) c code r 1) s

/-- Clean writes of registers (R421). -/
def clearRegs (s : State) (c : Ctx) (rs : List Nat) : State := markRegs s c (fun _ => none) rs

/-- What a word does to the poison of its destinations (R421); ADRAIN and CALL mark what they write themselves. -/
def clearRegPoison (s : State) (c : Ctx) (i : Instr) : State :=
  match i with
  | .adrain _ | .call _ => s
  | _ => markRegs s c (inPoison s c i) (dsts i)

/-! ### Tags of an atomic region -/

/-- The tag of a register in a lane (R255). -/
def Region.tag (r : Region) (reg lane : Nat) : Option Tag := r.tags.find? fun t => t.reg == reg && t.lane == lane

/-- The region the word runs in: that of its strand, until its AREND issues (R253). -/
def Ctx.region (c : Ctx) : Option Region :=
  match c.v.region with
  | some r => if c.acc || r.committing || c.st.handler != r.handler then none else some r
  | none => none

/-- The tag a source carries as lane l reads it. -/
def Ctx.tagRead (c : Ctx) (r : Region) (s : Src) (l : Nat) : Option Tag := r.tag s.reg (c.lane s.sel l)

/-- Whether a source is read without a permutation. -/
def Src.plain (s : Src) : Bool := s.sel == .lane 0

/-- A tagged operand beside an untagged one (R255): the tag, and the other operand's value; `left` allows it on A only. -/
def Ctx.oneTag (c : Ctx) (r : Region) (a b : Src) (l : Nat) (left : Bool) : Option (Tag × Bool × Word) :=
  match c.tagRead r a l, c.tagRead r b l with
  | some t, none => if a.plain then some (t, true, c.src b l) else none
  | none, some t => if b.plain && !left then some (t, false, c.src a l) else none
  | _, _ => none

/-- The tag a word gives its destination in lane l (R255). -/
def Ctx.newTag (c : Ctx) (r : Region) (i : Instr) (l : Nat) : Option (Nat × Word) :=
  match i with
  | .mov x => if x.sA.plain then (c.tagRead r x.sA l).map fun t => (t.slot, t.c) else none
  | .iadd x => (c.oneTag r x.sA x.sB l false).map fun p => (p.1.slot, p.1.c + p.2.2)
  | .isub x => (c.oneTag r x.sA x.sB l true).map fun p => (p.1.slot, p.1.c - p.2.2)
  | .iaddVi x => if x.sA.plain then (c.tagRead r x.sA l).map fun t => (t.slot, t.c + x.imm.signExtend 32) else none
  | .isubVi x => if x.sA.plain then (c.tagRead r x.sA l).map fun t => (t.slot, t.c - x.imm.signExtend 32) else none
  | _ => none

/-- Whether lane l's reads of tagged registers are all among the forms of R255 that do not concretise. -/
def Ctx.tagsKept (c : Ctx) (r : Region) (i : Instr) (l : Nat) : Bool :=
  ((srcs i).all fun s => unread c i s || (c.tagRead r s l).isNone) || (c.newTag r i l).isSome
    || (match i with | .icmp x => (c.oneTag r x.sA x.sB l false).isSome | _ => false)

/-- The comparison of ICMP and ACMP (R124). -/
def condHolds (w : Nat) (cond : Nat) (unsigned : Bool) (a b : Nat) : Bool :=
  let x : Int := if unsigned then (a % 2 ^ w : Nat) else signedN w a
  let y : Int := if unsigned then (b % 2 ^ w : Nat) else signedN w b
  match cond with
  | 0 => x == y
  | 1 => x != y
  | 2 => decide (x < y)
  | 3 => decide (x ≤ y)
  | 4 => decide (y < x)
  | _ => decide (y ≤ x)

/-- The constraint an ICMP of a tagged value records (R256). -/
def Ctx.constraint (c : Ctx) (r : Region) (i : Instr) : List LaneCond :=
  match i with
  | .icmp x =>
    (lanesOf c.act).filterMap fun l =>
      (c.oneTag r x.sA x.sB l false).map fun p =>
        { idx := r.nConds, lane := l, slot := p.1.slot, c := p.1.c, cond := x.c.toNat % 8, unsigned := x.c.getLsbD 3, lhs := p.2.1,
          other := p.2.2, result := condHolds 32 (x.c.toNat % 8) (x.c.getLsbD 3) (c.src x.sA l).toNat (c.src x.sB l).toNat }
  | _ => []

/-- Whether the predicate of a word is a tagged register (R255). -/
def Ctx.predTagged (c : Ctx) (r : Region) (i : Instr) : Bool :=
  (predOf i).1 != 0 && (lanesOf c.ex).any fun l => (r.tag (predOf i).2.toNat l).isSome

/-- `%ars`.CONCRETE (R259). -/
def arsConcrete : Word := 0x80

/-- The tags after a word other than LD and ST (R255): new ones for its destinations, and CONCRETE when it read one otherwise. -/
def trackTags (s : State) (c : Ctx) (r : Region) (i : Instr) : State :=
  let keep := !c.predTagged r i && (lanesOf c.act).all fun l => c.tagsKept r i l
  let fresh := (lanesOf c.act).filterMap fun l => (c.newTag r i l).bind fun p => (dsts i).head?.map fun d => Tag.mk d l p.1 p.2
  let cs := c.constraint r i
  let tags := fresh ++ r.tags.filter fun t => !((dsts i).contains t.reg && c.act.getLsbD t.lane)
  modWave s c.w fun v =>
    { v with
      ars := if keep then v.ars else v.ars ||| arsConcrete
      region := some { r with tags := tags, conds := r.conds ++ cs, nConds := r.nConds + (if cs.isEmpty then 0 else 1) } }

/-- LD, ST and AREND keep their own tags (R255, R257). -/
def isRegionMem : Instr → Bool
  | .ld _ | .st _ | .arend _ => true
  | _ => false

/-! ### After the word -/

/-- After a word the strand, if its clause still runs, goes to the end of the list, and its wave's registers as they were before the word are
latched for a word of the same cycle (R117). -/
def rotate (s : State) (c : Ctx) : State :=
  let s := if s.running.contains ⟨c.w, c.n⟩ then { s with running := (s.running.filter fun r => r != ⟨c.w, c.n⟩) ++ [⟨c.w, c.n⟩] } else s
  modWave s c.w fun v =>
    { v with latch := if c.acc then v.latch else if (latchOf s v c.n).isSome then none
                      else some
                        { n := c.n, port := (c.st.clause.map (·.port)).getD .v, stamp := s.progress + 1
                          regs := c.v.regs, affine := c.v.affine, fcr := c.v.fcr } }

/-- The state after a word: flags, joins, barriers and retirement are settled, and waiting words may be tried again. -/
def conclude (s : State) (c : Ctx) : Host.Outcome State Fault Refusal := .next (bump (settle (rotate s c) c.w))

/-- The strand with the lanes that did not stop goes on, the others stay parked at the word (R53, R79, R164, R184). -/
def splitStops (v : Wave) (c : Ctx) (st : Stops) (stamp : Nat) : Wave :=
  if c.acc then
    let p : Park := if st.faults ≠ [] then .fault c.opc st.faults else if st.migr ≠ [] then .migrate st.migr else .hold stamp
    let go := st.faults.isEmpty && st.migr.isEmpty && st.holds == 0
    v.modThread 8 fun t => if go then t.advance else { t with park := p }
  else
    let fm := maskOfList (st.faults.map (·.lane))
    let mm := maskOfList (st.migr.map (·.lane)) &&& ~~~fm
    let hm := st.holds &&& ~~~fm &&& ~~~mm
    let rest := c.ex &&& ~~~fm &&& ~~~mm &&& ~~~hm
    let parts := [(fm, Park.fault c.opc st.faults), (mm, Park.migrate st.migr), (hm, Park.hold stamp)].filter fun p => p.1 != 0
    if rest ≠ 0 ∨ parts = [] then
      let v := v.modThread c.n fun t => { t with mask := rest }.advance
      v.addStrands (parts.map fun p => { c.st with mask := p.1, park := p.2 })
    else
      match parts with
      | [] => v
      | p :: ps =>
        let v := v.modThread c.n fun t => { t with mask := p.1, park := p.2 }
        v.addStrands (ps.map fun p => { c.st with mask := p.1, park := p.2 })

/-- The address of a CONSUMED record (R428): the virtual address, or 0 where the space has none. -/
def consumedAddr (f : LaneFault) : DWord := if f.space == .scratch || f.space == .vault || f.space == .none then 0 else f.addr

/-- The CONSUMED record of a word that consumed poison (R422, R428): one for the lanes whose region restarts (`again`), one for the
others, each with the address of its lowest lane. -/
def consumedRecords (s : State) (c : Ctx) (again : Mask) (fs : List LaneFault) : State :=
  [true, false].foldl (fun s r =>
    match fs.find? fun f => f.cause == .uncorrectable && again.getLsbD f.lane == r with
    | some f =>
      errRecord s (if r then 1 else 2) (coreField c.v.core) c.v.hank 2 (consumedAddr f)
        (BitVec.ofNat 64 (c.v.waveid.toNat + r.toNat * 2 ^ 32))
    | none => s) s

/-- The lanes whose consumption restarts the wave's idempotent region (R267). -/
def idemLanes (c : Ctx) (fs : List LaneFault) : Mask :=
  match c.v.idem with
  | some r =>
    if c.acc || decide (4 ≤ r.restarts) then 0
    else r.lanes &&& maskOfList ((fs.filter fun f => f.cause == .uncorrectable).map (·.lane))
  | none => 0

/-- A tagged register used as a predicate concretises the region (R255), whichever lanes it leaves active. -/
def concretePred (s : State) (c : Ctx) (i : Instr) : State :=
  match c.region with
  | some r => if c.predTagged r i then modWave s c.w fun v => { v with ars := v.ars ||| arsConcrete } else s
  | none => s

/-- A word that faulted inside an atomic region (R254, R320): it did not execute, and the region aborts. What an LD or ST leaves behind is the
count of a failing gauge (R424), and what its walks and folds did. -/
def regionFault (s : State) (c : Ctx) (fs : List LaneFault) : Host.Outcome State Fault Refusal :=
  let s := consumedRecords s c 0 fs
  conclude (abortRegion s c.w (if fs.all fun f => f.cause == .uncorrectable then 10 else 6) 0 0) c

/-- What becomes of the lanes after a word that is done in those that did not stop. -/
def finishDone (s0 s : State) (c : Ctx) (i : Instr) (st : Stops) : Host.Outcome State Fault Refusal :=
  match c.region with
  | some r =>
    if st.faults ≠ [] then regionFault (if isRegionMem i then s else s0) c st.faults
    else if st.migr ≠ [] then conclude (modThread s c.w c.n fun t => { t with park := .migrate st.migr }) c
    else if st.holds ≠ 0 then conclude (modThread s c.w c.n fun t => { t with park := .hold s.progress }) c
    else
      let s := if isRegionMem i then s else trackTags s c r i
      conclude (modThread (clearRegPoison s c i) c.w c.n Strand.advance) c
  | none =>
    let again := idemLanes c st.faults
    if c.st.handler && st.faults.any (fun f => !again.getLsbD f.lane || f.cause != .uncorrectable) then
      match s.waves[c.w]? with
      | some v => conclude (doubleFault (consumedRecords s c 0 st.faults) c.w v) c
      | none => conclude s c
    else
      let off := maskOfList (st.faults.map (·.lane)) ||| maskOfList (st.migr.map (·.lane)) ||| st.holds
      let s := consumedRecords (clearRegPoison s { c with act := c.act &&& ~~~off } i) c again st.faults
      let st := { st with faults := st.faults.filter fun f => !again.getLsbD f.lane || f.cause != .uncorrectable }
      let s := modWave s c.w fun v => if v.phase = .live then splitStops v c st s.progress else v
      match c.v.idem with
      | some r => conclude (if again = 0 then s else restartIdem s c.w r) c
      | none => conclude s c

/-- What becomes of a word's answer. -/
def finish (s : State) (c : Ctx) (i : Instr) (r : Res) : Host.Outcome State Fault Refusal :=
  match r with
  | .done t st => finishDone s t c i st
  | .hold => .next (pruneRunning (modThread s c.w c.n fun t => { t with park := .hold s.progress }))
  | .holdIn u => .next (pruneRunning (modThread u c.w c.n fun t => { t with park := .hold s.progress }))
  | .park t (.block k b) => .next (settle (rotate (modThread t c.w c.n fun u => { u with park := .block k b }) c) c.w)
  | .park t p => conclude (modThread t c.w c.n fun u => { u with park := p }) c
  | .moved t => conclude t c
  | .abort cause code detail => conclude (abortRegion s c.w cause code detail) c
  | .stuck f => .fault f

/-- A fault of the whole word in every lane of `%exec` (R84). -/
def wordFault (s : State) (c : Ctx) (i : Instr) (cause : Cause) : Host.Outcome State Fault Refusal :=
  finishDone s s { c with act := c.ex } i { Stops.none with faults := (lanesOf c.ex).map fun l => laneFault l cause }

/-- The words that hold while a keep seals their wave's ply (R244): stores, atomics, engine commands, and what appends to the ply's log
or writes its queues and cells. -/
def holdsSealed : Instr → Bool
  | .st _ | .sts _ | .stv _ | .atom _ | .acas _ | .atoms _ | .cadd _ | .mepi _ | .ypush _ | .cpy _ | .cpyd _ | .gath _ | .scat _
  | .flip _ | .msub _
  | .qpush _ | .qpop _ | .qtokPut _ | .qtokTake _ => true
  | _ => false

/-- Whether a keep seals the wave's ply (R244). -/
def plySealed (s : State) (v : Wave) : Bool :=
  match (hankOf s v.hank).keeper with
  | some k => !k.merged && v.ply != 0 && k.target == v.ply
  | none => false

/-- The words that hold while a region of their wave is being committed (R257, R296, R299): the commit is an acquire of the wave's own accesses,
and comes before what its later words release. -/
def holdsCommit : Instr → Bool
  | .ld _ | .st _ | .ldk _ | .lds _ | .sts _ | .ldv _ | .stv _ | .atom _ | .acas _ | .atoms _ | .cadd _ | .cinv _ | .cwb _ | .mepi _
  | .yopen _ | .ypush _ | .cpy _ | .cpyd _ | .gath _ | .scat _ | .trace _ | .msub _ | .flip _ | .launch _ | .emit _ | .qpush _ | .qpop _
  | .qtokPut _ | .qtokTake _ | .bar _ | .bara _ | .barw _ | .phint _ | .idem _ | .rchk _ | .rend _ | .fmap _ | .smap _ => true
  | _ => false

/-- Whether a region of the wave is being committed (R257). -/
def Wave.commits (v : Wave) : Bool := match v.region with | some r => r.committing | none => false

/-- ARBEG inside a region aborts with NEST, by its own meaning (R253). -/
def isArbeg : Instr → Bool
  | .arbeg _ => true
  | _ => false

/-- The bank of a word's predicate wakes (R36, R351). -/
def wakePred (s : State) (c : Ctx) (i : Instr) : State :=
  if c.acc || c.v.drowsy.isEmpty || (predOf i).1 = 0 then s else modWave s c.w fun v => v.wake [(predOf i).2.toNat]

/-- Banks that a word reaches wake (R36, R351): that of its predicate, and when a lane is active those of its other registers. -/
def wakeBanks (s : State) (c : Ctx) (i : Instr) : State :=
  if c.act = 0 then wakePred s c i
  else if c.acc || c.v.drowsy.isEmpty then s
  else modWave s c.w fun v => v.wake (usedRegs i ++ mepiHigh c.v c.acc c.ex i)

/-- Whether a word holds before its meaning: its wave's ply is sealed (R244), or a region of its wave is being committed (R257, R299). -/
def holdsNow (s : State) (c : Ctx) (i : Instr) : Bool :=
  c.region.isNone && ((holdsSealed i && plySealed s c.v) || (holdsCommit i && c.v.commits))

/-- The other causes that the lanes with poisoned sources meet at the word (R313): what its meaning finds in them, were they clean. -/
def otherFaults (ls : Mask) : Res → List LaneFault
  | .done _ st => st.faults.filter fun f => ls.getLsbD f.lane
  | _ => []

/-- The checks of a word in the order of R313, and its meaning `body` in its active lanes. -/
def issueIn (s : State) (c : Ctx) (i : Instr) (body : State → Ctx → Res) : Host.Outcome State Fault Refusal :=
  if (c.acc && !accessOk i) || (handlerWord i && !c.st.handler) then wordFault s c i .illegalOp
  else if !WellFormed i || stateIllegal s c i then wordFault s c i .illegalField
  else if divergent c i then wordFault s c i .divergentAccess
  else if c.act = 0 then finishDone s (wakeBanks (concretePred s c i) c i) c i Stops.none
  else if c.region.isSome && !regionOk i && !isArbeg i then finish (wakePred s c i) c i (.abort 5 0 0)
  else if (match c.region with | some r => decide (32 ≤ r.nConds) && !(c.constraint r i).isEmpty | none => false) then
    finish (wakeBanks s c i) c i (.abort 3 0 1)
  else if holdsNow s c i then finish (wakePred s c i) c i .hold
  else
    let fs := poisonFaults s c i
    let s := wakeBanks (concretePred s c i) c i
    if fs = [] then finish s c i (body s c)
    else
      let bad := maskOfList (fs.map (·.lane))
      let fs := fs ++ otherFaults bad (body s c)
      let ok := c.act &&& ~~~bad
      if ok = 0 then finishDone s s c i { Stops.none with faults := fs }
      else match body s { c with act := ok } with
        | .done t st => finishDone s t { c with act := ok } i { st with faults := fs ++ st.faults }
        | _ => finishDone s s c i { Stops.none with faults := fs, holds := ok }

/-- Issues an instruction word of the strand whose turn it is. -/
def issue (s : State) (i : Instr) (body : State → Ctx → Res) : Host.Outcome State Fault Refusal :=
  match ctxOf s i with
  | none => .fault .noIssue
  | some c => issueIn s c i body

end Sys2Proof.Machine
end

