-- ==== Sys2Proof/Machine/Flags.lean ====
section
/-! DEFINITION. The flag registers a word changes beside its result: the sticky bits of `%fcr` (01 R34, 04 R91), of `%gst` (11 R269)
and of PERFSTAT (19 R380). -/

namespace Sys2Proof.Machine

/-- Sets sticky bits of a wave's `%fcr` (R91). -/
def raiseFcr (s : State) (w : Nat) (f : BitVec 9) : State := modWave s w fun v => { v with fcr := v.fcr ||| f }

/-- Sets bit g of a wave's `%gst` (R269). -/
def raiseGst (s : State) (w g : Nat) : State := modWave s w fun v => { v with gst := v.gst ||| (1 <<< g) }

/-- Sets bit n of a bay in its core's PERFSTAT (R380): 0 HAZARD, 1 REJECT, 2 AGED, 3 YBUF. -/
def raisePerf (s : State) (core bay n : Nat) : State :=
  { s with perf := Sparse.put (α := DWord) 0 s.perf core (Sparse.get (α := DWord) 0 s.perf core ||| (1 <<< (4 * bay + n))) }

/-- The lanes' results of a float word, with the flags of every active lane set (R91). -/
def floatRow (c : Ctx) (s : State) (d : Nat) (f : Nat → Nat × BitVec 9) : State :=
  let s := c.put s d fun l => BitVec.ofNat 32 (f l).1
  raiseFcr s c.w ((lanesOf c.act).foldl (fun a l => a ||| (f l).2) 0)

end Sys2Proof.Machine
end

