-- ==== Sys2Proof/Machine/Integer.lean ====
section
/-! DEFINITION. V class: integer arithmetic, logic, shifts, bit fields, compare, select and move (05 R113-R126). -/

namespace Sys2Proof.Machine

/-! ### Lane functions -/

/-- The carry of a + b + (c and 1) (R118). -/
def carryOf (a b c : Word) : Word := if 2 ^ 32 ≤ a.toNat + b.toNat + c.toNat % 2 then 1 else 0

/-- Bits 63:32 of the exact product (R118). -/
def mulHigh (unsigned : Bool) (a b : Word) : Word :=
  if unsigned then BitVec.ofNat 32 (a.toNat * b.toNat / 2 ^ 32) else BitVec.ofInt 32 (a.toInt * b.toInt / 2 ^ 32)

/-- The smaller or larger of two words (R118). -/
def minWord (unsigned : Bool) (a b : Word) : Word := if (if unsigned then a.ule b else a.sle b) then a else b
def maxWord (unsigned : Bool) (a b : Word) : Word := if (if unsigned then a.ule b else a.sle b) then b else a

/-- |a| and -a, with SAT (R118). -/
def absWord (sat : Bool) (a : Word) : Word :=
  if a = 0x80000000 then (if sat then 0x7FFFFFFF else a) else if a.msb then -a else a
def negWord (sat : Bool) (a : Word) : Word := if a = 0x80000000 ∧ sat then 0x7FFFFFFF else -a

/-- Shifts by b and 0xFF, rotation by b and 31 (R120). -/
def shlWord (a b : Word) : Word := a <<< (b.toNat % 256)
def shrWord (a b : Word) : Word := a >>> (b.toNat % 256)
def sarWord (a b : Word) : Word := a.sshiftRight (b.toNat % 256)
def rotlWord (a b : Word) : Word := a.rotateLeft (b.toNat % 32)

/-- A byte of a word, extended (R119). -/
def byteExt (signed : Bool) (a : Word) (k : Nat) : Int :=
  let v := a.toNat / 256 ^ k % 256
  if signed && decide (128 ≤ v) then (v : Int) - 256 else v

/-- The four-byte dot product (R119): MOD bit 0 A signed, bit 1 B signed, bit 2 SAT. -/
def dot4 (m : BitVec 8) (a b d : Word) : Word :=
  let sg := m.getLsbD 0 || m.getLsbD 1
  let d : Int := if sg then d.toInt else d.toNat
  let t := fun k => byteExt (m.getLsbD 0) a k * byteExt (m.getLsbD 1) b k
  let s := d + t 0 + t 1 + t 2 + t 3
  let s := if m.getLsbD 2 then (if sg then max (-2 ^ 31) (min s (2 ^ 31 - 1)) else max 0 (min s (2 ^ 32 - 1))) else s
  BitVec.ofInt 32 s

/-- The word whose bit j is `f j`. -/
def bitsFrom (f : Nat → Bool) : Word := BitVec.ofNat 32 (((List.range 32).map fun j => (f j).toNat * 2 ^ j).sum)

/-- Any function of three bits (R121). -/
def lutWord (lut : BitVec 8) (a b d : Word) : Word :=
  bitsFrom fun j => lut.getLsbD ((a.getLsbD j).toNat * 4 + (b.getLsbD j).toNat * 2 + (d.getLsbD j).toNat)

/-- Position and effective width of a field (R122). -/
def fieldPos (b : Word) : Nat := b.toNat % 32
def fieldWidth (b : Word) : Nat := min (b.toNat / 256 % 64) (32 - fieldPos b)

/-- BFX (R122). -/
def extractField (signed : Bool) (a b : Word) : Word :=
  let w := fieldWidth b
  let v := a.toNat / 2 ^ fieldPos b % 2 ^ w
  if w = 0 then 0 else if signed then BitVec.ofInt 32 (signedN w v) else BitVec.ofNat 32 v

/-- BFI (R122). -/
def insertField (a b c : Word) : Word :=
  let p := fieldPos b
  let w := fieldWidth b
  BitVec.ofNat 32 (c.toNat / 2 ^ (p + w) * 2 ^ (p + w) + a.toNat % 2 ^ w * 2 ^ p + c.toNat % 2 ^ p)

/-- BREV, POPC, CLZ and CTZ (R123). -/
def brevWord (a : Word) : Word := bitsFrom fun j => a.getLsbD (31 - j)
def popcWord (a : Word) : Word := BitVec.ofNat 32 (popcount 32 a.toNat)
def clzWord (a : Word) : Word := BitVec.ofNat 32 (32 - bitLen a.toNat)
def ctzWord (a : Word) : Word := BitVec.ofNat 32 ((lowBit 32 a.toNat).getD 32)

/-- BITLV and BDLV (R123): MOD 0 spreads 16 bits by 2, MOD 1 spreads 10 bits by 3. -/
def spreadWord (m : BitVec 8) (a : Word) : Word :=
  if m = 0 then bitsFrom fun j => j % 2 == 0 && a.getLsbD (j / 2)
  else bitsFrom fun j => decide (j < 30) && j % 3 == 0 && a.getLsbD (j / 3)
def gatherWord (m : BitVec 8) (a : Word) : Word :=
  if m = 0 then bitsFrom fun j => decide (j < 16) && a.getLsbD (2 * j) else bitsFrom fun j => decide (j < 10) && a.getLsbD (3 * j)

/-- MOVI's operation (R126). -/
def moviWord (sub : Nat) (d imm : Word) : Word :=
  match sub with
  | 0 => imm
  | 1 => d + imm
  | 2 => d &&& imm
  | 3 => d ||| imm
  | _ => d ^^^ imm

/-- 1 or 0. -/
def boolWord (b : Bool) : Word := if b then 1 else 0

/-! ### Word shapes -/

/-- The immediate of a VI word, in every lane (R57, R113). -/
def viImm (x : VI) : Word := x.imm.signExtend 32

/-- D[l] := f(a), in each active lane. -/
def word1 (i : Instr) (x : V3) (f : Word → Word) (s : State) : Host.Outcome State Fault Refusal :=
  issue s i fun s c => .ok (c.put s x.d.toNat fun l => f (c.src x.sA l))

/-- D[l] := f(a, b). -/
def word2 (i : Instr) (x : V3) (f : Word → Word → Word) (s : State) : Host.Outcome State Fault Refusal :=
  issue s i fun s c => .ok (c.put s x.d.toNat fun l => f (c.src x.sA l) (c.src x.sB l))

/-- D[l] := f(a, b, c). -/
def word3 (i : Instr) (x : V3) (f : Word → Word → Word → Word) (s : State) : Host.Outcome State Fault Refusal :=
  issue s i fun s c => .ok (c.put s x.d.toNat fun l => f (c.src x.sA l) (c.src x.sB l) (c.src x.sC l))

/-- D[l] := f(a, b, d). -/
def word2d (i : Instr) (x : V3) (f : Word → Word → Word → Word) (s : State) : Host.Outcome State Fault Refusal :=
  issue s i fun s c => .ok (c.put s x.d.toNat fun l => f (c.src x.sA l) (c.src x.sB l) (c.src x.sD l))

/-- D[l] := f(a, IMM25). -/
def wordImm (i : Instr) (x : VI) (f : Word → Word → Word) (s : State) : Host.Outcome State Fault Refusal :=
  issue s i fun s c => .ok (c.put s x.d.toNat fun l => f (c.src x.sA l) (viImm x))

/-! ### The meanings -/

/-- IADD (R118). -/
def execIadd (x : V3) : State → Host.Outcome State Fault Refusal := word2 (.iadd x) x (fun a b => a + b)

/-- ISUB (R118). -/
def execIsub (x : V3) : State → Host.Outcome State Fault Refusal := word2 (.isub x) x (fun a b => a - b)

/-- IMUL (R118). -/
def execImul (x : V3) : State → Host.Outcome State Fault Refusal := word2 (.imul x) x (fun a b => a * b)

/-- IMULH (R118); MOD bit 0 is U. -/
def execImulh (x : V3) : State → Host.Outcome State Fault Refusal := word2 (.imulh x) x (mulHigh (x.c.getLsbD 0))

/-- IMIN (R118). -/
def execImin (x : V3) : State → Host.Outcome State Fault Refusal := word2 (.imin x) x (minWord (x.c.getLsbD 0))

/-- IMAX (R118). -/
def execImax (x : V3) : State → Host.Outcome State Fault Refusal := word2 (.imax x) x (maxWord (x.c.getLsbD 0))

/-- AND (R120). -/
def execAnd (x : V3) : State → Host.Outcome State Fault Refusal := word2 (.and x) x (fun a b => a &&& b)

/-- OR (R120). -/
def execOr (x : V3) : State → Host.Outcome State Fault Refusal := word2 (.or x) x (fun a b => a ||| b)

/-- XOR (R120). -/
def execXor (x : V3) : State → Host.Outcome State Fault Refusal := word2 (.xor x) x (fun a b => a ^^^ b)

/-- ANDN (R120). -/
def execAndn (x : V3) : State → Host.Outcome State Fault Refusal := word2 (.andn x) x (fun a b => a &&& ~~~b)

/-- SHL (R120). -/
def execShl (x : V3) : State → Host.Outcome State Fault Refusal := word2 (.shl x) x (shlWord)

/-- SHR (R120). -/
def execShr (x : V3) : State → Host.Outcome State Fault Refusal := word2 (.shr x) x (shrWord)

/-- SAR (R120). -/
def execSar (x : V3) : State → Host.Outcome State Fault Refusal := word2 (.sar x) x (sarWord)

/-- ROTL (R120). -/
def execRotl (x : V3) : State → Host.Outcome State Fault Refusal := word2 (.rotl x) x (rotlWord)

/-- BFX (R122); MOD bit 0 is S. -/
def execBfx (x : V3) : State → Host.Outcome State Fault Refusal := word2 (.bfx x) x (extractField (x.c.getLsbD 0))

/-- ICMP (R124); MOD bits 2:0 cond, bit 3 U. -/
def execIcmp (x : V3) : State → Host.Outcome State Fault Refusal := word2 (.icmp x) x (fun a b => boolWord (condHolds 32 (x.c.toNat % 8) (x.c.getLsbD 3) a.toNat b.toNat))

/-- IABS (R118); MOD bit 0 is SAT. -/
def execIabs (x : V3) : State → Host.Outcome State Fault Refusal := word1 (.iabs x) x (absWord (x.c.getLsbD 0))

/-- INEG (R118); MOD bit 0 is SAT. -/
def execIneg (x : V3) : State → Host.Outcome State Fault Refusal := word1 (.ineg x) x (negWord (x.c.getLsbD 0))

/-- NOT (R120). -/
def execNot (x : V3) : State → Host.Outcome State Fault Refusal := word1 (.not x) x (fun a => ~~~a)

/-- BREV (R123). -/
def execBrev (x : V3) : State → Host.Outcome State Fault Refusal := word1 (.brev x) x (brevWord)

/-- POPC (R123). -/
def execPopc (x : V3) : State → Host.Outcome State Fault Refusal := word1 (.popc x) x (popcWord)

/-- CLZ (R123). -/
def execClz (x : V3) : State → Host.Outcome State Fault Refusal := word1 (.clz x) x (clzWord)

/-- CTZ (R123). -/
def execCtz (x : V3) : State → Host.Outcome State Fault Refusal := word1 (.ctz x) x (ctzWord)

/-- BITLV (R123). -/
def execBitlv (x : V3) : State → Host.Outcome State Fault Refusal := word1 (.bitlv x) x (spreadWord x.c)

/-- BDLV (R123). -/
def execBdlv (x : V3) : State → Host.Outcome State Fault Refusal := word1 (.bdlv x) x (gatherWord x.c)

/-- MOV (R125). -/
def execMov (x : V3) : State → Host.Outcome State Fault Refusal := word1 (.mov x) x (fun a => a)

/-- IADDX (R118). -/
def execIaddx (x : V3) : State → Host.Outcome State Fault Refusal := word3 (.iaddx x) x (fun a b c => a + b + (c &&& 1))

/-- ICRY (R118). -/
def execIcry (x : V3) : State → Host.Outcome State Fault Refusal := word3 (.icry x) x (carryOf)

/-- IMAD (R118). -/
def execImad (x : V3) : State → Host.Outcome State Fault Refusal := word3 (.imad x) x (fun a b c => a * b + c)

/-- BFI (R122). -/
def execBfi (x : V3) : State → Host.Outcome State Fault Refusal := word3 (.bfi x) x (insertField)

/-- SEL (R125). -/
def execSel (x : V3) : State → Host.Outcome State Fault Refusal := word3 (.sel x) x (fun a b c => if c ≠ 0 then a else b)

/-- ICLAMP (R125). -/
def execIclamp (x : V3) : State → Host.Outcome State Fault Refusal := word3 (.iclamp x) x (fun a b c => minWord false (maxWord false a b) c)

/-- BLUT (R121). -/
def execBlut (x : V3) : State → Host.Outcome State Fault Refusal := word2d (.blut x) x (lutWord x.c)

/-- IDP4 (R119). -/
def execIdp4 (x : V3) : State → Host.Outcome State Fault Refusal := word2d (.idp4 x) x (dot4 x.c)

/-- IADD with an immediate (R118). -/
def execIaddVi (x : VI) : State → Host.Outcome State Fault Refusal := wordImm (.iaddVi x) x (fun a b => a + b)

/-- ISUB with an immediate (R118). -/
def execIsubVi (x : VI) : State → Host.Outcome State Fault Refusal := wordImm (.isubVi x) x (fun a b => a - b)

/-- IMUL with an immediate (R118). -/
def execImulVi (x : VI) : State → Host.Outcome State Fault Refusal := wordImm (.imulVi x) x (fun a b => a * b)

/-- IMULH with an immediate, signed (R114, R118). -/
def execImulhVi (x : VI) : State → Host.Outcome State Fault Refusal := wordImm (.imulhVi x) x (mulHigh false)

/-- IMIN with an immediate, signed (R114, R118). -/
def execIminVi (x : VI) : State → Host.Outcome State Fault Refusal := wordImm (.iminVi x) x (minWord false)

/-- IMAX with an immediate, signed (R114, R118). -/
def execImaxVi (x : VI) : State → Host.Outcome State Fault Refusal := wordImm (.imaxVi x) x (maxWord false)

/-- AND with an immediate (R120). -/
def execAndVi (x : VI) : State → Host.Outcome State Fault Refusal := wordImm (.andVi x) x (fun a b => a &&& b)

/-- OR with an immediate (R120). -/
def execOrVi (x : VI) : State → Host.Outcome State Fault Refusal := wordImm (.orVi x) x (fun a b => a ||| b)

/-- XOR with an immediate (R120). -/
def execXorVi (x : VI) : State → Host.Outcome State Fault Refusal := wordImm (.xorVi x) x (fun a b => a ^^^ b)

/-- ANDN with an immediate (R120). -/
def execAndnVi (x : VI) : State → Host.Outcome State Fault Refusal := wordImm (.andnVi x) x (fun a b => a &&& ~~~b)

/-- SHL with an immediate (R120). -/
def execShlVi (x : VI) : State → Host.Outcome State Fault Refusal := wordImm (.shlVi x) x (shlWord)

/-- SHR with an immediate (R120). -/
def execShrVi (x : VI) : State → Host.Outcome State Fault Refusal := wordImm (.shrVi x) x (shrWord)

/-- SAR with an immediate (R120). -/
def execSarVi (x : VI) : State → Host.Outcome State Fault Refusal := wordImm (.sarVi x) x (sarWord)

/-- ROTL with an immediate (R120). -/
def execRotlVi (x : VI) : State → Host.Outcome State Fault Refusal := wordImm (.rotlVi x) x (rotlWord)

/-- MOVI (R126). -/
def execMovi (x : K32) (s : State) : Host.Outcome State Fault Refusal :=
  issue s (.movi x) fun s c => .ok (c.put s x.d.toNat fun l => moviWord x.sub.toNat (c.src x.sD l) x.imm)

end Sys2Proof.Machine
end

