-- ==== Sys2Proof/Machine/LaneWords.lean ====
section
/-! DEFINITION. A class: affine arithmetic, lane movement, votes, reductions, scans and masks (05 R115, R127-R135). -/

namespace Sys2Proof.Machine

/-- Marks a pair as held in affine form, or as expanded (R30, R127): affine when all 8 lanes were written and the values step by one
stride that fits 32 signed bits. -/
def markAffine (s : State) (c : Ctx) (r : Nat) (f : Nat → DWord) : State :=
  let stride := f 1 - f 0
  let ok := c.act == 0xFF && (stride == (Word.lo stride).signExtend 64)
    && lanes.all fun l => f l == f 0 + BitVec.ofNat 64 l * stride
  if !ok then s
  else if c.acc then modWave s c.w fun v => { v with access := v.access.map fun t => { t with affine := r :: t.affine } }
  else modWave s c.w fun v => { v with affine := r :: v.affine }

/-- P[D][l] := f l in each active lane (R127, R128). -/
def affineRow (c : Ctx) (s : State) (r : Nat) (f : Nat → DWord) : State := markAffine (c.put64 s r f) c r f

/-- AMOV (R128). -/
def execAmov (x : V3) (s : State) : Host.Outcome State Fault Refusal :=
  issue s (.amov x) fun s c =>
    let base := c.u64 x.a.toNat
    let stride := (c.u x.b.toNat).signExtend 64
    .ok (affineRow c s x.d.toNat fun l => base + BitVec.ofNat 64 l * stride)

/-- ALDI (R128): the A field is an 8-bit signed stride. -/
def execAldi (x : VI) (s : State) : Host.Outcome State Fault Refusal :=
  issue s (.aldi x) fun s c => .ok (affineRow c s x.d.toNat fun l => x.imm.signExtend 64 + BitVec.ofNat 64 l * x.a.signExtend 64)

/-- AADD (R128). -/
def execAadd (x : V3) (s : State) : Host.Outcome State Fault Refusal :=
  issue s (.aadd x) fun s c =>
    .ok (affineRow c s x.d.toNat fun l => c.perm64 x.a x.pa l + (c.src x.sB l).signExtend 64)

/-- AADD with an immediate (R128). -/
def execAaddVi (x : VI) (s : State) : Host.Outcome State Fault Refusal :=
  issue s (.aaddVi x) fun s c => .ok (affineRow c s x.d.toNat fun l => c.perm64 x.a x.pa l + x.imm.signExtend 64)

/-- ASUB (R128). -/
def execAsub (x : V3) (s : State) : Host.Outcome State Fault Refusal :=
  issue s (.asub x) fun s c =>
    .ok (affineRow c s x.d.toNat fun l => c.perm64 x.a x.pa l - (c.src x.sB l).signExtend 64)

/-- ASUB with an immediate (R128). -/
def execAsubVi (x : VI) (s : State) : Host.Outcome State Fault Refusal :=
  issue s (.asubVi x) fun s c => .ok (affineRow c s x.d.toNat fun l => c.perm64 x.a x.pa l - x.imm.signExtend 64)

/-- AMULI (R128). -/
def execAmuli (x : VI) (s : State) : Host.Outcome State Fault Refusal :=
  issue s (.amuli x) fun s c => .ok (affineRow c s x.d.toNat fun l => c.perm64 x.a x.pa l * x.imm.signExtend 64)

/-- ASHLI (R128). -/
def execAshli (x : VI) (s : State) : Host.Outcome State Fault Refusal :=
  issue s (.ashli x) fun s c => .ok (affineRow c s x.d.toNat fun l => c.perm64 x.a x.pa l <<< x.imm.toNat)

/-- ACMP (R129). -/
def execAcmp (x : V3) (s : State) : Host.Outcome State Fault Refusal :=
  issue s (.acmp x) fun s c => .ok (c.put s x.d.toNat fun l =>
    boolWord (condHolds 64 (x.c.toNat % 8) (x.c.getLsbD 3) (c.perm64 x.a x.pa l).toNat (c.perm64 x.b x.pb l).toNat))

/-- SHFL (R130). -/
def execShfl (x : V3) (s : State) : Host.Outcome State Fault Refusal :=
  issue s (.shfl x) fun s c => .ok (c.put s x.d.toNat fun l => c.src ⟨x.a.toNat, .shfl x.pa x.b.toNat⟩ l)

/-- SHFLI (R130). -/
def execShfli (x : VI) (s : State) : Host.Outcome State Fault Refusal :=
  issue s (.shfli x) fun s c => .ok (c.put s x.d.toNat fun l => c.src ⟨x.a.toNat, .shfli x.pa x.imm.toNat⟩ l)

/-- The active lanes whose A is not zero (R131). -/
def voteMask (c : Ctx) (x : V3) : Mask := c.act &&& maskOf fun l => c.src x.sA l != 0

/-- VOTE (R131): MOD bits 1:0 are 0 any, 1 all, 2 ballot. -/
def execVote (x : V3) (s : State) : Host.Outcome State Fault Refusal :=
  issue s (.vote x) fun s c =>
    let m := voteMask c x
    let r : Word := if x.c = 0 then boolWord (m != 0) else if x.c = 1 then boolWord (m == c.act) else m.setWidth 32
    .ok (c.put s x.d.toNat fun _ => r)

/-- The operation of LRED and LSCAN on two values, with the flags of the float forms (R132). -/
def redOp (op : Nat) (unsigned : Bool) (fcr : BitVec 9) (a b : Word) : Word × BitVec 9 :=
  let fl := fun (r : Nat × BitVec 9) => (BitVec.ofNat 32 r.1, r.2)
  match op with
  | 0 => (a + b, 0)
  | 1 => (minWord unsigned a b, 0)
  | 2 => (maxWord unsigned a b, 0)
  | 3 => (a &&& b, 0)
  | 4 => (a ||| b, 0)
  | 5 => (a ^^^ b, 0)
  | 6 => fl (fp32.add (Rm.ofFcr fcr) fcr a.toNat b.toNat)
  | 7 => fl (fp32.minMax false fcr a.toNat b.toNat)
  | _ => fl (fp32.minMax true fcr a.toNat b.toNat)

/-- The identity of an operation (R132). -/
def redIdent (op : Nat) (unsigned : Bool) : Word :=
  match op with
  | 1 => if unsigned then 0xFFFFFFFF else 0x7FFFFFFF
  | 2 => if unsigned then 0 else 0x80000000
  | 3 => 0xFFFFFFFF
  | 6 => 0x80000000
  | 7 => 0x7F800000
  | 8 => 0xFF800000
  | _ => 0

/-- The rows of a reduction under way (R109): the totals, the scan, the flags so far. -/
structure RedState where
  tot : List Word
  scan : List Word
  fl : BitVec 9
deriving DecidableEq, Repr

/-- One butterfly step with distance k (R109): every lane reads before any writes; the scan combines only when `doScan`. -/
def redStep (f : Word → Word → Word × BitVec 9) (doScan : Bool) (r : RedState) (k : Nat) : RedState :=
  let t := fun l => r.tot.getD l 0
  let tot := lanes.map fun l => if l / k % 2 = 0 then f (t l) (t (l ^^^ k)) else f (t (l ^^^ k)) (t l)
  let scan := lanes.map fun l => if l / k % 2 = 1 && doScan then f (t (l ^^^ k)) (r.scan.getD l 0) else (r.scan.getD l 0, 0)
  { tot := tot.map Prod.fst, scan := scan.map Prod.fst
    fl := (tot ++ scan).foldl (fun a p => a ||| p.2) r.fl }

/-- The three steps from the lanes' values `x` and the first scan values (R109). -/
def reduce (f : Word → Word → Word × BitVec 9) (doScan : Bool) (x scan : List Word) : RedState :=
  [1, 2, 4].foldl (redStep f doScan) { tot := x, scan := scan, fl := 0 }

/-- LRED's and LSCAN's sources, the identity in inactive lanes (R109, R132). -/
def redSource (c : Ctx) (x : V3) (ident : Word) : List Word :=
  lanes.map fun l => if c.act.getLsbD l then c.src x.sA l else ident

/-- LRED (R132): MOD 3:0 op, bit 4 U. -/
def execLred (x : V3) (s : State) : Host.Outcome State Fault Refusal :=
  issue s (.lred x) fun s c =>
    let op := x.c.toNat % 16
    let src := redSource c x (redIdent op (x.c.getLsbD 4))
    let r := reduce (redOp op (x.c.getLsbD 4) c.v.fcr) false src src
    .ok (raiseFcr (c.put s x.d.toNat fun l => r.tot.getD l 0) c.w r.fl)

/-- LSCAN (R132): MOD bit 5 is EXC. -/
def execLscan (x : V3) (s : State) : Host.Outcome State Fault Refusal :=
  issue s (.lscan x) fun s c =>
    let op := x.c.toNat % 16
    let ident := redIdent op (x.c.getLsbD 4)
    let src := redSource c x ident
    let r := reduce (redOp op (x.c.getLsbD 4) c.v.fcr) true src (if x.c.getLsbD 5 then lanes.map fun _ => ident else src)
    .ok (raiseFcr (c.put s x.d.toNat fun l => r.scan.getD l 0) c.w r.fl)

/-- MREAD (R133); in the access slice it reads 0xFF (R116). -/
def execMread (x : V3) (s : State) : Host.Outcome State Fault Refusal :=
  issue s (.mread x) fun s c =>
    let m : Mask := if c.acc then 0xFF else if x.c = 1 then c.v.notExited else c.ex
    .ok (c.put s x.d.toNat fun _ => m.setWidth 32)

/-- The mask a write of `%exec` leaves (R12): bits of other live strands' lanes are ignored, of strands that an access thread's trap set aside
among them (R319), and bits of exited lanes. -/
def newMask (v : Wave) (n : Nat) (m : Mask) : Mask :=
  let back := match v.trap with | some e => e.back | none => 0
  let others := (v.strands.filter fun t => t.num != n).foldl (fun a t => a ||| t.mask) back
  m &&& ~~~others &&& v.notExited

/-- Sets a strand's mask (R12, R134): the word is done, and with no lane left the strand ends. -/
def writeMask (s : State) (c : Ctx) (m : Mask) : State :=
  modWave s c.w fun v =>
    let k := newMask v c.n m
    if k = 0 then { v with strands := v.strands.filter fun t => t.num != c.n }
    else v.modThread c.n fun t => { t with mask := k }.advance

/-- MWRITE (R134); in the access slice any value but 0xFF diverges (R116). -/
def execMwrite (x : V3) (s : State) : Host.Outcome State Fault Refusal :=
  issue s (.mwrite x) fun s c =>
    let m : Mask := (c.src ⟨x.a.toNat, .loPerm x.pa⟩ c.lo).setWidth 8
    if c.acc then (if m = 0xFF then .ok s else .done s { Stops.none with faults := (lanesOf c.ex).map fun l => laneFault l .divergentAccess })
    else .moved (writeMask s c m)

end Sys2Proof.Machine
end

