-- ==== Sys2Proof/Machine/Access.lean ====
section
/-! DEFINITION. Memory accesses of waves and engines: translation and its checks (07 R161-R164, 20 R384-R394), windows (11 R288),
migration requests (R392), loads and stores of bytes with plies, gauges and poison (R163, R269, R421), signatures (15 R337), deferred
logs (10 R247), and lanes taken one after another (07 R158, R184). -/

namespace Sys2Proof.Machine

/-! ### Counters -/

/-- Whether a path's counter is full (R32: 63 at most). -/
def Ctx.pathFull (c : Ctx) (s : State) (p : Path) : Bool := decide (63 ≤ inFlight s c.w p)

/-! ### Migration requests -/

/-- The ring entry of a request (R392). -/
def migEntry (h : Nat) (r : MigRequest) : Bytes :=
  natLe 8 (r.page * 2 ^ r.sh) ++ natLe 8 (r.seq * 2 ^ 32 + r.wr.toNat * 2 ^ 8 + h)

/-- Writes the oldest request that is not in the ring when the ring has room (R392), and signals (R414). -/
def writeRequest (s : State) (h : Nat) : State :=
  let tail := (hreg s h 0x150).toNat % 256
  if (tail + 1) % 256 = (hreg s h 0x158).toNat % 256 then s
  else match (hankOf s h).migr.find? fun r => !r.written with
    | none => s
    | some r =>
      let s := homeWrite s h true ((hreg s h 0x148).toNat + 16 * tail) (migEntry h r)
      let s := modHank s h fun k => { k with migr := k.migr.map fun q => if q.seq = r.seq then { q with written := true } else q }
      hankEvent (setHreg s h 0x150 (BitVec.ofNat 64 ((tail + 1) % 256))) h 0

/-- Writes requests in arrival order while the ring has room. -/
def writeRequests (s : State) (h : Nat) : Nat → State
  | 0 => s
  | n + 1 => writeRequests (writeRequest s h) h n

/-- The page that holds an address, by number and the number's lowest address bit (R384), as the tables are. -/
def pageAt (s : State) (h va : Nat) : Nat × Nat :=
  match walkFrom s va (hreg s h 0x120).toNat walkLevels with
  | .leaf l => (l.page, l.sh)
  | _ => (va / 2 ^ 16, 16)

/-- Whether a request for a page is open (R392). -/
def pageAsked (s : State) (h va : Nat) : Bool := (hankOf s h).migr.any fun r => (r.page, r.sh) == pageAt s h va

/-- An access parks on a host-owned page (R164, R392): its page joins an open request or makes a new one. -/
def requestPage (s : State) (h va : Nat) (wr : Bool) : State :=
  let p := pageAt s h va
  if pageAsked s h va then
    modHank s h fun k => { k with migr := k.migr.map fun r => if (r.page, r.sh) = p then { r with wr := r.wr || wr } else r }
  else
    let s := modHank s h fun k =>
      { k with migr := k.migr ++ [{ page := p.1, sh := p.2, wr := wr, seq := k.migSeq, written := false }], migSeq := k.migSeq + 1 }
    writeRequest s h

/-! ### Translation -/

/-- Where a global address leads: root memory or versions behind a leaf, or a team's scratch behind a window. -/
inductive Place where
  | mem (l : Leaf)
  | win (team off : Nat)
deriving DecidableEq, Repr

/-- How an access to a global address goes. -/
inductive Tr where
  | ok (p : Place)
  | fault (c : Cause) (detail : Nat)
  | migrate
  | wait
  | hole (pa : Nat)
deriving DecidableEq, Repr

/-- A window access (R288): an unmapped window, bounds and `.ro` give DETAIL 3, a saved team DETAIL 8. -/
def windowPlace (s : State) (h w off n : Nat) (wr : Bool) : Tr :=
  match (hankOf s h).windows.find? fun x => x.num == w with
  | none => .fault .protection 3
  | some x =>
    if x.len < off + n ∨ (wr && x.ro) then .fault .protection 3
    else match s.teams[x.team]? with
      | none => .fault .protection 3
      | some t => if t.phase = .saved then .fault .protection 8 else .ok (.win x.team (x.off + off))

/-- The checks of a leaf for a data access (R161, R164, R386); without the MIGRATE feature a migration is refused (R438). A page on which writes
are held during a move asks the host for them only when the invalidation that ends the move completes (R394). -/
def checkLeaf (s : State) (h va : Nat) (l : Leaf) (wr : Bool) : Tr :=
  if pteHank l.pte ≠ h then .fault .protection 0
  else if wr && !pteOwn l.pte && (hankOf s h).moves.contains (l.page, l.sh) then .wait
  else if !pteOwn l.pte then (if asksHost s h va then .migrate else .fault .migrated 0)
  else if wr && !pteW l.pte then .fault .protection 1
  else if Config.physBytes ≤ l.pa then .hole l.pa
  else .ok (.mem l)

/-- Translates a global access of `n` bytes that does not cross a page (R161, R164, R288, R384-R386). A poisoned table entry raises UNCORRECTABLE at
the word, as R386 and R422 say of any walk, also where R183 and R235 do not mark the word: ST, CADD, MON, YPUSH, CPY, CPYD, GATH, SCAT and MEPI
(log 28). -/
def translate (s : State) (h va n : Nat) (wr : Bool) : Tr :=
  match windowAt va with
  | some (w, off) => windowPlace s h w off n wr
  | none =>
    match walkFor s h va wr with
    | .fault => .fault .pageFault 0
    | .poison d => .fault .uncorrectable d
    | .hole pa => .hole pa
    | .leaf l => checkLeaf s h va l wr

/-- The ply whose versions a read of a leaf sees (R163). -/
def readPly (l : Leaf) (ply : Nat) : Nat := if pteVer l.pte then ply else 0

/-- A byte of an uncached page as ply `p` reads it: of the root, from GDDR 7 where no cache holds the line dirty (R387). -/
def uncachedByte (s : State) (h p pa : Nat) : Byte :=
  match if (nearest s h p (lineOf pa)).isSome then none else s.stale.find? fun t => t.line == lineOf pa && !t.dirty with
  | some t => t.data.getD (pa % 128) 0
  | none => readByte s h p pa

/-- Bytes of memory as the home slices read them for ply `p` (R387). -/
def homeBytes (s : State) (h p : Nat) (l : Leaf) (n : Nat) : Bytes :=
  if pteCached l.pte then readBytes s h p l.pa n else (List.range n).map fun k => uncachedByte s h p (l.pa + k)

/-- Bytes of memory as a wave of cluster `cl` reads them: a corrupted L1 copy of the root line, if its cluster holds one (R430), else
the version of its ply. -/
def loadBytes (s : State) (h ply cl : Nat) (l : Leaf) (n : Nat) : Bytes :=
  let p := readPly l ply
  match if pteL1 l.pte && (nearest s h p (lineOf l.pa)).isNone then s.corrupt.find? fun c => c.cluster == cl && c.line == lineOf l.pa else none with
  | some c => (c.data.drop (l.pa % 128)).take n
  | none => homeBytes s h p l n

/-- What a lane's part of an access answers. `trip` is a fault that counts a failing gauge (R269, R424), `waitIn` a wait in a state that
has noted what is waited for (R164, R394). -/
inductive LaneStep (α : Type) where
  | go (s : State) (a : α)
  | stop (f : LaneFault)
  | trip (s : State) (f : LaneFault)
  | migrate (va : Nat) (wr : Bool) (sp : Space)
  | wait
  | waitIn (s : State)
  | hole (pa : Nat)

/-- A page on which a write waits for a move to end (R394). -/
def noteMove (s : State) (h : Nat) (l : Leaf) : State :=
  modHank s h fun k => { k with moves := if k.moves.contains (l.page, l.sh) then k.moves else (l.page, l.sh) :: k.moves }

/-- An invalidation of the page that holds an address, or of every page, completes (R275, R388, R391): the old entries are gone, and the writes
that WP held there re-walk (R394). -/
def invalidate (s : State) (h : Nat) (va : Option Nat) : State :=
  let held := fun (m : Nat × Nat) =>
    match walkFrom s (m.1 * 2 ^ m.2) (hreg s h 0x120).toNat walkLevels with
    | .leaf l => pteWp l.pte
    | _ => false
  modHank s h fun k => { dropTlb k va with moves := k.moves.filter fun m => !coversVa va m.1 m.2 || held m }

/-- The fault that a lane raises when the page it waits on is refused (R321). -/
def migFault (l va : Nat) (wr : Bool) (sp : Space) : LaneFault :=
  { lane := l, cause := .migrated, addr := BitVec.ofNat 64 va, wr := wr, space := sp, detail := 0 }

/-- The lanes' results so far. -/
structure LaneAcc (α : Type) where
  s : State
  res : List (Nat × α)
  st : Stops

/-- Takes lanes in ascending order (R158, R184): each sees what the ones before did; a lane that stops changes nothing but
a gauge's count (`trip`). -/
def overLanes {α : Type} (h : Nat) (f : State → Nat → LaneStep α) : List Nat → LaneAcc α → Except Fault (LaneAcc α)
  | [], a => .ok a
  | l :: ls, a =>
    match f a.s l with
    | .go s r => overLanes h f ls { s := s, res := a.res ++ [(l, r)], st := a.st }
    | .stop e => overLanes h f ls { a with st := { a.st with faults := a.st.faults ++ [e] } }
    | .trip s e => overLanes h f ls { a with s := s, st := { a.st with faults := a.st.faults ++ [e] } }
    | .migrate va wr sp =>
      overLanes h f ls
        { a with s := requestPage a.s h va wr, st := { a.st with migr := a.st.migr ++ [migFault l va wr sp] } }
    | .wait => overLanes h f ls { a with st := { a.st with holds := a.st.holds ||| maskOfList [l] } }
    | .waitIn s => overLanes h f ls { a with s := s, st := { a.st with holds := a.st.holds ||| maskOfList [l] } }
    | .hole pa => .error (.physicalHole pa)

/-- A word's lanes, and what follows from their results; the word holds when the lanes that complete number more than `room` allows (R337). -/
def withRoom {α : Type} (room : Nat → Bool) (s : State) (c : Ctx) (f : State → Nat → LaneStep α) (k : State → List (Nat × α) → State) :
    Res :=
  match overLanes c.v.hank f (lanesOf c.act) { s := s, res := [], st := Stops.none } with
  | .error e => .stuck e
  | .ok a => if a.res.isEmpty then .done a.s a.st else if room a.res.length then .done (k a.s a.res) a.st else .hold

/-- A word's lanes, and what follows from their results. -/
def withLanes {α : Type} (s : State) (c : Ctx) (f : State → Nat → LaneStep α) (k : State → List (Nat × α) → State) : Res :=
  withRoom (fun _ => true) s c f k

/-! ### Loads -/

/-- One lane's load of a global address by way of the L1 of cluster `cl` (R161): the bytes, after the fold of a commutative line
(R177); poison is consumed (R422). -/
def loadLane (s : State) (c : Ctx) (l va n : Nat) (sp : Space) (cl : Nat) : LaneStep Bytes :=
  if va % n ≠ 0 then .stop (laneFault l .misalign (BitVec.ofNat 64 va) false sp)
  else match translate s c.v.hank va n false with
    | .fault e d => .stop (laneFault l e (BitVec.ofNat 64 va) false sp d)
    | .migrate => .migrate va false sp
    | .wait => .wait
    | .hole pa => .hole pa
    | .ok (.win t off) =>
      if markerBlocks s t off n false then .wait
      else match scratchPoison s t off n with
        | some d => .stop (laneFault l .uncorrectable (BitVec.ofNat 64 va) false sp d)
        | none => .go s (scratchRead s t off n)
    | .ok (.mem lf) =>
      let s := evictCopy (foldRange s lf.pa n) cl (lineOf lf.pa)
      match poisonOfRead s c.v.hank (readPly lf c.v.ply) lf.pa n with
      | some d => .stop (laneFault l .uncorrectable (BitVec.ofNat 64 va) false sp d)
      | none => .go (markUsed s c.v.hank lf false) (loadBytes s c.v.hank c.v.ply cl lf n)

/-- The lines that a word's accesses reach (R354): ply of the version, line and PTE of each, once. -/
def Ctx.reached (c : Ctx) (s : State) (wr : Bool) (vas : List Nat) : List (Nat × Nat × DWord) :=
  (vas.filterMap fun va => match translate s c.v.hank va 1 wr with
    | .ok (.mem lf) =>
      let p := if wr then storePly (hankOf s c.v.hank) c.v.ply va
        else match nearest s c.v.hank (readPly lf c.v.ply) (lineOf lf.pa) with | some v => v.ply | none => 0
      some (p, lineOf lf.pa, lf.pte &&& 0xE000)
    | _ => none).dedup

/-- The caches after a load, a PREF or a store of the lines it reaches (R162, R356-R358). -/
def Ctx.touch (c : Ctx) (s : State) (rc : Nat) (wr hits : Bool) (ls : List (Nat × Nat × DWord)) : State :=
  let cl := clusterOf c.v.core
  ls.foldl (fun s p => if wr then ownLine s cl c.v.hank p.1 p.2.1 p.2.2 rc else fillLine s cl c.v.hank p.1 p.2.1 p.2.2 rc hits) s

/-- The operation that a word has just put in flight reaches lines (R301, R356, R381): it takes miss-status entries for those that its L1 slice,
and for those that their home slices, lacked when it issued (`s0`), or is rejected; then the caches change. -/
def Ctx.reach (c : Ctx) (s0 s : State) (rc : Nat) (wr : Bool) (vas : List Nat) : State :=
  let cl := clusterOf c.v.core
  let h := c.v.hank
  let ls := c.reached s0 wr vas
  let near := fun (p : Nat × Nat × DWord) => byL1 p.2.2 p.1 (if wr then rc else loadRc p.2.2 rc)
  let far := ls.filter fun p => !(near p && (presence s0 h p.1 p.2.1).contains cl)
  let ms := (far.filter near).map fun p => (p.2.1, sliceTile cl p.2.1)
  let hs := (far.filter fun p => byL2 p.2.2 p.1 && !inL2 s0 h p.1 p.2.1).map fun p => (p.2.1, homeTile s0 p.2.1)
  let ok := missRoom s0 false ms hs
  let s := { s with flights := s.flights.map fun f =>
    if f.id + 1 = s.nextFlight then
      { f with
        lines := ls.map fun p => p.2.1, miss := ms, homeMiss := hs, rejected := if ok then none else some 1
        route := (ls.filter near).map fun p => (p.2.1, sliceTile cl p.2.1) }
    else f }
  c.touch (if ok then s else raisePerf s c.v.core c.v.bay 1) rc wr true ls

/-- The operation that a word has just put in flight asks the home slices of some lines (R357): it is performed after the engine commands that own
them. -/
def Ctx.meets (c : Ctx) (s : State) (vas : List Nat) : State :=
  let ls := ((c.reached s false vas).map fun p => p.2.1).dedup
  { s with flights := s.flights.map fun f => if f.id + 1 = s.nextFlight then { f with lines := ls } else f }

/-- Whether a marker blocks one of a word's lanes that go through a scratch window (R168, R288, R303): the word then holds at issue. -/
def Ctx.windowBlocked (c : Ctx) (s : State) (addr : Nat → Nat) (n : Nat) (wr : Bool) : Bool :=
  !s.markers.isEmpty && (lanesOf c.act).any fun l =>
    addr l % n == 0 && !(wr && storePly (hankOf s c.v.hank) c.v.ply (addr l) != 0)
      && (match translate s c.v.hank (addr l) n wr with | .ok (.win t off) => markerBlocks s t off n wr | _ => false)

/-- Bytes of an access by SIZE (R58). -/
def sizeBytes (size : BitVec 3) : Nat :=
  match size.toNat with
  | 0 | 5 => 1
  | 1 | 6 => 2
  | 2 => 4
  | 3 => 8
  | _ => 16

/-- The registers' words of loaded bytes (R156): 8 and 16 bits are extended as SIZE gives. -/
def loadWords (size : BitVec 3) (bs : Bytes) : List Word :=
  let v := leNat bs
  match size.toNat with
  | 5 => [BitVec.ofInt 32 (signedN 8 v)]
  | 6 => [BitVec.ofInt 32 (signedN 16 v)]
  | 3 => [BitVec.ofNat 32 v, BitVec.ofNat 32 (v / 2 ^ 32)]
  | 4 => [0, 1, 2, 3].map fun k => BitVec.ofNat 32 (v / 2 ^ (32 * k))
  | _ => [BitVec.ofNat 32 v]

/-- The results of lanes for registers r up, to be written at RESULT_WRITEBACK (R66). -/
def regResults (r : Nat) (res : List (Nat × List Word)) : List RegResult :=
  res.flatMap fun p => p.2.mapIdx fun k w => { reg := r + k, lane := p.1, val := w }

/-- The bytes of registers r up in a lane (R156). -/
def regBytes (c : Ctx) (r n l : Nat) : Bytes :=
  if n ≤ 4 then natLe n (Row.lane (c.reg r) l).toNat
  else (List.range (n / 4)).flatMap fun k => natLe 4 (Row.lane (c.reg (r + k)) l).toNat

/-! ### Stores -/

/-- Whether a write to a leaf must wait or fails at the ply check, or the ply it writes (R163, R164, R250, R251). -/
inductive WritePly where
  | to (p : Nat)
  | fault (c : Cause)
  | wait
deriving DecidableEq, Repr

/-- Whether a write of a page waits (R164, R394): WP is set, or the invalidation that ends a move has not completed. -/
def wpHolds (s : State) (h : Nat) (l : Leaf) : Bool := pteWp l.pte || (hankOf s h).moves.contains (l.page, l.sh)

/-- The ply checks of a write (R163, R251, R361). -/
def writePly (s : State) (h ply va : Nat) (l : Leaf) : WritePly :=
  let q := storePly (hankOf s h) ply va
  if q ≠ 0 ∧ !pteVer l.pte then .fault .versionEscape
  else if wpHolds s h l then .wait
  else if !slotFor s h q (lineOf l.pa) then .fault .shadowFull
  else .to q

/-- Writes bytes of one line behind a leaf, which marks it used (R390); a root line that may stay dirty lies in a cache (R354, R356). -/
def writeLeaf (s : State) (w : Option Nat) (h q : Nat) (l : Leaf) (bs : Bytes) : State :=
  let s := plyWrite (markUsed s h l true) w (pteCached l.pte) h q l.pa bs
  if q = 0 && pteCached l.pte then cacheRoot s h (lineOf l.pa) else s

/-- The gauge check of a wave's write (R269): the bytes to write, or none when a gauge in trap mode fails; failures are counted and
set the wave's `%gst`. -/
def gaugeCheck (s : State) (w h : Nat) (l : Leaf) (bs : Bytes) (trap : Bool) : State × Option Bytes :=
  let gi := pteGidx l.pte
  let g := gaugeOf s h gi
  let r := g.check l.pa bs
  let s := if r.2 = 0 then s else raiseGst (countFails s h gi r.2) w gi
  (s, if trap && g.mode == 3 && r.2 != 0 then none else some r.1)

/-- CRC-32C (R337) of a byte, reflected. -/
def crcByte (crc : Nat) : Nat → Nat
  | 0 => crc
  | n + 1 => crcByte (if crc % 2 = 1 then crc / 2 ^^^ 0x82F63B78 else crc / 2) n

/-- CRC-32C of a byte string (R337). -/
def crc32c (bs : Bytes) : Word :=
  BitVec.ofNat 32 (bs.foldl (fun crc b => crcByte (crc ^^^ b.toNat) 8) 0xFFFFFFFF ^^^ 0xFFFFFFFF)

/-- A signature (R337). -/
def sigOf (addr : DWord) (bs : Bytes) : Sig := { addr := addr, crc := crc32c bs }

/-- The pair a wave belongs to while it is paired. -/
def pairOf (s : State) (v : Wave) : Option (Nat × Pair) :=
  v.pair.bind fun k => (s.pairs[k]?).bind fun p => if p.active then some (k, p) else none

/-- Whether `n` more signatures of a wave are within the limits of R337. -/
def sigRoom (s : State) (w : Nat) (v : Wave) (n : Nat) : Bool :=
  match pairOf s v with
  | none => true
  | some (_, p) =>
    if p.leader = w then p.rendL || decide (p.sigL.length + n ≤ p.sigT.length + 256) else decide (p.sigT.length + n ≤ p.sigL.length)

/-- Adds signatures of a wave (R337); a leader adds none after its REND (R273). -/
def addSigs (s : State) (w : Nat) (v : Wave) (sg : List Sig) : State :=
  match pairOf s v with
  | none => s
  | some (k, p) =>
    if p.leader = w then (if p.rendL then s else { s with pairs := s.pairs.modify k fun p => { p with sigL := p.sigL ++ sg } })
    else { s with pairs := s.pairs.modify k fun p => { p with sigT := p.sigT ++ sg } }

/-- One lane's store (R161, R163, R184): its bytes as the gauge leaves them. -/
def storeLane (s : State) (c : Ctx) (l va : Nat) (bs : Bytes) : LaneStep Sig :=
  let ad := BitVec.ofNat 64 va
  if va % bs.length ≠ 0 then .stop (laneFault l .misalign ad true .global)
  else match translate s c.v.hank va bs.length true with
    | .fault e d => .stop (laneFault l e ad true .global d)
    | .migrate => .migrate va true .global
    | .wait => .wait
    | .hole pa => .hole pa
    | .ok (.win t off) =>
      if storePly (hankOf s c.v.hank) c.v.ply va ≠ 0 then .stop (laneFault l .versionEscape ad true .global)
      else if markerBlocks s t off bs.length true then .wait
      else .go (scratchWrite s t off bs) (sigOf ad bs)
    | .ok (.mem lf) =>
      match writePly s c.v.hank c.v.ply va lf with
      | .fault e => .stop (laneFault l e ad true .global)
      | .wait => .waitIn (noteMove s c.v.hank lf)
      | .to q =>
        let s := foldRange s lf.pa bs.length
        match gaugeCheck s c.w c.v.hank lf bs true with
        | (s, none) => .trip s (laneFault l .gauge ad true .global (pteGidx lf.pte))
        | (s, some bs) => .go (writeLeaf s (some c.w) c.v.hank q lf bs) (sigOf ad bs)

/-! ### Deferred effects -/

/-- Whether a ply's log has room for one more entry (R247). -/
def logRoom (s : State) (h ply : Nat) : Bool :=
  match plyOf? (hankOf s h) ply with
  | some y => decide (y.log.length < 512)
  | none => false

/-- Appends an entry to the log of the ply in which it issued (R247); the operation is in flight until a keep performs the entry (R80,
R299). -/
def appendLog (s : State) (c : Ctx) (k : LogKind) : State :=
  let e : LogEntry := { kind := k, ply := c.v.ply, flight := s.nextFlight }
  let s := modHank s c.v.hank fun y =>
    { y with plies := y.plies.map fun p => if p.num = c.v.ply then { p with log := p.log ++ [e] } else p }
  addFlight s (c.flight .deferred none [] [] false true)

/-! ### Uniform reads of descriptors and records -/

/-- How a uniform read of bytes goes: the bytes; a fault; a page to wait for; an address that does not exist. -/
inductive Read where
  | ok (s : State) (bs : Bytes)
  | fault (c : Cause) (va : Nat) (detail : Nat)
  | migrate (va : Nat)
  | wait
  | hole (pa : Nat)

/-- Reads `n` bytes at an aligned address in a ply as LD would (R161): a descriptor or a record within one page. -/
def readGlobal (s : State) (h ply cl va n : Nat) : Read :=
  match translate s h va n false with
  | .fault e d => .fault e va d
  | .migrate => .migrate va
  | .wait => .wait
  | .hole pa => .hole pa
  | .ok (.win t off) =>
    if markerBlocks s t off n false then .wait
    else match scratchPoison s t off n with
      | some d => .fault .uncorrectable va d
      | none => .ok s (scratchRead s t off n)
  | .ok (.mem lf) =>
    let s := evictCopy (foldRange s lf.pa n) cl (lineOf lf.pa)
    match poisonOfRead s h (readPly lf ply) lf.pa n with
    | some d => .fault .uncorrectable va d
    | none => .ok (markUsed s h lf false) (loadBytes s h ply cl lf n)

/-- Where a page's bytes and a window's stand `k` bytes further on. -/
def Place.at (p : Place) (k : Nat) : Place :=
  match p with
  | .mem l => .mem { l with pa := l.pa + k }
  | .win t off => .win t (off + k)

/-- Bytes at a place as ply `p` reads them, or their poison. -/
def placeBytes (s : State) (h p n : Nat) : Place → State × Except Nat Bytes
  | .win t off =>
    (s, match scratchPoison s t off n with
        | some d => .error d
        | none => .ok (scratchRead s t off n))
  | .mem l =>
    let s := foldRange s l.pa n
    match poisonOfRead s h (readPly l p) l.pa n with
    | some d => (s, .error d)
    | none => (markUsed s h l false, .ok (homeBytes s h (readPly l p) l n))

/-- Why bytes at a place cannot be written in a ply (R163, R164, R288). -/
inductive WriteStop where
  | fault (c : Cause)
  | move (l : Leaf)
deriving DecidableEq, Repr

/-- Writes bytes of one line at a place in a ply (R163); `va` is its address. -/
def placeWrite (s : State) (w : Option Nat) (h ply va : Nat) (bs : Bytes) : Place → Except WriteStop State
  | .win t off => if storePly (hankOf s h) ply va ≠ 0 then .error (.fault .versionEscape) else .ok (scratchWrite s t off bs)
  | .mem l =>
    match writePly s h ply va l with
    | .fault e => .error (.fault e)
    | .wait => .error (.move l)
    | .to q => .ok (writeLeaf (foldRange s l.pa bs.length) w h q l bs)

/-- Every active lane waits for a page to migrate (R164). -/
def Ctx.migrateAll (c : Ctx) (s : State) (va : Nat) (wr : Bool) (sp : Space := .global) : Res :=
  .done (requestPage s c.v.hank va wr) { Stops.none with migr := (lanesOf c.act).map fun l => migFault l va wr sp }

/-- A word that reads a descriptor or a record and goes on with its bytes (R161, R261, `%finfo`.SPACE 7). -/
def withRecord (s : State) (c : Ctx) (ply va n : Nat) (k : State → Bytes → Res) : Res :=
  match readGlobal s c.v.hank ply (clusterOf c.v.core) va n with
  | .ok s bs => k s bs
  | .fault e va d => c.fault s e (BitVec.ofNat 64 va) false .record d
  | .migrate va => c.migrateAll s va false .record
  | .wait => .hold
  | .hole pa => .stuck (.physicalHole pa)

/-- Dword k of a byte string. -/
def dwordAt (bs : Bytes) (k : Nat) : DWord := BitVec.ofNat 64 (leNat ((bs.drop (8 * k)).take 8))

end Sys2Proof.Machine
end

