-- ==== Sys2Proof/Machine/MemWords.lean ====
section
/-! DEFINITION. The M-class words (07_memory_instructions): addresses (R155), global, scratch, vault and parameter accesses
(R161-R170), atomics and CADD (R171-R177), monitors and cache maintenance (R178-R182), and LD and ST inside an atomic region
(10 R254, R255). Accesses take effect at issue (log 1). -/

namespace Sys2Proof.Machine

/-! ### Addresses and counters -/

/-- The global address of lane l (R155). -/
def gAddr (c : Ctx) (x : MWord) (l : Nat) (p : BitVec 3) {k : Nat} (off : BitVec k) (size : Nat) : Nat :=
  (c.perm64 x.a p l + Word.sx64 off * BitVec.ofNat 64 size).toNat

/-- The scratch or vault offset of lane l (R155). -/
def sAddr (c : Ctx) (x : MWord) (l : Nat) (p : BitVec 3) {k : Nat} (off : BitVec k) (size : Nat) : Nat :=
  (c.perm x.a p l + off.signExtend 32 * BitVec.ofNat 32 size).toNat

/-- The global address of a load or a store. -/
def accessA (c : Ctx) (x : MWord) (l : Nat) : Nat := gAddr c x l x.pa x.f (sizeBytes x.size)

/-- The global address of an ATOM, whose A is read without permutation (R155). -/
def atomA (c : Ctx) (x : MWord) (l : Nat) : Nat := gAddr c x l 0 x.off6 (sizeBytes x.size)

/-- The global address of ACAS and CADD. -/
def casA (c : Ctx) (x : MWord) (l : Nat) : Nat := gAddr c x l x.pa x.off6 (sizeBytes x.size)

/-- The address whose line MON, PREF, CINV and CWB name (R155: the offset counts lines). -/
def lineA (c : Ctx) (x : MWord) (l : Nat) : Nat := gAddr c x l x.pa x.f 128

/-- Puts a load's results in flight (R66, R160). -/
def loadFlight (s : State) (c : Ctx) (p : Option Path) (size : BitVec 3) (d : BitVec 8) (perf : Bool) (res : List (Nat × List Word)) : State :=
  addFlight s (c.flight .access p (dataRegs size d) (regResults d.toNat res) true perf)

/-- Puts a store-like access in flight until it is performed (R160). -/
def storeFlight (s : State) (c : Ctx) (p : Option Path) : State := addFlight s (c.flight .access p [] [] false true)

/-- The loaded words of each lane. -/
def loadedWords (size : BitVec 3) (res : List (Nat × Bytes)) : List (Nat × List Word) := res.map fun p => (p.1, loadWords size p.2)

/-! ### LD and ST in an atomic region -/

/-- A region that tracks the lines of an access too (R254), or none when they are more than 32. -/
def Region.track (r : Region) (ply pa n : Nat) : Option Region :=
  (linesOf pa n).foldl (fun o l => o.bind fun r =>
    if r.lines.any fun t => t.line == l && t.ply == ply then some r
    else if 32 ≤ r.lines.length then none
    else some { r with lines := r.lines ++ [{ line := l, ply := ply, changed := false }] }) (some r)

/-- Whether the region stored any of the bytes of a read (R254). -/
def Region.stored (r : Region) (pa n : Nat) : Bool := r.stores.any fun t => decide (t.pa < pa + n ∧ pa < t.pa + t.data.length)

/-- Bytes of memory with the region's buffered stores over them (R254). -/
def Region.over (r : Region) (pa : Nat) (bs : Bytes) : Bytes :=
  r.stores.foldl (fun bs t => bs.mapIdx fun k b =>
    if t.pa ≤ pa + k ∧ pa + k < t.pa + t.data.length then t.data.getD (pa + k - t.pa) 0 else b) bs

/-- Whether a word uses a tagged register as a source, or as its predicate, in an active lane. -/
def Ctx.anyTag (c : Ctx) (r : Region) (i : Instr) (ss : List Src) : Bool :=
  c.predTagged r i || (lanesOf c.act).any fun l => ss.any fun q => (c.tagRead r q l).isSome

/-- The region in the wave, with CONCRETE set when `conc` (R255, R259). -/
def Ctx.setRegion (c : Ctx) (s : State) (r : Region) (conc : Bool) : State :=
  modWave s c.w fun v => { v with region := some r, ars := if conc then v.ars ||| arsConcrete else v.ars }

/-- One lane's load in a region: where it lies and its bytes, without the buffered stores. -/
def regionLoadLane (s : State) (c : Ctx) (l va n cl : Nat) : LaneStep (Nat × Bytes) :=
  match loadLane s c l va n .global cl with
  | .go t bs =>
    match translate s c.v.hank va n false with
    | .ok (.mem lf) => .go t (lf.pa, bs)
    | _ => .wait
  | .stop f => .stop f
  | .trip t f => .trip t f
  | .migrate va wr sp => .migrate va wr sp
  | .wait => .wait
  | .waitIn t => .waitIn t
  | .hole pa => .hole pa

/-- The region after the loads of an LD (R254, R255): lines tracked, the destination tagged or its tags removed. -/
def regionLoaded (c : Ctx) (x : MWord) (r : Region) (res : List (Nat × Nat × Bytes)) : Except (Nat × Nat) Region :=
  match res.foldl (fun o p => o.bind fun r => r.track c.v.ply p.2.1 p.2.2.length) (some r) with
  | none => .error (3, 0)
  | some r =>
    let kept := r.tags.filter fun t => !((dataRegs x.size x.d).contains t.reg && c.act.getLsbD t.lane)
    if x.size ≠ 2 then .ok { r with tags := kept }
    else if 16 ≤ r.slots.length then .error (3, 3)
    else
      .ok { r with
        tags := kept ++ res.map fun p => { reg := x.d.toNat, lane := p.1, slot := r.slots.length, c := 0 }
        slots := r.slots ++ [res.map fun p => (p.1, accessA c x p.1, p.2.1, c.v.ply)] }

/-- LD inside an atomic region (R254, R255). -/
def regionLd (s : State) (c : Ctx) (r : Region) (x : MWord) : Res :=
  let n := sizeBytes x.size
  if (lanesOf c.act).any fun l => (windowAt (accessA c x l)).isSome then .abort 5 0 0
  else
    match overLanes c.v.hank (fun s l => regionLoadLane s c l (accessA c x l) n (if x.rc = 7 then 28 else clusterOf c.v.core))
        (lanesOf c.act) { s := s, res := [], st := Stops.none } with
    | .error e => .stuck e
    | .ok a =>
      if a.st.faults ≠ [] ∨ a.st.migr ≠ [] ∨ a.st.holds ≠ 0 then .done a.s a.st
      else match regionLoaded c x (((c.wave a.s).region).getD r) a.res with
        | .error e => .abort e.1 0 e.2
        | .ok r' =>
          let conc := x.size != 2 || c.anyTag r (.ld x) x.sAPair || a.res.any fun p => r.stored p.2.1 p.2.2.length
          let vals := a.res.map fun p => (p.1, loadWords x.size (r.over p.2.1 p.2.2))
          .ok (c.reach s (loadFlight (c.setRegion a.s r' conc) c (some .g) x.size x.d false vals) x.rc.toNat false
            ((lanesOf c.act).map (accessA c x)))

/-- One lane's buffered store in a region (R254): its checks, where it goes, its bytes, and those that the gauge would leave of them, which
the signature covers (R337); a failing gauge in trap mode is counted here, any other at the commit (R269, R424). -/
def regionStoreLane (s : State) (c : Ctx) (l va : Nat) (bs : Bytes) : LaneStep (Nat × Bytes × Bytes) :=
  let ad := BitVec.ofNat 64 va
  if va % bs.length ≠ 0 then .stop (laneFault l .misalign ad true .global)
  else match translate s c.v.hank va bs.length true with
    | .fault e d => .stop (laneFault l e ad true .global d)
    | .migrate => .migrate va true .global
    | .wait | .ok (.win _ _) => .wait
    | .hole pa => .hole pa
    | .ok (.mem lf) =>
      match writePly s c.v.hank c.v.ply va lf with
      | .fault e => .stop (laneFault l e ad true .global)
      | .wait => .waitIn (noteMove s c.v.hank lf)
      | .to _ =>
        match gaugeCheck s c.w c.v.hank lf bs true with
        | (t, none) => .trip t (laneFault l .gauge ad true .global (pteGidx lf.pte))
        | (_, some out) => .go s (lf.pa, bs, out)

/-- The tag of a store's data in lane l, when its address is untagged and SIZE is 2 (R255). -/
def symTag (c : Ctx) (r : Region) (x : MWord) (l : Nat) : Option (Nat × Word) :=
  if x.size = 2 ∧ (x.sAPair.all fun q => (c.tagRead r q l).isNone) then (r.tag x.d.toNat l).map fun t => (t.slot, t.c) else none

/-- ST inside an atomic region (R254, R255): buffered until the commit. -/
def regionSt (s : State) (c : Ctx) (r : Region) (x : MWord) : Res :=
  let n := sizeBytes x.size
  if (lanesOf c.act).any fun l => (windowAt (accessA c x l)).isSome then .abort 5 0 0
  else
    match overLanes c.v.hank (fun s l => regionStoreLane s c l (accessA c x l) (regBytes c x.d.toNat n l)) (lanesOf c.act)
        { s := s, res := [], st := Stops.none } with
    | .error e => .stuck e
    | .ok a =>
      if a.st.faults ≠ [] ∨ a.st.migr ≠ [] ∨ a.st.holds ≠ 0 then .done a.s a.st
      else if !sigRoom s c.w c.v a.res.length then .hold
      else match a.res.foldl (fun o p => o.bind fun r => r.track c.v.ply p.2.1 n) (some r) with
        | none => .abort 3 0 0
        | some r' =>
          let syms := (lanesOf c.act).any fun l => (symTag c r x l).isSome
          let conc := c.anyTag r (.st x) x.sAPair
            || (lanesOf c.act).any fun l => (symTag c r x l).isNone && x.sData.any fun q => (c.tagRead r q l).isSome
          if syms && decide (32 ≤ r.nSyms) then .abort 3 0 2
          else
            let r' := { r' with
              stores := r'.stores ++ a.res.map fun p =>
                { va := accessA c x p.1, pa := p.2.1, ply := c.v.ply, lane := p.1, data := p.2.2.1, sym := symTag c r x p.1 }
              nSyms := r'.nSyms + syms.toNat }
            let s := c.setRegion a.s r' conc
            let s := addSigs s c.w c.v (a.res.map fun p => sigOf (BitVec.ofNat 64 (accessA c x p.1)) p.2.2.2)
            .ok (addFlight s (c.flight .commit (some .w) [] [] false true))

/-! ### Global loads and stores -/

/-- The granules that a write of `n` bytes at a global address of a wave touches (R421). -/
def granulesAt (s : State) (c : Ctx) (va n : Nat) : List Granule :=
  match translate s c.v.hank va n true with
  | .ok (.win t off) => (touchedGranules off n).map (.scratch t)
  | .ok (.mem lf) =>
    let q := storePly (hankOf s c.v.hank) c.v.ply va
    (touchedGranules lf.pa n).map (if q = 0 then .phys else .version c.v.hank q)
  | _ => []

/-- What a store makes of poison that lane l's operands hold (R421, R422): it goes on with the data. -/
def carryStore {α : Type} (s : State) (c : Ctx) (i : Instr) (l : Nat) (gs : List Granule) : LaneStep α → LaneStep α
  | .go t a =>
    .go (if s.poison.isEmpty then t
         else match lanePoison s c i l with
          | none => t
          | some d => gs.foldl (fun t g => setPoison t g d) t) a
  | r => r

/-- LD (R161, R162): RC 7 reads past the L1. -/
def execLd (x : MWord) (s : State) : Host.Outcome State Fault Refusal :=
  issue s (.ld x) fun s c =>
    if c.pathFull s .g then .hold
    else match c.region with
      | some r => regionLd s c r x
      | none =>
        if c.windowBlocked s (accessA c x) (sizeBytes x.size) false then .hold
        else withLanes s c
          (fun s l => loadLane s c l (accessA c x l) (sizeBytes x.size) .global (if x.rc = 7 then 28 else clusterOf c.v.core))
          fun t res =>
            c.reach s (loadFlight t c (some .g) x.size x.d false (loadedWords x.size res)) x.rc.toNat false (res.map fun p => accessA c x p.1)

/-- ST (R161-R163). -/
def execSt (x : MWord) (s : State) : Host.Outcome State Fault Refusal :=
  issue s (.st x) fun s c =>
    if c.pathFull s .w then .hold
    else match c.region with
      | some r => regionSt s c r x
      | none =>
        let n := sizeBytes x.size
        if c.windowBlocked s (accessA c x) n true then .hold
        else withRoom (sigRoom s c.w c.v) s c
          (fun s l =>
            carryStore s c (.st x) l (granulesAt s c (accessA c x l) n) (storeLane s c l (accessA c x l) (regBytes c x.d.toNat n l)))
          fun t res =>
            c.reach s (storeFlight (addSigs t c.w c.v (res.map Prod.snd)) c (some .w)) x.rc.toNat true (res.map fun p => accessA c x p.1)

/-- LDK (R165): the parameter block through the wave's translation. -/
def execLdk (x : MWord) (s : State) : Host.Outcome State Fault Refusal :=
  issue s (.ldk x) fun s c =>
    let addr := fun l => (c.v.kptr + BitVec.ofNat 64 (sAddr c x l 0 x.f (sizeBytes x.size))).toNat
    if c.pathFull s .g || c.windowBlocked s addr (sizeBytes x.size) false then .hold
    else
      withLanes s c (fun s l => loadLane s c l (addr l) (sizeBytes x.size) .param (clusterOf c.v.core))
        fun t res => c.reach s (loadFlight t c (some .g) x.size x.d false (loadedWords x.size res)) 0 false (res.map fun p => addr p.1)

/-! ### Scratch -/

/-- The checks of a lane's scratch access (R159, R166, R168): the fault, or whether it must wait for a marker. -/
def scratchCheck (s : State) (c : Ctx) (l off n : Nat) (wr : Bool) : Except LaneFault Bool :=
  let ad := BitVec.ofNat 64 off
  if off % n ≠ 0 then .error (laneFault l .misalign ad wr .scratch)
  else match s.teams[c.v.team]? with
    | none => .error (laneFault l .protection ad wr .scratch 3)
    | some t =>
      if scratchIn t off n then .ok (markerBlocks s c.v.team off n wr) else .error (laneFault l .protection ad wr .scratch 3)

/-- Whether a marker blocks one of a word's lanes (R168): the word then holds at issue. -/
def scratchBlocked (s : State) (c : Ctx) (off : Nat → Nat) (n : Nat) (wr : Bool) : Bool :=
  !s.markers.isEmpty && (lanesOf c.act).any fun l => match scratchCheck s c l (off l) n wr with | .ok true => true | _ => false

/-- LDS (R166, R168). -/
def execLds (x : MWord) (s : State) : Host.Outcome State Fault Refusal :=
  issue s (.lds x) fun s c =>
    let n := sizeBytes x.size
    if scratchBlocked s c (fun l => sAddr c x l x.pa x.f n) n false then .hold
    else withLanes s c
      (fun s l =>
        let off := sAddr c x l x.pa x.f n
        match scratchCheck s c l off n false with
        | .error f => .stop f
        | .ok true => .wait
        | .ok false =>
          match scratchPoison s c.v.team off n with
          | some d => .stop (laneFault l .uncorrectable (BitVec.ofNat 64 off) false .scratch d)
          | none => .go s (scratchRead s c.v.team off n))
      fun s res => loadFlight s c none x.size x.d false (loadedWords x.size res)

/-- STS (R166, R168). It adds no signature, as STV and ATOMS add none: R337 signs a lane's virtual address, and they have none (log 25). -/
def execSts (x : MWord) (s : State) : Host.Outcome State Fault Refusal :=
  issue s (.sts x) fun s c =>
    let n := sizeBytes x.size
    if scratchBlocked s c (fun l => sAddr c x l x.pa x.f n) n true then .hold
    else withLanes s c
      (fun s l =>
        let off := sAddr c x l x.pa x.f n
        match scratchCheck s c l off n true with
        | .error f => .stop f
        | .ok true => .wait
        | .ok false =>
          carryStore s c (.sts x) l ((touchedGranules off n).map (.scratch c.v.team))
            (.go (scratchWrite s c.v.team off (regBytes c x.d.toNat n l)) ()))
      fun s _ => storeFlight s c none

/-! ### Vault memory -/

/-- The core whose vault a word names (R169): ROW = COL = 15 is the wave's own. -/
def vaultCore (c : Ctx) (x : MWord) : Nat := if x.vrow = 15 ∧ x.vcol = 15 then c.v.core else 14 * x.vrow + x.vcol

/-- LDV (R169). -/
def execLdv (x : MWord) (s : State) : Host.Outcome State Fault Refusal :=
  issue s (.ldv x) fun s c =>
    let n := sizeBytes x.size
    let core := vaultCore c x
    if c.pathFull s .v then .hold
    else
      withLanes s c
        (fun s l =>
          let off := sAddr c x l x.pa x.off6 n
          let ad := BitVec.ofNat 64 off
          if off % n ≠ 0 then .stop (laneFault l .misalign ad false .vault)
          else match vaultFault s c.v.hank core off n with
            | some d => .stop (laneFault l .protection ad false .vault d)
            | none =>
              match vaultPoison s core off n with
              | some d => .stop (laneFault l .uncorrectable ad false .vault d)
              | none => .go s (vaultRead s c.v.hank core off n))
        fun s res =>
          addFlight s { c.flight .access (some .v) (dataRegs x.size x.d) (regResults x.d.toNat (loadedWords x.size res)) true false with
            route := [(0, core)] }

/-- STV (R169): in a non-root ply it raises VERSION_ESCAPE. -/
def execStv (x : MWord) (s : State) : Host.Outcome State Fault Refusal :=
  issue s (.stv x) fun s c =>
    let n := sizeBytes x.size
    let core := vaultCore c x
    if c.pathFull s .v then .hold
    else
      withLanes s c
        (fun s l =>
          let off := sAddr c x l x.pa x.off6 n
          let ad := BitVec.ofNat 64 off
          if off % n ≠ 0 then .stop (laneFault l .misalign ad true .vault)
          else match vaultFault s c.v.hank core off n with
            | some d => .stop (laneFault l .protection ad true .vault d)
            | none =>
              if c.v.ply ≠ 0 then .stop (laneFault l .versionEscape ad true .vault)
              else
                carryStore s c (.stv x) l ((touchedGranules off n).map (.vault core))
                  (.go (vaultClear (vaultWrite s c.v.hank core off (regBytes c x.d.toNat n l)) core off n) ()))
        fun s _ => storeFlight s c (some .v)

/-! ### Atomics -/

/-- The new value of ATOM and ATOMS (R171): AOP, AVAR, bytes, old, b. -/
def atomOp (op avar n old b : Nat) : Nat :=
  let w := 8 * n
  match op with
  | 0 => if avar = 2 then fp32.memAdd old b else (old + b) % 2 ^ w
  | 1 =>
    if avar = 2 then atomMinMax false old b
    else if avar = 1 then min old b
    else if signedN w old ≤ signedN w b then old else b
  | 2 =>
    if avar = 2 then atomMinMax true old b
    else if avar = 1 then max old b
    else if signedN w b ≤ signedN w old then old else b
  | 3 => old &&& b
  | 4 => old ||| b
  | 5 => old ^^^ b
  | 6 => b
  | _ =>
    if avar = 0 then (if b ≤ old then 0 else (old + 1) % 2 ^ w)
    else if old = 0 ∨ b < old then b else old - 1

/-- Cached copies of a line are invalidated at its home (R172, R182): the L1 slices drop it, and monitors trigger (R179). -/
def dropCopies (s : State) (line : Nat) : State :=
  triggerMonitors { s with corrupt := s.corrupt.filter fun k => k.line != line, l1 := s.l1.filter fun e => e.line != line } line

/-- A read-modify-write of a leaf at the home slice (R163, R172): `f` gives the new value, or none when nothing is written. `w` is the
issuing wave, `trap` whether a gauge in trap mode stops it. -/
def rmwLeaf (s : State) (w : Option Nat) (h ply q : Nat) (lf : Leaf) (n : Nat) (f : Nat → Option Nat) (trap : Bool) :
    State × Nat × Bool :=
  let s₀ := s
  let s := dropCopies s (lineOf lf.pa)
  let old := leNat (homeBytes s h (readPly lf ply) lf n)
  match f old with
  | none => (markUsed s h lf false, old, true)
  | some v =>
    let bs := natLe n v
    match w with
    | some w =>
      match gaugeCheck s w h lf bs trap with
      | (_, none) => ((gaugeCheck s₀ w h lf bs trap).1, old, false)
      | (s, some bs) => (writeLeaf s (some w) h q lf bs, old, true)
    | none =>
      let r := (gaugeOf s h (pteGidx lf.pte)).check lf.pa bs
      (writeLeaf (countFails s h (pteGidx lf.pte) r.2) none h q lf r.1, old, true)

/-- One lane's atomic on a global address (R172, R173, R184): the old value. -/
def rmwLane (s : State) (c : Ctx) (l va n : Nat) (f : Nat → Option Nat) : LaneStep Nat :=
  let ad := BitVec.ofNat 64 va
  if va % n ≠ 0 then .stop (laneFault l .misalign ad true .global)
  else match translate s c.v.hank va n true with
    | .fault e d => .stop (laneFault l e ad true .global d)
    | .migrate => .migrate va true .global
    | .wait => .wait
    | .hole pa => .hole pa
    | .ok (.win t off) =>
      if storePly (hankOf s c.v.hank) c.v.ply va ≠ 0 then .stop (laneFault l .versionEscape ad true .global)
      else if markerBlocks s t off n true then .wait
      else match scratchPoison s t off n with
        | some d => .stop (laneFault l .uncorrectable ad true .global d)
        | none =>
          let old := leNat (scratchRead s t off n)
          .go (match f old with | some v => scratchWrite s t off (natLe n v) | none => s) old
    | .ok (.mem lf) =>
      let s1 := foldRange s lf.pa n
      let go := fun q =>
        match poisonOfRead s1 c.v.hank (readPly lf c.v.ply) lf.pa n with
        | some d => LaneStep.stop (laneFault l .uncorrectable ad true .global d)
        | none =>
          match rmwLeaf s1 (some c.w) c.v.hank c.v.ply q lf n f true with
          | (s, old, true) => .go s old
          | (s, _, false) => .trip s (laneFault l .gauge ad true .global (pteGidx lf.pte))
      match writePly s c.v.hank c.v.ply va lf with
      | .fault .shadowFull =>
        if (f (leNat (homeBytes s1 c.v.hank (readPly lf c.v.ply) lf n))).isNone then go 0
        else .stop (laneFault l .shadowFull ad true .global)
      | .fault e => .stop (laneFault l e ad true .global)
      | .wait => .waitIn (noteMove s c.v.hank lf)
      | .to q => go q

/-- The checks of a deferred atomic in one lane (R175). -/
def deferLane (s : State) (c : Ctx) (l va n : Nat) : LaneStep Unit :=
  let ad := BitVec.ofNat 64 va
  if va % n ≠ 0 then .stop (laneFault l .misalign ad true .global)
  else match translate s c.v.hank va n true with
    | .fault e d => .stop (laneFault l e ad true .global d)
    | .migrate => .migrate va true .global
    | .wait => .wait
    | .hole pa => .hole pa
    | .ok _ => .go s ()

/-- A deferred ATOM or ACAS (R175, R247): one log entry for the lanes that pass, 0 to D, its signatures; LOG_FULL in those lanes when
the log is full. -/
def deferAtomic (s : State) (c : Ctx) (x : MWord) (addr : Nat → Nat) (entry : List Nat → LogKind) (sig : Nat → Bytes) : Res :=
  match overLanes c.v.hank (fun s l => deferLane s c l (addr l) (sizeBytes x.size)) (lanesOf c.act) { s := s, res := [], st := Stops.none } with
  | .error e => .stuck e
  | .ok a =>
    let ls := a.res.map Prod.fst
    if ls = [] then .done a.s a.st
    else if !sigRoom s c.w c.v ls.length then .hold
    else if !logRoom a.s c.v.hank c.v.ply then
      .done a.s { a.st with faults := a.st.faults ++ ls.map fun l => laneFault l .logFull (BitVec.ofNat 64 (addr l)) true .global }
    else
      let s := appendLog a.s c (entry ls)
      let s := addSigs s c.w c.v (ls.map fun l => sigOf (BitVec.ofNat 64 (addr l)) (sig l))
      .done (loadFlight s c (some .w) x.size x.d false (ls.map fun l => (l, loadWords x.size []))) a.st

/-- An ATOM or ACAS that is performed (R172). -/
def globalAtomic (s : State) (c : Ctx) (x : MWord) (addr : Nat → Nat) (f : Nat → Nat → Option Nat) (sig : Nat → Bytes) : Res :=
  let n := sizeBytes x.size
  if c.windowBlocked s addr n true then .hold
  else withRoom (sigRoom s c.w c.v) s c (fun s l => rmwLane s c l (addr l) n (f l)) fun t res =>
    let t := addSigs t c.w c.v (res.map fun p => sigOf (BitVec.ofNat 64 (addr p.1)) (sig p.1))
    c.reach s (loadFlight t c (some .w) x.size x.d true (res.map fun p => (p.1, loadWords x.size (natLe n p.2)))) 7 true
      (res.map fun p => addr p.1)

/-- ATOM (R171, R172, R175). -/
def execAtom (x : MWord) (s : State) : Host.Outcome State Fault Refusal :=
  issue s (.atom x) fun s c =>
    let n := sizeBytes x.size
    let b := fun l => regBytes c x.b.toNat n l
    if c.pathFull s .w then .hold
    else if x.scope = 5 ∧ c.v.ply ≠ 0 then
      deferAtomic s c x (atomA c x)
        (fun ls => .atom x.pa.toNat x.rc.toNat n x.scope.toNat
          (ls.map fun l => (l, BitVec.ofNat 64 (atomA c x l), BitVec.ofNat 64 (leNat (b l))))) b
    else globalAtomic s c x (atomA c x) (fun l old => some (atomOp x.pa.toNat x.rc.toNat n old (leNat (b l)))) b

/-- ACAS (R173, R175). -/
def execAcas (x : MWord) (s : State) : Host.Outcome State Fault Refusal :=
  issue s (.acas x) fun s c =>
    let n := sizeBytes x.size
    let cmp := fun l => regBytes c x.b.toNat n l
    let new := fun l => regBytes c (x.b.toNat + n / 4) n l
    if c.pathFull s .w then .hold
    else if x.scope = 5 ∧ c.v.ply ≠ 0 then
      deferAtomic s c x (casA c x)
        (fun ls => .acas n x.scope.toNat
          (ls.map fun l => (l, BitVec.ofNat 64 (casA c x l), BitVec.ofNat 64 (leNat (cmp l)), BitVec.ofNat 64 (leNat (new l)))))
        fun l => cmp l ++ new l
    else
      globalAtomic s c x (casA c x) (fun l old => if old = leNat (cmp l) then some (leNat (new l)) else none) fun l => cmp l ++ new l

/-- ATOMS (R174). -/
def execAtoms (x : MWord) (s : State) : Host.Outcome State Fault Refusal :=
  issue s (.atoms x) fun s c =>
    let n := sizeBytes x.size
    if scratchBlocked s c (fun l => sAddr c x l 0 x.off6 n) n true then .hold
    else withLanes s c
      (fun s l =>
        let off := sAddr c x l 0 x.off6 n
        match scratchCheck s c l off n true with
        | .error f => .stop f
        | .ok true => .wait
        | .ok false =>
          match scratchPoison s c.v.team off n with
          | some d => .stop (laneFault l .uncorrectable (BitVec.ofNat 64 off) true .scratch d)
          | none =>
            let old := scratchRead s c.v.team off n
            let new := atomOp x.pa.toNat x.rc.toNat n (leNat old) (leNat (regBytes c x.b.toNat n l))
            .go (scratchWrite s c.v.team off (natLe n new)) old)
      fun s res => loadFlight s c none x.size x.d true (loadedWords x.size res)

/-! ### CADD -/

/-- Adds an element into the partial line of a cluster (R177). -/
def addPartial (s : State) (cl h gidx fmt pa b : Nat) (cached : Bool) : State :=
  let line := lineOf pa
  let mine := fun (p : Partial) => p.cluster == cl && p.line == line
  let p := (s.partials.find? mine).getD
    { cluster := cl, line := line, fmt := fmt, gidx := gidx, hank := h, cached := cached, data := List.replicate 128 0 }
  let o := pa % 128
  let v := commAdd fmt (leNat ((p.data.drop o).take 4)) b
  { s with partials := { p with data := overlay p.data o (natLe 4 v) } :: s.partials.filter fun q => !mine q }

/-- One lane of CADD (R176). An aperture address has no PTE, and so no CFMT: PROTECTION with DETAIL 6 (log 26). -/
def caddLane (s : State) (c : Ctx) (x : MWord) (l : Nat) : LaneStep Sig :=
  let va := casA c x l
  let ad := BitVec.ofNat 64 va
  let fmt := x.rc.toNat
  if va % 4 ≠ 0 then .stop (laneFault l .misalign ad true .global)
  else match translate s c.v.hank va 4 true with
    | .fault e d => .stop (laneFault l e ad true .global d)
    | .migrate => .migrate va true .global
    | .wait => .wait
    | .hole pa => .hole pa
    | .ok (.win _ _) => .stop (laneFault l .protection ad true .global 6)
    | .ok (.mem lf) =>
      if pteCfmt lf.pte ≠ fmt ∨ pteVer lf.pte then .stop (laneFault l .protection ad true .global 6)
      else if storePly (hankOf s c.v.hank) c.v.ply va ≠ 0 then .stop (laneFault l .versionEscape ad true .global)
      else if wpHolds s c.v.hank lf then .waitIn (noteMove s c.v.hank lf)
      else
        let bs := regBytes c x.b.toNat 4 l
        carryStore s c (.cadd x) l ((touchedGranules lf.pa 4).map .phys)
          (.go (addPartial (markUsed s c.v.hank lf true) (clusterOf c.v.core) c.v.hank (pteGidx lf.pte) fmt lf.pa (leNat bs) (pteCached lf.pte))
            (sigOf ad bs))

/-- CADD (R176, R177). -/
def execCadd (x : MWord) (s : State) : Host.Outcome State Fault Refusal :=
  issue s (.cadd x) fun s c =>
    if c.pathFull s .w then .hold
    else
      withRoom (sigRoom s c.w c.v) s c (fun s l => caddLane s c x l) fun s res =>
        c.meets (storeFlight (addSigs s c.w c.v (res.map Prod.snd)) c (some .w)) (res.map fun p => casA c x p.1)

/-! ### Fences and monitors -/

/-- FENCE.mem (R178): every access is performed in program order here (log 1), so the word only goes on. -/
def execFenceMem (x : MWord) (s : State) : Host.Outcome State Fault Refusal := issue s (.fenceMem x) fun s _ => .ok s

/-- FENCE.vault (R178): vault accesses are performed in issue order here (log 1), so the word only goes on. -/
def execFenceVault (x : MWord) (s : State) : Host.Outcome State Fault Refusal := issue s (.fenceVault x) fun s _ => .ok s

/-- A wave's MWAIT completes (R180): the monitor is disarmed, and the strands that wait together go on together. -/
def endMwait (s : State) (w : Nat) : State :=
  modWave s w fun v => { (v.modAll fun t => if t.park = .mwait then t.advance else t) with monitor := none }

/-- Whether the wave's monitor has triggered (R179). -/
def Wave.monitorFired (v : Wave) : Bool := match v.monitor with | some m => m.triggered | none => false

/-- MON (R179): the walk of the lowest active lane's address and its checks; an aperture address has no leaf. Waits that an earlier monitor has
ended are over before it is armed anew (R180). -/
def execMon (x : MWord) (s : State) : Host.Outcome State Fault Refusal :=
  issue s (.mon x) fun s c =>
    let va := lineA c x c.lo
    let ad := BitVec.ofNat 64 va
    if (windowAt va).isSome then c.fault s .pageFault ad false .global
    else match translate s c.v.hank va 1 false with
      | .fault e d => c.fault s e ad false .global d
      | .migrate => c.migrateAll s va false
      | .wait | .ok (.win _ _) => .hold
      | .hole pa => .stuck (.physicalHole pa)
      | .ok (.mem lf) =>
        let s := markUsed s c.v.hank lf false
        .ok (modWave (if c.v.monitorFired then endMwait s c.w else s) c.w fun v =>
          { v with monitor := some { line := lineOf lf.pa, triggered := false } })

/-- MWAIT (R180): completes when the monitor is triggered or not armed, else the strand waits. -/
def execMwait (x : MWord) (s : State) : Host.Outcome State Fault Refusal :=
  issue s (.mwait x) fun s c =>
    match c.v.monitor with
    | none => .ok s
    | some m => if m.triggered then .ok (endMwait s c.w) else .park s .mwait

/-! ### Cache maintenance -/

/-- PREF (R181): fills the lines of the lanes whose address is good into the cluster's L1; it changes no value and never faults. -/
def execPref (x : MWord) (s : State) : Host.Outcome State Fault Refusal :=
  issue s (.pref x) fun s c =>
    let ls := (lanesOf c.act).filter fun l => s.poison.isEmpty || (lanePoison s c (.pref x) l).isNone
    .ok (c.touch s x.rc.toNat false false (c.reached s false (ls.map (lineA c x))))

/-- Removes a line from the caches after its write-back (R182): a later read takes GDDR 7's bytes. -/
def invalidateLine (s : State) (line : Nat) : State :=
  let s := forgetHome (writeBack s line) line
  dropCopies { s with
    l2 := s.l2.filter fun e => !(e.ply == 0 && e.line == line), skein := s.skein.filter fun e => !(e.ply == 0 && e.line == line) } line

/-- One lane of CINV or CWB (R182); an aperture address has no leaf. -/
def maintLane (s : State) (c : Ctx) (l va : Nat) (f : State → Nat → State) : LaneStep Nat :=
  let ad := BitVec.ofNat 64 va
  if (windowAt va).isSome then .stop (laneFault l .pageFault ad false .global)
  else match translate s c.v.hank va 1 false with
    | .fault e d => .stop (laneFault l e ad false .global d)
    | .migrate => .migrate va false .global
    | .wait | .ok (.win _ _) => .wait
    | .hole pa => .hole pa
    | .ok (.mem lf) => .go (f (markUsed (foldRange s lf.pa 1) c.v.hank lf false) (lineOf lf.pa)) (va)

/-- CINV (R182). -/
def execCinv (x : MWord) (s : State) : Host.Outcome State Fault Refusal :=
  issue s (.cinv x) fun s c =>
    if c.pathFull s .w then .hold
    else withLanes s c (fun s l => maintLane s c l (lineA c x l) invalidateLine) fun s res =>
      c.meets (storeFlight s c (some .w)) (res.map Prod.snd)

/-- CWB (R182). -/
def execCwb (x : MWord) (s : State) : Host.Outcome State Fault Refusal :=
  issue s (.cwb x) fun s c =>
    if c.pathFull s .w then .hold
    else withLanes s c (fun s l => maintLane s c l (lineA c x l) writeBack) fun s res =>
      c.meets (storeFlight s c (some .w)) (res.map Prod.snd)

end Sys2Proof.Machine
end

