-- ==== Sys2Proof/Machine/Yarns.lean ====
section
/-! DEFINITION. Byte ranges as the engines read and write them, with their poison (09_matrix_and_yarns R216, R219, 23 R421); the range
scoreboard (R221, R222); yarns, their descriptors and stages (R204-R212); and the yarn words and KWAIT (R209-R212, R220). -/

namespace Sys2Proof.Machine

/-! ### Byte ranges with poison -/

/-- Why an engine's check stops it; `move` is a write that WP holds (R164, R394). -/
inductive EngineStop where
  | fault (c : Cause) (addr : Nat) (wr : Bool) (sp : Space) (detail : Nat)
  | migrate (va : Nat) (wr : Bool) (sp : Space)
  | hold
  | move (l : Leaf)
  | hole (pa : Nat)
deriving DecidableEq, Repr

/-- The place of a stop in the order of R313: a fault by its cause, before a wait. -/
def EngineStop.rank : EngineStop → Nat
  | .fault c _ _ _ _ => c.prio
  | .migrate _ _ _ => 30
  | .hold | .move _ => 31
  | .hole _ => 32

/-- Of two stops of one step the one that R313 puts first; among equals the earlier. -/
def EngineStop.first (a b : EngineStop) : EngineStop := if b.rank < a.rank then b else a

/-- A step that a stop ends, while the rest of it may meet a stop that R313 puts first. -/
def orStop {α : Type} (e : EngineStop) : Except EngineStop α → Except EngineStop α
  | .error f => .error (e.first f)
  | .ok _ => .error e

/-- Bytes with the poisoned granules among them: place of the granule in the string and code. -/
structure Load where
  data : Bytes
  poison : List (Nat × Nat)
deriving DecidableEq, Repr

/-- The first poison code of a string of bytes. -/
def Load.code (d : Load) : Option Nat := d.poison.head?.map Prod.snd

/-- The pieces of the bytes [a, a + n) within 128-byte lines: address and length; addresses are modulo 2^64. -/
def pieces (a n : Nat) : List (Nat × Nat) :=
  if n = 0 then []
  else (List.range ((a + n - 1) / 128 + 1 - a / 128)).map fun k =>
    let lo := max a (128 * (a / 128 + k))
    (lo % 2 ^ 64, min (a + n) (128 * (a / 128 + k) + 128) - lo)

/-- The granules that the bytes [a, a + n) touch, by their place in the string, with their codes. -/
def poisonPlaces (a n : Nat) (at? : Nat → Option Nat) : List (Nat × Nat) :=
  (touchedGranules a n).filterMap fun g => (at? g).map fun c => (16 * g - a, c)

/-- Reads one piece of global memory as ply `p` does, under the checks of LD (R161); `sp` is the SPACE a fault reports. -/
def readPiece (s : State) (h p : Nat) (sp : Space) (va n : Nat) : Except EngineStop (State × Load) :=
  match translate s h va n false with
  | .fault e d => .error (.fault e va false sp d)
  | .migrate => .error (.migrate va false sp)
  | .wait => .error .hold
  | .hole pa => .error (.hole pa)
  | .ok (.win t off) =>
    if markerBlocks s t off n false then .error .hold
    else .ok (s, { data := scratchRead s t off n,
                   poison := if s.poison.isEmpty then [] else poisonPlaces off n fun g => poisonAt s (.scratch t g) })
  | .ok (.mem lf) =>
    let s := foldRange s lf.pa n
    let q := readPly lf p
    .ok (markUsed s h lf false,
      { data := homeBytes s h q lf n,
        poison := if s.poison.isEmpty then [] else poisonPlaces lf.pa n fun g => poisonAt s (granuleAt s h q g) })

/-- Reads pieces of global memory; `off` is the place of the next piece in the string. -/
def readPieces (h p : Nat) (sp : Space) : List (Nat × Nat) → Nat → State → Load → Except EngineStop (State × Load)
  | [], _, s, d => .ok (s, d)
  | (va, n) :: ps, off, s, d =>
    match readPiece s h p sp va n with
    | .error e => orStop e (readPieces h p sp ps (off + n) s d)
    | .ok r =>
      readPieces h p sp ps (off + n) r.1
        { data := d.data ++ r.2.data, poison := d.poison ++ r.2.poison.map fun q => (q.1 + off, q.2) }

/-- Reads a range of global memory. -/
def readRange (s : State) (h p va n : Nat) (sp : Space := .global) : Except EngineStop (State × Load) :=
  readPieces h p sp (pieces va n) 0 s { data := [], poison := [] }

/-- Carries the poison of copied granules to their new place. -/
def carryPoison (s : State) (a n : Nat) (ps : List (Nat × Nat)) (mk : Nat → Granule) : State :=
  if ps.isEmpty then s
  else (wholeGranules a n).foldl (fun s g =>
    match ps.find? fun q => a + q.1 == 16 * g with
    | some q => setPoison s (mk g) q.2
    | none => s) s

/-- Writes one piece of global memory for an engine command of wave `w` in ply `p`, under the checks of ST and R219; a gauge in trap mode acts as
flag. The command is an agent of its own (R290): the wave's region sees a change of a line that it tracks (R257). The answer holds the bytes as the
gauge leaves them (R424). -/
def writePiece (s : State) (w h p va : Nat) (bs : Bytes) (ps : List (Nat × Nat)) : Except EngineStop (State × Bytes) :=
  match translate s h va bs.length true with
  | .fault e d => .error (.fault e va true .global d)
  | .migrate => .error (.migrate va true .global)
  | .wait => .error .hold
  | .hole pa => .error (.hole pa)
  | .ok (.win t off) =>
    if storePly (hankOf s h) p va ≠ 0 then .error (.fault .versionEscape va true .global 0)
    else if markerBlocks s t off bs.length true then .error .hold
    else .ok (carryPoison (scratchWrite s t off bs) off bs.length ps (.scratch t), bs)
  | .ok (.mem lf) =>
    match writePly s h p va lf with
    | .fault e => .error (.fault e va true .global 0)
    | .wait => .error (.move lf)
    | .to q =>
      let s := foldRange s lf.pa bs.length
      let r := gaugeCheck s w h lf bs false
      let bs := r.2.getD bs
      .ok (carryPoison (writeLeaf r.1 none h q lf bs) lf.pa bs.length ps (if q = 0 then .phys else .version h q), bs)

/-- Writes pieces of global memory; `off` is the place of the next piece in the string. -/
def writePieces (w h p : Nat) (d : Load) : List (Nat × Nat) → Nat → State → Bytes → Except EngineStop (State × Bytes)
  | [], _, s, out => .ok (s, out)
  | (va, n) :: qs, off, s, out =>
    match writePiece s w h p va ((d.data.drop off).take n)
        ((d.poison.filter fun q => decide (off ≤ q.1 ∧ q.1 < off + n)).map fun q => (q.1 - off, q.2)) with
    | .error e => orStop e (writePieces w h p d qs (off + n) s out)
    | .ok r => writePieces w h p d qs (off + n) r.1 (out ++ r.2)

/-- Writes a range of global memory; the answer holds the bytes as the gauges leave them. -/
def writeRange (s : State) (w h p va : Nat) (d : Load) : Except EngineStop (State × Bytes) :=
  writePieces w h p d (pieces va d.data.length) 0 s []

/-- The checks of a scratch range of a command (R166, R221): within one slice of the team. -/
def scratchRangeOk (s : State) (t off n : Nat) : Bool :=
  match s.teams[t]? with
  | none => false
  | some m => scratchIn m off n

/-- Reads a scratch range with its poison. -/
def readScratch (s : State) (t off n : Nat) : Load :=
  { data := scratchRead s t off n,
    poison := if s.poison.isEmpty then [] else poisonPlaces off n fun g => poisonAt s (.scratch t g) }

/-- Writes a scratch range with its poison. -/
def writeScratch (s : State) (t off : Nat) (d : Load) : State :=
  carryPoison (scratchWrite s t off d.data) off d.data.length d.poison (.scratch t)

/-- Reads a vault range with its poison. -/
def readVault (s : State) (h core off n : Nat) : Load :=
  { data := vaultRead s h core off n,
    poison := if s.poison.isEmpty then [] else poisonPlaces off n fun g => poisonAt s (.vault core g) }

/-- Writes a vault range with its poison. -/
def writeVault (s : State) (h core off : Nat) (d : Load) : State :=
  carryPoison (vaultClear (vaultWrite s h core off d.data) core off d.data.length) off d.data.length d.poison (.vault core)

/-- What an engine's stop makes of the word (R164, R216). -/
def Ctx.engineStop (c : Ctx) (s : State) (e : EngineStop) : Res :=
  match e with
  | .fault cause addr wr sp d => c.fault s cause (BitVec.ofNat 64 addr) wr sp d
  | .migrate va wr sp => c.migrateAll s va wr sp
  | .hold => .hold
  | .move l => .holdIn (noteMove s c.v.hank l)
  | .hole pa => .stuck (.physicalHole pa)

/-- The physical lines of ranges of global memory (R301). -/
def Ctx.rangeLines (c : Ctx) (s : State) (wr : Bool) (rs : List (Nat × Nat)) : List Nat :=
  ((c.reached s wr (rs.flatMap fun r => (pieces r.1 r.2).map Prod.fst)).map fun p => p.2.1).dedup

/-! ### The range scoreboard -/

/-- A marker that a command wants (R221): scratch offset, length, write. -/
structure Want where
  off : Nat
  len : Nat
  wr : Bool
deriving DecidableEq, Repr

/-- The team of a wave, when it has scratch. -/
def teamOf (s : State) (t : Nat) : Team :=
  (s.teams[t]?).getD
    { launch := 0, index := 0, hank := 0, role := .single, phase := .ended, wide := false, cores := [], sliceKib := 0, scratch := [],
      zeroed := false, recs := [], recLen := 0, order := 0, ctx := none }

/-- Whether a command's markers must wait (R221, R222): they overlap another command's, or too few of a core's 128 are free. -/
def markersWait (s : State) (t : Nat) (ws : List Want) : Bool :=
  ws.any (fun m => markerBlocks s t m.off m.len m.wr)
    || ws.any fun m =>
      let core := sliceCore (teamOf s t) m.off
      decide (128 < (s.markers.filter fun k => k.core == core).length + (ws.filter fun k => sliceCore (teamOf s t) k.off == core).length)

/-- Records a command's markers for the operation that is put in flight next (R221). -/
def addMarkers (s : State) (t : Nat) (ws : List Want) : State :=
  { s with
    markers := (ws.map fun m =>
      { core := sliceCore (teamOf s t) m.off, team := t, lo := m.off / 16, hi := (m.off + m.len - 1) / 16, wr := m.wr,
        flight := s.nextFlight }) ++ s.markers }

/-! ### Yarn descriptors and stages -/

/-- Words of a yarn's descriptor (R205). -/
def Yarn.word (y : Yarn) (k : Nat) : Nat := (y.desc[k]?.getD 0).toNat
def Yarn.base (y : Yarn) : Nat := y.word 0
def Yarn.total (y : Yarn) : Nat := bitsN (y.word 1) 63 36
def Yarn.depth (y : Yarn) : Nat := bitsN (y.word 1) 35 32
def Yarn.nfmt (y : Yarn) : Nat := bitsN (y.word 1) 31 12
def Yarn.ecls (y : Yarn) : Nat := bitsN (y.word 1) 11 8
def Yarn.role (y : Yarn) : Nat := bitsN (y.word 1) 7 4
def Yarn.kind (y : Yarn) : Nat := bitsN (y.word 1) 3 0
def Yarn.rowstride (y : Yarn) : DWord := y.desc[2]?.getD 0
def Yarn.vrow (y : Yarn) : Nat := bitsN (y.word 4) 7 4
def Yarn.vcol (y : Yarn) : Nat := bitsN (y.word 4) 3 0
def Yarn.spn (y : Yarn) : Nat := bitsN (y.word 5) 17 16
def Yarn.seq0 (y : Yarn) : BitVec 16 := BitVec.ofNat 16 (y.word 5)

/-- N of an N-of-12 operand by SPN (R59, R205). -/
def spnCount (spn : Nat) : Nat := if spn = 0 then 0 else 2 + 2 * spn

/-- Rows of a stage (R207). -/
def Yarn.rows (y : Yarn) : Nat := if y.role = 0 ∨ y.role = 2 then 8 else 32

/-- Bytes of a row (R207). -/
def Yarn.rowBytes (y : Yarn) : Nat :=
  let w := classWidth y.ecls
  match y.role with
  | 0 => 12 * w
  | 1 => if y.spn = 0 then 12 * w else spnCount y.spn * w
  | 4 => 12
  | _ => 3

/-- The yarn buffer that an open yarn takes (R207). -/
def Yarn.buffer (y : Yarn) : Nat := if y.isOpen then roundUp (y.depth * (y.rows * y.rowBytes)) 128 else 0

/-- A yarn of a wave. -/
def Wave.yarn (v : Wave) (y : Nat) : Yarn := v.yarns[y]?.getD Yarn.closed

/-- Changes a yarn of a wave. -/
def modYarn (s : State) (w y : Nat) (f : Yarn → Yarn) : State :=
  modWave s w fun v => { v with yarns := v.yarns.setIfInBounds y (f (v.yarn y)) }

/-- Whether a yarn is at end of stream (R204); a wave that never had an access thread counts as one whose access thread has ended (log 32). -/
def Yarn.ended (y : Yarn) (v : Wave) : Bool :=
  if y.total ≠ 0 then y.popped == y.total
  else y.stages.isEmpty && (match v.access with | some t => t.ended | none => true)

/-- Whether a descriptor meets the rules of R206, the buffer sums left out. -/
def Yarn.valid (y : Yarn) : Bool :=
  decide (y.kind ≤ 2 ∧ y.role ≤ 4)
  && (if y.role ≤ 1 then decide (y.ecls ≤ 6) else y.ecls == 7)
  && (if 2 ≤ y.ecls ∧ y.ecls ≤ 4 then (Nfmt.of y.nfmt).valid (classWidth y.ecls) else y.nfmt == 0)
  && decide (1 ≤ y.depth ∧ y.depth ≤ 8)
  && (y.spn == 0 || y.role == 1)
  && (if y.kind = 2 then decide ((y.vrow = 15 ∧ y.vcol = 15) ∨ (y.vrow ≤ 7 ∧ y.vcol ≤ 13)) else y.vrow == 0 && y.vcol == 0)
  && (y.kind == 0 || decide (y.base < 2 ^ 32))
  && y.word 3 == 0 && decide (y.word 4 < 2 ^ 8) && decide (y.word 5 < 2 ^ 18) && y.word 6 == 0 && y.word 7 == 0

/-- A yarn closes (R212): its fills are cancelled, its stages discarded. -/
def closeYarn (s : State) (w y : Nat) : State :=
  modYarn (cancelFlights s fun f => f.wave == w && (match f.kind with | .fill k _ _ => k == y | _ => false)) w y fun _ => Yarn.closed

/-- The yarn buffer in use in a bay, one yarn left out (R206, R210). -/
def bayBuffer (s : State) (core bay w y : Nat) : Nat :=
  ((s.waves.mapIdx fun i v =>
    if v.phase = .live ∧ v.core = core ∧ v.bay = bay then
      (v.yarns.toList.mapIdx fun k q => if i = w ∧ k = y then 0 else q.buffer).sum
    else 0)).sum

/-- Opens a yarn from its descriptor's bytes (R210); a wait for buffer space counts in YBUF (R380). -/
def openYarn (s : State) (c : Ctx) (y : Nat) (bs : Bytes) : Res :=
  let q : Yarn := { Yarn.closed with isOpen := true, desc := Vector.ofFn fun k => dwordAt bs k.val }
  let others := (c.v.yarns.toList.mapIdx fun k p => if k = y then 0 else p.buffer).sum
  if !q.valid || decide (2 ^ 16 < others + q.buffer) then c.fault s .desc
  else if 2 ^ 16 < bayBuffer s c.v.core c.v.bay c.w y + q.buffer then .holdIn (raisePerf s c.v.core c.v.bay 3)
  else .ok (modYarn (closeYarn s c.w y) c.w y fun _ => { q with seq := q.seq0 })

/-- YOPEN (R210). -/
def execYopen (x : KWord) (s : State) : Host.Outcome State Fault Refusal :=
  issue s (.yopen x) fun s c =>
    let va := (c.u64 x.a.toNat).toNat
    if va % 64 ≠ 0 then c.fault s .misalign (BitVec.ofNat 64 va) false .record
    else withRecord s c c.v.ply va 64 fun s bs => openYarn s c x.y.toNat bs

/-- YCLOSE (R212). -/
def execYclose (x : KWord) (s : State) : Host.Outcome State Fault Refusal :=
  issue s (.yclose x) fun s c => .ok (closeYarn s c.w x.y.toNat)

/-- The starts of a stage's rows (R208); with KIND 1 and 2 each row start is reduced modulo 2^32 (log 32). -/
def Yarn.rowStarts (y : Yarn) (o : DWord) : List Nat :=
  (List.range y.rows).map fun r =>
    let a := (BitVec.ofNat 64 y.base + o + BitVec.ofNat 64 r * y.rowstride).toNat
    if y.kind = 0 then a else a % 2 ^ 32

/-- The core of a yarn's vault (R205). -/
def Yarn.vault (y : Yarn) (v : Wave) : Nat := if y.vrow = 15 ∧ y.vcol = 15 then v.core else 14 * y.vrow + y.vcol

/-- Reads one row of a stage under the rules of its KIND (R211). -/
def readRow (s : State) (v : Wave) (y : Yarn) (a : Nat) : Except EngineStop (State × Load) :=
  match y.kind with
  | 0 => readRange s v.hank v.ply a y.rowBytes
  | 1 =>
    if scratchRangeOk s v.team a y.rowBytes then .ok (s, readScratch s v.team a y.rowBytes)
    else .error (.fault .protection a false .scratch 3)
  | _ =>
    match vaultFault s v.hank (y.vault v) a y.rowBytes with
    | some d => .error (.fault .protection a false .vault d)
    | none => .ok (s, readVault s v.hank (y.vault v) a y.rowBytes)

/-- Reads the rows of a stage: its bytes and its poison code. -/
def readRows (v : Wave) (y : Yarn) : List Nat → State → Bytes → Option Nat → Except EngineStop (State × Bytes × Option Nat)
  | [], s, bs, p => .ok (s, bs, p)
  | a :: as, s, bs, p =>
    match readRow s v y a with
    | .error e => orStop e (readRows v y as s bs p)
    | .ok r => readRows v y as r.1 (bs ++ r.2.data) (p <|> r.2.code)

/-- The scratch range of a KIND 1 stage (R221). -/
def Yarn.wants (y : Yarn) (rs : List Nat) : List Want :=
  if y.kind = 1 then
    let lo := rs.foldl min (rs.headD 0)
    let hi := rs.foldl max 0
    [{ off := lo, len := hi + y.rowBytes - lo, wr := false }]
  else []

/-- The SPACE of a yarn's KIND. -/
def Yarn.space (y : Yarn) : Space := if y.kind = 0 then .global else if y.kind = 1 then .scratch else .vault

/-- YPUSH of an open yarn (R211). -/
def pushStage (s : State) (c : Ctx) (k : Nat) (y : Yarn) (o : DWord) (sq : BitVec 16) : Res :=
  if !y.isOpen then c.fault s .desc
  else if sq ≠ y.seq ∨ (y.total ≠ 0 ∧ y.pushed = y.total) then c.fault s .streamDesync
  else if y.depth ≤ y.stages.length then .hold
  else
    let rs := y.rowStarts o
    match if y.role = 2 ∨ y.role = 3 then none else rs.find? fun a => a % 4 != 0 with
    | some a => c.fault s .misalign (BitVec.ofNat 64 a) false y.space
    | none =>
      match readRows c.v y rs s [] none with
      | .error e => c.engineStop s e
      | .ok (s', bs, p) =>
        let ws := y.wants rs
        if ws.any fun m => decide (2 ^ 18 < m.len) then c.fault s .desc
        else if ws.any fun m => !scratchRangeOk s c.v.team m.off m.len then
          c.fault s .protection (BitVec.ofNat 64 (rs.headD 0)) false .scratch 3
        else if markersWait s c.v.team ws || decide (63 ≤ inFlight s c.w .y) then .hold
        else
          let f := c.flight (.fill k sq p) (some .y) [] [] false true
          let s := addFlight (addMarkers s' c.v.team ws) (if y.kind = 0 then { f with reads := c.rangeLines s false (rs.map fun a => (a, y.rowBytes)) } else f)
          .ok (modYarn s c.w k fun y =>
            { y with seq := y.seq + 1, pushed := y.pushed + 1, stages := y.stages ++ [{ seq := sq, st := .filling, data := bs, marks := [] }] })

/-- YPUSH (R211). -/
def execYpush (x : KWord) (s : State) : Host.Outcome State Fault Refusal :=
  issue s (.ypush x) fun s c =>
    pushStage s c x.y.toNat (c.v.yarn x.y.toNat) (c.u64 x.a.toNat) ((c.u x.b.toNat).setWidth 16)

/-- YDROP (R212). -/
def execYdrop (x : KWord) (s : State) : Host.Outcome State Fault Refusal :=
  issue s (.ydrop x) fun s c =>
    let y := c.v.yarn x.y.toNat
    if !y.isOpen then c.fault s .desc
    else
      let gone := y.stages.take x.imm.toNat
      let s := cancelFlights s fun f =>
        f.wave == c.w && (match f.kind with | .fill k q _ => k == x.y.toNat && gone.any fun t => t.seq == q | _ => false)
      .ok (modYarn s c.w x.y.toNat fun y => { y with stages := y.stages.drop x.imm.toNat, popped := y.popped + gone.length })

/-- The path that KWAIT names (R209). -/
def kwaitPath (n : Nat) : Path :=
  match n with
  | 0 => .g | 1 => .w | 2 => .s | 3 => .y | _ => .v

/-- KWAIT (R220): waits until the path's counter is at most the threshold. -/
def execKwait (x : KWord) (s : State) : Host.Outcome State Fault Refusal :=
  issue s (.kwait x) fun s c =>
    if inFlight s c.w (kwaitPath x.imm.toNat) ≤ (c.u x.a.toNat).toNat then .ok s else .park s (.block s.progress false)

end Sys2Proof.Machine
end

