-- ==== Sys2Proof/Machine/SystemWords.lean ====
section
/-! DEFINITION. The S-class words of 11_system_instructions that act on the wave and its hank: special registers (R263), liveness
records, PHINT and idempotent regions (R264-R266), gauges (R268), pairs (R271-R273), pages (R274, R275), and the scratch windows of
SMAP and SUNMAP (R288). -/

namespace Sys2Proof.Machine

/-- An operation that counts towards SETB only (R79). -/
def setbFlight (s : State) (c : Ctx) : State := storeFlight s c none

/-! ### Special registers -/

/-- `%rpstat` (R270). -/
def rpstatOf (s : State) (v : Wave) : Word :=
  match v.pair.bind fun k => s.pairs[k]? with
  | none => v.rpstat
  | some p =>
    (v.rpstat &&& 3) ||| BitVec.ofNat 32
      ((if p.active then (p.sigL.length - p.sigT.length) * 2 ^ 16 else 0) + p.nchk * 2 ^ 8 + p.retry * 4)

/-- The special register of an index in lane l (R33). -/
def special (s : State) (c : Ctx) (idx l : Nat) : Word :=
  let v := c.v
  match idx with
  | 0x00 => BitVec.ofNat 32 l
  | 0x01 => v.waveid
  | 0x02 => c.ex.setWidth 32
  | 0x03 => BitVec.ofNat 32 c.n
  | 0x04 => BitVec.ofNat 32 (coreField v.core)
  | 0x05 => BitVec.ofNat 32 (clusterOf v.core)
  | 0x06 => BitVec.ofNat 32 v.hank
  | 0x07 => BitVec.ofNat 32 v.ply
  | 0x08 => v.fcr.setWidth 32
  | 0x09 => v.ars
  | 0x0A => rpstatOf s v
  | 0x0B => v.gst.setWidth 32
  | 0x10 => BitVec.ofNat 32 l
  | 0x20 => v.trapRegs.fcause
  | 0x21 => v.trapRegs.fmask
  | 0x22 => v.trapRegs.fpc
  | 0x23 => v.trapRegs.faddrlo
  | 0x24 => v.trapRegs.faddrhi
  | 0x25 => v.trapRegs.finfo
  | 0x28 => Word.lo v.kptr
  | 0x29 => Word.hi v.kptr
  | k =>
    if 0x11 ≤ k ∧ k ≤ 0x17 then v.lvl[k - 0x10]?.getD 0
    else if 0x18 ≤ k ∧ k ≤ 0x1F then v.ext[k - 0x18]?.getD 1
    else 0

/-- Whether an AREND of the wave has not completed (R259). -/
def Ctx.arendOpen (c : Ctx) : Bool := match c.v.region with | some r => r.committing | none => false

/-- A clock reading in flight (R35). -/
def clockFlight (s : State) (c : Ctx) (d : BitVec 8) (v : Word) : State :=
  addFlight s (c.flight .clock none [d.toNat] ((lanesOf c.act).map fun l => { reg := d.toNat, lane := l, val := v }) true false)

/-- SYSRD (R263, R33, R35). -/
def execSysrd (x : SWord) (s : State) : Host.Outcome State Fault Refusal :=
  issue s (.sysrd x) fun s c =>
    match x.imm.toNat with
    | 0x0C =>
      let r := readClock s
      .ok (clockFlight (modWave r.1 c.w fun v => { v with clkLatch := some (BitVec.ofNat 32 (r.2 / 2 ^ 32)) }) c x.d (BitVec.ofNat 32 r.2))
    | 0x0D =>
      (match c.v.clkLatch with
       | some h => .ok (clockFlight s c x.d h)
       | none => .ok (clockFlight (readClock s).1 c x.d (BitVec.ofNat 32 ((readClock s).2 / 2 ^ 32))))
    | 0x09 => if c.arendOpen then .hold else .ok (c.put s x.d.toNat (special s c 9))
    | k => .ok (c.put s x.d.toNat (special s c k))

/-- SYSWR (R263, R12, R34, R259, R269). -/
def execSyswr (x : SWord) (s : State) : Host.Outcome State Fault Refusal :=
  issue s (.syswr x) fun s c =>
    let a := c.u x.a.toNat
    match x.imm.toNat with
    | 0x02 => .moved (writeMask s c (a.setWidth 8))
    | 0x08 =>
      if 2 ^ 9 ≤ a.toNat then c.fault s .illegalField else .ok (modWave s c.w fun v => { v with fcr := a.setWidth 9 })
    | 0x09 => if c.arendOpen then .hold else .ok (modWave s c.w fun v => { v with ars := v.ars &&& 0x40 })
    | 0x0B => .ok (modWave s c.w fun v => { v with gst := v.gst &&& ~~~(a.setWidth 16) })
    | 0x22 => .ok (modWave s c.w fun v => { v with trapRegs := { v.trapRegs with fpc := a } })
    | _ => c.fault s .illegalField

/-! ### Liveness records -/

/-- Whether a scratch range lies within the team's scratch, across its slices (R71, R288). -/
def scratchSpan (t : Team) (off len : Nat) : Bool :=
  if t.wide then
    decide (off + len ≤ 2 ^ 21)
      && (List.range 4).all fun k =>
        let lo := max off (k * 2 ^ 19)
        let hi := min (off + len) ((k + 1) * 2 ^ 19)
        decide (hi ≤ lo ∨ hi - k * 2 ^ 19 ≤ 1024 * t.sliceKib)
  else decide (off + len ≤ 1024 * t.sliceKib)

/-- REGMAP of a liveness record (R71). -/
def liveMap (bs : Bytes) : BitVec 256 := BitVec.ofNat 256 (leNat (bs.take 32))

/-- The eight scratch ranges of a record: offset and length (R71). -/
def liveAll (bs : Bytes) : List (Nat × Nat) :=
  (List.range 8).map fun k => ((dwordAt bs (4 + k)).toNat % 2 ^ 32, (dwordAt bs (4 + k)).toNat / 2 ^ 32)

/-- The ranges that are used (R71). -/
def liveRanges (bs : Bytes) : List (Nat × Nat) := (liveAll bs).filter fun r => r.2 != 0

/-- YARNS of a record. -/
def liveYarns (bs : Bytes) : Nat := (bs.getD 0x60 0).toNat

/-- ACCS of a record. -/
def liveAccs (bs : Bytes) : Nat := (bs.getD 0x61 0).toNat % 16

/-- Whether a record breaks R71. -/
def liveBad (s : State) (team : Nat) (bs : Bytes) : Bool :=
  (liveAll bs).any fun r => decide (r.1 % 16 ≠ 0 ∨ r.2 % 16 ≠ 0) || (r.2 != 0 && !scratchSpan (teamOf s team) r.1 r.2)

/-- Whether a record names only registers (R266, R272). -/
def liveRegsOnly (bs : Bytes) : Bool := (liveRanges bs).isEmpty && liveYarns bs == 0 && liveAccs bs == 0

/-- A word that names a liveness record (R261): DESC at or above NLIVE, else the record is read in the root. -/
def withLive (s : State) (c : Ctx) (n : Nat) (k : State → Bytes → Res) : Res :=
  let r := recordOf s c.v
  if recNlive r ≤ n then c.fault s .desc
  else withRecord s c 0 ((recLiveBase r + 128 * n) % 2 ^ 64) 128 fun s bs => if liveBad s c.v.team bs then c.fault s .desc else k s bs

/-- The clause counts of a strand's lanes start again at its PHINT (R325). -/
def resetCounts (s : State) (c : Ctx) : State :=
  modWave s c.w fun v => { v with clauseCount := v.clauseCount.mapIdx fun l k => if c.ex.getLsbD l then 0 else k }

/-- PHINT (R264): with a request pending for a wave of a PROMISE launch that is in no handler, the hint is taken: the access thread
issues no further word (R347), and FULL_SAVE saves the wave under the record. Otherwise its lanes' clause counts start again (R325). -/
def execPhint (x : SWord) (s : State) : Host.Outcome State Fault Refusal :=
  issue s (.phint x) fun s c =>
    withLive s c x.imm.toNat fun s bs =>
      if c.v.preempt == .asked && recPromise (recordOf s c.v) && c.v.trap.isNone then
        .ok (stopRunning (modWave s c.w fun v => { v with preempt := .hint x.imm.toNat bs }) c.w 8)
      else .ok (resetCounts s c)

/-- IDEM (R266). -/
def execIdem (x : SWord) (s : State) : Host.Outcome State Fault Refusal :=
  issue s (.idem x) fun s c =>
    withLive s c x.imm.toNat fun s bs =>
      if !liveRegsOnly bs then c.fault s .desc
      else
        let m := liveMap bs
        .ok (modWave s c.w fun v =>
          let saved := ((List.range v.nregs).filter fun r => m.getLsbD r).map fun r => (r, v.reg r)
          let d : Idem :=
            { lanes := c.ex, copied := c.act, entry := c.st.nextPc, regmap := m, saved := saved, marks := regMarks s c.w (saved.map (·.1))
              restarts := 0 }
          { v.wake (saved.map (·.1)) with idem := some d })

/-- IDEM.end (R266): closes the region. -/
def execIdemEnd (x : SWord) (s : State) : Host.Outcome State Fault Refusal :=
  issue s (.idemEnd x) fun s c => .ok (modWave s c.w fun v => { v with idem := none })

/-! ### Gauges and pairs -/

/-- Whether a bound of a gauge is legal for its TYPE (R268). -/
def gaugeBound (type : Nat) (w : Word) : Bool :=
  match type with
  | 0 => !(fp32.read w.toNat).isNan
  | 1 => decide (w.toNat < 2 ^ 16) && !(fp16.read w.toNat).isNan
  | 2 => decide (w.toNat < 2 ^ 16) && !(bf16.read w.toNat).isNan
  | _ => true

/-- GSET (R268); FAILS stays (R424). -/
def execGset (x : SWord) (s : State) : Host.Outcome State Fault Refusal :=
  issue s (.gset x) fun s c =>
    let lo := c.u x.a.toNat
    let hi := c.u (x.a.toNat + 1)
    let b := (c.u x.b.toNat).toNat
    if 16 ≤ b || !gaugeBound (b / 4) lo || !gaugeBound (b / 4) hi then c.fault s .desc
    else
      .ok (modHank s c.v.hank fun k =>
        let g := k.gauges[x.imm.toNat]?.getD Gauge.off
        { k with gauges := k.gauges.setIfInBounds x.imm.toNat { g with lo := lo, hi := hi, type := b / 4, mode := b % 4 } })

/-- What a trailer's RPAIR gives lane l (R271): the leader's value; free where the leader sent none. -/
def pairValue (s : State) (vs : List (Nat × Word)) (l : Nat) : Word :=
  match vs.find? fun q => q.1 == l with
  | some q => q.2
  | none => Config.rpairMissing (s.fresh + l)

/-- Whether a pair's leader sends no more values before its waves meet (R271, R272): it waits at an RCHK, or has passed its REND. -/
def Pair.noMoreValues (p : Pair) (s : State) : Bool :=
  p.rendL || (match s.waves[p.leader]? with | some v => v.atCheck | none => true)

/-- RPAIR (R271). -/
def execRpair (x : SWord) (s : State) : Host.Outcome State Fault Refusal :=
  issue s (.rpair x) fun s c =>
    let a := fun l => Row.lane (c.reg x.a.toNat) l
    match pairOf s c.v with
    | none => .ok (c.put s x.d.toNat a)
    | some (k, p) =>
      if p.leader = c.w then
        let s := c.put s x.d.toNat a
        .ok (if p.rendL then s else modPair s k fun p => { p with vals := p.vals ++ [(lanesOf c.act).map fun l => (l, a l)] })
      else match p.vals, p.noMoreValues s with
        | [], false => .hold
        | [], true => .ok { c.put s x.d.toNat (pairValue s []) with fresh := s.fresh + 8 }
        | v :: vs, _ =>
          let t := modPair (c.put s x.d.toNat (pairValue s v)) k fun p => { p with vals := vs }
          .ok { t with fresh := t.fresh + 8 }

/-- RCHK (R272): parks until both waves of the pair meet; the compare follows every word. -/
def execRchk (x : SWord) (s : State) : Host.Outcome State Fault Refusal :=
  issue s (.rchk x) fun s c =>
    withLive s c x.imm.toNat fun s bs =>
      if !liveRegsOnly bs then c.fault s .desc
      else match pairOf s c.v with
        | none => .ok s
        | some (_, p) => if p.leader = c.w ∧ p.rendL then .ok s else .park s (.check (liveMap bs))

/-- REND (R273): the leader runs on; the trailer waits for the final compare. -/
def execRend (x : SWord) (s : State) : Host.Outcome State Fault Refusal :=
  issue s (.rend x) fun s c =>
    match pairOf s c.v with
    | none => .ok s
    | some (k, p) => if p.leader = c.w then .ok (markRend s c.w k) else .park (markRend s c.w k) .rend

/-! ### Pages -/

/-- How FMAP's walk ends (R274, R386): an entry maps the address or is malformed; an invalid entry with the levels below it. It reads a
poisoned entry as it stands, since R289 gives FMAP no UNCORRECTABLE (log 28). -/
inductive MapPath where
  | mapped
  | missing (loc : Nat) (rest : List (Nat × Nat × Bool))
  | hole (pa : Nat)
deriving DecidableEq, Repr

/-- FMAP's walk from one node down (R274). -/
def mapPath (s : State) (va : Nat) (node : Nat) : List (Nat × Nat × Bool) → MapPath
  | [] => .mapped
  | (sh, w, leafOk) :: rest =>
    let a := node + 8 * (va / 2 ^ sh % 2 ^ w)
    if Config.physBytes ≤ a then .hole a
    else
      let p := readQ s a
      if !pteV p then .missing a rest
      else if decide (2 ^ 58 ≤ p.toNat) || pteLeaf p || (leafOk && rest.isEmpty) then .mapped
      else mapPath s va (pteFrame p * 2 ^ 16) rest

/-- Zeroes the 64 KiB frame at a physical address (R274): every copy, partial sum, poison and watcher of its lines. -/
def zeroFrame (s : State) (pa : Nat) : State :=
  let inF := fun (line : Nat) => decide (pa / 128 ≤ line ∧ line < pa / 128 + 512)
  { s with
    mem := s.mem.filter fun c => !(decide (pa ≤ c.1 ∧ c.1 < pa + 2 ^ 16))
    stale := s.stale.filter fun t => !inF t.line
    partials := s.partials.filter fun t => !inF t.line
    corrupt := s.corrupt.filter fun t => !inF t.line
    l1 := s.l1.filter fun e => !(e.ply == 0 && inF e.line)
    l2 := s.l2.filter fun e => !(e.ply == 0 && inF e.line)
    skein := s.skein.filter fun e => !(e.ply == 0 && inF e.line)
    poison := s.poison.filter fun q => match q.1 with | .phys g => !inF (g / 8) | _ => true
    waves := s.waves.map fun v =>
      let v := match v.monitor with
        | some m => if inF m.line then { v with monitor := some { m with triggered := true } } else v
        | none => v
      match v.region with
      | some r => { v with region := some { r with lines := r.lines.map fun t => if inF t.line then { t with changed := true } else t } }
      | none => v }

/-- The `n` lowest free frames of a hank's pool (R391), as frame indexes. -/
def freeFrames (s : State) (h n : Nat) : List Nat :=
  let k := hankOf s h
  lowestFreeN n (min (hreg s h 0x130).toNat (k.taken.length + n)) k.taken

/-- The frame number of a pool frame. -/
def poolFrame (s : State) (h i : Nat) : Nat := (hreg s h 0x128).toNat / 2 ^ 16 + i

/-- Links new frames below an entry: a node for each level left, the leaf last (R274). -/
def linkFrames (s : State) (h va : Nat) (leaf : DWord) : List Nat → List (Nat × Nat × Bool) → Nat → State
  | [], _, _ => s
  | f :: fs, levels, loc =>
    match levels with
    | [] => homeWrite s h true loc (natLe 8 (leaf.toNat + f * 2 ^ 22))
    | (sh, w, _) :: rest =>
      linkFrames (homeWrite s h true loc (natLe 8 (1 + f * 2 ^ 22))) h va leaf fs rest (f * 2 ^ 16 + 8 * (va / 2 ^ sh % 2 ^ w))

/-- What FMAP does once its operands are legal (R274): the status, and the mapping, which every later walk sees. -/
def mapFrame (s : State) (h va attr : Nat) (loc : Nat) (rest : List (Nat × Nat × Bool)) : State × Nat :=
  let fs := freeFrames s h (rest.length + 1)
  if fs.length < rest.length + 1 then (s, 2)
  else
    let ns := fs.map (poolFrame s h)
    let s := ns.foldl (fun s n => zeroFrame s (n * 2 ^ 16)) s
    let s := modHank s h fun k => { k with taken := fs ++ k.taken, nodes := k.nodes.filter fun n => !coversVa (some va) n.1 n.2.1 }
    let leaf := BitVec.ofNat 64 (1 + attr + 2 ^ 12 + 2 ^ 18 + h * 2 ^ 19)
    (linkFrames s h va leaf ns rest loc, 0)

/-- FMAP (R274). -/
def execFmap (x : SWord) (s : State) : Host.Outcome State Fault Refusal :=
  issue s (.fmap x) fun s c =>
    let h := c.v.hank
    let va := (c.u64 x.a.toNat).toNat
    let b := (c.u x.b.toNat).toNat
    let ret := fun (s : State) (n : Nat) => Res.ok (c.put s x.d.toNat fun _ => BitVec.ofNat 32 n)
    if b &&& 0xE7FE ≠ b then c.fault s .desc
    else if va % 2 ^ 16 ≠ 0 then c.fault s .misalign (BitVec.ofNat 64 va)
    else if (windowAt va).isSome then ret s 3
    else match mapPath s va (hreg s h 0x120).toNat walkLevels with
      | .mapped => ret s 1
      | .hole pa => .stuck (.physicalHole pa)
      | .missing loc rest =>
        let r := mapFrame s h va b loc rest
        ret r.1 r.2

/-- INVPG (R275): the entries of the page, or all, leave the hank's TLBs; accesses took effect at issue (log 1), so nothing is left to
wait for. -/
def execInvpg (x : SWord) (s : State) : Host.Outcome State Fault Refusal :=
  issue s (.invpg x) fun s c => .ok (invalidate s c.v.hank (if x.imm = 0 then some (c.u64 x.a.toNat).toNat else none))

/-! ### Scratch windows -/

/-- SMAP (R288): takes the lowest free window. -/
def execSmap (x : KWord) (s : State) : Host.Outcome State Fault Refusal :=
  issue s (.smap x) fun s c =>
    let off := (c.u x.b.toNat).toNat
    let len := (c.u x.c.toNat).toNat
    let k := hankOf s c.v.hank
    if len % 16 ≠ 0 ∨ len < 16 ∨ 2 ^ 21 < len then c.fault s .desc
    else if off % 16 ≠ 0 then c.fault s .misalign (BitVec.ofNat 64 off) false .scratch
    else if !scratchSpan (teamOf s c.v.team) off len then c.fault s .protection (BitVec.ofNat 64 off) false .scratch 3
    else match lowestFree 64 (k.windows.map (·.num)) with
      | none => .ok (c.put64 s x.d.toNat fun _ => 0)
      | some n =>
        let s := modHank s c.v.hank fun k =>
          { k with windows := { num := n, team := c.v.team, off := off, len := len, ro := x.imm != 0 } :: k.windows }
        .ok (c.put64 s x.d.toNat fun _ => BitVec.ofNat 64 (apertureBase + n * 2 ^ 24))

/-- SUNMAP (R288): accesses through the window have taken effect (log 1), so it is freed at once. -/
def execSunmap (x : KWord) (s : State) : Host.Outcome State Fault Refusal :=
  issue s (.sunmap x) fun s c =>
    match windowAt (c.u64 x.a.toNat).toNat with
    | none => .ok s
    | some (n, _) => .ok (modHank s c.v.hank fun k => { k with windows := k.windows.filter fun w => w.num != n })

end Sys2Proof.Machine
end

