-- ==== Sys2Proof/Machine/QueueWords.lean ====
section
/-! DEFINITION. The words that give work to other units (11_system_instructions): LAUNCH, EMIT and RECV (R276-R278), queues and token
cells (R279-R282), FLIP and MSUB (R283, R284), with their deferred forms (10 R247). -/

namespace Sys2Proof.Machine

/-! ### Launches and bins -/

/-- The offset of a launch queue's registers (R365). -/
def queueOff (p q : Nat) : Nat := 0x1000 + 32 * (16 * p + q)

/-- Fields of QRING (R366). -/
def ringBase (r : Nat) : Nat := r / 128 * 128
def ringSrc (r : Nat) : Bool := bitN r 6
def ringEn (r : Nat) : Bool := bitN r 5
def ringSize (r : Nat) : Nat := 2 ^ (r % 32)

/-- The address of entry k of a launch queue (R366). -/
def ringEntry (r k : Nat) : Nat := (ringBase r + 128 * (k % ringSize r)) % 2 ^ 64

/-- Why a uniform read of a record stops, if it does. -/
def Read.stop? (r : Read) : Option EngineStop :=
  match r with
  | .ok _ _ => none
  | .fault c va d => some (.fault c va false .record d)
  | .migrate va => some (.migrate va false .record)
  | .wait => some .hold
  | .hole pa => some (.hole pa)

/-- Of the stops of one step the one that R313 puts first. -/
def firstStop (es : List EngineStop) : Option EngineStop := argMin EngineStop.rank es

/-- Translates the address of a store of `n` bytes that a word makes at one place; a window's bytes are reached under the markers (R288). -/
def storePlace (s : State) (h va n : Nat) (sp : Space) : Except EngineStop Place :=
  match translate s h va n true with
  | .fault e d => .error (.fault e va true sp d)
  | .migrate => .error (.migrate va true sp)
  | .wait => .error .hold
  | .hole pa => .error (.hole pa)
  | .ok (.win t off) => if markerBlocks s t off n true then .error .hold else .ok (.win t off)
  | .ok p => .ok p

/-- LAUNCH's record enters its queue (R276, R366). -/
def pushLaunch (s : State) (c : Ctx) (p q : Nat) (bs : Bytes) (l : Place) : Res :=
  let h := c.v.hank
  let tail := (hreg s h (queueOff p q + 0x08)).toNat
  let va := ringEntry (hreg s h (queueOff p q)).toNat tail
  if ringSize (hreg s h (queueOff p q)).toNat ≤ tail - (hreg s h (queueOff p q + 0x10)).toNat then .hold
  else match placeWrite s (some c.w) h 0 va bs l with
    | .error (.move l) => .holdIn (noteMove s h l)
    | .error (.fault e) => c.fault s e (BitVec.ofNat 64 va) true .global
    | .ok s => .ok (setbFlight (setHreg s h (queueOff p q + 0x08) (BitVec.ofNat 64 (tail + 1))) c)

/-- LAUNCH (R276): the record, the queue's right and the ring's entry are checked in one step (R313). -/
def execLaunch (x : SWord) (s : State) : Host.Outcome State Fault Refusal :=
  issue s (.launch x) fun s c =>
    let h := c.v.hank
    let va := (c.u64 x.a.toNat).toNat
    let p := x.imm.toNat / 16
    let q := x.imm.toNat % 16
    let r := (hreg s h (queueOff p q)).toNat
    let rec' := readGlobal s h c.v.ply (clusterOf c.v.core) va 128
    let ring := storePlace s h (ringEntry r (hreg s h (queueOff p q + 0x08)).toNat) 128 .global
    let stops := rec'.stop?.toList ++ (if !ringSrc r || !ringEn r then [.fault .protection 0 true .none 4] else match ring with
      | .error e => [e]
      | .ok _ => [])
    if va % 128 ≠ 0 then c.fault s .misalign (BitVec.ofNat 64 va) false .record
    else match firstStop stops, rec', ring with
      | some e, _, _ => c.engineStop s e
      | none, .ok t bs, .ok l => pushLaunch t c p q bs l
      | none, _, _ => .hold

/-- A bin of a hank. -/
def binOf (s : State) (h b : Nat) : Option Bin := (hankOf s h).bins.find? fun n => n.num == b

/-- Changes a bin. -/
def modBin (s : State) (h b : Nat) (f : Bin → Bin) : State :=
  modHank s h fun k => { k with bins := k.bins.map fun n => if n.num = b then f n else n }

/-- Whether a bin is configured (R375). -/
def binOn (s : State) (h b : Nat) : Bool := (hreg s h (0x200 + 8 * b)).getLsbD 0

/-- The record length L of a bin (R376). -/
def Bin.len (b : Bin) : Nat := 16 * recRlen b.template

/-- The place of record `k` of a bin's store (R376). -/
def binPlace (s : State) (h : Nat) (b : Bin) (k : Nat) : Nat := (hreg s h 0x180).toNat + 65536 * b.num + b.len * k

/-- A record enters a free place of its bin's store (R376): its arrival is a reading of the clock. -/
def storeRecord (s : State) (h : Nat) (b : Bin) (bs : Bytes) : State :=
  let r := readClock s
  let free := (List.range (65536 / b.len)).filter fun k => !(b.recs.any fun x => x.2 == k)
  let k := free.getD (Config.binPick r.1.fresh % free.length) 0
  let s := modBin { r.1 with fresh := r.1.fresh + 1 } h b.num fun b => { b with recs := b.recs ++ [(r.2, k)] }
  homeWrite s h true (binPlace s h b k) bs

/-- EMIT's record enters its bin (R277, R376). -/
def emitTo (s : State) (c : Ctx) (b : Bin) (va : Nat) : Res :=
  if 65536 / b.len ≤ b.recs.length then .hold
  else match readRange s c.v.hank c.v.ply va b.len .record with
    | .error e => c.engineStop s e
    | .ok (s, d) =>
      match d.code with
      | some k => c.fault s .uncorrectable (BitVec.ofNat 64 va) false .record k
      | none => .ok (setbFlight (storeRecord s c.v.hank b d.data) c)

/-- EMIT (R277). -/
def execEmit (x : SWord) (s : State) : Host.Outcome State Fault Refusal :=
  issue s (.emit x) fun s c =>
    let n := (c.u x.a.toNat).toNat
    let va := (c.u64 x.b.toNat).toNat
    if 64 ≤ n || !binOn s c.v.hank n then c.fault s .desc
    else if va % 16 ≠ 0 then c.fault s .misalign (BitVec.ofNat 64 va) false .record
    else match binOf s c.v.hank n with
      | none => c.fault s .desc
      | some b => emitTo s c b va

/-- RECV (R278): the copy waits for the markers it meets and is complete when the word is (log 1). -/
def execRecv (x : SWord) (s : State) : Host.Outcome State Fault Refusal :=
  issue s (.recv x) fun s c =>
    let off := (c.u x.a.toNat).toNat
    let t := teamOf s c.v.team
    let bs := t.recs.flatten
    let ret := fun (s : State) (n : Nat) => Res.ok (c.put s x.d.toNat fun _ => BitVec.ofNat 32 n)
    if off % 16 ≠ 0 then c.fault s .misalign (BitVec.ofNat 64 off) true .scratch
    else if t.recs.isEmpty then ret s 0
    else if !scratchRangeOk s c.v.team off bs.length then c.fault s .protection (BitVec.ofNat 64 off) true .scratch 3
    else if markersWait s c.v.team [{ off := off, len := bs.length, wr := true }] then .hold
    else ret (scratchWrite s c.v.team off bs) t.recs.length

/-! ### Queues -/

/-- A queue descriptor (R279) and where it stands. -/
structure QueueDesc where
  va : Nat
  place : Place
  ring : Nat
  head : Nat
  tail : Nat
  src : Nat
  dst : Nat
  kind : Nat
  log2n : Nat
deriving DecidableEq, Repr

/-- A descriptor's fields (R279). -/
def QueueDesc.of (va : Nat) (p : Place) (bs : Bytes) : QueueDesc :=
  let w := (dwordAt bs 1).toNat
  { va := va, place := p, ring := (dwordAt bs 0).toNat, head := (dwordAt bs 2).toNat, tail := (dwordAt bs 3).toNat,
    src := bitsN w 13 11, dst := bitsN w 10 8, kind := bitsN w 7 5, log2n := bitsN w 4 0 }

/-- Whether a descriptor breaks R279; a RING that is no multiple of 16 is taken for a broken field (log 31). -/
def queueBad (bs : Bytes) : Bool :=
  let w := (dwordAt bs 1).toNat
  decide (2 ^ 14 ≤ w ∨ 2 < bitsN w 7 5 ∨ bitsN w 4 0 = 0 ∨ 16 < bitsN w 4 0 ∨ (dwordAt bs 0).toNat % 16 ≠ 0)
    || (bs.drop 32).any fun b => b != 0

/-- The hanks whose leaves pass for a queue (R279). -/
def QueueDesc.allows (d : QueueDesc) (h k : Nat) : Bool := if d.kind = 1 then k == d.src || k == d.dst else k == h

/-- Whether hank `h` may push (R279). -/
def QueueDesc.mayPush (d : QueueDesc) (h : Nat) : Bool := d.kind == 0 || d.src == h

/-- Whether hank `h` may pop (R279). -/
def QueueDesc.mayPop (d : QueueDesc) (h : Nat) : Bool := d.kind == 0 || (if d.kind = 1 then d.dst == h else d.src == h)

/-- The ring's entries (R279). -/
def QueueDesc.size (d : QueueDesc) : Nat := 2 ^ d.log2n

/-- The address of entry k (R279). -/
def QueueDesc.entry (d : QueueDesc) (k : Nat) : Nat := (d.ring + 16 * (k % d.size)) % 2 ^ 64

/-- Entries held. -/
def QueueDesc.used (d : QueueDesc) : Nat := (d.tail + 2 ^ 64 - d.head) % 2 ^ 64

/-- Where `n` bytes of a queue stand (R279, R288): `ok` says which hanks' leaves pass. -/
def queuePlace (s : State) (h va n : Nat) (ok : Nat → Bool) : Except EngineStop Place :=
  match windowAt va with
  | some _ => storePlace s h va n .record
  | none =>
    match walkFor s h va true with
    | .fault => .error (.fault .pageFault va true .record 0)
    | .poison d => .error (.fault .uncorrectable va true .record d)
    | .hole pa => .error (.hole pa)
    | .leaf l =>
      if !ok (pteHank l.pte) then .error (.fault .protection va true .record 0)
      else if !pteOwn l.pte then .error (if asksHost s h va then .migrate va true .record else .fault .migrated va true .record 0)
      else if !pteW l.pte then .error (.fault .protection va true .record 1)
      else if Config.physBytes ≤ l.pa then .error (.hole l.pa)
      else .ok (.mem l)

/-- A queue's descriptor as a word reads it. -/
structure QueueRead where
  s : State
  desc : QueueDesc
  stops : List EngineStop

/-- Reads a queue's descriptor with its checks (R279): what the page, the fields, and the right `may` that the word needs find wrong. The page
of another hank is read only to see whether the queue is of KIND 1. -/
def readQueue (s : State) (h ply va : Nat) (may : QueueDesc → Bool) : Except EngineStop QueueRead :=
  let prot := fun (d : Nat) => EngineStop.fault .protection va true .record d
  match windowAt va, walkFor s h va true with
  | none, .fault => .error (.fault .pageFault va true .record 0)
  | none, .poison d => .error (.fault .uncorrectable va true .record d)
  | none, .hole pa => .error (.hole pa)
  | none, .leaf l =>
    if !pteOwn l.pte then
      .error (if pteHank l.pte ≠ h then prot 0 else if asksHost s h va then .migrate va true .record else .fault .migrated va true .record 0)
    else if Config.physBytes ≤ l.pa then .error (.hole l.pa)
    else match placeBytes s h ply 64 (.mem l) with
      | (_, .error d) => .error (if pteHank l.pte = h ∧ !pteW l.pte then prot 1 else .fault .uncorrectable va true .record d)
      | (t, .ok bs) =>
        let d := QueueDesc.of va (.mem l) bs
        .ok { s := t, desc := d, stops :=
          (if queueBad bs then [.fault .desc va false .record 0] else [])
            ++ (if pteHank l.pte ≠ h ∧ !(decide (d.kind = 1) && d.allows h (pteHank l.pte)) then [prot 0] else [])
            ++ (if !pteW l.pte then [prot 1] else []) ++ (if may d then [] else [prot 4]) }
  | some _, _ =>
    match storePlace s h va 64 .record with
    | .error e => .error e
    | .ok p =>
      match placeBytes s h ply 64 p with
      | (_, .error d) => .error (.fault .uncorrectable va true .record d)
      | (t, .ok bs) =>
        let d := QueueDesc.of va p bs
        .ok { s := t, desc := d, stops := (if queueBad bs then [.fault .desc va false .record 0] else []) ++ (if may d then [] else [prot 4]) }

/-- Whether a place's page is not versioned where ply `ply` would write a version (R280): a queue of KIND 0 acts on the ply's versions. -/
def Place.escapes (s : State) (h ply va : Nat) : Place → Bool
  | .win _ _ => storePly (hankOf s h) ply va != 0
  | .mem l => storePly (hankOf s h) ply va != 0 && !pteVer l.pte

/-- The VERSION_ESCAPE of a queue's descriptor or of the ring's entry at `va` (R280). -/
def QueueDesc.escapes (d : QueueDesc) (s : State) (h ply va : Nat) (ring : Except EngineStop Place) : List EngineStop :=
  if d.kind ≠ 0 then []
  else (if d.place.escapes s h ply d.va then [.fault .versionEscape d.va true .record 0] else [])
    ++ (match ring with
        | .ok l => if l.escapes s h ply va then [.fault .versionEscape va true .record 0] else []
        | .error _ => [])

/-- The lines of places, which a step at their home slices waits for (R357). -/
def Place.lines : Place → List Nat
  | .win _ _ => []
  | .mem l => [lineOf l.pa]

/-- A push (R280): entry TAIL and TAIL + 1, as one step. -/
def pushEntry (s : State) (w : Option Nat) (h ply : Nat) (d : QueueDesc) (l : Place) (payload : DWord) (npages : Nat) : Except WriteStop State :=
  match placeWrite s w h ply (d.entry d.tail) (natLe 8 payload.toNat ++ natLe 8 npages) l with
  | .error e => .error e
  | .ok s => placeWrite s w h ply (d.va + 0x18) (natLe 8 (d.tail + 1)) (d.place.at 0x18)

/-- A pop (R280): HEAD + 1. -/
def popEntry (s : State) (w h ply : Nat) (d : QueueDesc) : Except WriteStop State :=
  placeWrite s (some w) h ply (d.va + 0x10) (natLe 8 (d.head + 1)) (d.place.at 0x10)

/-- The pages of a hand-off (R281). -/
def xferPages (payload : DWord) (n : Nat) : List Nat := (List.range n).map fun k => (payload.toNat + 2 ^ 16 * k) % 2 ^ 64

/-- A page that may not be handed off by hank `src` (R281); one of the aperture is not mapped (R288). -/
def xferBad (s : State) (h src va : Nat) : Bool :=
  (windowAt va).isSome || (match walkFrom s va (hreg s h 0x120).toNat walkLevels with
    | .leaf l => !pteOwn l.pte || pteHank l.pte != src
    | _ => true)

/-- Sets HANK in the leaf of a page, and invalidates its translations (R281, R394). -/
def giveHank (s : State) (h dst va : Nat) : State :=
  match walkFrom s va (hreg s h 0x120).toNat walkLevels with
  | .leaf l =>
    let p := readQ s l.loc
    invalidate (homeWrite s h true l.loc (natLe 8 ((p &&& 0xFFFFFFFFFFC7FFFF) ||| (BitVec.ofNat 64 dst <<< 19)).toNat)) h (some va)
  | _ => s

/-- A word whose write failed. -/
def Ctx.writeStop (c : Ctx) (s : State) (va : Nat) (e : WriteStop) : Res :=
  match e with
  | .fault e => c.fault s e (BitVec.ofNat 64 va) true .record
  | .move l => .holdIn (noteMove s c.v.hank l)

/-- A deferred effect joins the log of the wave's ply (R247): its signatures, one for each active lane, sign its address and, as bytes, the address
and the payload or control word (R337, log 25). -/
def defer (s : State) (c : Ctx) (k : LogKind) (ad : DWord) (ops : Bytes) : Res :=
  if !logRoom s c.v.hank c.v.ply then c.fault s .logFull ad true
  else if !sigRoom s c.w c.v (laneCount c.act) then .hold
  else .ok (addSigs (appendLog s c k) c.w c.v ((lanesOf c.act).map fun _ => sigOf ad ops))

/-- What a QPUSH finds wrong with its ring and its pages (R279-R281). -/
def pushStops (s : State) (h ply : Nat) (d : QueueDesc) (xfer : Bool) (pay : DWord) (n : Nat) : List EngineStop :=
  (if xfer && d.kind != 1 then [.fault .desc d.va false .record 0] else [])
    ++ (match queuePlace s h (d.entry d.tail) 16 (d.allows h) with | .error e => [e] | .ok _ => [])
    ++ d.escapes s h ply (d.entry d.tail) (queuePlace s h (d.entry d.tail) 16 (d.allows h))
    ++ (match if xfer then (xferPages pay n).find? (xferBad s h d.src) else none with
        | some pg => [.fault .protection pg true .global 7]
        | none => [])

/-- QPUSH once its checks have passed (R280, R281). -/
def queuePush (s : State) (c : Ctx) (d : QueueDesc) (l : Place) (xfer : Bool) (pay : DWord) (n : Nat) : Res :=
  let h := c.v.hank
  if c.v.ply ≠ 0 ∧ d.kind ≠ 0 then
    defer s c (.qpush (BitVec.ofNat 64 d.va) pay n) (BitVec.ofNat 64 d.va) (natLe 8 d.va ++ natLe 8 pay.toNat)
  else if d.used = d.size then .hold
  else
    match pushEntry (releaseLines s (d.place.lines ++ l.lines)) (some c.w) h c.v.ply d l pay n with
    | .error e => c.writeStop s (d.entry d.tail) e
    | .ok t => .ok (setbFlight (if xfer then (xferPages pay n).foldl (fun s p => giveHank s h d.dst p) t else t) c)

/-- QPUSH (R280, R281): its checks are one step, so R313 orders them. -/
def execQpush (x : SWord) (s : State) : Host.Outcome State Fault Refusal :=
  issue s (.qpush x) fun s c =>
    let h := c.v.hank
    let va := (c.u64 x.a.toNat).toNat
    let xfer := decide (4096 ≤ x.imm.toNat)
    let n := x.imm.toNat % 4096
    let pay := c.u64 x.b.toNat
    let bad := if xfer && decide (pay.toNat % 2 ^ 16 ≠ 0) then [EngineStop.fault .misalign pay.toNat true .global 0] else []
    if va % 64 ≠ 0 then c.fault s .misalign (BitVec.ofNat 64 va) true .record
    else match readQueue s h c.v.ply va (fun d => d.mayPush h) with
      | .error e => c.engineStop s ((firstStop (bad ++ [e])).getD e)
      | .ok r =>
        match firstStop (bad ++ r.stops ++ pushStops r.s h c.v.ply r.desc xfer pay n), queuePlace r.s h (r.desc.entry r.desc.tail) 16 (r.desc.allows h) with
        | some e, _ => c.engineStop s e
        | none, .ok l => queuePush r.s c r.desc l xfer pay n
        | none, .error e => c.engineStop s e

/-- QPOP once its checks have passed (R280): it waits while the queue is empty. -/
def queuePop (s : State) (c : Ctx) (x : SWord) (d : QueueDesc) (l : Place) : Res :=
  let h := c.v.hank
  let u := s
  let s := releaseLines u (d.place.lines ++ l.lines)
  if d.used = 0 then .park u (.block u.progress false)
  else match popEntry s c.w h c.v.ply d, placeBytes s h c.v.ply 16 l with
    | .error e, _ => c.writeStop s (d.entry d.head) e
    | .ok _, (t, .error k) => c.fault t .uncorrectable (BitVec.ofNat 64 (d.entry d.head)) true .record k
    | .ok _, (t, .ok bs) =>
      match popEntry t c.w h c.v.ply d with
      | .error e => c.writeStop s (d.entry d.head) e
      | .ok t => .ok (c.put64 t x.d.toNat fun _ => dwordAt bs 0)

/-- QPOP (R280). -/
def execQpop (x : SWord) (s : State) : Host.Outcome State Fault Refusal :=
  issue s (.qpop x) fun s c =>
    let h := c.v.hank
    let va := (c.u64 x.a.toNat).toNat
    if va % 64 ≠ 0 then c.fault s .misalign (BitVec.ofNat 64 va) true .record
    else match readQueue s h c.v.ply va (fun d => d.mayPop h) with
      | .error e => c.engineStop s e
      | .ok r =>
        let d := r.desc
        let ring := queuePlace r.s h (d.entry d.head) 16 (d.allows h)
        let more := (match ring with | .error e => [e] | .ok _ => []) ++ d.escapes r.s h c.v.ply (d.entry d.head) ring
          ++ (if c.v.ply ≠ 0 ∧ d.kind ≠ 0 then [EngineStop.fault .versionEscape d.va true .record 0] else [])
        match firstStop (r.stops ++ more), ring with
        | some e, _ => c.engineStop s e
        | none, .ok l => queuePop r.s c x d l
        | none, .error e => c.engineStop s e

/-! ### Token cells -/

/-- The step of QTOK on a cell (R282) at its home slice or behind a window: `f` answers, from the cell's bytes, what is written and what
the word becomes. -/
def tokenStep (s : State) (c : Ctx) (va : Nat) (f : Bytes → Option Bytes) (k : State → Bytes → Res) : Res :=
  let ad := BitVec.ofNat 64 va
  let h := c.v.hank
  if va % 16 ≠ 0 then c.fault s .misalign ad true .global
  else match translate s h va 16 true with
    | .fault e d => c.fault s e ad true .global d
    | .migrate => c.migrateAll s va true
    | .wait => .hold
    | .hole pa => .stuck (.physicalHole pa)
    | .ok (.win t off) =>
      if storePly (hankOf s h) c.v.ply va ≠ 0 then c.fault s .versionEscape ad true .global
      else if markerBlocks s t off 16 true then .hold
      else match scratchPoison s t off 16 with
        | some d => c.fault s .uncorrectable ad true .global d
        | none =>
          let bs := scratchRead s t off 16
          k (match f bs with | some new => scratchWrite s t off new | none => s) bs
    | .ok (.mem l) =>
      let s := releaseLines s [lineOf l.pa]
      match writePly s h c.v.ply va l, placeBytes s h c.v.ply 16 (.mem l) with
      | .fault .versionEscape, _ => c.fault s .versionEscape ad true .global
      | .wait, _ => .holdIn (noteMove s h l)
      | _, (t, .error d) => c.fault t .uncorrectable ad true .global d
      | q, (t, .ok bs) =>
        match f bs, q with
        | none, _ => k (dropCopies t (lineOf l.pa)) bs
        | some new, .to q => k (writeLeaf (dropCopies t (lineOf l.pa)) (some c.w) h q l new) bs
        | some _, .fault e => c.fault s e ad true .global
        | some _, .wait => .hold

/-- STATE of a cell (R282): 0 is empty. -/
def cellFull (bs : Bytes) : Bool := dwordAt bs 1 != 0

/-- QTOK.put (R282). -/
def execQtokPut (x : SWord) (s : State) : Host.Outcome State Fault Refusal :=
  issue s (.qtokPut x) fun s c =>
    tokenStep s c (c.u64 x.a.toNat).toNat
      (fun bs => if cellFull bs then none else some (natLe 8 (c.u64 x.b.toNat).toNat ++ natLe 8 1))
      fun s bs => .ok (setbFlight (c.put s x.d.toNat fun _ => if cellFull bs then 1 else 0) c)

/-- QTOK.take (R282): waits while the cell is empty. -/
def execQtokTake (x : SWord) (s : State) : Host.Outcome State Fault Refusal :=
  issue s (.qtokTake x) fun s c =>
    tokenStep s c (c.u64 x.a.toNat).toNat (fun bs => if cellFull bs then some (bs.take 8 ++ natLe 8 0) else none)
      fun t bs =>
        if cellFull bs then .ok (setbFlight (c.put64 t x.d.toNat fun _ => dwordAt bs 0) c) else .park s (.block s.progress true)

/-! ### Display and media -/

/-- A display head. -/
def headOf (s : State) (n : Nat) : Head := s.heads[n]?.getD Head.reset

/-- Changes a head. -/
def modHead (s : State) (n : Nat) (f : Head → Head) : State := { s with heads := s.heads.setIfInBounds n (f (headOf s n)) }

/-- Whether a head is enabled for a hank (R417). -/
def headOn (s : State) (h n : Nat) : Bool :=
  let c := (headOf s n).regs.read 0
  c.getLsbD 0 && decide (bitsN c.toNat 9 7 = h)

/-- Immediate entries at the head of a flip queue are popped (R418). -/
def popImmediate : List (DWord × Bool) → Nat → DWord → List (DWord × Bool) × Nat × DWord
  | (a, true) :: q, n, _ => popImmediate q ((n + 1) % 2 ^ 32) a
  | q, n, cur => (q, n, cur)

/-- A head's queue after its immediate entries (R418). -/
def Head.serve (d : Head) : Head :=
  let r := popImmediate d.flips d.shown d.curSurf
  { d with flips := r.1, shown := r.2.1, curSurf := r.2.2 }

/-- WIDTH, HEIGHT and PITCH of the frame that a head scans (R417). -/
def Head.width (d : Head) : Nat := bitsN (d.eff[0]?.getD 0).toNat 15 0
def Head.height (d : Head) : Nat := bitsN (d.eff[0]?.getD 0).toNat 31 16
def Head.pitch (d : Head) : Nat := bitsN (d.eff[0]?.getD 0).toNat 63 32
/-- A head's hank and pixel format (R417). -/
def Head.hank (d : Head) : Nat := bitsN (d.regs.read 0).toNat 9 7
def Head.fmt (d : Head) : Nat := bitsN (d.regs.read 0).toNat 6 5

/-- The pages of the rows from `line` on of the surface that a head scans (R416). -/
def scanPages (d : Head) (line : Nat) : List Nat :=
  let bytes := d.pitch * (d.height - line)
  let a := d.curSurf.toNat + d.pitch * line
  if bytes = 0 then [] else (List.range ((a + bytes - 1) / 2 ^ 16 + 1 - a / 2 ^ 16)).map fun k => (a / 2 ^ 16 + k) % 2 ^ 48

/-- The leaf behind which a head reads, none where the page scans out as black (R416): unmapped, host-owned, or of another hank. -/
def scanLeaf (s : State) (h va : Nat) : Option Leaf :=
  if (windowAt va).isSome then none
  else match walk s h va with
    | .leaf l => if pteHank l.pte != h || !pteOwn l.pte || decide (Config.physBytes ≤ l.pa) then none else some l
    | _ => none

/-- A component of RGBA16F as 12 bits (R416): clamped to [0, 1], a NaN as 0, round(4095·x) to nearest even. -/
def scanComponent (x : Nat) : Nat :=
  match fp16.read x with
  | .fin false m e => min 4095 (roundInt .rne false (4095 * m) e).1
  | .inf false => 4095
  | _ => 0

/-- A pixel as it goes on the link, without alpha (R416, R417): R, G and B from the highest bits down. -/
def linkPixel (fmt v : Nat) : Nat :=
  match fmt with
  | 0 => v / 2 ^ 8
  | 1 => v / 2 ^ 2
  | _ => scanComponent (bitsN v 15 0) * 2 ^ 24 + scanComponent (bitsN v 31 16) * 2 ^ 12 + scanComponent (bitsN v 47 32)

/-- A pixel of a head's surface (R416, R422): a poisoned granule scans as black. -/
def scanPixel (s : State) (d : Head) (va : Nat) : Nat :=
  let n := if d.fmt = 2 then 8 else 4
  match scanLeaf s d.hank va with
  | none => 0
  | some l => if (poisonOfRead s d.hank 0 l.pa n).isSome then 0 else linkPixel d.fmt (leNat (homeBytes s d.hank 0 l n))

/-- What a pixel takes on the link, in sixteenths of a bit (R416, R417). -/
def Head.pixelBits (d : Head) : Nat :=
  let dsc := (d.eff[5]?.getD 0).toNat
  if bitN dsc 16 then bitsN dsc 9 0 else 16 * (match d.fmt with | 0 => 24 | 1 => 30 | _ => 36)

/-- Rows of a head's surface from `line` on (R416). -/
def scanRows (s : State) (d : Head) (line : Nat) : List (List Nat) :=
  (List.range (d.height - line)).map fun r => (List.range d.width).map fun k =>
    scanPixel s d ((d.curSurf.toNat + d.pitch * (line + r) + (if d.fmt = 2 then 8 else 4) * k) % 2 ^ 64)

/-- A head scans its surface from `line` on (R416): the coherent reads of its pages, a SCANOUT record for each that scans as black (R428), and what
it sends. The model scans in one step (log 22). -/
def scanFrame (s : State) (n line : Nat) : State :=
  let d := headOf s n
  let s := (scanPages d line).foldl (fun s p =>
    match scanLeaf s d.hank (p * 2 ^ 16) with
    | some l => foldRange (releaseLines s (linesOf l.pa (2 ^ 16))) l.pa (2 ^ 16)
    | none => errRecord s 1 0xFF d.hank 9 d.curSurf (BitVec.ofNat 64 n)) s
  { s with host := s.host ++ [.frame n d.pixelBits (scanRows s d line)] }

/-- A FLIP joins a head's queue (R418, R419); an immediate one that is popped at once changes the surface from the line that is being scanned. -/
def joinFlip (s : State) (n : Nat) (surf : DWord) (imm : Bool) : State :=
  let t := modHead s n fun d => ({ d with flips := d.flips ++ [(surf, imm)] }).serve
  if (headOf t n).shown = (headOf s n).shown then t
  else scanFrame { t with fresh := t.fresh + 1 } n (Config.scanLine t.fresh % (headOf t n).height)

/-- FLIP (R283). -/
def execFlip (x : SWord) (s : State) : Host.Outcome State Fault Refusal :=
  issue s (.flip x) fun s c =>
    let ad := c.u64 x.a.toNat
    let b := c.u x.b.toNat
    let n := b.toNat % 4
    if 8 ≤ b.toNat || !headOn s c.v.hank n then c.fault s .desc
    else if ad.toNat % 256 ≠ 0 then c.fault s .misalign ad
    else if c.v.ply ≠ 0 then defer s c (.flip ad b) ad (natLe 8 ad.toNat ++ natLe 4 b.toNat)
    else if 16 ≤ (headOf s n).flips.length then .hold
    else .ok (setbFlight (joinFlip s n ad (b.getLsbD 2)) c)

/-- A media sequencer. -/
def mediaOf (s : State) (n : Nat) : Sequencer := s.media[n]?.getD { queue := [], done := none, lost := false }

/-- A command joins a sequencer's queue (R404). -/
def joinMedia (s : State) (n h blk : Nat) : State :=
  { s with media := s.media.setIfInBounds n { mediaOf s n with queue := (mediaOf s n).queue ++ [{ hank := h, blk := blk }] } }

/-- MSUB (R284). -/
def execMsub (x : KWord) (s : State) : Host.Outcome State Fault Refusal :=
  issue s (.msub x) fun s c =>
    let ad := c.u64 x.a.toNat
    let b := c.u x.b.toNat
    let n := b.toNat % 2
    if 2 ≤ b.toNat then c.fault s .desc
    else if ad.toNat % 256 ≠ 0 then c.fault s .misalign ad
    else if c.v.ply ≠ 0 then defer s c (.msub ad n) ad (natLe 8 ad.toNat ++ natLe 4 b.toNat)
    else if 32 ≤ (mediaOf s n).queue.length then .hold
    else .ok (setbFlight (joinMedia s n c.v.hank ad.toNat) c)

end Sys2Proof.Machine
end

