-- ==== Sys2Proof/Machine/Rays.lean ====
section
/-! DEFINITION. The traversal units (21_visibility_fixed_units R395-R400): exact rationals, the node and triangle formats, the box and
triangle tests, the traversal of one ray, and the answer of a TRACE (11 R285-R287). -/

namespace Sys2Proof.Machine

/-! ### Exact values -/

/-- A rational number n / d with d above 0. -/
structure Q where
  n : Int
  d : Nat
deriving DecidableEq, Repr

/-- An exact value or an infinity. -/
inductive Ext where
  | neg
  | fin (q : Q)
  | pos
deriving DecidableEq, Repr

/-- a ≤ b. -/
def Q.le (a b : Q) : Bool := decide (a.n * b.d ≤ b.n * a.d)

/-- The quotient of two whole numbers, the divisor not 0. -/
def Q.div (n d : Int) : Q := if d < 0 then ⟨-n, d.natAbs⟩ else ⟨n, d.natAbs⟩

/-- a ≤ b with infinities. -/
def Ext.le : Ext → Ext → Bool
  | .neg, _ => true
  | _, .pos => true
  | .fin a, .fin b => a.le b
  | _, _ => false

/-- The greater of two. -/
def Ext.max (a b : Ext) : Ext := if a.le b then b else a

/-- The lesser of two. -/
def Ext.min (a b : Ext) : Ext := if a.le b then a else b

/-- The scale of the whole numbers that stand for FP32 values: units of 2^-149. -/
def f32Unit : Int := -149

/-- A finite FP32 value in units of 2^-149. -/
def f32Int (w : Word) : Option Int :=
  match fp32.read w.toNat with
  | .fin neg m e => some (scaled neg m e f32Unit)
  | _ => none

/-- An FP32 value that is no NaN. -/
def f32Ext (w : Word) : Option Ext :=
  match fp32.read w.toNat with
  | .fin neg m e => some (.fin ⟨scaled neg m e f32Unit, 2 ^ 149⟩)
  | .inf neg => some (if neg then .neg else .pos)
  | .nan _ _ _ => none

/-- An exact value rounded once, RNE, to FP32 (R399). -/
def Q.f32 (q : Q) : Word :=
  match divVal (decide (q.n < 0)) q.n.natAbs 0 q.d 0 27 with
  | .fin neg m e => if q.n = 0 then 0 else BitVec.ofNat 32 (fp32.round .rne false neg m e).1
  | _ => 0

/-- round(65535·x) RNE of a reported coordinate (R286). -/
def unorm16 (x : Word) : Nat :=
  match fp32.read x.toNat with
  | .fin neg m e => if neg then 0 else (roundInt .rne false (65535 * m) e).1
  | _ => 0

/-- A vector of three exact values. -/
structure P3 where
  x : Int
  y : Int
  z : Int
deriving DecidableEq, Repr

/-- Difference, cross product and dot product. -/
def P3.sub (a b : P3) : P3 := ⟨a.x - b.x, a.y - b.y, a.z - b.z⟩
def P3.cross (a b : P3) : P3 := ⟨a.y * b.z - a.z * b.y, a.z * b.x - a.x * b.z, a.x * b.y - a.y * b.x⟩
def P3.dot (a b : P3) : Int := a.x * b.x + a.y * b.y + a.z * b.z

/-- Three FP32 words as a vector, if all are finite. -/
def p3Of (x y z : Word) : Option P3 :=
  match f32Int x, f32Int y, f32Int z with
  | some a, some b, some c => some ⟨a, b, c⟩
  | _, _, _ => none

/-! ### Nodes and triangles -/

/-- A little-endian word of a byte string. -/
def wordAt (bs : Bytes) (off : Nat) : Word := BitVec.ofNat 32 (leNat ((bs.drop off).take 4))

/-- A byte of a byte string. -/
def byteAt (bs : Bytes) (off : Nat) : Nat := (bs.getD off 0).toNat

/-- A child of a node: its number, its box by axis, and where it lies; `tris` is the number of triangles of a leaf. -/
structure Child where
  c : Nat
  box : List (Ext × Ext)
  va : Nat
  tris : Option Nat
  empty : Bool
deriving DecidableEq, Repr

/-- One side of a child's box (R397): ORIGIN + q·2^E rounded to FP32 down or up. -/
def boxSide (up : Bool) (origin : Int) (q : Nat) (e : Nat) : Ext :=
  let v : Int := origin + (q * 2 ^ (signedN 8 e + 149).toNat : Nat)
  let code := (fp32.round (if up then .rup else .rdn) false (decide (v < 0)) v.natAbs f32Unit).1
  (f32Ext (BitVec.ofNat 32 code)).getD (if up then .pos else .neg)

/-- The box of child c (R397). -/
def boxOf (bs : Bytes) (o : P3) (c : Nat) : List (Ext × Ext) :=
  [o.x, o.y, o.z].mapIdx fun k org =>
    let e := byteAt bs (0x0C + k)
    (boxSide false org (byteAt bs (0x28 + 6 * c + k)) e, boxSide true org (byteAt bs (0x2B + 6 * c + k)) e)

/-- The number of triangles of leaf child c (R397). -/
def lcount (bs : Bytes) (c : Nat) : Nat := (wordAt bs 0x24).toNat / 16 ^ c % 16

/-- Whether child c exists, and whether it is a leaf (R397). -/
def nodeValid (bs : Bytes) (c : Nat) : Bool := bitN (byteAt bs 0x0F) c
def nodeLeaf (bs : Bytes) (c : Nat) : Bool := bitN (byteAt bs 0x20) c

/-- Whether a node obeys R397. -/
def nodeOk (bs : Bytes) : Bool :=
  (p3Of (wordAt bs 0) (wordAt bs 4) (wordAt bs 8)).isSome
    && lanes.all (fun c => (!nodeLeaf bs c || nodeValid bs c) && (if nodeLeaf bs c then lcount bs c != 0 else lcount bs c == 0))
    && leNat ((bs.drop 0x10).take 8) % 128 == 0 && leNat ((bs.drop 0x18).take 8) % 64 == 0
    && leNat ((bs.drop 0x21).take 3) == 0 && leNat ((bs.drop 0x58).take 40) == 0

/-- The children of a node, lowest first (R397). -/
def nodeChildren (bs : Bytes) : List Child :=
  match p3Of (wordAt bs 0) (wordAt bs 4) (wordAt bs 8) with
  | none => []
  | some o =>
    (lanes.filter (nodeValid bs)).map fun c =>
      let below := lanes.filter fun k => decide (k < c) && nodeValid bs k
      let empty := [0, 1, 2].any fun k => decide (byteAt bs (0x2B + 6 * c + k) < byteAt bs (0x28 + 6 * c + k))
      if nodeLeaf bs c then
        { c := c, box := boxOf bs o c, tris := some (lcount bs c), empty := empty,
          va := (leNat ((bs.drop 0x18).take 8) + 64 * ((below.filter (nodeLeaf bs)).map (lcount bs)).sum) % 2 ^ 64 }
      else
        { c := c, box := boxOf bs o c, tris := none, empty := empty,
          va := (leNat ((bs.drop 0x10).take 8) + 128 * (below.filter fun k => !nodeLeaf bs k).length) % 2 ^ 64 }

/-- Whether a triangle record obeys R398. -/
def triOk (bs : Bytes) : Bool := leNat ((bs.drop 0x2C).take 4) / 2 == 0 && leNat ((bs.drop 0x30).take 16) == 0

/-! ### One ray -/

/-- A ray (R285): its origin and direction when they are finite. -/
structure Ray where
  geo : Option (P3 × P3)
  tmin : Ext
  ctl : Word
deriving DecidableEq, Repr

/-- An accepted hit (R399). -/
structure Hit where
  t : Q
  u : Q
  v : Q
  prim : Word
  sidx : Nat
deriving DecidableEq, Repr

/-- Why a ray stops short: a fault at a node or record (R286, R400), a page to wait for, an address that does not exist. -/
inductive RayStop where
  | fault (c : Cause) (addr : Nat) (detail : Nat)
  | migrate (va : Nat)
  | wait
  | hole (pa : Nat)
deriving DecidableEq, Repr

/-- A ray under way: the state its reads leave, the current tmax, the best hit, the triangles (primitive id and SIDX) that a ray with an
infinite component has met and that R399 does not skip, whether it is over. -/
structure RayState where
  s : State
  tmax : Ext
  hit : Option Hit
  met : List (Word × Nat)
  stop : Option RayStop
  ended : Bool

/-- The part of a ray's line inside a slab, as the bounds of t. -/
def slab (o d : Int) (b : Ext × Ext) : Option (Ext × Ext) :=
  if d = 0 then
    if b.1.le (.fin ⟨o, 2 ^ 149⟩) && Ext.le (.fin ⟨o, 2 ^ 149⟩) b.2 then some (.neg, .pos) else none
  else
    let bound := fun (x : Ext) => match x with
      | .neg => if d < 0 then Ext.pos else .neg
      | .pos => if d < 0 then Ext.neg else .pos
      | .fin q => .fin (Q.div (q.n - o) d)
    some (if d < 0 then (bound b.2, bound b.1) else (bound b.1, bound b.2))

/-- Where the segment from tmin to tmax enters a box, if it touches it (R399, log 17); a ray with an infinite component enters every box
(log 16). -/
def boxEntry (r : Ray) (tmax : Ext) (box : List (Ext × Ext)) : Option Ext :=
  match r.geo with
  | none => some r.tmin
  | some (o, d) =>
    let axes := (box.zip [(o.x, d.x), (o.y, d.y), (o.z, d.z)]).map fun p => slab p.2.1 p.2.2 p.1
    if axes.any Option.isNone then none
    else
      let near := axes.foldl (fun a x => match x with | some b => a.max b.1 | none => a) r.tmin
      let far := axes.foldl (fun a x => match x with | some b => a.min b.2 | none => a) tmax
      if near.le far then some near else none

/-- The triangle test (R399): t, u and v of the hit of a ray from `o` along `d`. -/
def triHit (r : Ray) (o d : P3) (tmax : Ext) (a b c : P3) : Option (Q × Q × Q) :=
  let e1 := b.sub a
  let e2 := c.sub a
  let n := e1.cross e2
  let det := n.dot d
  if det = 0 ∨ (r.ctl.getLsbD 4 ∧ 0 < det) then none
  else
    let w := o.sub a
    let t := Q.div (-(n.dot w)) det
    let u := Q.div (-(w.dot (d.cross e2))) det
    let v := Q.div (w.dot (d.cross e1)) det
    if 0 ≤ u.n ∧ 0 ≤ v.n ∧ u.n + v.n ≤ u.d ∧ r.tmin.le (.fin t) = true ∧ Ext.le (.fin t) tmax = true then some (t, u, v) else none

/-- Whether a hit replaces the best so far (R285): smaller t, or equal t and smaller primitive id. -/
def Hit.better (h : Hit) : Option Hit → Bool
  | none => true
  | some b => !b.t.le h.t || (h.t.le b.t && decide (h.prim.toNat < b.prim.toNat))

/-- One triangle record met by a ray (R398, R399). -/
def testTri (r : Ray) (x : RayState) (bs : Bytes) : RayState :=
  let g := wordAt bs 0x28
  if g.toNat / 2 ^ 24 &&& bitsN r.ctl.toNat 15 8 = 0 ∨ (byteAt bs 0x2C % 2 = 1 ∧ !r.ctl.getLsbD 5) then x
  else
    let vtx := fun k => p3Of (wordAt bs (12 * k)) (wordAt bs (12 * k + 4)) (wordAt bs (12 * k + 8))
    match vtx 0, vtx 1, vtx 2 with
    | some a, some b, some c =>
      match r.geo with
      | none => { x with met := x.met ++ [(wordAt bs 0x24, g.toNat % 2 ^ 24)] }
      | some (o, d) =>
        match triHit r o d x.tmax a b c with
        | none => x
        | some (t, u, v) =>
          let h : Hit := { t := t, u := u, v := v, prim := wordAt bs 0x24, sidx := g.toNat % 2 ^ 24 }
          if h.better x.hit then { x with hit := some h, tmax := .fin t, ended := r.ctl.getLsbD 3 } else x
    | _, _, _ => x

/-- A read of the unit in the TRACE's ply (R238); a stop ends the ray. A page that the host refuses is waited for (R289 gives TRES no
MIGRATED, log 18). -/
def rayRead (h ply cl va n : Nat) (x : RayState) (k : State → Bytes → RayState) : RayState :=
  match readGlobal x.s h ply cl va n with
  | .ok s bs => k s bs
  | .fault .migrated _ _ => { x with stop := some .wait, ended := true }
  | .fault c a d => { x with stop := some (.fault c a d), ended := true }
  | .migrate a => { x with stop := some (.migrate a), ended := true }
  | .wait => { x with stop := some .wait, ended := true }
  | .hole pa => { x with stop := some (.hole pa), ended := true }

/-- The triangles of a leaf of the node at `node` in storage order (R399); a bad record stops the ray at its node (R400). -/
def visitLeaf (h ply cl : Nat) (r : Ray) (node va : Nat) : Nat → RayState → RayState
  | 0, x => x
  | n + 1, x =>
    if x.ended then x
    else
      let x := rayRead h ply cl (va % 2 ^ 64) 64 x fun s bs =>
        if triOk bs then testTri r { x with s := s } bs else { x with s := s, stop := some (.fault .desc node 0), ended := true }
      visitLeaf h ply cl r node (va + 64) n x

/-- Puts a child in its place by entry distance (R399); the list is in ascending child order before. -/
def insertChild (p : Ext × Child) : List (Ext × Child) → List (Ext × Child)
  | [] => [p]
  | q :: qs => if p.1.le q.1 then p :: q :: qs else q :: insertChild p qs

/-- The intersected children of a node in visiting order (R399). -/
def visitOrder (r : Ray) (tmax : Ext) (cs : List Child) : List (Ext × Child) :=
  (cs.filterMap fun c => if c.empty then none else (boxEntry r tmax c.box).map fun e => (e, c)).foldr insertChild []

/-- Visits an internal node (R399, R400); `fuel` is 32 less its depth. -/
def visitNode (h ply cl : Nat) (r : Ray) : Nat → Nat → RayState → RayState
  | 0, _, x => x
  | fuel + 1, va, x =>
    if x.ended then x
    else
      rayRead h ply cl va 128 x fun s bs =>
        let cs := nodeChildren bs
        if !nodeOk bs || (fuel == 0 && cs.any fun c => c.tris.isNone) then { x with s := s, stop := some (.fault .desc va 0), ended := true }
        else
          (visitOrder r x.tmax cs).foldl (fun x p =>
            if x.ended || (boxEntry r x.tmax p.2.box).isNone then x
            else match p.2.tris with
              | some n => visitLeaf h ply cl r va p.2.va n x
              | none => visitNode h ply cl r fuel p.2.va x) { x with s := s }

/-! ### The answer of a TRACE -/

/-- What one lane's ray hits: t, primitive id, packed coordinates, SIDX. -/
abbrev RayHit := Option (Word × Word × Word × Nat)

/-- What a hit answers (R286). -/
def Hit.answer (k : Hit) : Word × Word × Word × Nat :=
  (k.t.f32, k.prim, BitVec.ofNat 32 (unorm16 k.u.f32 + unorm16 k.v.f32 * 2 ^ 16), k.sidx)

/-- What a ray with an infinite component hits: any of the triangles it met, or none (log 16). -/
def openHit (met : List (Word × Nat)) (ws : List Word) (root : DWord) : RayHit :=
  (Config.rayOpen ws root).bind fun k => (met[k.2.2 % met.length]?).map fun m => (k.1, m.1, k.2.1, m.2)

/-- Casts one lane's ray (R285, R399): the state, and its hit or why it stopped. -/
def castRay (s : State) (h cl : Nat) (a : TraceArgs) (l : Nat) : State × Except RayStop RayHit :=
  let ws := (a.rays[l]?.getD (Vector.replicate 8 0)).toList
  let w := fun k => ws.getD k 0
  let nan := ws.any fun x => (fp32.read x.toNat).isNan
  let still := [3, 4, 5].all fun k => (fp32.read (w k).toNat).isZero
  match f32Ext (w 6), f32Ext (w 7) with
  | some lo, some hi =>
    if nan || still || !lo.le hi then (s, .ok none)
    else
      let geo := (p3Of (w 0) (w 1) (w 2)).bind fun o => (p3Of (w 3) (w 4) (w 5)).map fun d => (o, d)
      let x := visitNode h a.ply cl { geo := geo, tmin := lo, ctl := a.ctl } 32 a.root.toNat
        { s := s, tmax := hi, hit := none, met := [], stop := none, ended := false }
      match x.stop with
      | some e => (x.s, .error e)
      | none => (x.s, .ok (if geo.isSome then x.hit.map Hit.answer else openHit x.met ws a.root))
  | _, _ => (s, .ok none)

/-- The shader-table index and its flags (R287): INDEX, OOR. -/
def tableIndex (hit : RayHit) (count : Nat) : Nat × Bool :=
  let i := match hit with | some k => 1 + k.2.2.2 | none => 0
  if count ≤ i then (0, true) else (i, false)

/-- The four result registers (R286). -/
def rayWords (hit : RayHit) (count : Nat) (null : Bool) : Vector Word 4 :=
  let i := tableIndex hit count
  let w3 := BitVec.ofNat 32 (i.1 + hit.isSome.toNat * 2 ^ 28 + i.2.toNat * 2 ^ 29 + null.toNat * 2 ^ 30)
  match hit with
  | some k => #v[k.1, k.2.1, k.2.2.1, w3]
  | none => #v[0x7F800000, 0xFFFFFFFF, 0, w3]

/-- One lane of a TRACE (R285-R287): its ray, if it was active, then the table entry, read through the TRACE's ply. -/
def traceLane (s : State) (h cl : Nat) (a : TraceArgs) (l : Nat) : State × Except RayStop (Vector Word 4) :=
  let r := if a.mask.getLsbD l then castRay s h cl a l else (s, .ok none)
  match r.2 with
  | .error e => (r.1, .error e)
  | .ok hit =>
    match readGlobal r.1 h a.ply cl ((a.table.toNat + 8 * (tableIndex hit a.count).1) % 2 ^ 64) 8 with
    | .ok s bs => (s, .ok (rayWords hit a.count (leNat bs == 0)))
    | .fault .migrated _ _ => (r.1, .error .wait)
    | .fault c va d => (r.1, .error (.fault c va d))
    | .migrate va => (r.1, .error (.migrate va))
    | .wait => (r.1, .error .wait)
    | .hole pa => (r.1, .error (.hole pa))

/-- The lanes' answers so far. -/
structure RayAcc where
  s : State
  result : Vector (Vector Word 4) 8
  faults : List LaneFault

/-- Traces lanes in turn; a page to wait for, or an address that does not exist, stops them all. -/
def traceLanes (h cl : Nat) (a : TraceArgs) : List Nat → RayAcc → Except RayStop RayAcc
  | [], x => .ok x
  | l :: ls, x =>
    match traceLane x.s h cl a l with
    | (s, .ok ws) => traceLanes h cl a ls { x with s := s, result := x.result.setIfInBounds l ws }
    | (s, .error (.fault c va d)) =>
      let f : LaneFault := { lane := l, cause := c, addr := BitVec.ofNat 64 va, wr := false, space := .node, detail := d }
      traceLanes h cl a ls { x with s := s, faults := x.faults ++ [f] }
    | (_, .error e) => .error e

/-- A ray slot of a wave. -/
def raySlot (v : Wave) (y : Nat) : RaySlot := v.rays[y]?.getD RaySlot.empty

/-- Changes a ray slot of a wave. -/
def setRaySlot (s : State) (w y : Nat) (k : RaySlot) : State := modWave s w fun v => { v with rays := v.rays.setIfInBounds y k }

/-- Whether context c of a hank is loaded (R401). -/
def ctxLoaded (s : State) (h c : Nat) : Bool := ((hankOf s h).ctxs[c]?.getD TrContext.reset).loaded

/-- Makes a slot's results known: all lanes of a new TRACE, or the lanes a TRES traces again, which needs the context as a TRACE does
(R403, log 18). -/
def knowSlot (s : State) (w : Nat) (v : Wave) (y : Nat) : Except RayStop State :=
  let k := raySlot v y
  match k.args with
  | none => .ok s
  | some a =>
    let ls := if !k.known then lanes else if ctxLoaded s v.hank (a.ctl.toNat % 8) then lanesOf k.again else []
    match traceLanes v.hank (clusterOf v.core) a ls { s := s, result := k.result, faults := k.faults } with
    | .error e => .error e
    | .ok x => .ok (setRaySlot x.s w y { k with known := true, again := if k.known && ls.isEmpty then k.again else 0, result := x.result, faults := x.faults })

/-- Whether a traversal is under way for a slot. -/
def tracing (s : State) (w y : Nat) : Bool := s.flights.any fun f => f.wave == w && f.kind == .trace y

end Sys2Proof.Machine
end

