-- ==== Sys2Proof/Machine/RayWords.lean ====
section
/-! DEFINITION. TRACE and TRES (11_system_instructions R285-R287), and the completion of a traversal (21 R399). -/

namespace Sys2Proof.Machine

/-- Whether a TRACE's control word or count is out of range (R285). -/
def badTraceCtl (ctl : Word) (count : Nat) : Bool :=
  bitsN ctl.toNat 7 6 != 0 || bitsN ctl.toNat 31 16 != 0 || count == 0 || decide (2 ^ 24 < count)

/-- What TRACE reads (R285). -/
def Ctx.traceArgs (c : Ctx) (x : KWord) : TraceArgs :=
  { ply := c.v.ply, mask := c.act
    rays := Vector.ofFn fun l : Fin 8 => Vector.ofFn fun k : Fin 8 => Row.lane (c.reg (x.a.toNat + k)) l
    root := c.u64 x.b.toNat, table := c.u64 x.c.toNat, ctl := c.u (x.c.toNat + 2), count := (c.u (x.c.toNat + 3)).toNat }

/-- TRACE (R285): the slot's result is replaced, a traversal still running in it is cancelled, and a new one is under way. -/
def execTrace (x : KWord) (s : State) : Host.Outcome State Fault Refusal :=
  issue s (.trace x) fun s c =>
    let a := c.traceArgs x
    let y := x.y.toNat
    if badTraceCtl a.ctl a.count || !ctxLoaded s c.v.hank (a.ctl.toNat % 8) then c.fault s .desc
    else if a.root.toNat % 128 ≠ 0 then c.fault s .misalign a.root false .node
    else if a.table.toNat % 8 ≠ 0 then c.fault s .misalign a.table false .node
    else
      let s := cancelFlights s fun f => f.wave == c.w && f.kind == .trace y
      let s := setRaySlot s c.w y { RaySlot.empty with args := some a, finished := false, known := false }
      .ok (addFlight s (c.flight (.trace y) none [] [] false true))

/-- TRES (R286): the results of its lanes, pending while the traversal runs; a ray's fault is raised here, and a later TRES of that lane
traces the ray again, which raises DESC while the context is not loaded. A node on a host-owned page parks it for migration (R164, R320); where
the host is not asked, and behind a marker (R303), it waits (log 18). -/
def execTres (x : KWord) (s : State) : Host.Outcome State Fault Refusal :=
  issue s (.tres x) fun s c =>
    let y := x.y.toNat
    if (raySlot c.v y).args.isNone then c.fault s .desc
    else match knowSlot s c.w c.v y with
      | .error (.hole pa) => .stuck (.physicalHole pa)
      | .error (.migrate va) => c.migrateAll s va false .node
      | .error _ => .hold
      | .ok s =>
        let k := raySlot (c.wave s) y
        let fs := (k.faults.filter fun f => c.act.getLsbD f.lane)
          ++ (lanesOf (c.act &&& k.again)).map fun l => laneFault l .desc
        let bad := maskOfList (fs.map (·.lane))
        let go := (lanesOf c.act).filter fun l => !bad.getLsbD l
        let res := regResults x.d.toNat (go.map fun l => (l, (k.result[l]?.getD (Vector.replicate 4 0)).toList))
        let s := setRaySlot s c.w y { k with faults := k.faults.filter fun f => !bad.getLsbD f.lane, again := k.again ||| bad }
        let s := if go.isEmpty then s else addFlight s (c.flight .tres none (quadRegs x.d) res true false)
        .done s { Stops.none with faults := fs }

end Sys2Proof.Machine
end

