-- ==== Sys2Proof/Machine/Events.lean ====
section
/-! DEFINITION. What every step that is not an instruction word shares: a step that the state gives no occurrence, and what follows a
step (95_what_each_step_holds). -/

namespace Sys2Proof.Machine

/-- A step that has no occurrence in the state changes nothing (log 4). -/
def notNow (s : State) : Host.Outcome State Fault Refusal := .next s

/-- The state after a step that may change a wave: its flags, joins, barriers and pairing are settled. -/
def afterWave (s : State) (w : Nat) : Host.Outcome State Fault Refusal := .next (bump (settle s w))

/-- The state after a step of the device: pairs are settled and waiting words may be tried again. -/
def afterStep (s : State) : Host.Outcome State Fault Refusal := .next (bump (pruneRunning (settlePairs s)))

/-- Settles every live wave. -/
def settleAll (s : State) : State := (List.range s.waves.length).foldl settle s

/-- A step that acts on one live wave. -/
def onLive (s : State) (w : Nat) (f : Wave → Host.Outcome State Fault Refusal) : Host.Outcome State Fault Refusal :=
  match s.waves[w]? with
  | some v => if v.phase = .live then f v else notNow s
  | none => notNow s

end Sys2Proof.Machine
end

