-- ==== Sys2Proof/Machine/Darners.lean ====
section
/-! DEFINITION. What the version directory and the home slices do on their own: the commit of an atomic region (10 R257, R259), the
deferred effects of a keep into the root (R248), reconciliation (R236, R241), eviction of partial sums (07 R177, 12 R304). -/

namespace Sys2Proof.Machine

/-! ### The commit of an atomic region -/

/-- The value at a slot's load address in a lane now, in the ply of the load (R243, R257). -/
def freshAt (s : State) (v : Wave) (r : Region) (slot lane : Nat) : Word :=
  match (r.slots.getD slot []).find? fun p => p.1 == lane with
  | none => 0
  | some (_, _, pa, q) => BitVec.ofNat 32 (leNat (readBytes s v.hank q pa 4))

/-- The first load of a region whose bytes are poisoned now, by its virtual address (R422). -/
def poisonedSlot (s : State) (v : Wave) (r : Region) : Option Nat :=
  (r.slots.flatten.find? fun p => (poisonOfRead s v.hank p.2.2.2 p.2.2.1 4).isSome).map fun p => p.2.1

/-- Whether a constraint gives its recorded result for a fresh value (R257). -/
def LaneCond.holds (k : LaneCond) (fresh : Word) : Bool :=
  let x := (fresh + k.c).toNat
  condHolds 32 k.cond k.unsigned (if k.lhs then x else k.other.toNat) (if k.lhs then k.other.toNat else x) == k.result

/-- The index of the first constraint that fails (R257). -/
def failedCond (s : State) (v : Wave) (r : Region) : Option Nat :=
  (r.conds.filter fun k => !k.holds (freshAt s v r k.slot k.lane)).foldl
    (fun o k => some (match o with | some i => min i k.idx | none => k.idx)) none

/-- Folds the lines that a region tracks, as the accesses of its commit do (R177, R257), once the engine commands that own them have released
them (R357). -/
def foldTracked (s : State) (r : Region) : State :=
  r.lines.foldl (fun s t => foldRange s (128 * t.line) 128) (releaseLines s (r.lines.map (·.line)))

/-- The bytes a buffered store writes at a plain or a repaired commit (R257). -/
def storeData (s : State) (v : Wave) (r : Region) (repair : Bool) (t : RegionStore) : Bytes :=
  match t.sym with
  | some (slot, c) => if repair then natLe 4 (freshAt s v r slot t.lane + c).toNat else t.data
  | none => t.data

/-- What a store of a commit waits for, noted (R164, R311, R394): a page that a move holds, or one that is with the host. -/
def commitWaits (s : State) (v : Wave) (q va n : Nat) : Option State :=
  match translate s v.hank va n true with
  | .migrate => some (if pageAsked s v.hank va then s else requestPage s v.hank va true)
  | .ok (.mem l) => if writePly s v.hank q va l = .wait then some (noteMove s v.hank l) else none
  | _ => none

/-- Writes the buffered stores in program order, each in the ply in which it issued (R243). When one of them may not be written nothing is
(R257, log 19), and what is left of `s0` is the count of a failing gauge (R424). -/
def commitStores (w : Nat) (v : Wave) (s0 : State) : List (RegionStore × Bytes) → State → Except State State
  | [], s => .ok s
  | (t, bs) :: ts, s =>
    match translate s v.hank t.va bs.length true with
    | .ok (.mem l) =>
      match writePly s v.hank t.ply t.va l with
      | .to q =>
        (match gaugeCheck s w v.hank l bs true with
         | (_, none) => .error (gaugeCheck s0 w v.hank l bs true).1
         | (s, some bs) => commitStores w v s0 ts (writeLeaf s (some w) v.hank q l bs))
      | _ => .error s0
    | _ => .error s0

/-- What a commit writes to registers: D in the lanes of AREND, and, when it repairs, the tagged registers (R257). -/
def commitRegs (s : State) (v : Wave) (r : Region) (repair : Bool) (ds : List RegResult) : List RegResult :=
  ds.map (fun x => { x with val := if repair then 1 else 0 })
    ++ (if repair then r.tags.map fun t => { reg := t.reg, lane := t.lane, val := freshAt s v r t.slot t.lane + t.c } else [])

/-- Writes results into a wave's registers. -/
def writeResults (v : Wave) (res : List RegResult) : Wave :=
  res.foldl (fun v x => v.setReg x.reg (mergeRow (maskOfList [x.lane]) (v.reg x.reg) (Word.splat x.val))) v

/-- The results that an AREND waits for. -/
def arendResults (s : State) (w : Nat) : List RegResult :=
  (s.flights.filter fun f => f.wave == w && f.kind == .commit && f.wb).flatMap (·.res)

/-- A region commits (R257, R259): its stores and registers are written, and `%ars` says so. While one of its pages is being moved it waits
(R164). -/
def commitRegion (s : State) (w : Nat) (v : Wave) (r : Region) (repair : Bool) : State :=
  let regs := commitRegs s v r repair (arendResults s w)
  match r.stores.findSome? fun t => commitWaits s v t.ply t.va t.data.length with
  | some u => u
  | none =>
    match commitStores w v s (r.stores.map fun t => (t, storeData s v r repair t)) s with
    | .error u => abortRegion u w 6 0 0
    | .ok s =>
      endRegionFlights (modWave s w fun v =>
        { writeResults v regs with region := none, ars := (v.ars &&& 0x80) ||| (if repair then 0x30 else 0x20) }) w

/-- The CONSUMED record of a repair that meets poison (R422, R428). -/
def repairRecord (s : State) (v : Wave) (va : Nat) : State :=
  errRecord s 2 (coreField v.core) v.hank 2 (BitVec.ofNat 64 va) (BitVec.ofNat 64 v.waveid.toNat)

/-- The darners act on a region whose tracked lines are folded (R257). -/
def darn (s : State) (w : Nat) (v : Wave) (r : Region) : State :=
  if !(r.lines.any fun t => t.changed) then commitRegion s w v r false
  else if !(v.ars &&& arsConcrete == 0) then abortRegion s w 1 0 0
  else match poisonedSlot s v r, failedCond s v r with
    | some va, _ => abortRegion (repairRecord s v va) w 10 0 0
    | none, some i => abortRegion s w 2 0 i
    | none, none => commitRegion s w v r true

/-- Whether a result of the region is still to be written into a tagged register. -/
def tagsPending (s : State) (w : Nat) (r : Region) : Bool :=
  s.flights.any fun f => f.wave == w && f.wb && f.kind != .commit && !f.isAccess && f.regs.any fun k => r.tags.any fun t => t.reg == k

/-- DARNER_COMMIT (R257): a region whose AREND waits commits, is repaired, or aborts. Folding its lines is a write like any other, so the
darners look at what it changed. -/
def execDarnerCommit (w : Nat) (s : State) : Host.Outcome State Fault Refusal :=
  onLive s w fun v =>
    match v.region with
    | none => notNow s
    | some r =>
      if !r.committing || tagsPending s w r then notNow s
      else
        let u := foldTracked s r
        match (u.waves[w]?).bind fun v => v.region.map fun r => (v, r) with
        | none => notNow s
        | some (v, r) =>
          let t := darn u w v r
          if t = s then notNow s else afterWave t w

/-! ### Deferred effects -/

/-- How the issue of a deferred entry goes (R248): it is done or dropped; its target has no room; a page is with the host, or being moved. -/
inductive Deferred where
  | done (s : State)
  | waits
  | page (va : Nat)
  | move (l : Leaf)
  | hole (pa : Nat)

/-- A DEFERDROP record (R428). -/
def deferDrop (s : State) (h ply op cls : Nat) (ad : DWord) : State :=
  errRecord s 1 0xFF h 10 ad (BitVec.ofNat 64 (cls * 2 ^ 16 + op * 2 ^ 8 + ply))

/-- What a stop makes of a deferred entry: it is dropped on a fault (R248), and waits with its page otherwise. -/
def EngineStop.defers (drop : State) : EngineStop → Deferred
  | .fault _ _ _ _ _ => .done drop
  | .migrate va _ _ => .page va
  | .hold => .waits
  | .move l => .move l
  | .hole pa => .hole pa

/-- A deferred QPUSH whose queue is valid (R248, R280, R281). -/
def pushDeferred (s : State) (h : Nat) (drop : State) (d : QueueDesc) (pay : DWord) (n : Nat) : Deferred :=
  match queuePlace s h (d.entry d.tail) 16 (d.allows h) with
  | .error e => e.defers drop
  | .ok l =>
    if (xferPages pay n).any (xferBad s h d.src) || (n != 0 && d.kind != 1) then .done drop
    else if d.used = d.size then .waits
    else
      match pushEntry (releaseLines s (d.place.lines ++ l.lines)) none h 0 d l pay n with
      | .error (.fault _) => .done drop
      | .error (.move l) => .move l
      | .ok s => .done ((xferPages pay n).foldl (fun s p => giveHank s h d.dst p) s)

/-- A deferred QPUSH (R248). -/
def issueQpush (s : State) (h ply : Nat) (desc pay : DWord) (n : Nat) : Deferred :=
  let drop := deferDrop s h ply 0x16 7 desc
  match readQueue s h 0 desc.toNat (fun d => d.mayPush h) with
  | .error e => e.defers drop
  | .ok r => if r.stops.isEmpty then pushDeferred r.s h drop r.desc pay n else .done drop

/-- A lane of a deferred atomic that cannot be issued now. -/
def laneWaits (s : State) (h n va : Nat) : Option Deferred :=
  match translate s h va n true with
  | .migrate => some (.page va)
  | .wait => some .waits
  | .hole pa => some (.hole pa)
  | .fault _ _ => none
  | .ok (.win t off) => if markerBlocks s t off n true then some .waits else none
  | .ok (.mem l) => if wpHolds s h l then some (.move l) else none

/-- One lane of a deferred atomic (R248): performed in the root, or dropped with a record that names its page. -/
def atomLane (h ply op n : Nat) (s : State) (va : Nat) (f : Nat → Option Nat) : State :=
  match translate s h va n true with
  | .ok (.mem l) => (rmwLeaf (foldRange (releaseLines s [lineOf l.pa]) l.pa n) none h 0 0 l n f false).1
  | .ok (.win t off) =>
    (match f (leNat (scratchRead s t off n)) with | some x => scratchWrite s t off (natLe n x) | none => s)
  | _ => deferDrop s h ply op 3 (BitVec.ofNat 64 (va / 2 ^ 16 * 2 ^ 16))

/-- A deferred ATOM or ACAS (R248): lane by lane, ascending. -/
def issueAtomic (s : State) (h ply op n : Nat) (ls : List (Nat × (Nat → Option Nat))) : Deferred :=
  match ls.findSome? fun p => laneWaits s h n p.1 with
  | some r => r
  | none => .done (ls.foldl (fun s p => atomLane h ply op n s p.1 p.2) s)

/-- Issues one deferred entry to its target (R248). -/
def issueEntry (s : State) (h : Nat) (e : LogEntry) : Deferred :=
  match e.kind with
  | .flip surf ctl =>
    let n := ctl.toNat % 4
    if !headOn s h n then .done (deferDrop s h e.ply 0x19 7 surf)
    else if 16 ≤ (headOf s n).flips.length then .waits
    else .done (joinFlip s n surf (ctl.getLsbD 2))
  | .qpush desc pay n => issueQpush s h e.ply desc pay n
  | .atom op var n _ ls => issueAtomic s h e.ply 0x07 n (ls.map fun p => (p.2.1.toNat, fun old => some (atomOp op var n old p.2.2.toNat)))
  | .acas n _ ls =>
    issueAtomic s h e.ply 0x08 n (ls.map fun p => (p.2.1.toNat, fun old => if old = p.2.2.1.toNat then some p.2.2.2.toNat else none))
  | .msub blk sq => if 32 ≤ (mediaOf s sq).queue.length then .waits else .done (joinMedia s sq h blk.toNat)

/-- DEFERRED_ENTRY_ISSUE (R248): the first entry goes to its target, and is performed (R299). -/
def execDeferredEntryIssue (h : Nat) (s : State) : Host.Outcome State Fault Refusal :=
  match (hankOf s h).draining with
  | [] => notNow s
  | e :: es =>
    match issueEntry s h e with
    | .waits => notNow s
    | .hole pa => .fault (.physicalHole pa)
    | .page va => if pageAsked s h va then notNow s else afterStep (requestPage s h va true)
    | .move l => if (hankOf s h).moves.contains (l.page, l.sh) then notNow s else afterStep (noteMove s h l)
    | .done t =>
      let t := endDeferred (modHank t h fun k => { k with draining := es }) [e]
      afterStep (settleAll (if es = [] then endKeep t h else t))

/-- PLY_RECONCILE (R236, R241): the ply's number and its version slots are free again. -/
def execPlyReconcile (h p : Nat) (s : State) : Host.Outcome State Fault Refusal :=
  if (hankOf s h).recon.any fun r => r.1 == p then
    afterStep (modHank s h fun k => { k with recon := k.recon.filter fun r => r.1 != p })
  else notNow s

/-- PARTIAL_EVICTION (R177, R304): a partial line is added into the home value. -/
def execPartialEviction (cl line : Nat) (s : State) : Host.Outcome State Fault Refusal :=
  match s.partials.find? fun p => p.cluster == cl && p.line == line with
  | none => notNow s
  | some p =>
    afterStep (evictPartial { s with partials := s.partials.filter fun q => !(q.cluster == cl && q.line == line) } p)

end Sys2Proof.Machine
end

