-- ==== Sys2Proof/Machine/Approx.lean ====
section
/-! DEFINITION. The approximated functions (04 R110, 06 R145): each returns some FP32 value within its bound of the exact result. Which
one is free (Config.approxPick, log 7). The exact result is a dyadic number m · 2^e: exact for FRCP, and elsewhere computed by
series to about 100 bits, far below the place at which the bound could change (log 7). -/

namespace Sys2Proof.Machine

/-- Bits after the point in the series. -/
def fixP : Nat := 112
/-- ln 2, 2π and log2 e with 112 bits after the point. -/
def fixLn2 : Nat := 3599025928123676973540407451845618
def fixTwoPi : Nat := 32624163332060752803334972325496544
def fixLog2e : Nat := 7490900928631539394323262730195514

/-- Σ u^k / ((g+1)(g+2)…(g+2k)), with signs when `alt`: sin t / t and cos t for g = 1 and 0, u = t²; `n` terms from term k. -/
def pairSeries (u : Nat) (g : Nat) (alt : Bool) : Nat → Nat → Int → Int
  | 0, _, _ => 0
  | n + 1, k, term =>
    let next : Int := (term.toNat * u / 2 ^ fixP / ((g + 2 * k + 1) * (g + 2 * k + 2)) : Nat)
    (if alt && k % 2 == 1 then -term else term) + pairSeries u g alt n (k + 1) next

/-- e^t for 0 ≤ t < 1: Σ t^k / k!. -/
def expSeries (t : Nat) : Nat → Nat → Nat → Nat
  | 0, _, _ => 0
  | n + 1, k, term => term + expSeries t n (k + 1) (term * t / 2 ^ fixP / (k + 1))

/-- Σ z^(2k+1) / (2k+1): half of ln((1+z)/(1−z)). -/
def atanhSeries (z2 : Nat) : Nat → Nat → Nat → Nat
  | 0, _, _ => 0
  | n + 1, k, pow => pow / (2 * k + 1) + atanhSeries z2 n (k + 1) (pow * z2 / 2 ^ fixP)

/-- 2^f for 0 ≤ f < 1, both with 112 bits after the point. -/
def exp2Frac (f : Nat) : Nat := expSeries (f * fixLn2 / 2 ^ fixP) 40 0 (2 ^ fixP)

/-- 2^x for x = ±m · 2^e, as m' · 2^e', x being rounded down to 112 bits after the point. -/
def exp2Val (neg : Bool) (m : Nat) (e : Int) : Nat × Int :=
  let d := 2 ^ (-(e + fixP)).toNat
  let a : Nat := if 0 ≤ e + fixP then m * 2 ^ (e + fixP).toNat else (if neg then m + d - 1 else m) / d
  let x : Int := if neg then -(a : Int) else a
  (exp2Frac (x.emod (2 ^ fixP)).toNat, x.ediv (2 ^ fixP) - fixP)

/-- |log2 x| for x = m · 2^e, m ≥ 1, and its sign. -/
def log2Val (m : Nat) (e : Int) : Bool × Nat × Int :=
  let k : Int := e + bitLen m - 1
  let f := m * 2 ^ fixP / 2 ^ (bitLen m - 1)
  let z := (f - 2 ^ fixP) * 2 ^ fixP / (f + 2 ^ fixP)
  let l := 2 * atanhSeries (z * z / 2 ^ fixP) 40 0 z * fixLog2e / 2 ^ fixP
  let y : Int := k * 2 ^ fixP + l
  (decide (y < 0), y.natAbs, -(fixP : Int))

/-- sin 2πr for 0 < r ≤ 1/4 given as n · 2^g. -/
def sinQuarter (n : Nat) (g : Int) : Nat × Int :=
  let r : Nat := if 0 ≤ g + fixP then n * 2 ^ (g + fixP).toNat else n / 2 ^ (-(g + fixP)).toNat
  if r ≤ 2 ^ (fixP - 3) then
    let t := r * fixTwoPi / 2 ^ fixP
    (n * (fixTwoPi * (pairSeries (t * t / 2 ^ fixP) 1 true 24 0 (2 ^ fixP)).toNat / 2 ^ fixP), g - fixP)
  else
    let t := (2 ^ (fixP - 2) - r) * fixTwoPi / 2 ^ fixP
    (min (2 ^ fixP - 1) (pairSeries (t * t / 2 ^ fixP) 0 true 24 0 (2 ^ fixP)).toNat, -(fixP : Int))

/-- tanh x for x = m · 2^e between 0 and 9. -/
def tanhVal (m : Nat) (e : Int) : Nat × Int :=
  let x : Nat := if 0 ≤ e + fixP then m * 2 ^ (e + fixP).toNat else m / 2 ^ (-(e + fixP)).toNat
  if x ≤ 2 ^ (fixP - 1) then
    let u := x * x / 2 ^ fixP
    (m * min (2 ^ fixP - 1) ((pairSeries u 1 false 30 0 (2 ^ fixP)).toNat * 2 ^ fixP / (pairSeries u 0 false 30 0 (2 ^ fixP)).toNat),
      e - fixP)
  else
    let t := 2 * x * fixLog2e / 2 ^ fixP
    let p := exp2Frac (t % 2 ^ fixP) * 2 ^ (t / 2 ^ fixP)
    ((p - 2 ^ fixP) * 2 ^ fixP / (p + 2 ^ fixP), -(fixP : Int))

/-- Whether the magnitude code lies within k ulp of m · 2^e, an ulp being that of the exact result (R110). -/
def withinUlp (code k m : Nat) (e : Int) : Bool :=
  match fp32.read code with
  | .fin _ n g =>
    let u := lastPlace m e 23 (-126)
    let q := min (min e g) u
    decide ((scaled false n g q - scaled false m e q).natAbs ≤ k * 2 ^ (u - q).toNat)
  | _ => false

/-- The FP32 magnitudes within k ulp of m · 2^e. -/
def candidates (k m : Nat) (e : Int) : List Nat :=
  let c := (roundMag .rtz false m e 23 (-126)).1
  ((List.range (2 * k + 3)).map fun j => c + j - (k + 1)).dedup.filter fun x => decide (x < fp32.infCode) && withinUlp x k m e

/-- An approximated result: ∞ where the exact result rounds beyond the range, else one of the values within the bound (log 7); NX
unless it equals the exact result, UF and the flush of a subnormal as R91 and R92 give. `fn` numbers the function. -/
def approxResult (fn : Nat) (fcr : BitVec 9) (a : Nat) (k : Nat) (neg : Bool) (m : Nat) (e : Int) : Nat × BitVec 9 :=
  if fp32.infCode ≤ (roundMag .rne neg m e 23 (-126)).1 then (fp32.sign neg fp32.infCode, fOF ||| fNX)
  else
    let cs := candidates k m e
    let code := (cs[Config.approxPick fn (BitVec.ofNat 32 a) % max 1 cs.length]?).getD (roundMag .rne neg m e 23 (-126)).1
    let inexact := !withinUlp code 0 m e
    let tiny := decide (code < 2 ^ 23)
    if fcrFtz fcr && tiny && code != 0 then (fp32.sign neg 0, fUF ||| fNX)
    else (fp32.sign neg code, (if inexact then fNX else 0) ||| (if inexact && tiny then fUF else 0))

/-- An approximated result that is no dyadic number: its series m · 2^e is rounded down, so that it lies above it (log 7). -/
def approxBetween (fn : Nat) (fcr : BitVec 9) (a : Nat) (k : Nat) (neg : Bool) (m : Nat) (e : Int) : Nat × BitVec 9 :=
  approxResult fn fcr a k neg (2 * m + 1) (e - 1)

/-- NaN from a source that is none (R145): the canonical NaN with NV. -/
def invalidResult : Nat × BitVec 9 := (fp32.qnan, fNV)

/-- FRCP (R145). -/
def frcpOp (fcr : BitVec 9) (a : Nat) : Nat × BitVec 9 :=
  match fp32.readZ (fcrFtz fcr) a with
  | .fin neg m e =>
    if m = 0 then (fp32.sign neg fp32.infCode, fDZ)
    else match divVal neg 1 0 m e 80 with
      | .fin _ n g => approxResult 0 fcr a 1 neg n g
      | v => fp32.write .rne fcr [] v
  | .inf neg => (fp32.sign neg 0, 0)
  | v => fp32.write .rne fcr [v] v

/-- FRSQ (R145). -/
def frsqOp (fcr : BitVec 9) (a : Nat) : Nat × BitVec 9 :=
  match fp32.readZ (fcrFtz fcr) a with
  | .fin neg m e =>
    if m = 0 then (fp32.sign neg fp32.infCode, fDZ)
    else if neg then invalidResult
    else match sqrtVal m e 90 with
      | .fin _ r g =>
        match divVal false 1 0 r g 90 with
        | .fin _ n h => approxResult 1 fcr a 1 false n h
        | v => fp32.write .rne fcr [] v
      | v => fp32.write .rne fcr [] v
  | .inf false => (0, 0)
  | .inf true => invalidResult
  | v => fp32.write .rne fcr [v] v

/-- FEXP2 (R145): exact for whole a when 2^a is representable. -/
def fexp2Op (fcr : BitVec 9) (a : Nat) : Nat × BitVec 9 :=
  match fp32.readZ (fcrFtz fcr) a with
  | .fin neg m e =>
    let c := cutAt m e 0
    if 1024 ≤ c.1 then (if neg then approxBetween 2 fcr a 2 false 1 (-1000) else (fp32.infCode, fOF ||| fNX))
    else if c.2.1 = 0 then
      (if neg && decide (149 < c.1) then approxBetween 2 fcr a 2 false 1 (-(c.1 : Int))
       else fp32.round .rne (fcrFtz fcr) false 1 (if neg then -(c.1 : Int) else c.1))
    else
      let y := exp2Val neg m e
      approxBetween 2 fcr a 2 false y.1 y.2
  | .inf neg => (if neg then 0 else fp32.infCode, 0)
  | v => fp32.write .rne fcr [v] v

/-- FLOG2 (R145): exact when a is a power of 2. -/
def flog2Op (fcr : BitVec 9) (a : Nat) : Nat × BitVec 9 :=
  match fp32.readZ (fcrFtz fcr) a with
  | .fin neg m e =>
    if m = 0 then (fp32.sign true fp32.infCode, fDZ)
    else if neg then invalidResult
    else if popcount 24 m = 1 then
      let k : Int := e + bitLen m - 1
      fp32.round .rne false (decide (k < 0)) k.natAbs 0
    else
      let y := log2Val m e
      approxBetween 3 fcr a 2 y.1 y.2.1 y.2.2
  | .inf false => (fp32.infCode, 0)
  | .inf true => invalidResult
  | v => fp32.write .rne fcr [v] v

/-- A finite x taken modulo 1 in units of 2^-152: every FP32 value is a whole number of them. -/
def turns (neg : Bool) (m : Nat) (e : Int) : Nat :=
  let t := m * 2 ^ (e + 152).toNat % 2 ^ 152
  if neg then (2 ^ 152 - t) % 2 ^ 152 else t

/-- sin 2πt for t turns (units of 2^-152) that is no multiple of a quarter: sign and magnitude. -/
def sinTurns (t : Nat) : Bool × Nat × Int :=
  let h := t % 2 ^ 151
  let r := if h ≤ 2 ^ 150 then h else 2 ^ 151 - h
  (decide (2 ^ 151 ≤ t), sinQuarter r (-152))

/-- FSIN (R145): zero, 1 and −1 exactly at multiples of a quarter turn. -/
def fsinOp (fcr : BitVec 9) (a : Nat) : Nat × BitVec 9 :=
  match fp32.readZ (fcrFtz fcr) a with
  | .fin neg m e =>
    let t := turns neg m e
    if t % 2 ^ 151 = 0 then (fp32.sign neg 0, 0)
    else if t = 2 ^ 150 then (0x3F800000, 0)
    else if t = 3 * 2 ^ 150 then (0xBF800000, 0)
    else
      let y := sinTurns t
      approxBetween 4 fcr a 2 y.1 y.2.1 y.2.2
  | .inf _ => invalidResult
  | v => fp32.write .rne fcr [v] v

/-- FCOS (R145): +0, 1 and −1 exactly at multiples of a quarter turn. -/
def fcosOp (fcr : BitVec 9) (a : Nat) : Nat × BitVec 9 :=
  match fp32.readZ (fcrFtz fcr) a with
  | .fin neg m e =>
    let t := turns neg m e
    if t = 0 then (0x3F800000, 0)
    else if t = 2 ^ 151 then (0xBF800000, 0)
    else if t % 2 ^ 150 = 0 then (0, 0)
    else
      let y := sinTurns ((t + 2 ^ 150) % 2 ^ 152)
      approxBetween 5 fcr a 2 y.1 y.2.1 y.2.2
  | .inf _ => invalidResult
  | v => fp32.write .rne fcr [v] v

/-- FTANH (R145): ±1 for |a| ≥ 9, inexact there when a is finite. -/
def ftanhOp (fcr : BitVec 9) (a : Nat) : Nat × BitVec 9 :=
  match fp32.readZ (fcrFtz fcr) a with
  | .fin neg m e =>
    if m = 0 then (fp32.sign neg 0, 0)
    else if 9 ≤ (cutAt m e 0).1 then (fp32.sign neg 0x3F800000, fNX)
    else
      let y := tanhVal m e
      approxBetween 6 fcr a 2 neg y.1 y.2
  | .inf neg => (fp32.sign neg 0x3F800000, 0)
  | v => fp32.write .rne fcr [v] v

end Sys2Proof.Machine
end

