-- ==== Sys2Proof/Machine/MatrixWords.lean ====
section
/-! DEFINITION. The X class (09_matrix_and_yarns R223-R234): the needle, MMA and MMAS (04 R106, R107), accumulator transfers, MSTAT and
MEPI. Operations act at issue, in issue order (R226); an operation stays in flight until ME_OPERATION_COMPLETE. -/

namespace Sys2Proof.Machine

/-! ### The needle and the queue -/

/-- Whether the wave holds its bay's needle (R223). -/
def holdsNeedle (s : State) (c : Ctx) : Bool := (bayOf s c.v.core c.v.bay).holder == some c.w

/-- Operations of a bay's ME in progress or queued (R226). -/
def meBusy (s : State) (core bay : Nat) : Nat :=
  (s.flights.filter fun f => f.kind == .me && (match s.waves[f.wave]? with | some v => v.core == core && v.bay == bay | none => false)).length

/-- Puts an operation into the ME (R226). -/
def addMe (s : State) (c : Ctx) : State := addFlight s { c.flight .me none [] [] false true with tok := none }

/-- A word that needs the needle and a place in the ME's queue (R223, R226). -/
def withNeedle (s : State) (c : Ctx) (k : Bay → Res) : Res :=
  if !holdsNeedle s c then c.fault s .needle
  else if 2 ≤ meBusy s c.v.core c.v.bay then .hold
  else k (bayOf s c.v.core c.v.bay)

/-- Changes the wave's bay. -/
def Ctx.modBay (c : Ctx) (s : State) (f : Bay → Bay) : State := Machine.modBay s c.v.core c.v.bay f

/-- An accumulator element (R25). -/
def Bay.acc (b : Bay) (t i n : Nat) : Word := ((b.accs[t]?.bind (·[i]?)).bind (·[n]?)).getD 0

/-- A row of a tile replaced. -/
def Bay.setRow (b : Bay) (t i : Nat) (f : Nat → Word) : Bay :=
  { b with accs := b.accs.setIfInBounds t ((b.accs[t]?.getD (Vector.replicate 8 (Vector.replicate 32 0))).setIfInBounds i (Vector.ofFn fun n => f n.val)) }

/-- The rows of a tile in the active lanes replaced. -/
def Ctx.setRows (c : Ctx) (b : Bay) (t : Nat) (f : Nat → Nat → Word) : Bay := (lanesOf c.act).foldl (fun b i => b.setRow t i (f i)) b

/-- Clears the poison of accumulator granules of the active rows: columns 4q to 4q + 3 for q in `qs`. -/
def Ctx.clearAcc (c : Ctx) (s : State) (t : Nat) (qs : List Nat) : State :=
  if s.poison.isEmpty then s
  else (lanesOf c.act).foldl (fun s i => qs.foldl (fun s q => clearPoison s (.acc c.v.core c.v.bay t i q)) s) s

/-- The poison code of an accumulator element's granule. -/
def Ctx.accPoison (c : Ctx) (s : State) (t i q : Nat) : Option Nat := poisonAt s (.acc c.v.core c.v.bay t i q)

/-- NTAKE (R225). -/
def execNtake (x : XWord) (s : State) : Host.Outcome State Fault Refusal :=
  issue s (.ntake x) fun s c =>
    let b := bayOf s c.v.core c.v.bay
    if b.holder = some c.w then .ok s
    else if b.holder = none ∧ b.fifo = [] then .ok (c.modBay s fun b => { b with holder := some c.w })
    else .park (c.modBay s fun b => { b with fifo := if b.fifo.contains c.w then b.fifo else b.fifo ++ [c.w] }) .needle

/-- The waiter that NPASS with TO names (R225): of the same launch, parked at NTAKE in the bay. -/
def namedWaiter (s : State) (c : Ctx) (id : Word) : Option Nat :=
  (bayOf s c.v.core c.v.bay).fifo.find? fun w =>
    match s.waves[w]? with
    | some v => v.waveid == id && v.launch == c.v.launch && v.strands.any fun t => t.park == .needle
    | none => false

/-- NPASS (R225): it waits for the earlier operations of the ME. -/
def execNpass (x : XWord) (s : State) : Host.Outcome State Fault Refusal :=
  issue s (.npass x) fun s c =>
    if !holdsNeedle s c then c.fault s .needle
    else if meBusy s c.v.core c.v.bay ≠ 0 then .hold
    else
      .ok (passNeedle s c.v.core c.v.bay (if x.flag then namedWaiter s c (c.u x.vreg) else none))

/-! ### Accumulator transfers and status -/

/-- AZERO (R230). -/
def execAzero (x : XWord) (s : State) : Host.Outcome State Fault Refusal :=
  issue s (.azero x) fun s c =>
    withNeedle s c fun _ =>
      .ok (addMe (c.clearAcc (c.modBay s fun b => c.setRows b x.acc.toNat fun _ _ => 0) x.acc.toNat (List.range 8)) c)

/-- The poison of AFILL's registers goes into the accumulators it writes (R421). -/
def fillPoison (s : State) (c : Ctx) (x : XWord) : State :=
  let s := c.clearAcc s x.acc.toNat [2 * x.group, 2 * x.group + 1]
  if s.poison.isEmpty then s
  else (lanesOf c.act).foldl (fun s i => (List.range 8).foldl (fun s j =>
    match poisonAt s (regGranule c.w c.acc (x.vreg + j) i) with
    | some d => setPoison s (.acc c.v.core c.v.bay x.acc.toNat i (2 * x.group + j / 4)) d
    | none => s) s) s

/-- AFILL (R230): eight registers into columns 8G to 8G + 7. -/
def execAfill (x : XWord) (s : State) : Host.Outcome State Fault Refusal :=
  issue s (.afill x) fun s c =>
    withNeedle s c fun b =>
      let g := x.group
      let f := fun i n => if n / 8 = g then Row.lane (c.reg (x.vreg + n % 8)) i else b.acc x.acc.toNat i n
      .ok (addMe (fillPoison (c.modBay s fun b => c.setRows b x.acc.toNat f) c x) c)

/-- Poisoned accumulator granules make the registers ADRAIN writes poisoned (R421). -/
def drainPoison (s : State) (c : Ctx) (x : XWord) : State :=
  let s := clearRegs s c (octRegs x.vreg)
  if s.poison.isEmpty then s
  else (lanesOf c.act).foldl (fun s i => (List.range 8).foldl (fun s j =>
    match c.accPoison s x.acc.toNat i (2 * x.group + j / 4) with
    | some d => setPoison s (regGranule c.w c.acc (x.vreg + j) i) d
    | none => s) s) s

/-- ADRAIN (R230): a long-latency read of columns 8G to 8G + 7. -/
def execAdrain (x : XWord) (s : State) : Host.Outcome State Fault Refusal :=
  issue s (.adrain x) fun s c =>
    withNeedle s c fun b =>
      let res := (lanesOf c.act).map fun i => (i, (List.range 8).map fun j => b.acc x.acc.toNat i (8 * x.group + j))
      let s := addMe (drainPoison s c x) c
      .ok (addFlight s (c.flight .access none (octRegs x.vreg) (regResults x.vreg res) true false))

/-- MSTAT (R231): the flags to VREG; with CLR they are then cleared. -/
def execMstat (x : XWord) (s : State) : Host.Outcome State Fault Refusal :=
  issue s (.mstat x) fun s c =>
    withNeedle s c fun b =>
      let res := (lanesOf c.act).map fun i => (i, [b.mstat.setWidth 32])
      let s := if x.flag then c.modBay s fun b => { b with mstat := 0 } else s
      .ok (addFlight (addMe s c) (c.flight .access none [x.vreg] (regResults x.vreg res) true false))

/-! ### MMA and MMAS -/

/-- Row r of a stage as a bit string (R207). -/
def stageRow (y : Yarn) (d : Bytes) (r : Nat) : Nat := leNat ((d.drop (r * y.rowBytes)).take y.rowBytes)

/-- Element j of a row of `w`-bit elements. -/
def rowElem (w row j : Nat) : Nat := row / 2 ^ (w * j) % 2 ^ w

/-- The value of an element of a float class (R59, R97). -/
def elemVal (y : Yarn) (code : Nat) : Val :=
  match y.ecls with
  | 0 => fp16.read code
  | 1 => bf16.read code
  | _ => (Nfmt.of y.nfmt).read code

/-- The mask of column n, group g in a metadata stage (R105). -/
def metaMask (md : Nat) (n g : Nat) : Nat := md / 2 ^ (12 * (8 * n + g)) % 2 ^ 12

/-- Places the stored elements of a column by its masks (R104): element k of the column, or none where k is not marked. -/
def placeStored (md n : Nat) : List Nat → List Nat → List (Option Nat)
  | [], _ => []
  | k :: ks, es =>
    if bitN (metaMask md n (k / 12)) (k % 12) then
      match es with
      | e :: es => some e :: placeStored md n ks es
      | [] => none :: placeStored md n ks []
    else none :: placeStored md n ks es

/-- The 96 elements of column n of a B stage (R207). -/
def columnElems (y : Yarn) (d : Bytes) (md n : Nat) : List (Option Nat) :=
  let w := classWidth y.ecls
  let row := stageRow y d n
  if y.spn = 0 then (List.range 96).map fun k => some (rowElem w row k)
  else placeStored md n (List.range 96) ((List.range (8 * spnCount y.spn)).map fun j => rowElem w row j)

/-- The exact sum of the products of a block (R106): none when it is NaN; a block without products is +0. -/
def blockSum : Option (Option Val) → List (Val × Option Val) → Option Val
  | acc, [] => acc.getD (some (.zero false))
  | acc, (_, none) :: ps => blockSum acc ps
  | acc, (a, some b) :: ps =>
    let p := a.mul b
    blockSum (some (match acc with | none => p | some q => q.bind fun u => p.bind fun v => u.add false v)) ps

/-- Adds one block to an accumulator (R106). -/
def addBlock (neg : Bool) (sA sB : Val) (acc : Nat) (ps : List (Val × Option Val)) : Nat :=
  let p := ((blockSum none ps).bind fun p => p.mul sA).bind fun p => p.mul sB
  match p with
  | none => fp32.qnan
  | some v => fp32.memAdd acc (fp32.write .rne 0 [] (if neg then v.negate else v)).1

/-- One element of a float MMA (R106): blocks 0, 1 and 2 in order. -/
def floatElem (neg : Bool) (sA sB : Nat → Val) (acc : Nat) (ps : List (Val × Option Val)) : Nat :=
  [0, 1, 2].foldl (fun acc k => addBlock neg (sA k) (sB k) acc ((ps.drop (32 * k)).take 32)) acc

/-- One element of an integer MMA (R107): the value and whether it left the INT32 range. -/
def intElem (neg sat : Bool) (acc : Word) (ps : List (Int × Option Int)) : Word × Bool :=
  let d : Int := (ps.map fun p => match p.2 with | some b => p.1 * b | none => 0).sum
  let t : Int := acc.toInt + (if neg then -d else d)
  let out := decide (t < -(2 ^ 31) ∨ 2 ^ 31 ≤ t)
  (if out && sat then (if t < 0 then BitVec.ofNat 32 0x80000000 else BitVec.ofNat 32 0x7FFFFFFF) else BitVec.ofInt 32 t, out)

/-- The yarns an MMA consults with the ROLE each must have (R228). -/
def consulted (v : Wave) (x : XWord) : List (Nat × Nat) :=
  let sc := fun (y : BitVec 3) => decide (2 ≤ (v.yarn y.toNat).ecls ∧ (v.yarn y.toNat).ecls ≤ 4) && (Nfmt.of (v.yarn y.toNat).nfmt).scale != 0
  [(x.ya.toNat, 0), (x.yb.toNat, 1)] ++ (if sc x.ya then [(x.ysa.toNat, 2)] else []) ++ (if sc x.yb then [(x.ysb.toNat, 3)] else [])
    ++ (if x.spn = 0 then [] else [(x.ym.toNat, 4)])

/-- The DESC check of an MMA (R228). -/
def mmaDesc (v : Wave) (x : XWord) : Bool :=
  ((consulted v x).any fun p => !(v.yarn p.1).isOpen || (v.yarn p.1).role != p.2)
    || (v.yarn x.ya.toNat).ecls != x.fa.toNat || (v.yarn x.yb.toNat).ecls != x.fb.toNat || (v.yarn x.yb.toNat).spn != x.spn.toNat

/-- The STREAM_DESYNC check of an MMA (R228). -/
def mmaDesync (v : Wave) (x : XWord) : Bool :=
  let a := ((v.yarn x.ya.toNat).stages.head?).map Stage.seq
  (consulted v x).any fun p =>
    let y := v.yarn p.1
    y.ended v || y.stages.isEmpty || (y.stages.head?).map Stage.seq != a

/-- The bytes of a yarn's head stage. -/
def Wave.headData (v : Wave) (y : BitVec 3) : Bytes := ((v.yarn y.toNat).stages.head?).elim [] Stage.data

/-- Whether an operand's yarn carries scales (R228). -/
def scaleOf (v : Wave) (y : BitVec 3) : Nat :=
  if 2 ≤ (v.yarn y.toNat).ecls ∧ (v.yarn y.toNat).ecls ≤ 4 then (Nfmt.of (v.yarn y.toNat).nfmt).scale else 0

/-- The scale bytes an MMA reads for A in its active rows and for B (R102, R229). -/
def scaleBytesA (c : Ctx) (x : XWord) : List Nat :=
  if scaleOf c.v x.ya = 0 then []
  else (lanesOf c.act).flatMap fun i => [0, 1, 2].map fun k => ((c.v.headData x.ysa).getD (3 * i + k) 0).toNat
def scaleBytesB (c : Ctx) (x : XWord) : List Nat :=
  if scaleOf c.v x.yb = 0 then [] else (List.range 96).map fun k => ((c.v.headData x.ysb).getD k 0).toNat

/-- Whether one operand's scale bytes have bit 7 set under SCALE 1 (R102). -/
def signedScales (v : Wave) (y : BitVec 3) (bs : List Nat) : Bool := bs.any fun b => scaleSign (scaleOf v y) b

/-- The SCALE_SIGN check of an MMA (R102, R228): no byte of a scale stage, an inactive row's not either. -/
def mmaScaleTrap (c : Ctx) (x : XWord) : Bool :=
  (signedScales c.v x.ya (scaleBytesA { c with act := 0xFF } x) && (Nfmt.of (c.v.yarn x.ya.toNat).nfmt).sctrap)
    || (signedScales c.v x.yb (scaleBytesB c x) && (Nfmt.of (c.v.yarn x.yb.toNat).nfmt).sctrap)

/-- The metadata stage as a bit string. -/
def mmaMeta (v : Wave) (x : XWord) : Nat := if x.spn = 0 then 0 else leNat (v.headData x.ym)

/-- The SPARSE_META check of an MMA (R105, R228). -/
def mmaSparse (v : Wave) (x : XWord) : Bool :=
  x.spn != 0 && (List.range 256).any fun k => popcount 12 (mmaMeta v x / 2 ^ (12 * k) % 2 ^ 12) != spnCount x.spn.toNat

/-- The poison of a stage (R211, R421): that of its fill, or of a granule of its buffer. -/
def Stage.poison (g : Stage) : Option Nat :=
  match g.st with
  | .poisoned d => some d
  | _ => g.marks.head?.map Prod.snd

/-- The poison an MMA would read (R228): a consulted stage, or the tile's active rows. -/
def mmaPoison (s : State) (c : Ctx) (x : XWord) : Option Nat :=
  ((consulted c.v x).findSome? fun p => ((c.v.yarn p.1).stages.head?).bind Stage.poison) <|>
  (if s.poison.isEmpty then none
   else (lanesOf c.act).findSome? fun i => (List.range 8).findSome? fun q => c.accPoison s x.acc.toNat i q)

/-- The new elements of row i of the tile (R106, R107), each with its OVF. -/
def mmaRow (c : Ctx) (b : Bay) (x : XWord) (cols : List (List (Option Nat))) (i : Nat) : List (Word × Bool) :=
  let ya := c.v.yarn x.ya.toNat
  let yb := c.v.yarn x.yb.toNat
  let row := stageRow ya (c.v.headData x.ya) i
  let as := (List.range 96).map fun k => rowElem (classWidth ya.ecls) row k
  let neg := x.neg == 1
  if 5 ≤ ya.ecls then
    let av := as.map fun e => signedN (classWidth ya.ecls) e
    cols.mapIdx fun n col =>
      intElem neg (x.sat == 1) (b.acc x.acc.toNat i n) (av.zip (col.map fun e => e.map fun e => signedN (classWidth yb.ecls) e))
  else
    let av := as.map (elemVal ya)
    let sA := fun k => scaleVal (scaleOf c.v x.ya) ((c.v.headData x.ysa).getD (3 * i + k) 0).toNat
    cols.mapIdx fun n col =>
      let sB := fun k => scaleVal (scaleOf c.v x.yb) ((c.v.headData x.ysb).getD (3 * n + k) 0).toNat
      (BitVec.ofNat 32 (floatElem neg sA sB (b.acc x.acc.toNat i n).toNat (av.zip (col.map fun e => e.map (elemVal yb)))), false)

/-- The MSTAT flags of an MMA (R229, R231): OVF, SCSIGN, NAN, INF. -/
def mmaFlags (c : Ctx) (x : XWord) (out : List (List (Word × Bool))) : BitVec 6 :=
  let isInt := decide (5 ≤ x.fa.toNat)
  let vals := out.flatten
  let any := fun (p : Val → Bool) => !isInt && vals.any fun e => p (fp32.read e.1.toNat)
  let inf := fun (v : Val) => match v with | .inf _ => true | _ => false
  (if vals.any Prod.snd then 1 else 0)
    ||| (if signedScales c.v x.ya (scaleBytesA c x) || signedScales c.v x.yb (scaleBytesB c x) then 2 else 0)
    ||| (if any Val.isNan then 4 else 0) ||| (if any inf then 8 else 0)

/-- Pops the head stages of the consulted yarns (R229). -/
def popStages (s : State) (c : Ctx) (x : XWord) : State :=
  (consulted c.v x).foldl (fun s p => modYarn s c.w p.1 fun y => { y with stages := y.stages.drop 1, popped := y.popped + 1 }) s

/-- MMA and MMAS (R228, R229): the checks in order, then the product. A head stage that still fills holds the word. -/
def mmaWord (s : State) (c : Ctx) (x : XWord) : Res :=
  if !holdsNeedle s c then c.fault s .needle
  else if mmaDesc c.v x then c.fault s .desc
  else if mmaDesync c.v x then c.fault s .streamDesync
  else if 2 ≤ meBusy s c.v.core c.v.bay then .hold
  else if (consulted c.v x).any fun p => ((c.v.yarn p.1).stages.head?).map Stage.st == some .filling then .hold
  else if mmaSparse c.v x then c.fault s .sparseMeta
  else if mmaScaleTrap c x then c.fault s .scaleSign
  else match mmaPoison s c x with
    | some d => c.fault s .uncorrectable 0 false .none d
    | none =>
      let b := bayOf s c.v.core c.v.bay
      let yb := c.v.yarn x.yb.toNat
      let cols := (List.range 32).map fun n => columnElems yb (c.v.headData x.yb) (mmaMeta c.v x) n
      let rows := (lanesOf c.act).map fun i => (i, mmaRow c b x cols i)
      let s := c.modBay s fun b =>
        let b := rows.foldl (fun b r => b.setRow x.acc.toNat r.1 fun n => (r.2.getD n (0, false)).1) b
        { b with mstat := b.mstat ||| mmaFlags c x (rows.map Prod.snd) }
      .ok (addMe (popStages s c x) c)

/-- MMA (R229). -/
def execMma (x : XWord) (s : State) : Host.Outcome State Fault Refusal := issue s (.mma x) fun s c => mmaWord s c x

/-- MMAS (R229). -/
def execMmas (x : XWord) (s : State) : Host.Outcome State Fault Refusal := issue s (.mmas x) fun s c => mmaWord s c x

/-! ### MEPI -/

/-- Fields of MEPI's control word (R232). -/
def mepiNfmt (w : Word) : Nat := bitsN w.toNat 31 12
def mepiScope (w : Word) : Nat := bitsN w.toNat 11 9
def mepiInt (w : Word) : Bool := w.getLsbD 8
def mepiScratch (w : Word) : Bool := w.getLsbD 7
def mepiOfmt (w : Word) : Nat := bitsN w.toNat 6 4
def mepiCb (w : Word) : Bool := w.getLsbD 3
def mepiCs (w : Word) : Bool := w.getLsbD 2
def mepiAct (w : Word) : Nat := bitsN w.toNat 1 0

/-- The DESC check of MEPI (R232). -/
def mepiDesc (w : Word) (col : Word) : Bool :=
  decide (6 ≤ mepiOfmt w)
    || decide ((if mepiScratch w then 2 else 5) < mepiScope w)
    || (if mepiOfmt w = 3 then !(Nfmt.of (mepiNfmt w)).valid 8 || (Nfmt.of (mepiNfmt w)).scale != 0 else mepiNfmt w != 0)
    || ((mepiCs w || mepiCb w) && col.toNat % 16 != 0)

/-- σ(y) = 1 / (1 + e^−y) times the magnitude m · 2^e of x, for |y| = a / 2^112 below 2^9, rounded down (R233; log 7); nearer to 0 than
2^-72 it is half of x, a little more or a little less. -/
def timesSigmoid (m : Nat) (e : Int) (negY : Bool) (a : Nat) : Nat × Int :=
  if a < 2 ^ 40 then (if negY then m * 2 ^ 61 - 1 else m * 2 ^ 61, e - 62) else
  let t := a * fixLog2e / 2 ^ fixP
  let big := exp2Frac (t % 2 ^ fixP) * 2 ^ (t / 2 ^ fixP)
  let den := big + 2 ^ fixP
  let num := if negY then 2 ^ fixP else big
  let k := 120 + bitLen den
  (m * (num * 2 ^ k / den), e - k)

/-- |x| with 112 bits after the point. -/
def fixMag (m : Nat) (e : Int) : Nat := if 0 ≤ e + fixP then m * 2 ^ (e + fixP).toNat else m / 2 ^ (-(e + fixP)).toNat

/-- The argument of the sigmoid: x for SiLU, 2 · 0.7978845608 · (x + 0.044715 · x³) for GELU-tanh (R233). -/
def sigmoidArg (gelu : Bool) (a : Nat) : Nat :=
  if gelu then
    let cube := a * a / 2 ^ fixP * a / 2 ^ fixP
    2 * 7978845608 * (a + cube * 44715 / 1000000) / 10000000000
  else a

/-- GELU-tanh and SiLU (R233): within 4 ulp of the exact function, which value is free (log 7). -/
def smoothAct (gelu : Bool) (x : Nat) : Nat :=
  match fp32.read x with
  | .fin neg m e =>
    if m = 0 then x
    else
      let fn := if gelu then 7 else 8
      -- from here the sigmoid is 1 or the result rounds to zero, whatever the other bits
      let y : Nat × Int :=
        if 8 ≤ e + bitLen m then (if neg then (1, -1000) else (m * 2 ^ 60 - 1, e - 60))
        else
          let a := sigmoidArg gelu (fixMag m e)
          if 2 ^ (fixP + 8) ≤ a then (if neg then (1, -1000) else (m * 2 ^ 60 - 1, e - 60)) else timesSigmoid m e neg a
      (approxBetween fn 0 x 4 neg y.1 y.2).1
  | .inf neg => if neg then 0x80000000 else x
  | _ => fp32.qnan

/-- The activations (R233); ReLU gives +0 for a NaN, which is not above 0. -/
def mepiActivate (act x : Nat) : Nat :=
  if (fp32.read x).isNan then (if act = 1 then 0 else fp32.qnan)
  else match act with
    | 0 => x
    | 1 => if (fp32.read x).isZero || (fp32.read x).neg? then 0 else x
    | 2 => smoothAct true x
    | _ => smoothAct false x

/-- CSAT and CNV (R231). -/
def fCSAT : BitVec 6 := 16
def fCNV : BitVec 6 := 32

/-- The final conversion to a `w`-bit integer (R233): RNE, saturated, NaN giving 0. -/
def mepiToInt (w x : Nat) : Nat × BitVec 6 :=
  match fp32.read x with
  | .nan _ _ _ => (0, fCNV)
  | .inf neg => (if neg then 2 ^ (w - 1) else 2 ^ (w - 1) - 1, fCSAT)
  | .fin neg m e =>
    let n := (roundInt .rne neg m e).1
    if neg then (if 2 ^ (w - 1) < n then (2 ^ (w - 1), fCSAT) else ((2 ^ w - n) % 2 ^ w, 0))
    else if 2 ^ (w - 1) ≤ n then (2 ^ (w - 1) - 1, fCSAT) else (n, 0)

/-- The final conversion of a row element (R233): its code and flags. -/
def mepiConvert (w : Word) (x : Nat) : Nat × BitVec 6 :=
  let x := if (fp32.read x).isNan then fp32.qnan else x
  let of6 := fun (r : Nat × BitVec 9) (conv : Bool) =>
    (r.1, (if r.2 &&& fOF = 0 then 0 else fCSAT) ||| (if conv && r.2 &&& fNV != 0 then fCNV else 0))
  match mepiOfmt w with
  | 0 => (x, 0)
  | 1 => of6 (fp16.write .rne 0 [fp32.read x] (fp32.read x)) false
  | 2 => of6 (bf16.write .rne 0 [fp32.read x] (fp32.read x)) false
  | 3 => of6 ((Nfmt.of (mepiNfmt w)).write .rne none (fp32.read x)) true
  | 4 => mepiToInt 8 x
  | _ => mepiToInt 32 x

/-- FP32 multiplication as the epilogue does it: RNE, subnormals kept, any NaN canonical. -/
def mepiMul (a b : Nat) : Nat :=
  let r := (fp32.mul .rne 0 a b).1
  if (fp32.read r).isNan then fp32.qnan else r

/-- One element of the epilogue (R233); `sc` and `bi` are the column's scale and bias. -/
def mepiElem (w : Word) (acc : Word) (sc bi : Nat) : Nat × BitVec 6 :=
  if mepiInt w && mepiOfmt w == 5 && !mepiCs w && !mepiCb w && mepiAct w == 0 then (acc.toNat, 0)
  else
    let x := if mepiInt w then (fp32.round .rne false (decide (acc.toInt < 0)) acc.toInt.natAbs 0).1 else acc.toNat
    let x := if mepiCs w then mepiMul x sc else x
    let x := if mepiCb w then fp32.memAdd x bi else x
    mepiConvert w (mepiActivate (mepiAct w) x)

/-- Bytes of an output element (R234). -/
def mepiWidth (w : Word) : Nat :=
  match mepiOfmt w with
  | 0 | 5 => 4
  | 1 | 2 => 2
  | _ => 1

/-- The column block (R232): scale and bias of column n. -/
def columnOf (blk : Bytes) (n : Nat) : Nat × Nat := (leNat ((blk.drop (4 * n)).take 4), leNat ((blk.drop (128 + 4 * n)).take 4))

/-- Row i of the tile as it is stored (R233, R234), with its flags. -/
def mepiRow (b : Bay) (x : XWord) (w : Word) (blk : Bytes) (i : Nat) : Bytes × BitVec 6 :=
  let es := (List.range 32).map fun n => mepiElem w (b.acc x.acc.toNat i n) (columnOf blk n).1 (columnOf blk n).2
  (es.flatMap fun e => natLe (mepiWidth w) e.1, es.foldl (fun f e => f ||| e.2) 0)

/-- The poison a stored row carries (R421, R235): that of its accumulators, and of the columns' scales and biases at scratch offset `col`. -/
def mepiPoison (s : State) (c : Ctx) (x : XWord) (w : Word) (col i : Nat) : List (Nat × Nat) :=
  let n := 32 * mepiWidth w
  let cell := fun (at' : Nat) => scratchPoison s c.v.team at' 4
  let block := fun (k : Nat) => if mepiCs w || mepiCb w then cell (col + 4 * k) <|> cell (col + 128 + 4 * k) else none
  (List.range (n / 16)).filterMap fun g =>
    ((List.range 32).findSome? fun k =>
      if k * mepiWidth w / 16 = g then c.accPoison s x.acc.toNat i (k / 4) <|> block k else none).map fun d => (16 * g, d)

/-- Marks the granules of a stored global row. -/
def poisonRow (s : State) (c : Ctx) (va n : Nat) (ps : List (Nat × Nat)) : State :=
  if ps.isEmpty then s
  else match translate s c.v.hank va n false with
    | .ok (.mem lf) => carryPoison s lf.pa n ps fun g => granuleAt s c.v.hank (readPly lf c.v.ply) g
    | .ok (.win t off) => carryPoison s off n ps (.scratch t)
    | _ => s

/-- The scratch rows' span (R221): from the lowest stored byte to the highest. -/
def rowSpan (offs : List Nat) (n : Nat) : List Want :=
  match offs with
  | [] => []
  | o :: os =>
    let lo := os.foldl min o
    [{ off := lo, len := os.foldl max o + n - lo, wr := true }]

/-- The check of a scratch row (R234), as of a lane of STS: none when it passes. -/
def scratchRowFault (s : State) (c : Ctx) (l off n : Nat) : Option LaneFault :=
  if off % n ≠ 0 then some (laneFault l .misalign (BitVec.ofNat 64 off) true .scratch)
  else if scratchRangeOk s c.v.team off n then none
  else some (laneFault l .protection (BitVec.ofNat 64 off) true .scratch 3)

/-- MEPI to scratch (R221, R234). -/
def mepiToScratch (s : State) (c : Ctx) (x : XWord) (rows : Nat → Bytes × BitVec 6) (ps : Nat → List (Nat × Nat)) (n : Nat) : Res :=
  let off := fun l => (Row.lane (c.reg x.vreg) l).toNat
  let bad := (lanesOf c.act).filterMap fun l => scratchRowFault s c l (off l) n
  let ok := (lanesOf c.act).filter fun l => !bad.any fun f => f.lane == l
  let ws := rowSpan (ok.map off) n
  let all := fun (f : Nat → LaneFault) => Res.done s { Stops.none with faults := bad ++ ok.map f }
  if ws.any fun m => decide (2 ^ 18 < m.len) then all fun l => laneFault l .desc
  else if ws.any fun m => !scratchRangeOk s c.v.team m.off m.len then
    all fun l => laneFault l .protection (BitVec.ofNat 64 (off l)) true .scratch 3
  else if markersWait s c.v.team ws || c.pathFull s .s then .hold
  else if ok = [] then .done s { Stops.none with faults := bad }
  else
    let s := ok.foldl (fun s l => writeScratch s c.v.team (off l) { data := (rows l).1, poison := ps l }) s
    let s := c.modBay s fun b => { b with mstat := ok.foldl (fun m l => m ||| (rows l).2) b.mstat }
    let s := addFlight (addMarkers s c.v.team ws) (c.flight .engine (some .s) [] [] false true)
    .done (addMe s c) { Stops.none with faults := bad }

/-- One row of a global MEPI (R234), as a lane of ST, parked for migration on a host-owned page (R164, R320); where the host is not asked the row
waits (R235 gives MEPI no MIGRATED, log 18). -/
def mepiRowLane (s : State) (c : Ctx) (l va : Nat) (bs : Bytes) (ps : List (Nat × Nat)) : LaneStep Sig :=
  match storeLane s c l va bs with
  | .go s g => .go (poisonRow s c va bs.length ps) g
  | .stop f => if f.cause = .migrated then .wait else .stop f
  | r => r

/-- MEPI to global memory (R234). -/
def mepiToGlobal (s : State) (c : Ctx) (x : XWord) (rows : Nat → Bytes × BitVec 6) (ps : Nat → List (Nat × Nat)) (n : Nat) : Res :=
  let va := fun l => (c.perm64 (BitVec.ofNat 8 x.vreg) 0 l).toNat
  if c.pathFull s .w || c.windowBlocked s va n true then .hold
  else
    let s0 := s
    withRoom (sigRoom s c.w c.v) s c (fun s l => mepiRowLane s c l (va l) (rows l).1 (ps l)) fun s res =>
      let s := c.modBay s fun b => { b with mstat := res.foldl (fun m p => m ||| (rows p.1).2) b.mstat }
      addMe (c.reach s0 (addFlight (addSigs s c.w c.v (res.map Prod.snd)) (c.flight .access (some .w) [] [] false true)) 0 true
        (res.map fun p => va p.1)) c

/-- The faults of the rows' own checks (R234), which R313 may put before that of the column block. -/
def mepiRowFaults (s : State) (c : Ctx) (x : XWord) (w : Word) : List LaneFault :=
  let n := 32 * mepiWidth w
  (lanesOf c.act).filterMap fun l =>
    if mepiScratch w then scratchRowFault s c l (Row.lane (c.reg x.vreg) l).toNat n
    else match storeLane s c l (c.perm64 (BitVec.ofNat 8 x.vreg) 0 l).toNat (List.replicate n 0) with
      | .stop f => if f.cause = .migrated then none else some f
      | _ => none

/-- MEPI after its control word is known (R232-R234). -/
def mepiWord (s : State) (c : Ctx) (x : XWord) (w col : Word) : Res :=
  let n := 32 * mepiWidth w
  if mepiDesc w col then c.fault s .desc
  else if meBusy s c.v.core c.v.bay ≠ 0 then .hold
  else
    let use := mepiCs w || mepiCb w
    if use && !scratchRangeOk s c.v.team col.toNat 256 then
      .done s { Stops.none with
        faults := mepiRowFaults s c x w ++ (lanesOf c.act).map fun l => laneFault l .protection (col.setWidth 64) false .scratch 3 }
    else if use && markerBlocks s c.v.team col.toNat 256 false then .hold
    else
      let b := bayOf s c.v.core c.v.bay
      let blk := if use then scratchRead s c.v.team col.toNat 256 else []
      let rows := fun i => mepiRow b x w blk i
      let ps := fun i => if s.poison.isEmpty then [] else mepiPoison s c x w col.toNat i
      if mepiScratch w then mepiToScratch s c x rows ps n else mepiToGlobal s c x rows ps n

/-- MEPI (R232-R234): an odd AREG with a global destination is ILLEGAL_FIELD (R224). With the control word written in its own clause, the clause
started before it was known that the word reads AREG+1: the word waits for it (R67, log 15). -/
def execMepi (x : XWord) (s : State) : Host.Outcome State Fault Refusal :=
  issue s (.mepi x) fun s c =>
    let w := c.u x.ereg
    if !mepiScratch w && (x.vreg % 2 != 0 || decide (c.regCount ≤ x.vreg + 1)) then
      .done s { Stops.none with faults := (lanesOf c.ex).map fun l => laneFault l .illegalField }
    else if (mepiHigh c.v c.acc c.ex (.mepi x)).any (pendingRegs s c.w c.acc).contains then .hold
    else if !holdsNeedle s c then c.fault s .needle
    else mepiWord s c x w (c.u (x.ereg + 1))

end Sys2Proof.Machine
end

