-- ==== Sys2Proof/Machine/Clauses.lean ====
section
/-! DEFINITION. Fetch and clauses (02_clauses_and_encoding R45-R54): the fetch of a word, clause headers and their checks, the start of a
clause (01 R40, R41, 02 R67, 09 R227), the words that issue again (R79), waking (R40) and opportunistic fusion (08 R195). -/

namespace Sys2Proof.Machine

/-! ### Fetch -/

/-- How the fetch of a code word goes (R45). -/
inductive Fetch where
  | ok (s : State) (w : Nat)
  | fault (c : Cause) (detail : Nat)
  | migrate
  | hole (pa : Nat)

/-- Fetches the word at an address for a wave (R45, R386, R422); a fetch waits for an engine command that owns the line (R357). Code in the
scratch-window aperture, which no PTE maps with X, raises PROTECTION with DETAIL 2 (log 20). -/
def fetchWord (s : State) (v : Wave) (va : Nat) : Fetch :=
  if (windowAt va).isSome then .fault .codeProtection 2
  else match walk s v.hank va with
    | .fault => .fault .codePageFault 0
    | .poison d => .fault .uncorrectable d
    | .hole pa => .hole pa
    | .leaf l =>
      if pteHank l.pte ≠ v.hank then .fault .codeProtection 0
      else if !pteOwn l.pte then (if asksHost s v.hank va then .migrate else .fault .migrated 0)
      else if !pteX l.pte then .fault .codeProtection 2
      else if Config.physBytes ≤ l.pa then .hole l.pa
      else
        let s := foldRange (releaseLines s [lineOf l.pa]) l.pa 8
        match poisonOfRead s v.hank (readPly l v.ply) l.pa 8 with
        | some d => .fault .uncorrectable d
        | none => .ok (markUsed s v.hank l false) (leNat (loadBytes s v.hank v.ply (clusterOf v.core) l 8))

/-- The place of a fetch that fails among the causes of its clause (R313); a page that is with the host is asked for when no word faults. -/
def Fetch.rank : Fetch → Nat
  | .fault c _ => c.prio
  | .migrate => 22
  | _ => 23

/-- A word as it lies in memory; none when it cannot be read (R45). -/
def peekWord (s : State) (v : Wave) (va : Nat) : Option Nat :=
  match fetchWord s v va with
  | .ok _ w => some w
  | _ => none

/-! ### Clause headers -/

/-- The fields of a clause header (R47). -/
structure Header where
  port : Port
  count : Nat
  wait : Nat
  seta : Option Nat
  setb : Option Nat
deriving DecidableEq, Repr

/-- The port of a PORT field (R47). -/
def portOf (p : Nat) : Option Port :=
  match p with
  | 0 => some .v
  | 1 => some .m
  | 2 => some .x
  | 3 => some .k
  | 4 => some .s
  | _ => none

/-- A SETA or SETB field (R47): a flag, none, or illegal. -/
def setOf (f : Nat) : Option (Option Nat) := if f < 12 then some (some f) else if f = 15 then some none else none

/-- The header that a word holds, or the DETAIL of its CLAUSE_FORM (R47, R52). -/
def headerOf (w : Nat) : Except Nat Header :=
  if w / 2 ^ 60 % 16 ≠ 0b1010 then .error 3
  else match portOf (bitsN w 59 57), setOf (bitsN w 40 37), setOf (bitsN w 36 33) with
    | some p, some a, some b =>
      if w % 2 ^ 31 ≠ 0 then .error 0
      else .ok { port := p, count := if bitsN w 56 53 = 0 then 16 else bitsN w 56 53, wait := bitsN w 52 41, seta := a, setb := b }
    | _, _, _ => .error 0

/-- Whether a port accepts a class in a position of its clause (R49). -/
def portAccepts (p : Port) (cls : Nat) (last : Bool) : Bool :=
  (last && cls == 6) || (match p with
    | .v => decide (cls ≤ 2)
    | .m => cls == 3 || cls == 2
    | .x => cls == 4 || cls == 2
    | .k => cls == 5 || cls == 2
    | .s => cls == 7)

/-- Whether the classes of a clause's words, as far as they can be read, break R49. -/
def badClasses (p : Port) (ws : List (Option Nat)) : Bool :=
  (ws.mapIdx fun k w => match w with
    | some w => !portAccepts p (w / 2 ^ 61) (k + 1 == ws.length)
    | none => false).any id

/-- The instruction of a word, if it decodes. -/
def instrOf (w : Option Nat) : Option Instr :=
  match w with
  | some w => (match decodeNat w with | .ok i => some i | .error _ => none)
  | none => none

/-- The assigned form of a word, whatever its fields hold: what the header check reads of a word that breaks its form (R50, R84). -/
def formOfWord (w : Option Nat) : Option Instr := w.bind fun w => formOf (w / 2 ^ 61 % 8) (w / 2 ^ 54 % 128) w

/-- The odd half of a MEPI's address pair, when its control word and predicate are known before the clause issues (R67, R234): no earlier word of
the clause writes them. Where one does, the word itself waits (log 15). -/
def highRead (v : Wave) (acc : Bool) (ex : Mask) (written : List Nat) (i : Instr) : List Nat :=
  match i with
  | .mepi x =>
    if written.contains x.ereg || ((predOf i).1 != 0 && written.contains (predOf i).2.toNat) then [] else mepiHigh v acc ex i
  | _ => []

/-- Whether a word names a register that an earlier long-latency word of the clause writes (R67); `written` is what earlier words write. -/
def hazard (v : Wave) (acc : Bool) (ex : Mask) (written long : List Nat) : List (Option Instr) → Bool
  | [] => false
  | none :: is => hazard v acc ex written long is
  | some i :: is =>
    (namedRegs i ++ highRead v acc ex written i).any long.contains
      || hazard v acc ex (dsts i ++ written) (if isLong i then dsts i ++ long else long) is

/-- The DETAIL of the CLAUSE_FORM of a clause whose header is `h`, of a strand with lanes `ex` (R49-R51, R67), none when it passes; of several the
first of 4, 1, 2 (log 20). -/
def clauseError (v : Wave) (acc : Bool) (ex : Mask) (h : Header) (ws : List (Option Nat)) : Option Nat :=
  if acc && (h.port != .k || h.wait != 0 || h.seta != none || h.setb != none) then some 4
  else if !acc && badClasses h.port ws then some 1
  else if hazard v acc ex [] [] (ws.map formOfWord) then some 2
  else none

/-- The addresses of the words behind a header. -/
def clauseAddrs (pc : DWord) (n : Nat) : List DWord := (List.range n).map fun k => pc + BitVec.ofNat 64 (8 + 8 * k)

/-- The words of the clause at a header, as far as they can be read. -/
def clauseWords (s : State) (v : Wave) (pc : DWord) (n : Nat) : List (Option Nat) :=
  (clauseAddrs pc n).map fun a => peekWord s v a.toNat

/-- Fetches the words of a clause with its header (R45, R50): the words, and of those that cannot be fetched the one whose cause stands first in
R313, the first of several (log 20). -/
def fetchWords (v : Wave) : List DWord → State → State × List (Option Nat) × Option (DWord × Fetch)
  | [], s => (s, [], none)
  | a :: as, s =>
    match fetchWord s v a.toNat with
    | .ok s x =>
      let r := fetchWords v as s
      (r.1, some x :: r.2.1, r.2.2)
    | f =>
      let r := fetchWords v as s
      (r.1, none :: r.2.1, some (match r.2.2 with | some (b, g) => if g.rank < f.rank then (b, g) else (a, f) | none => (a, f)))

/-! ### Starting -/

/-- The instructions of a strand's clause that are still to issue (R53). -/
def remaining (s : State) (v : Wave) (t : Strand) : List Instr :=
  match t.clause with
  | none => []
  | some c =>
    (((clauseWords s v t.pc c.count).mapIdx fun k w => if c.done.getLsbD k then none else instrOf w)).filterMap id

/-- The registers that the words still to issue read or write (R67). -/
def clauseRegs (v : Wave) (acc : Bool) (ex : Mask) (written : List Nat) : List Instr → List Nat
  | [] => []
  | i :: is => usedRegs i ++ highRead v acc ex written i ++ clauseRegs v acc ex (dsts i ++ written) is

/-- Whether one of the instructions reads or writes a pending register (R67). -/
def pendingHit (s : State) (w : Nat) (v : Wave) (acc : Bool) (ex : Mask) (is : List Instr) : Bool :=
  let p := pendingRegs s w acc
  !p.isEmpty && (clauseRegs v acc ex [] is).any p.contains

/-- The words of a clause with the lanes in which they are active (R63), as its start can tell: a word whose predicate an earlier word of the
clause writes is left out (log 15). -/
def knownLanes (v : Wave) (acc : Bool) (ex : Mask) (written : List Nat) : List Instr → List (Instr × Mask)
  | [] => []
  | i :: is =>
    let rest := knownLanes v acc ex (dsts i ++ written) is
    if (predOf i).1 != 0 && written.contains (predOf i).2.toNat then rest else (i, activeLanes i v acc ex) :: rest

/-- The pops that a clause's words make, a yarn each (R227): none for a word without an active row (R229). -/
def clausePops (v : Wave) (is : List (Instr × Mask)) : List Nat :=
  is.flatMap fun p => match p.1 with
    | .mma x | .mmas x => if p.2 = 0 then [] else (consulted v x).map Prod.fst
    | _ => []

/-- Whether enough stages of a yarn are ready for `p` pops (R227). -/
def stagesReady (v : Wave) (y p : Nat) : Bool :=
  let k := v.yarn y
  let n := min p k.depth
  !k.isOpen || k.ended v || (decide (n ≤ k.stages.length) && (k.stages.take n).all fun g => g.st != .filling)

/-- Whether an X clause of the needle's holder waits for stages (R227). -/
def waitsStages (s : State) (w : Nat) (v : Wave) (is : List (Instr × Mask)) : Bool :=
  let ps := clausePops v is
  !ps.isEmpty && (bayOf s v.core v.bay).holder == some w && ps.dedup.any fun y => !stagesReady v y (ps.count y)

/-- Whether a word is an RPAIR (R271). -/
def isRpair : Instr → Bool
  | .rpair _ => true
  | _ => false

/-- Whether a trailer's clause waits for the leader's values of its RPAIRs (R271): those known to have no active lane need none, and a leader that
sends no more leaves nothing to wait for (log 15). -/
def waitsValues (s : State) (w : Nat) (v : Wave) (is : List Instr) (ks : List (Instr × Mask)) : Bool :=
  match pairOf s v with
  | some (_, p) =>
    let idle := ks.countP fun q => isRpair q.1 && q.2 == 0
    p.trailer == w && decide (p.vals.length + idle < is.countP isRpair) && !p.noMoreValues s
  | none => false

/-- The flags with what a clause raises (R31): none when one would pass 15. -/
def raiseFlags (fs : Vector (BitVec 4) 12) (a b : Option Nat) : Option (Vector (BitVec 4) 12) :=
  let up := fun (fs : Vector (BitVec 4) 12) (k : Option Nat) =>
    match k with
    | none => some fs
    | some n => if fs[n]?.getD 0 = 15 then none else some (fs.setIfInBounds n ((fs[n]?.getD 0) + 1))
  (up fs a).bind fun fs => up fs b

/-- Whether a flag of the WAIT mask is not zero (R47). -/
def waitsFlags (v : Wave) (h : Header) : Bool := (List.range 12).any fun n => bitN h.wait n && v.flags[n]?.getD 0 != 0

/-- Why a clause with header `h` and words `is` that passed its checks does not start (R31, R40, R67, R227, R271). -/
def headerWait (s : State) (w : Nat) (v : Wave) (acc : Bool) (ex : Mask) (h : Header) (is : List Instr) : Wait :=
  let ks := knownLanes v acc ex [] is
  if waitsFlags v h then .flags
  else if (raiseFlags v.flags h.seta h.setb).isNone then .full
  else if pendingHit s w v acc ex is then .pending
  else if waitsStages s w v ks then .stages
  else if waitsValues s w v is ks then .values
  else .no

/-- Whether another strand's clause holds a port of the wave's bay (R46). -/
def portBusy (s : State) (w n : Nat) (v : Wave) (p : Port) : Bool :=
  s.running.any fun r =>
    r != ⟨w, n⟩ && r.n != 8 && (match s.waves[r.w]? with
      | some u => u.core == v.core && u.bay == v.bay && (match u.thread r.n with
        | some t => (match t.clause with | some c => c.port == p | none => false)
        | none => false)
      | none => false)

/-- The word that stands for no instruction of its own in a context. -/
def noWord : Instr := .nop { pm := 0, preg := 0, d := 0, off := 0, sub := 0 }

/-- The context of a strand at a word that does not issue: every lane of the strand. -/
def fetchCtx (v : Wave) (w n : Nat) (t : Strand) (opc : Nat) : Ctx :=
  { w := w, n := n, v := v, st := t, acc := n == 8, act := t.mask, ex := t.mask, all := t.mask, lo := (lowest t.mask).getD 0, pc := t.wordPc, opc := opc }

/-- A strand's lanes fault at a header or a word that was fetched (R45, R50, R315); `ad` is the address that could not be fetched. -/
def fetchFault (s : State) (v : Wave) (w n : Nat) (t : Strand) (opc : Nat) (e : Cause) (detail : Nat) (space : Space) (ad : DWord) :
    Host.Outcome State Fault Refusal :=
  finishDone s s (fetchCtx v w n t opc) noWord
    { Stops.none with faults := (lanesOf t.mask).map fun l => laneFault l e ad false space detail }

/-- A strand parks on the host-owned code page of an address (R164). -/
def fetchMigrate (s : State) (v : Wave) (w n : Nat) (t : Strand) (ad : DWord) : Host.Outcome State Fault Refusal :=
  finishDone (requestPage s v.hank ad.toNat false) (requestPage s v.hank ad.toNat false) (fetchCtx v w n t 0) noWord
    { Stops.none with migr := (lanesOf t.mask).map fun l => migFault l ad.toNat false .code }

/-- What becomes of a strand when the word at `ad` cannot be fetched; `opc` is bits 63:54 of the word where it stands. -/
def fetchStop (s : State) (v : Wave) (w n : Nat) (t : Strand) (opc : Nat) (ad : DWord) (f : Fetch) : Host.Outcome State Fault Refusal :=
  match f with
  | .fault e d => fetchFault s v w n t opc e d .code ad
  | .migrate => fetchMigrate s v w n t ad
  | .hole pa => .fault (.physicalHole pa)
  | .ok _ _ => .next s

/-- The strand parks on its next clause (R40, R67); a pending register sets HAZARD (R380). -/
def parkWait (s : State) (v : Wave) (w n : Nat) (k : Wait) : State :=
  let s := modThread s w n fun t => { t with park := .wait k }
  if k = .pending then raisePerf s v.core v.bay 0 else s

/-- The lanes' clause counts while a request is pending (R325). -/
def countClause (v : Wave) (n : Nat) (t : Strand) : Wave :=
  if n ≠ 8 ∧ v.preempt = .asked then { v with clauseCount := v.clauseCount.mapIdx fun l k => if t.mask.getLsbD l then k + 1 else k } else v

/-- The clause starts (R31, R48, R53): its flags rise, it holds its port, its words issue from now on. -/
def beginClause (s : State) (w n : Nat) (t : Strand) (h : Header) : State :=
  let s := modWave s w fun v =>
    let v := (countClause v n t).modThread n fun t =>
      { t with clause := some { port := h.port, count := h.count, tok := v.nextTok, done := 0 }, park := .none }
    { v with
      flags := (raiseFlags v.flags h.seta h.setb).getD v.flags
      tokens := if h.seta = none ∧ h.setb = none then v.tokens else v.tokens ++ [{ id := v.nextTok, seta := h.seta, setb := h.setb }]
      nextTok := v.nextTok + 1 }
  { s with running := s.running ++ [⟨w, n⟩] }

/-- A strand whose header `x` was fetched (R47-R52, R67); `s0` is the state before the fetch. CLAUSE_FORM comes before the fault of a word that
cannot be fetched (R313). -/
def startClause (s0 s : State) (w n : Nat) (v : Wave) (t : Strand) (x : Nat) : Host.Outcome State Fault Refusal :=
  match headerOf x with
  | .error d => fetchFault s v w n t (x / 2 ^ 54) .clauseForm d .code t.pc
  | .ok h =>
    let r := fetchWords v (clauseAddrs t.pc h.count) s
    match clauseError v (n == 8) t.mask h r.2.1, r.2.2 with
    | some d, _ => fetchFault r.1 v w n t (x / 2 ^ 54) .clauseForm d .code t.pc
    | none, some (a, f) => fetchStop r.1 v w n t (x / 2 ^ 54) a f
    | none, none =>
      match headerWait r.1 w v (n == 8) t.mask h (r.2.1.filterMap instrOf) with
      | .no => if n ≠ 8 ∧ portBusy s w n v h.port then notNow s0 else .next (bump (beginClause r.1 w n t h))
      | k => .next (bump (parkWait r.1 v w n k))

/-- A strand at a header (R41, R45). At an address whose bits 2:0 are not zero there is no word to fetch, and DETAIL is 3 (log 20). -/
def startHeader (s : State) (w n : Nat) (v : Wave) (t : Strand) : Host.Outcome State Fault Refusal :=
  if t.pc.toNat % 8 ≠ 0 then fetchFault s v w n t 0 .clauseForm 3 .code t.pc
  else match fetchWord s v t.pc.toNat with
    | .ok u x => startClause s u w n v t x
    | f => fetchStop s v w n t 0 t.pc f

/-- A strand inside its clause goes on (R53): it waits for pending registers only. -/
def resumeClause (s : State) (w n : Nat) (v : Wave) (t : Strand) (c : Clause) : Host.Outcome State Fault Refusal :=
  if pendingHit s w v (n == 8) t.mask (remaining s v t) then .next (bump (parkWait s v w n .pending))
  else if n ≠ 8 ∧ portBusy s w n v c.port then notNow s
  else .next (bump { s with running := s.running ++ [⟨w, n⟩] })

/-- CLAUSE_START (R41): a ready strand, or the access thread (8), starts its next clause or goes on in one. -/
def execClauseStart (w n : Nat) (s : State) : Host.Outcome State Fault Refusal :=
  onLive s w fun v =>
    match v.thread n with
    | none => notNow s
    | some t =>
      if !t.free || s.running.contains ⟨w, n⟩ || !mayIssue s v n t then notNow s
      else match t.clause with
        | none => startHeader s w n v t
        | some c => resumeClause s w n v t c

/-! ### Answers to accesses that wait for a migration -/

/-- Whether a lane waits on a page, given by number and the number's lowest address bit. -/
def waitsOn (p : Nat × Nat) (f : LaneFault) : Bool := f.addr.toNat / 2 ^ p.2 == p.1

/-- Whether the word at which a strand waits asks again when its page is refused: R235 gives MEPI no MIGRATED, and R289 gives TRES none (log 18). -/
def asksAgain (s : State) (v : Wave) (t : Strand) : Bool :=
  match instrOf (peekWord s v t.wordPc.toNat) with
  | some (.mepi _) | some (.tres _) => true
  | _ => false

/-- A strand whose lanes on a page go on, or raise MIGRATED with a DETAIL (R321, R393): the lanes on the page, and the others. The strand of an
atomic region goes on as a whole (R254). -/
def answerStrand (s : State) (v : Wave) (p : Nat × Nat) (refused : Option Nat) (t : Strand) : List Strand :=
  match t.park with
  | .migrate fs =>
    let mine := fs.filter (waitsOn p)
    let others := fs.filter fun f => !waitsOn p f
    let m := maskOfList (mine.map (·.lane)) &&& t.mask
    let rest := t.mask &&& ~~~m
    let k : Park := match refused with
      | none => .none
      | some d => if asksAgain s v t then .none else .fault (opcAt s v t.wordPc) (mine.map fun f => { f with detail := d })
    if m = 0 then [t]
    else if inRegion v t then [{ t with park := if others = [] then .none else .migrate others }]
    else if rest = 0 then [{ t with park := k }]
    else [{ t with mask := m, park := k }, { t with mask := rest, park := .migrate others }]
  | _ => [t]

/-- The answer reaches a list of strands; lanes that part from theirs take the lowest free number (R188). -/
def answerStrands (s : State) (v : Wave) (p : Nat × Nat) (refused : Option Nat) (ts : List Strand) : List Strand :=
  let qs := ts.map fun t => (t, answerStrand s v p refused t)
  (qs.flatMap fun q => q.2.tail).foldl (fun us t => us ++ [{ t with num := (lowestFree 8 (us.map (·.num))).getD 0 }])
    (qs.map fun q => (q.2.head?).getD q.1)

/-- The access thread goes on once no lane of it waits (R164). -/
def answerAccess (s : State) (v : Wave) (p : Nat × Nat) (refused : Option Nat) (t : Strand) : Strand :=
  match t.park with
  | .migrate fs =>
    let mine := fs.filter (waitsOn p)
    let rest := fs.filter fun f => !waitsOn p f
    if mine = [] then t
    else match refused with
      | some d =>
        if asksAgain s v t then { t with park := .none }
        else { t with park := .fault (opcAt s v t.wordPc) (mine.map fun f => { f with detail := d }) }
      | none => { t with park := if rest = [] then .none else .migrate rest }
  | _ => t

/-- The answer for a page reaches every strand of a wave, those that a trap set aside too (R319, R321). A refusal aborts the atomic region
whose strand waits on the page (R254), and is a double fault in a handler (R318). -/
def answerWave (s : State) (w : Nat) (p : Nat × Nat) (refused : Option Nat) : State :=
  match s.waves[w]? with
  | none => s
  | some v =>
    let asks := fun (t : Strand) => inRegion v t && (match t.park with | .migrate fs => fs.any (waitsOn p) | _ => false)
    let s := if refused.isSome && v.everyStrand.any asks then abortRegion s w 6 0 0 else s
    let s := modWave s w fun v =>
      { v with
        strands := answerStrands s v p refused v.strands
        trap := v.trap.map fun e => if e.isAccess then { e with aside := answerStrands s v p refused e.aside } else e
        access := v.access.map fun a => { a with strand := answerAccess s v p refused a.strand } }
    match s.waves[w]? with
    | some v => if v.phase = .live ∧ v.strands.any (fun t => t.handler && t.faulted) then doubleFault s w v else s
    | none => s

/-- Whether the page of an address of a hank now belongs to another hank (R321). -/
def changedHank (s : State) (h va : Nat) : Bool :=
  match walkFrom s va (hreg s h 0x120).toNat walkLevels with
  | .leaf l => pteHank l.pte != h
  | _ => false

/-- The page of a parked access that has changed hands (R321). -/
def lostPage (s : State) (v : Wave) (fs : List LaneFault) : Option (Nat × Nat) :=
  (fs.find? fun f => changedHank s v.hank f.addr.toNat).map fun f => pageAt s v.hank f.addr.toNat

/-! ### Words that issue again -/

/-- A strand parked at a word issues that word again, its port free (R79, R53). -/
def reissue (s : State) (w n : Nat) (v : Wave) (t : Strand) : Host.Outcome State Fault Refusal :=
  match t.clause with
  | none => notNow s
  | some c =>
    if !mayIssue s v n t then notNow s
    else if pendingHit s w v (n == 8) t.mask (remaining s v t) then .next (bump (parkWait s v w n .pending))
    else if n ≠ 8 ∧ portBusy s w n v c.port then notNow s
    else
      let s := modThread s w n fun t => { t with park := .none }
      .next { s with running := ⟨w, n⟩ :: s.running }

/-- HELD_WORD_ISSUE (R79): a word that held is tried again once something has changed (log 4). -/
def execHeldWordIssue (w n : Nat) (s : State) : Host.Outcome State Fault Refusal :=
  onLive s w fun v =>
    match v.thread n with
    | none => notNow s
    | some t =>
      match t.park with
      | .hold k => if k < s.progress then reissue s w n v t else notNow s
      | _ => notNow s

/-- What a strand parked at its next clause, or at a word inside one, waits for now (R40, R67). -/
def waitNow (s : State) (w n : Nat) (v : Wave) (t : Strand) : Wait :=
  match t.clause with
  | some _ => if pendingHit s w v (n == 8) t.mask (remaining s v t) then .pending else .no
  | none =>
    match fetchWord s v t.pc.toNat with
    | .ok s x =>
      (match headerOf x with
       | .ok h => headerWait s w v (n == 8) t.mask h ((clauseWords s v t.pc h.count).filterMap instrOf)
       | .error _ => .no)
    | _ => .no

/-- Whether an MWAIT is released (R180): the monitor has triggered, or is no longer armed. -/
def Wave.monitorOver (v : Wave) : Bool := match v.monitor with | some m => m.triggered | none => true

/-- STRAND_WAKE (R40): a parked strand whose wait is over becomes ready, and one that now waits for a pending register sets HAZARD (R67); a
class B word is tried again once something has changed; the MWAITs of the wave end together (R180); a strand at an RCHK or REND of a pair that
is over issues the word again (R272); one whose page has come to another hank raises MIGRATED (R321). -/
def execStrandWake (w n : Nat) (s : State) : Host.Outcome State Fault Refusal :=
  onLive s w fun v =>
    match v.thread n with
    | none => notNow s
    | some t =>
      match t.park with
      | .wait k =>
        let now := waitNow s w n v t
        if now = k || (n == 8 && stopping s v) then notNow s
        else if now = .no then .next (bump (modThread s w n fun t => { t with park := .none }))
        else .next (bump (parkWait s v w n now))
      | .block k _ => if k < s.progress then reissue s w n v t else notNow s
      | .mwait => if v.monitorOver then afterWave (endMwait s w) w else notNow s
      | .migrate fs => (match lostPage s v fs with | some p => afterWave (answerWave s w p (some 1)) w | none => notNow s)
      | .check _ | .rend => if (pairOf s v).isNone then reissue s w n v t else notNow s
      | _ => notNow s

/-- Whether a strand may be fused with another at the same header (R195). -/
def fusible (t : Strand) : Bool := t.clause.isNone && (t.park == .none || t.park == .wait .flags || t.park == .wait .pending)

/-- OPPORTUNISTIC_FUSION (R194, R195): strands n and m become one under the lower number, a handler's when one of them is (R316). -/
def execOpportunisticFusion (w n m : Nat) (s : State) : Host.Outcome State Fault Refusal :=
  onLive s w fun v =>
    match v.strands.find? fun t => t.num == n, v.strands.find? fun t => t.num == m with
    | some a, some b =>
      if n = m ∨ !fusible a ∨ !fusible b ∨ a.pc ≠ b.pc then notNow s
      else
        let t : Strand :=
          { num := min n m, mask := a.mask ||| b.mask, pc := a.pc, clause := none, park := .none, handler := a.handler || b.handler }
        afterWave (modWave s w fun v => { v with strands := t :: v.strands.filter fun u => u.num != n && u.num != m }) w
    | _, _ => notNow s

/-! ### The next word -/

/-- What step finds at the strand whose turn it is (R45, R84). -/
inductive Next where
  | exec (s : State) (i : Instr)
  | out (o : Host.Outcome State Fault Refusal)

/-- Fetches and decodes the word of a strand inside its clause (R45, R53, R84). -/
def nextWord (s : State) (w n : Nat) (v : Wave) (t : Strand) : Next :=
  match fetchWord s v t.wordPc.toNat with
  | .ok s x =>
    (match decodeNat x with
     | .ok i => .exec s i
     | .error .illegalOp => .out (fetchFault s v w n t (x / 2 ^ 54) .illegalOp 0 .none 0)
     | .error .illegalField =>
       if (match formOf (x / 2 ^ 61) (x / 2 ^ 54 % 128) x with
           | some i => (n == 8 && !accessOk i) || (handlerWord i && !t.handler)
           | none => true) then
         .out (fetchFault s v w n t (x / 2 ^ 54) .illegalOp 0 .none 0)
       else .out (fetchFault s v w n t (x / 2 ^ 54) .illegalField 0 .none 0))
  | f => .out (fetchStop s v w n t 0 t.wordPc f)

/-- Whether a running clause may issue its next word: the access thread of a wave on its way to a save does not (R347). -/
def mayGoOn (s : State) (r : IssueRef) : Bool :=
  r.n != 8 || (match s.waves[r.w]? with | some v => !stopping s v | none => false)

/-- The word of the strand at the head of the running list; none when nothing runs. -/
def nextIssue (s : State) : Option Next :=
  match s.running with
  | [] => none
  | r :: _ =>
    if !mayGoOn s r then none
    else match s.waves[r.w]? with
      | none => none
      | some v => (v.thread r.n).map fun t => nextWord s r.w r.n v t

end Sys2Proof.Machine
end

