-- ==== Sys2Proof/Machine/Completions.lean ====
section
/-! DEFINITION. How operations in flight end (02 R48, R66, 07 R160, 09 R211, R216, R226, 12 R299, 21 R399), and what may befall a wave
at any time: slots freed (08 R200), monitors and timeouts (07 R179, R180), the watchdog and traps taken (13 R314, R322), bank power (18
R351), rejected accesses (19 R381), walks (20 R389) and the debugger (01 R37). -/

namespace Sys2Proof.Machine

/-! ### Operations in flight -/

/-- Writes an operation's results (R66): into the wave's registers or those of its access thread. -/
def returnResults (v : Wave) (f : Flight) : Wave :=
  f.res.foldl (fun v x => v.put f.isAccess (maskOfList [x.lane]) x.reg (Word.splat x.val)) v

/-- Whether a TRES waits for a traversal that issued before it (R286). -/
def tresWaits (s : State) (f : Flight) : Bool :=
  f.kind == .tres && s.flights.any fun g => decide (g.id < f.id) && g.wave == f.wave && g.perf && (match g.kind with | .trace _ => true | _ => false)

/-- RESULT_WRITEBACK (R66): a long-latency result is written, and its registers are no longer pending. It waits while its access is rejected
or behind an older one (R357, R381), and while an injector delays it (R430). -/
def execResultWriteback (id : Nat) (s : State) : Host.Outcome State Fault Refusal :=
  match flightOf s id with
  | none => notNow s
  | some f =>
    if !f.wb || f.kind == .commit || tresWaits s f || f.rejected.isSome || f.behind s || s.err.delayed.any (fun d => d.2 == some id) then notNow s
    else
      let s := modWave s f.wave fun v => returnResults v f
      afterWave (updateFlight s id fun f => { f with wb := false, regs := [], res := [] }) f.wave

/-- ACCESS_PERFORMED (R48, R299): a store, atomic or command is performed at its scope. -/
def execAccessPerformed (id : Nat) (s : State) : Host.Outcome State Fault Refusal :=
  match flightOf s id with
  | none => notNow s
  | some f =>
    if f.perf && f.kind == .access && f.rejected.isNone && !f.behind s then afterWave (performed s id) f.wave else notNow s

/-- The stage that a fill was for (R211): filled, or poisoned with its source. -/
def endFill (y : Yarn) (seq : BitVec 16) (p : Option Nat) : Yarn :=
  { y with stages := y.stages.map fun g =>
      if g.seq = seq ∧ g.st = .filling then { g with st := match p with | some d => .poisoned d | none => .filled } else g }

/-- YARN_FILL_COMPLETE (R211, R213): a fill waits for the engine commands before it that own its lines (R357). -/
def execYarnFillComplete (id : Nat) (s : State) : Host.Outcome State Fault Refusal :=
  match flightOf s id with
  | none => notNow s
  | some f =>
    match f.kind with
    | .fill y seq p =>
      if f.perf && !f.behind s then afterWave (performed (modYarn s f.wave y fun k => endFill k seq p) id) f.wave else notNow s
    | _ => notNow s

/-- ENGINE_COMMAND_COMPLETE (R216, R221): a command waits for those before it that own its lines (R357). -/
def execEngineCommandComplete (id : Nat) (s : State) : Host.Outcome State Fault Refusal :=
  match flightOf s id with
  | none => notNow s
  | some f => if f.perf && f.kind == .engine && !f.behind s then afterWave (performed s id) f.wave else notNow s

/-- Whether two waves share a bay. -/
def sameBay (s : State) (w u : Nat) : Bool :=
  match s.waves[w]?, s.waves[u]? with
  | some a, some b => a.core == b.core && a.bay == b.bay
  | _, _ => false

/-- ME_OPERATION_COMPLETE (R226): the bay's oldest X operation finishes. -/
def execMeOperationComplete (id : Nat) (s : State) : Host.Outcome State Fault Refusal :=
  match flightOf s id with
  | none => notNow s
  | some f =>
    if f.perf && f.kind == .me && !(s.flights.any fun g => decide (g.id < id) && g.kind == .me && g.perf && sameBay s g.wave f.wave) then
      afterWave (performed s id) f.wave
    else notNow s

/-- The end of a traversal whose slot's results are known (R285, R399). -/
def endTrace (s : State) (w y id : Nat) : State :=
  match s.waves[w]? with
  | none => s
  | some v => performed (setRaySlot s w y { raySlot v y with finished := true }) id

/-- TRAVERSAL_COMPLETE (R399): the rays finish; a node on a host-owned page is asked for first (R164, log 18). -/
def execTraversalComplete (id : Nat) (s : State) : Host.Outcome State Fault Refusal :=
  match flightOf s id with
  | none => notNow s
  | some f =>
    match f.kind, s.waves[f.wave]? with
    | .trace y, some v =>
      if !f.perf then notNow s
      else if (raySlot v y).known then afterWave (endTrace s f.wave y id) f.wave
      else match knowSlot s f.wave v y with
        | .ok s => afterWave (endTrace s f.wave y id) f.wave
        | .error (.hole pa) => .fault (.physicalHole pa)
        | .error (.migrate va) =>
          if pageAsked s v.hank va then notNow s else afterStep (requestPage s v.hank va false)
        | .error _ => notNow s
    | _, _ => notNow s

/-! ### Waves -/

/-- Whether a W-, S- or Y-path access of a wave is not performed yet (R200). -/
def unperformed (s : State) (w : Nat) : Bool :=
  s.flights.any fun f => f.wave == w && f.perf && (f.path == some .w || f.path == some .s || f.path == some .y)

/-- SLOT_FREE (R200): the slot of a retired wave is free. -/
def execSlotFree (w : Nat) (s : State) : Host.Outcome State Fault Refusal :=
  match s.waves[w]? with
  | none => notNow s
  | some v =>
    if v.phase = .retired ∧ !unperformed s w then afterStep (modWave s w fun v => { v with phase := .gone }) else notNow s

/-- MONITOR_SPURIOUS_TRIGGER (R179). -/
def execMonitorSpuriousTrigger (w : Nat) (s : State) : Host.Outcome State Fault Refusal :=
  onLive s w fun v =>
    match v.monitor with
    | none => notNow s
    | some m => afterWave (modWave s w fun v => { v with monitor := some { m with triggered := true } }) w

/-- The instruction at which a strand is parked. -/
def parkedAt (s : State) (v : Wave) (t : Strand) : Option Instr := instrOf (peekWord s v t.wordPc.toNat)

/-- MWAIT's TIMEOUT field (R180). -/
def mwaitTimeoutOf (x : MWord) : Nat := x.f.toNat

/-- MWAIT_TIMEOUT (R180): an MWAIT with a timeout completes and disarms the monitor, which ends the wave's other MWAITs. -/
def execMwaitTimeout (w n : Nat) (s : State) : Host.Outcome State Fault Refusal :=
  onLive s w fun v =>
    match v.thread n with
    | none => notNow s
    | some t =>
      match decide (t.park = .mwait), parkedAt s v t with
      | true, some (.mwait x) => if mwaitTimeoutOf x = 0 then notNow s else afterWave (endMwait s w) w
      | _, _ => notNow s

/-- Whether a parked strand waits at a word that the watchdog watches (R322). -/
def watched (s : State) (v : Wave) (t : Strand) : Bool :=
  match t.park with
  | .bar _ _ _ | .barw _ _ | .join _ _ | .needle | .check _ => true
  | .mwait => !v.monitorOver && (match parkedAt s v t with | some (.mwait x) => mwaitTimeoutOf x == 0 | _ => false)
  | .hold _ | .block _ _ =>
    (match parkedAt s v t with
     | some (.kwait _) | some (.qpop _) | some (.qtokTake _) | some (.recv _) | some (.rchk _) => true
     | _ => false)
  | _ => false

/-- WATCHDOG (R322): a strand parked for too long raises WATCHDOG at its word. -/
def execWatchdog (w n : Nat) (s : State) : Host.Outcome State Fault Refusal :=
  onLive s w fun v =>
    match v.thread n with
    | none => notNow s
    | some t =>
      if hreg s v.hank 0x028 = 0 ∨ !watched s v t then notNow s
      else
        let s := if t.park = .needle && !(v.everyStrand.any fun u => u.num != n && u.park == .needle) then leaveFifo s w v else s
        let s := modThread s w n fun t => { t with park := .none }
        match s.waves[w]?, t.handler with
        | some v, false => fetchFault s v w n { t with park := .none } (opcAt s v t.wordPc) .watchdog 0 .none 0
        | some v, true => afterWave (doubleFault s w v) w
        | none, _ => notNow s

/-- TRAP_TAKEN (R314): the trap of the wave's lowest parked strand, or of its access thread, is taken. -/
def execTrapTaken (w : Nat) (s : State) : Host.Outcome State Fault Refusal :=
  onLive s w fun v => if trapReady s w v then afterWave (takeTrap s w) w else notNow s

/-- WALK_STARVATION (R389): the order of walks changes timing only, so the step changes nothing. -/
def execWalkStarvation (w : Nat) (s : State) : Host.Outcome State Fault Refusal := onLive s w fun _ => .next s

/-- An operation's entries are found (R381), or it is rejected once more; PERFSTAT bit `n` of its bay says so. -/
def entriesFound (s : State) (f : Flight) (n : Nat) (rej : Option Nat) : State :=
  let s := modFlight s f.id fun f => { f with rejected := rej, aged := rej.isNone }
  match s.waves[f.wave]? with
  | some v => raisePerf s v.core v.bay n
  | none => s

/-- ACCESS_REJECT_RETRY (R381): a rejected access is tried again; with no ordinary entry free it is rejected once more, and REJECT is set. -/
def execAccessRejectRetry (id : Nat) (s : State) : Host.Outcome State Fault Refusal :=
  match flightOf s id with
  | none => notNow s
  | some f =>
    match f.rejected with
    | none => notNow s
    | some k =>
      if missRoom s false f.miss f.homeMiss then afterStep (modFlight s id fun f => { f with rejected := none })
      else .next (entriesFound s f 1 (some (k + 1)))

/-- The rejections after which an access is aged (R381). -/
def agedAt : Nat := 64

/-- Whether an older aged access waits for an entry of one of an access's slices (R356, R381). -/
def agedBefore (s : State) (f : Flight) : Bool :=
  s.flights.any fun g =>
    decide (g.id < f.id) && (match g.rejected with | some k => decide (agedAt ≤ k) | none => false)
      && (f.miss.any (fun m => g.miss.any fun q => q.2 == m.2) || f.homeMiss.any fun m => g.homeMiss.any fun q => q.2 == m.2)

/-- AGED_RESERVATION (R381): an access rejected 64 times takes reserved entries of its L1 slices, the oldest first, and AGED is set. -/
def execAgedReservation (id : Nat) (s : State) : Host.Outcome State Fault Refusal :=
  match flightOf s id with
  | none => notNow s
  | some f =>
    match f.rejected with
    | none => notNow s
    | some k =>
      if agedAt ≤ k ∧ missRoom s true f.miss f.homeMiss ∧ !agedBefore s f then afterStep (entriesFound s f 2 none) else notNow s

/-- Banks of 32 registers that hold an allocated register (R350, R351). -/
def bankHeld (v : Wave) (bank : Nat) : Bool := decide (32 * bank < v.nregs)

/-- BANK_DROWSY (R351): an idle bank enters retention, unless DROWSY is 0. -/
def execBankDrowsy (w bank : Nat) (s : State) : Host.Outcome State Fault Refusal :=
  onLive s w fun v =>
    if !bankHeld v bank || v.drowsy.contains bank || bitsN (hreg s v.hank 0x100).toNat 11 0 == 0 then notNow s
    else .next (modWave s w fun v => { v with drowsy := v.drowsy ++ [bank] })

/-- DEBUGGER_ACCESS (R36, R37): a read answers the lane's word; a gated register reads 0, ignores writes and sets DBGSTAT.GATED. -/
def execDebuggerAccess (w reg lane : Nat) (wr : Option Word) (s : State) : Host.Outcome State Fault Refusal :=
  if 8 ≤ lane ∨ 256 ≤ reg then notNow s
  else
    let v := (s.waves[w]?).filter fun v => v.phase == .live && decide (reg < v.nregs)
    match v, wr with
    | none, none => .next { s with gated := true, host := s.host ++ [.data (natLe 4 0) false] }
    | none, some _ => .next { s with gated := true }
    | some v, none =>
      let s := modWave s w fun v => { v with drowsy := v.drowsy.filter (· != reg / 32) }
      .next { s with host := s.host ++ [.data (natLe 4 (Row.lane (v.reg reg) lane).toNat) false] }
    | some _, some x =>
      .next (modWave s w fun v =>
        { (v.put false (maskOfList [lane]) reg (Word.splat x)) with drowsy := v.drowsy.filter (· != reg / 32) })

end Sys2Proof.Machine
end

