-- ==== Sys2Proof/Machine/Queues.lean ====
section
/-! DEFINITION. The front-end queue processor (19_scheduler R368-R372): eligible queues, the checks of a record, refusal, completion
values; and the bins that launch teams of their own (R377, R378). -/

namespace Sys2Proof.Machine

/-! ### Reading and writing in the root -/

/-- Bytes that a device agent reads through a hank's tables in the root (R368), after the engine commands that own their lines (R357): none when they
cannot be read. The aperture of the scratch
windows is not translated, and serves waves and engines only (R288, log 27). -/
def agentRead (s : State) (h va n : Nat) : State × Option Bytes :=
  if (windowAt va).isSome then (s, none)
  else match translate s h va n false with
    | .ok p =>
      (match placeBytes (releaseLines s p.lines) h 0 n p with
       | (s, .ok bs) => (s, some bs)
       | (s, .error _) => (s, none))
    | _ => (s, none)

/-- What a token cell in the root is to a device agent (R371, R282): its leaf and bytes; not usable; being moved, when writes wait on it
(R164). -/
inductive Cell where
  | ok (l : Leaf) (bs : Bytes)
  | bad
  | wait (l : Leaf)

/-- Looks at a token cell (R371). -/
def cellOf (s : State) (h va : Nat) : Cell :=
  if va % 16 ≠ 0 ∨ (windowAt va).isSome then .bad
  else match translate s h va 16 true with
    | .ok (.mem l) =>
      if wpHolds s h l then .wait l
      else match poisonOfRead s 0 0 l.pa 16 with
        | some _ => .bad
        | none => .ok l (homeBytes (foldRange s l.pa 16) h 0 l 16)
    | _ => .bad

/-- Writes a token cell of hank `h`, after the engine commands that own its line (R357). -/
def cellWrite (s : State) (h : Nat) (l : Leaf) (bs : Bytes) : State :=
  let s := markUsed (foldRange (releaseLines s [lineOf l.pa]) l.pa 16) h l true
  homeWrite (dropCopies s (lineOf l.pa)) h (pteCached l.pte) l.pa bs

/-- A device agent's write waits for a page that is being moved (R164, R394). -/
def agentWaits (s : State) (h : Nat) (l : Leaf) : Host.Outcome State Fault Refusal :=
  if (hankOf s h).moves.contains (l.page, l.sh) then notNow s else afterStep (noteMove s h l)

/-! ### Records -/

/-- A record from its 128 bytes (R369). -/
def recordOfBytes (bs : Bytes) : Vector DWord 16 := Vector.ofFn fun k : Fin 16 => dwordAt bs k

/-- Reason 2 (R372): a reserved field, a misaligned address; `tmpl` says the record is a bin template (R377). -/
def badReserved (r : Vector DWord 16) (tmpl : Bool) : Bool :=
  decide (2 ^ 35 ≤ recWord r 3) || ((List.range 8).any fun k => decide (2 ^ 40 ≤ recWord r (4 + k)))
    || ((List.range 8).any fun k => decide (recNlev r < k) && recWord r (4 + k) != 0)
    || (if tmpl then bitsN (recWord r 14) 31 16 != 0 || bitsN (recWord r 14) 7 5 != 0 else recWord r 14 != 0)
    || bitN (recWord r 15) 11 || decide (1024 < recNlive r)
    || recWord r 0 % 8 != 0 || recWord r 1 % 8 != 0 || (recDone r).toNat % 16 != 0 || (recWait r).toNat % 16 != 0

/-- The least SCOPE of a domain (R15 item 5). -/
def leastScope (domain : Nat) : Nat := [0, 0, 1, 1, 2, 3, 4].getD domain 0

/-- Reason 6 (R14, R15, R342). -/
def badLevels (r : Vector DWord 16) : Bool :=
  !(recExtent r 0 == 8 && recDomain r 0 == 0 && recScope r 0 == 0) || decide (2 ^ 40 < extentProd r 0 8)
    || (recLevels r).any fun i => i != 0 &&
      (recExtent r i == 0 || recDomain r i == 0 || decide (6 < recDomain r i ∨ 5 < recScope r i ∨ recDomain r i < recDomain r (i - 1)
          ∨ recScope r i < recScope r (i - 1) ∨ recScope r i < leastScope (recDomain r i))
        || (recDomain r i == 4 && recDomain r (i - 1) == 3 && decide (4 < recExtent r (i - 1))))

/-- Reason 7 (R16, R20): `cap` is the number of slots of a bay. -/
def badTeam (r : Vector DWord 16) (cap : Nat) : Bool :=
  ((recLevels r).any fun i => i != 0 &&
    ((recDomain r i == 2 && decide (cap < extentProd r 1 i)) || (recDomain r i == 3 && decide (12 * cap < extentProd r 1 i))))
    || (match teamLevel? r with
        | some t => decide (512 < wavesPerUnit r ∨ (if recDomain r t = 4 then 48 else 12) * cap < wavesPerUnit r)
        | none => false)

/-- Reason 5 (R16, R20). -/
def badScratch (r : Vector DWord 16) : Bool :=
  match teamLevel? r with
  | some t => recDomain r t == 3 && decide (512 < recScratch r)
  | none => recScratch r != 0

/-- The clusters of a hank (R407). -/
def hankClusters (s : State) (h : Nat) : List Nat := (List.range 28).filter fun c => clusterEnabled s c && (hreg s h 0x008).getLsbD c

/-! ### Room for teams -/

/-- Slots and scratch in use: slots of a bay, occupied slots by core and bay, scratch by core in KiB (R352, R373). -/
structure Room where
  cap : Nat
  used : List (Nat × Nat)
  scr : List (Nat × Nat)
deriving DecidableEq, Repr

/-- Free slots of a bay, of a core, and free scratch of a core. -/
def Room.bayFree (r : Room) (c b : Nat) : Nat := r.cap - r.used.count (c, b)
def Room.coreFree (r : Room) (c : Nat) : Nat := ((List.range 12).map (r.bayFree c)).sum
def Room.scrFree (r : Room) (c : Nat) : Nat := 512 - ((r.scr.filter fun p => p.1 == c).map Prod.snd).sum

/-- Where the waves of one unit go: a core and a bay for each wave, and the scratch it takes. -/
structure Seat where
  bays : List (Nat × Nat)
  scr : List (Nat × Nat)
deriving DecidableEq, Repr

/-- The cores of a seat, ascending. -/
def Seat.cores (p : Seat) : List Nat := (List.range 112).filter fun c => p.bays.any fun b => b.1 == c

/-- The room that is left beside a seat. -/
def Room.take (r : Room) (p : Seat) : Room := { r with used := p.bays ++ r.used, scr := p.scr ++ r.scr }

/-- The core at position e of a cluster (R342). -/
def coreAt (cl e : Nat) : Nat := (2 * (cl / 7) + e / 2) * 14 + 2 * (cl % 7) + e % 2

/-- The item with the greatest key, the earliest among equals. -/
def argMax {α : Type} (key : α → Nat) : List α → Option α
  | [] => none
  | x :: xs =>
    match argMax key xs with
    | none => some x
    | some y => if key y ≤ key x then some x else some y

/-- Orders cores by free slots, the most first, the lowest number among equals (R373). -/
def insertCore (r : Room) (c : Nat) : List Nat → List Nat
  | [] => [c]
  | d :: ds => if r.coreFree d ≤ r.coreFree c then c :: d :: ds else d :: insertCore r c ds

/-- The cores by free slots (R373). -/
def byFree (r : Room) (cs : List Nat) : List Nat := cs.foldr (insertCore r) []

/-- Seats `n` groups of `g` waves, each in the bay of the given cores with the most free slots (R373). -/
def fitBays (cs : List Nat) (g : Nat) : Nat → Room → List (Nat × Nat) → Option (List (Nat × Nat))
  | 0, _, acc => some acc
  | n + 1, r, acc =>
    match argMax (fun b => r.bayFree b.1 b.2) (cs.flatMap fun c => (List.range 12).map fun b => (c, b)) with
    | none => none
    | some b =>
      if r.bayFree b.1 b.2 < g then none
      else fitBays cs g n { r with used := List.replicate g b ++ r.used } (acc ++ List.replicate g b)

/-- The scratch a unit takes (R352): one slice on its core, or four slices for DOMAIN cluster. -/
def slicesOf (rec' : Vector DWord 16) (cores : List Nat) : List (Nat × Nat) :=
  let k := sliceSize rec'
  if k = 0 then []
  else
    let c0 := cores.headD 0
    match teamLevel? rec' with
    | some t =>
      if recDomain rec' t = 4 then
        (List.range 4).map fun e => (if cores.contains (coreAt (clusterOf c0) e) then coreAt (clusterOf c0) e else c0, k)
      else [(c0, k)]
    | none => []

/-- The waves that a bay holds whole (R14): one element of the highest level of DOMAIN bay below the unit's level. -/
def bayGroup (r : Vector DWord 16) : Nat :=
  match ((List.range (unitLevel r)).reverse.find? fun i => i != 0 && recDomain r i == 2) with
  | some i => extentProd r 1 i
  | none => 1

/-- A seat for a unit of `n` waves in groups of `g` on the given cores, if the waves and the scratch fit (R352, R373). -/
def seatOn (rec' : Vector DWord 16) (n g : Nat) (r : Room) (cs : List Nat) : Option Seat :=
  match fitBays cs g (n / g) r [] with
  | none => none
  | some bs =>
    let p : Seat := { bays := bs, scr := [] }
    let p := { p with scr := slicesOf rec' p.cores }
    if p.scr.all fun q => decide (((p.scr.filter fun x => x.1 == q.1).map Prod.snd).sum ≤ r.scrFree q.1) then some p else none

/-- A seat on one of the cores, the freest first. -/
def seatOne (rec' : Vector DWord 16) (n g : Nat) (r : Room) (cs : List Nat) : Option Seat :=
  (byFree r cs).findSome? fun c => seatOn rec' n g r [c]

/-- The cores of a cluster among those given. -/
def coresIn (cl : Nat) (cs : List Nat) : List Nat := cs.filter fun c => clusterOf c == cl

/-- A seat of a DOMAIN cluster team (R16, R373): one core, else the fewest cores of one cluster, the lowest cluster first. -/
def seatWide (rec' : Vector DWord 16) (n g : Nat) (r : Room) (cs : List Nat) : Option Seat :=
  match seatOne rec' n g r cs with
  | some p => some p
  | none =>
    [2, 3, 4].findSome? fun k => (List.range 28).findSome? fun cl =>
      let cc := byFree r (coresIn cl cs)
      if k ≤ cc.length then seatOn rec' n g r (cc.take k) else none

/-- A seat of a unit of a launch with no team level (R16, R373): one bay. -/
def seatBay (n : Nat) (r : Room) (cs : List Nat) : Option Seat :=
  (byFree r cs).findSome? fun c =>
    match argMax (fun b => r.bayFree c b) (List.range 12) with
    | some b => if n ≤ r.bayFree c b then some { bays := List.replicate n (c, b), scr := [] } else none
    | none => none

/-- The highest level of DOMAIN core or cluster, whose elements are placed together (R14, R342, R373). -/
def chunkLevel (r : Vector DWord 16) : Nat :=
  match teamLevel? r with
  | none => unitLevel r
  | some t => ((recLevels r).reverse.find? fun i => recDomain r i == 3 || recDomain r i == 4).getD t

/-- The highest level of DOMAIN core, when a level of DOMAIN cluster lies above it (R342). -/
def coreLevel? (r : Vector DWord 16) : Option Nat :=
  if recDomain r (chunkLevel r) = 4 then (recLevels r).reverse.find? fun i => recDomain r i == 3 else none

/-- Teams of one chunk. -/
def chunkTeams (r : Vector DWord 16) : Nat := extentProd r (unitLevel r) (chunkLevel r)

/-- The position of a team within its cluster (R342). -/
def teamPos (r : Vector DWord 16) (c i : Nat) : Nat := i / extentProd r (unitLevel r) c % recExtent r c

/-- Seats teams one after another, each by `f`. -/
def seatAll (f : Room → Nat → Option Seat) : List Nat → Room → Option (Room × List Seat)
  | [], r => some (r, [])
  | i :: is, r =>
    match f r i with
    | none => none
    | some p => (seatAll f is (r.take p)).map fun q => (q.1, p :: q.2)

/-- Seats for the teams `is` of one chunk among the cores `cs` (R342, R373). -/
def seatChunk (rec' : Vector DWord 16) (cs is : List Nat) (r : Room) : Option (Room × List Seat) :=
  let n := wavesPerUnit rec'
  let g := bayGroup rec'
  let cls := (List.range 28).filter fun cl => !(coresIn cl cs).isEmpty
  match teamLevel? rec', coreLevel? rec' with
  | none, _ => seatAll (fun r _ => seatBay n r cs) is r
  | some _, some c =>
    let at' := fun cl i => coreAt cl (teamPos rec' c i)
    let order := byKey (fun cl => (is.map fun i => r.coreFree (at' cl i)).sum) cls
    order.findSome? fun cl =>
      if is.all fun i => cs.contains (at' cl i) then seatAll (fun r i => seatOn rec' n g r [at' cl i]) is r else none
  | some t, none =>
    if chunkLevel rec' = t then seatAll (fun r _ => if recDomain rec' t = 4 then seatWide rec' n g r cs else seatOne rec' n g r cs) is r
    else if recDomain rec' t = 4 then cls.findSome? fun cl => seatAll (fun r _ => seatWide rec' n g r (coresIn cl cs)) is r
    else (byFree r cs).findSome? fun c => seatAll (fun r _ => seatOn rec' n g r [c]) is r
where
  /-- Items by key, the greatest first, earlier items first among equals. -/
  byKey (key : Nat → Nat) (xs : List Nat) : List Nat :=
    xs.foldr (fun x ys => (ys.takeWhile fun y => decide (key x < key y)) ++ x :: (ys.dropWhile fun y => decide (key x < key y))) []

/-- Cuts a list of team numbers at the borders of chunks of `m` teams. -/
def chunksOf (m : Nat) : List Nat → List (List Nat)
  | [] => []
  | i :: is =>
    match chunksOf m is with
    | [] => [[i]]
    | c :: cs => if c.head?.map (· / max 1 m) = some (i / max 1 m) then (i :: c) :: cs else [i] :: c :: cs

/-- Seats of teams with the trailers that PAIRED adds, each in a cluster other than its leader's (R373). -/
def seatLaunch (rec' : Vector DWord 16) (cs : List Nat) : List (List Nat) → Room → Option (Room × List (Nat × Seat × Option Seat))
  | [], r => some (r, [])
  | is :: more, r =>
    match seatChunk rec' cs is r with
    | none => none
    | some (r, ps) =>
      if recPaired rec' then
        let cl := ((ps.head?.map Seat.cores).getD []).headD 0
        match seatChunk rec' (cs.filter fun c => clusterOf c != clusterOf cl) is r with
        | none => none
        | some (r, qs) => (seatLaunch rec' cs more r).map fun x => (x.1, (is.zip (ps.zip (qs.map some))) ++ x.2)
      else (seatLaunch rec' cs more r).map fun x => (x.1, (is.zip (ps.map fun p => (p, none))) ++ x.2)

/-- The cores of a hank (R407). -/
def hankCores (s : State) (h : Nat) : List Nat := (List.range 112).filter (coreInHank s h)

/-- Signature reservations of a hank's pairs that are held (R425). -/
def pairsHeld (s : State) (h : Nat) : Nat := (s.pairs.filter fun p => p.hank == h && p.active).length

/-- Reason 8 (R20, R372): a COOP launch whose teams an empty hank cannot hold at once; its pairs need two of 63 ply numbers each (R236, R373),
which is less than the 64 pairs of R425. -/
def badCoop (s : State) (h : Nat) (r : Vector DWord 16) : Bool :=
  let cap := Config.slotsPerBay (slotClass s h)
  let cs := hankCores s h
  let n := extentProd r (unitLevel r) 8
  recCoop r &&
    (decide (12 * cap * cs.length < n * wavesPerUnit r * (if recPaired r then 2 else 1))
      || (recPaired r && decide (31 < n * wavesPerUnit r))
      || (seatLaunch r cs (chunksOf (chunkTeams r) (List.range n)) { cap := cap, used := [], scr := [] }).isNone)

/-- The first reason to refuse a record (R372); 0 when there is none. `prio` is its queue's priority. -/
def refuseReason (s : State) (h prio : Nat) (r : Vector DWord 16) (tmpl : Bool) : Nat :=
  let cls := slotClass s h
  if badReserved r tmpl then 2
  else if recSlot r ≠ cls then 3
  else if Config.regLimit cls < recRegs r then 4
  else if badScratch r then 5
  else if badLevels r then 6
  else if badTeam r (Config.slotsPerBay cls) then 7
  else if badCoop s h r then 8
  else if !tmpl && decide (prio < recPrio r) then 9
  else if recPaired r && decide ((hankClusters s h).length = 1) then 10
  else 0

/-! ### Dispatch -/

/-- What a queue's head record is (R368): not eligible; not eligible while the page of its token cell is being moved; unreadable; a record, with
its token cell. -/
inductive HeadRec where
  | none
  | moving (l : Leaf)
  | unreadable
  | record (r : Vector DWord 16) (tok : Option (Leaf × Bytes))

/-- The head of queue (p, q) (R368). -/
def headRec (s : State) (h p q : Nat) : HeadRec :=
  let o := queueOff p q
  let ring := (hreg s h o).toNat
  let hd := (hreg s h (o + 0x10)).toNat
  if !ringEn ring || decide ((hreg s h (o + 0x08)).toNat ≤ hd) then .none
  else match (agentRead s h (ringEntry ring hd) 128).2 with
    | Option.none => .unreadable
    | some bs =>
      let r := recordOfBytes bs
      let w := (recWait r).toNat
      if w = 0 ∨ w % 16 ≠ 0 then .record r Option.none
      else match cellOf s h w with
        | .bad => .unreadable
        | .wait l => .moving l
        | .ok l c => if cellFull c then .record r (some (l, c)) else .none

/-- Whether a queue is eligible (R368). -/
def eligible (s : State) (h p q : Nat) : Bool := match headRec s h p q with | .none | .moving _ => false | _ => true

/-- The queue that is served next (R368): the highest priority, round-robin within it. -/
def nextQueue (s : State) (h : Nat) : Option (Nat × Nat) :=
  [3, 2, 1, 0].findSome? fun p =>
    ((List.range 16).map fun k => (((hankOf s h).rrobin[p]?.getD 0) + k) % 16).findSome? fun q =>
      if eligible s h p q then some (p, q) else none

/-- Sets bits of a queue's QSTAT, and its event when a sticky bit is set (R366, R407). -/
def queueStat (s : State) (h p q : Nat) (keep bits : Nat) : State :=
  let o := queueOff p q + 0x18
  setHreg s h o (BitVec.ofNat 64 ((hreg s h o).toNat &&& keep ||| bits))

/-- Refuses a launch (R372): QSTAT, and its completion value. Reason 1 puts no token. -/
def refuse (s : State) (li reason : Nat) : State :=
  match s.launches[li]? with
  | none => s
  | some l =>
    let s := { s with launches := s.launches.modify li fun l => { l with reason := reason } }
    let s := match l.queue with
      | some (p, q) => hankEvent (queueStat s l.hank p q 0xFFFF00FF (reason * 2 ^ 8 + 2)) l.hank 1
      | none => s
    match s.launches[li]? with
    | some l => endLaunch s li (if reason = 1 then { l with record := Vector.replicate 16 0 } else l)
    | none => s

/-- Whether a DONE_TOKEN cell cannot be read (R372 reason 1). -/
def doneUnreadable (s : State) (h : Nat) (r : Vector DWord 16) : Bool :=
  let d := (recDone r).toNat
  d != 0 && d % 16 == 0 && (agentRead s h d 16).2.isNone

/-- The queue's head record is taken (R368): HEAD rises, the next turn goes to the queue after it. -/
def takeHead (s : State) (h p q : Nat) (r : Vector DWord 16) : State :=
  let o := queueOff p q
  let s := setHreg s h (o + 0x10) (hreg s h (o + 0x10) + 1)
  let s := modHank s h fun k => { k with rrobin := k.rrobin.setIfInBounds p ((q + 1) % 16) }
  { s with
    launches := s.launches ++ [{ hank := h, queue := some (p, q), bin := none, record := r, phase := .pending, nextTeam := 0,
                                 nabort := 0, reason := 0, recs := [] }] }

/-- Whether HANKCTL.QUIESCE is set (R407, R410). -/
def quiesced (s : State) (h : Nat) : Bool := (hreg s h 0).getLsbD 0

/-- The page of a head record's token cell that is being moved (R164). -/
def movingToken (s : State) (h : Nat) : Option Leaf :=
  (List.range 4).findSome? fun p => (List.range 16).findSome? fun q => match headRec s h p q with | .moving l => some l | _ => none

/-- QUEUE_DISPATCH (R368, R372). -/
def execQueueDispatch (h : Nat) (s : State) : Host.Outcome State Fault Refusal :=
  if quiesced s h then notNow s
  else match nextQueue s h with
    | none => (match movingToken s h with | some l => agentWaits s h l | none => notNow s)
    | some (p, q) =>
      let li := s.launches.length
      match headRec s h p q with
      | .none | .moving _ => notNow s
      | .unreadable => afterStep (refuse (takeHead s h p q (Vector.replicate 16 0)) li 1)
      | .record r tok =>
        let s := takeHead s h p q r
        let s := match tok with
          | some (l, c) => cellWrite s h l (c.take 8 ++ natLe 8 0)
          | Option.none => s
        if doneUnreadable s h r then afterStep (refuse s li 1)
        else
          let k := refuseReason s h p r false
          afterStep (if k = 0 then s else refuse s li k)

/-! ### Completion values -/

/-- Whether an earlier launch of the queue is still to put its value (R371). -/
def earlierDone (s : State) (d : Done) : Bool :=
  (s.dones.any fun e => e.hank == d.hank && e.queue == d.queue && decide (e.launch < d.launch))
    || ((s.launches.take d.launch).any fun l => l.hank == d.hank && l.queue == some d.queue && l.phase != .ended && recDone l.record != 0)

/-- Whether an access of the launch's waves is unperformed (R300). -/
def launchBusy (s : State) (li : Nat) : Bool :=
  (s.waves.mapIdx fun w v => v.launch == li && unperformed s w).any id

/-- DONEHELD of a queue (R366). -/
def markHeld (s : State) (h : Nat) (q : Nat × Nat) : State :=
  let held := s.dones.any fun d => d.hank == h && d.queue == q && d.held
  queueStat s h q.1 q.2 0xFFFB (if held then 4 else 0)

/-- Puts a completion value (R371): it enters the cell, waits on a full one, or is skipped with a TOKENDROP record. -/
def putDone (s : State) (d : Done) : Host.Outcome State Fault Refusal :=
  let drop := { s with dones := s.dones.filter fun e => e.launch != d.launch }
  match cellOf s d.hank d.cell.toNat with
  | .wait l => agentWaits s d.hank l
  | .bad => afterStep (markHeld (errRecord drop 1 0xFF d.hank 13 d.cell (BitVec.ofNat 64 (16 * d.queue.1 + d.queue.2))) d.hank d.queue)
  | .ok l c =>
    if cellFull c then
      if d.held then notNow s
      else
        afterStep (markHeld { s with dones := s.dones.map fun e => if e.launch = d.launch then { e with held := true } else e } d.hank d.queue)
    else afterStep (markHeld (cellWrite drop d.hank l (natLe 8 d.value.toNat ++ natLe 8 1)) d.hank d.queue)

/-- DONE_TOKEN_PUT (R371): the value of an ended launch, in dispatch order. -/
def execDoneTokenPut (launch : Nat) (s : State) : Host.Outcome State Fault Refusal :=
  match s.dones.find? fun d => d.launch == launch with
  | none => notNow s
  | some d => if d.held || earlierDone s d || launchBusy s launch then notNow s else putDone s d

/-- DONE_TOKEN_RETRY (R371): a held value is tried again. -/
def execDoneTokenRetry (launch : Nat) (s : State) : Host.Outcome State Fault Refusal :=
  match s.dones.find? fun d => d.launch == launch with
  | none => notNow s
  | some d => if d.held then putDone s d else notNow s

/-! ### Bins -/

/-- Whether a template is valid (R377). -/
def templateOk (s : State) (h : Nat) (r : Vector DWord 16) : Bool :=
  refuseReason s h 0 r true == 0 && decide (1 ≤ recRlen r ∧ recRlen r ≤ 16 ∧ 1 ≤ recMaxrec r ∧ recBatch r ≤ recMaxrec r)
    && recDone r == 0 && recWait r == 0 && extentProd r (unitLevel r) 8 == recExtent r (unitLevel r)

/-- One team of a bin's template with its oldest records, which it takes from the bin's store (R376, R378). -/
def launchBin (s : State) (h : Nat) (b : Bin) : State :=
  let n := min b.recs.length (recMaxrec b.template)
  let s := modBin s h b.num fun k => { k with recs := k.recs.drop n }
  { s with
    launches := s.launches ++ [{ hank := h, queue := none, bin := some b.num, record := b.template, phase := .pending, nextTeam := 0,
                                 nabort := 0, reason := 0, recs := (b.recs.take n).map fun x => s.mem.readBytes (binPlace s h b x.2) b.len }] }

/-- BIN_LAUNCH (R378): the bin holds BATCH records, at least one. -/
def execBinLaunch (h b : Nat) (s : State) : Host.Outcome State Fault Refusal :=
  match binOf s h b with
  | none => notNow s
  | some k => if binOn s h b && decide (max 1 (recBatch k.template) ≤ k.recs.length) then afterStep (launchBin s h k) else notNow s

/-- BIN_TIMER_EXPIRY (R378): the oldest record has waited TIMER · 1024 cycles of the clock. -/
def execBinTimerExpiry (h b : Nat) (s : State) : Host.Outcome State Fault Refusal :=
  match binOf s h b with
  | none => notNow s
  | some k =>
    match k.recs with
    | [] => notNow s
    | (t, _) :: _ =>
      if !binOn s h b || recTimer k.template == 0 then notNow s
      else afterStep (launchBin { s with clock := max s.clock (t + 1024 * recTimer k.template) } h k)

end Sys2Proof.Machine
end

