-- ==== Sys2Proof/Machine/Placement.lean ====
section
/-! DEFINITION. Placement (19_scheduler R373, R374): the order of pending teams, the state of a wave at its start (01 R17, R18, R22, R27,
11 R270), teams placed. -/

namespace Sys2Proof.Machine

/-! ### A wave at its start -/

/-- `%lvl`i of a wave by its number (R17, R18). -/
def levelIndex (r : Vector DWord 16) (waveid i : Nat) : Nat :=
  if i = 0 ∨ recNlev r < i then 0 else waveid / extentProd r 1 i % recExtent r i

/-- The registers of the access thread at start (R22). -/
def accessRegs (r : Vector DWord 16) (waveid : Nat) (kptr : DWord) : Vector Row 32 :=
  Vector.ofFn fun k : Fin 32 =>
    if k.val = 0 then Word.splat (Word.lo kptr)
    else if k.val = 1 then Word.splat (Word.hi kptr)
    else if k.val = 2 then rowOf fun l => BitVec.ofNat 32 l
    else if k.val < 10 then Word.splat (BitVec.ofNat 32 (levelIndex r waveid (k.val - 2)))
    else if k.val < 18 then Word.splat (BitVec.ofNat 32 (recExtent r (k.val - 10)))
    else Word.splat 0

/-- The one strand of a wave at its start (R10, R27). -/
def entryStrand (num : Nat) (pc : DWord) : Strand :=
  { num := num, mask := 0xFF, pc := pc, clause := none, park := .none, handler := false }

/-- A wave at its start (R27). A launch may have more than 2^32 waves (R15); `%waveid` then holds the number modulo 2^32 (log 31). -/
def startWave (h li ti slotCls : Nat) (r : Vector DWord 16) (waveid : Nat) (seat : Nat × Nat) (slot ply : Nat) (rpstat : Word) : Wave :=
  let kptr := r[2]?.getD 0
  let acc := r[1]?.getD 0
  { phase := .live, launch := li, team := ti, hank := h, core := seat.1, bay := seat.2, slot := slot
    waveid := BitVec.ofNat 32 waveid
    lvl := Vector.ofFn fun i : Fin 8 => BitVec.ofNat 32 (levelIndex r waveid i)
    ext := Vector.ofFn fun i : Fin 8 => BitVec.ofNat 32 (recExtent r i)
    kptr := kptr, nregs := declaredRegs r slotCls
    regs := Vector.replicate 256 (Word.splat 0), affine := [], drowsy := []
    strands := [entryStrand 0 (r[0]?.getD 0)], exited := 0
    flags := Vector.replicate 12 0, tokens := [], nextTok := 0
    ply := ply, fcr := 0, ars := 0, rpstat := rpstat, gst := 0, clkLatch := none
    trapRegs := { fcause := 0, fmask := 0, fpc := 0, faddrlo := 0, faddrhi := 0, finfo := 0 }
    trap := none, more := none, finish := none, monitor := none, yarns := Vector.replicate 8 Yarn.closed
    access := if acc = 0 then none
      else some { strand := entryStrand 8 acc, regs := accessRegs r waveid kptr, affine := [0], ended := false }
    rays := Vector.replicate 8 RaySlot.empty, region := none, idem := none, arrivals := [], pair := none
    preempt := .none, clauseCount := Vector.replicate 8 0, image := none, ctx := 0, latch := none }

/-! ### Teams -/

/-- The scratch slices of a placed team (R352). -/
def teamSlices (t : Team) : List (Nat × Nat) :=
  if t.wide then
    let c0 := t.cores.headD 0
    (List.range 4).map fun e => (if t.cores.contains (coreAt (clusterOf c0) e) then coreAt (clusterOf c0) e else c0, t.sliceKib)
  else [(t.cores.headD 0, t.sliceKib)]

/-- Whether a team's scratch is in use: it is placed, or its waves' accesses are still to be performed (R200). -/
def scratchHeld (s : State) (ti : Nat) (t : Team) : Bool :=
  t.phase == .placed || (t.phase == .ended && s.waves.any fun v => v.team == ti && v.phase == .retired)

/-- Whether a wave has its slot: a live or retired one (R200), and a saved one until all of its team are saved (R16, R43). -/
def holdsSlot (s : State) (v : Wave) : Bool :=
  v.phase == .live || v.phase == .retired
    || (v.phase == .saved && (match s.teams[v.team]? with | some t => t.phase == .placed | none => false))

/-- The room of a hank with some teams taken away (R352, R373, R383). -/
def roomWithout (s : State) (h : Nat) (ts : List Nat) : Room :=
  { cap := Config.slotsPerBay (slotClass s h)
    used := (s.waves.filter fun v => holdsSlot s v && (v.phase == .retired || !ts.contains v.team)).map fun v => (v.core, v.bay)
    scr := (s.teams.mapIdx fun i t => if scratchHeld s i t && !ts.contains i then teamSlices t else []).flatten }

/-- The room of a hank as it stands. -/
def roomOf (s : State) (h : Nat) : Room := roomWithout s h []

/-- The lowest free slot of a bay. -/
def freeSlot (s : State) (seat : Nat × Nat) : Nat :=
  (lowestFree 48 ((s.waves.filter fun v => holdsSlot s v && (v.core, v.bay) == seat).map (·.slot))).getD 0

/-- Adds the waves of a unit (R18, R27), from the number `wid` up. -/
def addWaves (h li ti slotCls : Nat) (r : Vector DWord 16) (ply : Nat) (rpstat : Word) : List (Nat × Nat) → Nat → State → State
  | [], _, s => s
  | b :: bs, wid, s =>
    let v := startWave h li ti slotCls r wid b (freeSlot s b) ply rpstat
    addWaves h li ti slotCls r ply rpstat bs (wid + 1) { s with waves := s.waves ++ [v] }

/-- Adds one unit with its waves (R373). -/
def addTeam (s : State) (h li idx : Nat) (l : Launch) (role : Role) (p : Seat) : State :=
  let r := l.record
  let ti := s.teams.length
  let wide := match teamLevel? r with | some t => recDomain r t == 4 | none => false
  let s := { s with
    teams := s.teams ++ [{ launch := li, index := idx, hank := h, role := role, phase := .placed, wide := wide, cores := p.cores
                           sliceKib := sliceSize r, scratch := [], zeroed := false, recs := l.recs
                           recLen := match l.bin with | some _ => 16 * recRlen r | none => 0
                           order := s.fresh, ctx := none }]
    fresh := s.fresh + 1 }
  addWaves h li ti (slotClass s h) r (recPly r) (match role with | .single => 0 | .leader => 1 | .trailer => 3)
    p.bays (idx * wavesPerUnit r) s

/-- The checkpoint that stands for the launch state (R272). -/
def entryCheckpoint (pc : DWord) : Checkpoint := { regs := [], marks := [], lanes := 0xFF, pc := pc }

/-- Makes a pair of two waves (R270, R425): two sibling plies under CTRL.PLY, an empty compare buffer. -/
def addPair (s : State) (h lead trail parent : Nat) (pc : DWord) : State :=
  match freePlies (hankOf s h) with
  | a :: b :: _ =>
    let k := s.pairs.length
    let s := addPlies s h parent ((plyOf? (hankOf s h) parent).bind (·.life)) [a, b]
    let s := { s with
      pairs := s.pairs ++ [{ hank := h, leader := lead, trailer := trail, plyL := a, plyT := b, parent := parent, sigL := [], sigT := []
                             nchk := 0, retry := 0, ckL := entryCheckpoint pc, ckT := entryCheckpoint pc, vals := [], rendL := false
                             rendT := false, fork := none, active := true }] }
    modWave (modWave s lead fun v => { v with ply := a, pair := some k }) trail fun v => { v with ply := b, pair := some k }
  | _ => s

/-- Places one unit, with its trailer where the launch is paired (R373). -/
def placeUnit (li : Nat) (l : Launch) (s : State) (x : Nat × Seat × Option Seat) : State :=
  let w0 := s.waves.length
  match x.2.2 with
  | none => addTeam s l.hank li x.1 l .single x.2.1
  | some q =>
    let s := addTeam (addTeam s l.hank li x.1 l .leader x.2.1) l.hank li x.1 l .trailer q
    let n := x.2.1.bays.length
    (List.range n).foldl (fun s j => addPair s l.hank (w0 + j) (w0 + n + j) (recPly l.record) (l.record[0]?.getD 0)) s

/-! ### The order of placement -/

/-- A pending team (R374): a saved team to restore, or a launch's next team. -/
inductive PendingTeam where
  | saved (t : Nat)
  | next (launch : Nat)
deriving DecidableEq, Repr

/-- The place of a pending team in the order of R374, as numbers compared one after another. -/
structure PendKey where
  prio : Nat
  kind : Nat
  launch : Nat
  index : Nat
deriving DecidableEq, Repr

/-- Whether a key stands before another. -/
def PendKey.before (a b : PendKey) : Bool :=
  if a.prio ≠ b.prio then decide (b.prio < a.prio)
  else if a.kind ≠ b.kind then decide (a.kind < b.kind)
  else if a.launch ≠ b.launch then decide (a.launch < b.launch)
  else decide (a.index < b.index)

/-- Whether every wave of a team is saved or over, and the team waits for its restore (R329). -/
def teamSaved (t : Team) : Bool := t.phase == .saved

/-- The pending teams of a hank with their keys (R374, R378): a bin's launch stands before queued ones of its priority. -/
def pendingTeams (s : State) (h : Nat) : List (PendKey × PendingTeam) :=
  ((s.teams.mapIdx fun i t =>
    if t.hank == h && teamSaved t then
      (s.launches[t.launch]?).map fun l => ((⟨recPrio l.record, 0, t.launch, t.index⟩ : PendKey), PendingTeam.saved i)
    else none).filterMap id)
  ++ ((s.launches.mapIdx fun i l =>
    if l.hank == h && (l.phase == .pending || l.phase == .running) && decide (l.nextTeam < unitCount l) then
      some ((⟨recPrio l.record, if l.bin.isSome then 1 else 2, i, l.nextTeam⟩ : PendKey), PendingTeam.next i)
    else none).filterMap id)

/-- The pending team that is placed next (R374). -/
def headPending (s : State) (h : Nat) : Option PendingTeam :=
  ((pendingTeams s h).foldl (fun o p => match o with
    | none => some p
    | some q => if p.1.before q.1 then some p else o) none).map Prod.snd

/-- The teams of a launch that are placed together from its next one on (R342, R374). -/
def togetherTeams (l : Launch) : List Nat :=
  let n := unitCount l
  let m := if recCoop l.record then n else min n ((l.nextTeam / max 1 (chunkTeams l.record) + 1) * chunkTeams l.record)
  (List.range (m - l.nextTeam)).map fun k => l.nextTeam + k

/-- Whether the plies and reservations that a paired placement needs are free (R236, R373, R425); a CTRL.PLY that is not live is found at the
placement (R372). -/
def pairRoom (s : State) (l : Launch) (units : Nat) : Bool :=
  let n := units * wavesPerUnit l.record
  !recPaired l.record
    || (decide (2 * n ≤ (freePlies (hankOf s l.hank)).length ∧ pairsHeld s l.hank + n ≤ 64)
        && (forkStatus (hankOf s l.hank) (recPly l.record) 0 == 0 || !isLive (hankOf s l.hank) (recPly l.record)) && !keepBusy s l.hank)

/-- The most units that could ever be resident: a bound that keeps a large COOP launch from being counted out. -/
def fitsBound (s : State) (h : Nat) (l : Launch) : Bool :=
  !recCoop l.record || decide (unitCount l * wavesPerUnit l.record ≤ 576 * (hankCores s h).length)

/-- Where the next teams of a launch go in a room, if they can be placed there (R373, R374). -/
def seatsFor (s : State) (l : Launch) (room : Room) : Option (List (Nat × Seat × Option Seat)) :=
  if !fitsBound s l.hank l || !pairRoom s l (togetherTeams l).length then none
  else (seatLaunch l.record (hankCores s l.hank) (chunksOf (chunkTeams l.record) (togetherTeams l)) room).map Prod.snd

/-- The teams are placed and their waves start (R370, R373). -/
def placeTeams (s : State) (li : Nat) (l : Launch) (xs : List (Nat × Seat × Option Seat)) : State :=
  let s := xs.foldl (placeUnit li l) s
  { s with launches := s.launches.modify li fun l => { l with phase := .running, nextTeam := l.nextTeam + xs.length } }

/-- TEAM_PLACEMENT (R372 reason 11, R373, R374): the first pending team of the order is placed, or its launch is refused. -/
def execTeamPlacement (h : Nat) (s : State) : Host.Outcome State Fault Refusal :=
  match headPending s h with
  | some (.next li) =>
    match s.launches[li]? with
    | none => notNow s
    | some l =>
      match seatsFor s l (roomOf s h) with
      | none => notNow s
      | some xs =>
        if l.nextTeam = 0 && !isLive (hankOf s h) (recPly l.record) then afterStep (refuse s li 11)
        else if s.sysc.stage = 15 then notNow s
        else afterStep (placeTeams s li l xs)
  | _ => notNow s

end Sys2Proof.Machine
end

