-- ==== Sys2Proof/Machine/Preempt.lean ====
section
/-! DEFINITION. Pre-emption (13 R324-R331, 19 R383): the choice of victims, the wave context, saves and restores. -/

namespace Sys2Proof.Machine

/-! ### Wave contexts -/

/-- A row as it lies in a context: lane 0 first. -/
def rowBytes (r : Row) : Bytes := r.toList.flatMap fun w => natLe 4 w.toNat

/-- The liveness record a wave is saved under (R325): none for a full save. -/
def Wave.hint (v : Wave) : Option (Nat × Bytes) := match v.preempt with | .hint n bs => some (n, bs) | _ => none

/-- Whether a save keeps a register, a yarn, an accumulator (R265). -/
def keepsReg (r : Option (Nat × Bytes)) (k : Nat) : Bool := match r with | none => true | some p => (liveMap p.2).getLsbD k
def keepsYarn (r : Option (Nat × Bytes)) (k : Nat) : Bool := match r with | none => true | some p => bitN (liveYarns p.2) k
def keepsAcc (r : Option (Nat × Bytes)) (k : Nat) : Bool := match r with | none => true | some p => bitN (liveAccs p.2) k

/-- A STRANDS entry's PARK and PDATA (R331). -/
def strandPark (s : State) (v : Wave) (t : Strand) : Nat × Nat :=
  let word := fun (ph id level : Nat) => ph % 2 ^ 16 * 2 ^ 16 + id * 2 ^ 12 + level * 2 ^ 8
  if t.handler then (6, 0)
  else match t.park with
    | .fault _ _ => (1, 0)
    | .join j _ => (3, j.toNat % 2 ^ 32)
    | .bar level id ph => (4, word ph id level)
    | .barw level id => (5, word ((arrivalOf v level id ((lowest t.mask).getD 0)).getD 0) id level)
    | .block _ _ | .needle | .mwait | .keep _ _ | .check _ => (2, 0)
    | .hold _ => (((parkedAt s v t).any isBlocking).toNat * 2, 0)
    | _ => (0, 0)

/-- A STRANDS entry (R331). -/
def strandEntry (s : State) (v : Wave) (t : Strand) : Bytes :=
  let p := strandPark s v t
  let done := match t.clause with | some c => c.done.toNat | none => 0
  natLe 8 t.wordPc.toNat ++ natLe 8 (p.2 * 2 ^ 32 + p.1 * 2 ^ 28 + done * 2 ^ 8 + t.mask.toNat)

/-- The strand whose table entry has number n (R316, R330): the strands that an access thread's trap set aside keep theirs, but for those that
the handler's strands took (log 24). -/
def Wave.entryOf (v : Wave) (n : Nat) : Option Strand := v.everyStrand.find? fun t => t.num == n

/-- The strand table of a context (R330). -/
def strandTable (s : State) (v : Wave) : Bytes :=
  (List.range 8).flatMap fun n => match v.entryOf n with | some t => strandEntry s v t | none => natLe 16 0

/-- TRAPREGS (R330): zero outside a handler; the trap entry keeps the done mask of the strand whose table entry the handler took (R316). -/
def trapBlock (v : Wave) : Bytes :=
  match v.trap with
  | none => natLe 32 0
  | some e =>
    let own := e.aside.find? fun t => v.strands.any fun u => u.handler && u.num == t.num
    let done := match (own.or e.aside.head?).bind (·.clause) with | some c => c.done.toNat | none => 0
    let r := v.trapRegs
    ([r.fcause, r.fmask, r.fpc, r.faddrlo, r.faddrhi, r.finfo].flatMap fun w => natLe 4 w.toNat)
      ++ natLe 2 done ++ natLe 2 e.mask.toNat ++ natLe 4 e.hi.toNat

/-- ACCPC and ACCREGS (R330, R347): byte 10 says that the thread stands at a held or parked word, the first of a clause that waits for a pending
register among them. -/
def accessBlock (v : Wave) : Bytes :=
  match v.access.filter fun a => !a.ended with
  | none => natLe (16 + 16 + 1024) 0
  | some a =>
    let done := match a.strand.clause with | some c => c.done.toNat | none => 0
    natLe 8 a.strand.wordPc.toNat ++ natLe 2 done ++ natLe 6 (a.strand.park != .none).toNat ++ natLe 16 0
      ++ (a.regs.toList.flatMap rowBytes)

/-- RAYS (R330): absent when no slot has been traced. -/
def raysBlock (v : Wave) : Bytes :=
  let rs := v.rays.toList
  if rs.any fun r => r.args.isSome then
    natLe 32 ((rs.mapIdx fun k r => r.args.isSome.toNat * 2 ^ k).sum)
      ++ rs.flatMap fun r => r.result.toList.flatMap fun l => l.toList.flatMap fun w => natLe 4 w.toNat
  else []

/-- A YARNS entry (R330). -/
def yarnEntry (y : Yarn) : Bytes :=
  let pad := fun n (bs : Bytes) => bs ++ List.replicate (n - bs.length) 0
  pad 128 ((y.desc.toList.flatMap fun w => natLe 8 w.toNat) ++ natLe 2 y.seq.toNat ++ natLe 4 y.pushed ++ natLe 4 y.popped
      ++ natLe 1 y.stages.length ++ pad 16 (y.stages.flatMap fun g => natLe 2 g.seq.toNat)
      ++ pad 8 (y.stages.map fun g => match g.st with | .poisoned _ => 2 | _ => 1))
    ++ y.stages.flatMap fun g => g.data

/-- RESTART (R330). -/
def restartBlock (v : Wave) : Bytes :=
  match v.idem with
  | none => []
  | some r =>
    natLe 8 r.entry.toNat ++ natLe 1 r.lanes.toNat ++ natLe 1 r.restarts ++ natLe 22 0 ++ natLe 32 r.regmap.toNat
      ++ r.saved.flatMap fun p => rowBytes p.2

/-- The part of a context after CTXHDR and before REGS (R330). -/
def contextFixed (s : State) (v : Wave) : Bytes :=
  natLe 4 v.fcr.toNat ++ natLe 4 v.ars.toNat ++ natLe 4 v.gst.toNat ++ natLe 4 (rpstatOf s v).toNat
    ++ natLe 8 ((v.flags.toList.mapIdx fun n f => f.toNat * 16 ^ n).sum) ++ natLe 32 v.ply
    ++ strandTable s v ++ trapBlock v ++ accessBlock v

/-- A wave context (R330): the wave as it is saved under record `r`, `me` when it holds the needle. -/
def contextOf (s : State) (v : Wave) (r : Option (Nat × Bytes)) (me : Option MeImage) : Bytes :=
  let rays := raysBlock v
  let tail := contextFixed s v
    ++ (((List.range v.nregs).filter (keepsReg r)).flatMap fun k => rowBytes (v.reg k)) ++ rays
    ++ ((v.yarns.toList.filter (·.isOpen)).flatMap yarnEntry)
    ++ (match me with
        | none => []
        | some m =>
          (((List.range 4).filter (keepsAcc r)).flatMap fun k =>
            (m.accs[k]?.getD (Vector.replicate 8 (Vector.replicate 32 0))).toList.flatMap fun row => row.toList.flatMap fun w => natLe 4 w.toNat)
            ++ natLe 128 m.mstat.toNat)
    ++ restartBlock v
  natLe 8 ((match r with | some p => p.1 | none => 0xFFFF) + me.isSome.toNat * 2 ^ 16 + v.trap.isSome.toNat * 2 ^ 17
      + v.idem.isSome.toNat * 2 ^ 18 + v.rpstat.toNat % 2 * 2 ^ 19 + (v.access.any fun a => !a.ended).toNat * 2 ^ 20
      + (!rays.isEmpty).toNat * 2 ^ 21 + ((List.range 8).filter fun n => (v.entryOf n).isSome).length * 2 ^ 24 + (8 + tail.length) * 2 ^ 32) ++ tail

/-- The 16-byte granules of a wave's context that take poison from what it saves (R421), each with its source: registers, those of the access
thread, queued stages, and accumulators. -/
def contextPoison (s : State) (w : Nat) (v : Wave) (r : Option (Nat × Bytes)) (me : Option MeImage) : List (Nat × Nat) :=
  if s.poison.isEmpty && v.yarns.toList.all (fun y => y.stages.all fun g => g.marks.isEmpty) then []
  else
    let kept := (List.range v.nregs).filter (keepsReg r)
    let rows := fun (at' : Nat) (ns : List Nat) =>
      ns.zipIdx.flatMap fun p => [0, 1].filterMap fun q => (poisonAt s (.reg w p.1 q)).map fun d => (at' + 2 * p.2 + q, d)
    let yarns := v.yarns.toList.filter (·.isOpen)
    let size := fun (y : Yarn) => 8 + (y.stages.map fun g => g.data.length / 16).sum
    let y0 := 80 + 2 * kept.length + (raysBlock v).length / 16
    let stages := yarns.zipIdx.flatMap fun p =>
      p.1.stages.zipIdx.flatMap fun g =>
        g.1.marks.map fun m => (y0 + ((yarns.take p.2).map size).sum + 8 + ((p.1.stages.take g.2).map fun x => x.data.length / 16).sum + m.1, m.2)
    let a0 := y0 + (yarns.map size).sum
    let accs := match me with
      | none => []
      | some m => m.poison.map fun x => (a0 + 64 * ((List.range x.1).filter (keepsAcc r)).length + 8 * x.2.1 + x.2.2.1, x.2.2.2)
    (if v.access.any fun a => !a.ended then rows 16 ((List.range 32).map (256 + ·)) else []) ++ rows 80 kept ++ stages ++ accs

/-! ### The context pool -/

/-- The room of a wave's context (R383). -/
def waveRoom (nregs : Nat) : Nat := roundUp (73184 + 64 * nregs) 4096

/-- The room of a team's block (R383): its scratch image, and 4 KiB of barrier state. -/
def teamBlock (t : Team) : Nat := (t.slices.map Prod.snd).sum + 4096

/-- The live waves of a team. -/
def liveOf (s : State) (ti : Nat) : List Nat :=
  (s.waves.mapIdx fun i v => (i, v)).filterMap fun p => if p.2.team = ti ∧ p.2.phase = .live then some p.1 else none

/-- The registers that a team's waves declare. -/
def teamRegs (s : State) (ti : Nat) : Nat := match s.waves.find? fun v => v.team == ti with | some v => v.nregs | none => 0

/-- The room of a team with its waves (R383). -/
def victimRoom (s : State) (ti : Nat) (t : Team) : Nat := teamBlock t + (liveOf s ti).length * waveRoom (teamRegs s ti)

/-- The blocks of a hank's context pool that are reserved. -/
def poolBlocks (s : State) (h : Nat) : List (Nat × Nat) :=
  (s.teams.filter fun t => t.hank == h && t.phase != .ended).filterMap (·.ctx)

/-- Whether a block of the pool is free. -/
def blockFree (s : State) (h : Nat) (b : Nat × Nat) : Bool :=
  decide (b.1 + b.2 ≤ 2 ^ 16 * bitsN (hreg s h 0x190).toNat 23 0)
    && (poolBlocks s h).all fun c => decide (b.1 + b.2 ≤ c.1 ∨ c.1 + c.2 ≤ b.1)

/-- A free block of `n` bytes (R383): at a place of the G96's choosing (log 21), else the lowest after a block in use. -/
def findBlock (s : State) (h n : Nat) : Option (Nat × Nat) :=
  let own := (4096 * Config.ctxPick s.fresh, n)
  if blockFree s h own then some own
  else ((0 :: (poolBlocks s h).map fun c => c.1 + c.2).map fun a => (a, n)).find? (blockFree s h)

/-- Requests the pre-emption of teams one after another (R383); none when the pool has no room for one of them. -/
def askTeams (h : Nat) : List Nat → State → Option State
  | [], s => some s
  | ti :: ts, s =>
    match s.teams[ti]? with
    | none => askTeams h ts s
    | some t =>
      match findBlock s h (victimRoom s ti t) with
      | none => none
      | some b =>
        let s := modTeam { s with fresh := s.fresh + 1 } ti fun t => { t with ctx := some b }
        askTeams h ts ((liveOf s ti).mapIdx (fun k w => (k, w)) |>.foldl (fun s p =>
          modWave s p.2 fun v =>
            { v with preempt := .asked, clauseCount := Vector.replicate 8 0, ctx := b.1 + teamBlock t + p.1 * waveRoom v.nregs }) s)

/-! ### Victims -/

/-- The priority of a team's launch. -/
def teamPrio (s : State) (t : Team) : Nat := match s.launches[t.launch]? with | some l => recPrio l.record | none => 0

/-- The teams saved together with a team (R326, R383): a COOP launch, a leader with its trailer. -/
def teamUnit (s : State) (ti : Nat) : List Nat :=
  match s.teams[ti]? with
  | none => []
  | some t =>
    let coop := match s.launches[t.launch]? with | some l => recCoop l.record | none => false
    (List.range s.teams.length).filter fun i => match s.teams[i]? with
      | some u => u.launch == t.launch && u.phase == t.phase && (coop || u.index == t.index)
      | none => false

/-- Whether a team's pre-emption has been requested already. -/
def askedTeam (s : State) (ti : Nat) : Bool :=
  match s.teams[ti]? with
  | some t => t.phase == .placed && t.ctx.isSome
  | none => false

/-- The placed teams below a priority, in the order in which they are chosen (R383). -/
def victims (s : State) (h p : Nat) : List Nat :=
  let ts := (s.teams.mapIdx fun i t => (i, t)).filter fun q =>
    q.2.hank == h && q.2.phase == .placed && q.2.ctx.isNone && decide (teamPrio s q.2 < p)
  let before := fun (a b : Nat × Team) =>
    decide (teamPrio s a.2 < teamPrio s b.2) || (teamPrio s a.2 == teamPrio s b.2 && decide (b.2.order < a.2.order))
  (ts.foldr (fun x ys => (ys.takeWhile fun y => before y x) ++ x :: (ys.dropWhile fun y => before y x)) []).map Prod.fst

/-- Adds victims until a test holds (R383). -/
def gather (s : State) (ok : List Nat → Bool) : List Nat → List Nat → Option (List Nat)
  | [], _ => none
  | t :: ts, acc =>
    if acc.contains t then gather s ok ts acc
    else
      let acc' := acc ++ teamUnit s t
      if ok acc' then some acc' else gather s ok ts acc'

/-- Leaves out victims whose removal is not needed, those chosen last first. -/
def prune (s : State) (ok : List Nat → Bool) : List Nat → List Nat → List Nat
  | [], acc => acc
  | t :: ts, acc =>
    let less := acc.filter fun x => !(teamUnit s t).contains x
    prune s ok ts (if ok less then less else acc)

/-! ### Where a saved team goes -/

/-- The cores that a team of a chunk may take when its siblings are placed (R342, R373). -/
def homeCores (s : State) (h : Nat) (t : Team) (r : Vector DWord 16) : List Nat :=
  let m := max 1 (chunkTeams r)
  let sib := s.teams.find? fun u => u.launch == t.launch && u.role == t.role && u.phase == .placed && u.index / m == t.index / m
  match sib with
  | none => hankCores s h
  | some u => if recDomain r (chunkLevel r) = 3 then u.cores else coresIn (clusterOf (u.cores.headD 0)) (hankCores s h)

/-- Where the partner team of a pair is, or goes (R373). -/
def partnerCluster (s : State) (t : Team) (seats : List (Nat × Seat)) : Option Nat :=
  let at' := fun (i : Nat) (u : Team) =>
    if u.launch = t.launch ∧ u.role ≠ t.role ∧ u.index = t.index then
      (match seats.find? fun p => p.1 == i with
       | some p => some (clusterOf (p.2.cores.headD 0))
       | none => if u.phase = .placed then some (clusterOf (u.cores.headD 0)) else none)
    else none
  (s.teams.mapIdx at').findSome? id

/-- Seats for saved teams of one launch (R329, R342, R373): teams of one chunk and role go together. -/
def restoreSeats (s : State) (h : Nat) (r : Vector DWord 16) : Nat → List Nat → Room → List (Nat × Seat) → Option (List (Nat × Seat))
  | 0, _, _, acc => some acc
  | _, [], _, acc => some acc
  | fuel + 1, ti :: ts, room, acc =>
    match s.teams[ti]? with
    | none => none
    | some t =>
      let m := max 1 (chunkTeams r)
      let same := fun (i : Nat) => match s.teams[i]? with | some u => u.role == t.role && u.index / m == t.index / m | none => false
      let grp := ti :: ts.filter same
      let idx := grp.filterMap fun i => (s.teams[i]?).map (·.index)
      let cs := (homeCores s h t r).filter fun c => partnerCluster s t acc != some (clusterOf c)
      match seatChunk r cs idx room with
      | none => none
      | some q => restoreSeats s h r fuel (ts.filter fun i => !same i) q.1 (acc ++ grp.zip q.2)

/-- The record of a team's launch. -/
def teamRecord (s : State) (ti : Nat) : Vector DWord 16 :=
  match (s.teams[ti]?).bind fun t => s.launches[t.launch]? with
  | some l => l.record
  | none => Vector.replicate 16 0

/-- Where the head pending team goes in a room, if it can (R329, R373). -/
def fits (s : State) (h : Nat) (p : PendingTeam) (room : Room) : Bool :=
  match p with
  | .saved ti => (restoreSeats s h (teamRecord s ti) s.teams.length (teamUnit s ti) room []).isSome
  | .next li => match s.launches[li]? with | some l => (seatsFor s l room).isSome | none => false

/-- The priority of a pending team. -/
def pendingPrio (s : State) (p : PendingTeam) : Nat :=
  match p with
  | .saved ti => recPrio (teamRecord s ti)
  | .next li => match s.launches[li]? with | some l => recPrio l.record | none => 0

/-- PREEMPT_REQUEST (R383): victims for the head pending team are chosen and their pre-emption is requested. -/
def execPreemptRequest (h : Nat) (s : State) : Host.Outcome State Fault Refusal :=
  match headPending s h with
  | none => notNow s
  | some p =>
    let going := (List.range s.teams.length).filter (askedTeam s)
    let ok := fun (ts : List Nat) => fits s h p (roomWithout s h (going ++ ts))
    if ok [] then notNow s
    else match gather s ok (victims s h (pendingPrio s p)) [] with
      | none => notNow s
      | some vs =>
        match askTeams h (prune s ok vs.reverse vs) s with
        | none => notNow s
        | some s => afterStep s

/-- PROMISE_BROKEN (R325): a lane of a PROMISE wave has issued 4096 clauses since the request without a PHINT. -/
def execPromiseBroken (w : Nat) (s : State) : Host.Outcome State Fault Refusal :=
  onLive s w fun v =>
    if v.preempt = .asked ∧ recPromise (recordOf s v) ∧ v.clauseCount.any fun k => decide (4096 ≤ k) then
      afterStep { s with waves := s.waves.map fun u => if u.team = v.team ∧ u.preempt = .asked then { u with preempt := .full } else u }
    else notNow s

/-! ### Saves -/

/-- Whether a wave's save is due (R264, R325). A wave whose hint has been taken is saved under that record even when another of its strands has
started a handler since: R264 gives a taken hint its record, R325 a handler a full save (log 25). -/
def saveDue (s : State) (v : Wave) : Bool :=
  match v.preempt with
  | .hint _ _ | .full => true
  | .asked => !recPromise (recordOf s v) || v.trap.isSome || v.allParked
  | .none => false

/-- The copies that a hint save cancels (R326): those that write scratch which the record does not name. -/
def cancels (s : State) (v : Wave) (f : Flight) : Bool :=
  match v.hint with
  | none => false
  | some p =>
    f.kind == .engine && (s.markers.any fun m => m.flight == f.id && m.wr)
      && !(s.markers.any fun m => m.flight == f.id && m.wr &&
        (liveRanges p.2).any fun r => decide (16 * m.lo < r.1 + r.2 ∧ r.1 < 16 * m.hi + 16))

/-- Whether a wave's work in flight is settled, that which the save cancels apart (R326, R327): a full save aborts an atomic region, a hint save waits
for the commit of one. -/
def settled (s : State) (w : Nat) (v : Wave) : Bool :=
  s.flights.all fun f =>
    f.wave != w || f.returned || (f.kind == .commit && v.hint.isNone) || f.kind == .deferred || cancels s v f
      || (match f.kind with | .fill y _ _ => !keepsYarn v.hint y | _ => false)

/-- Whether a wave can be saved now (R264, R324-R326): no strand is inside a clause but parked ones and those that a trap stops, nothing is in
flight. -/
def saveReady (s : State) (w : Nat) (v : Wave) : Bool :=
  v.phase == .live && saveDue s v && !(s.running.any fun r => r.w == w && r.n != 8)
    && !(v.strands.any fun t => t.free && t.inClause && mayIssue s v t.num t) && settled s w v
    && !(s.waves.any fun u => u.team == v.team && u.pinned)

/-- The ME image of a needle holder (R26, R265). -/
def meImage (s : State) (v : Wave) (r : Option (Nat × Bytes)) : MeImage :=
  let b := bayOf s v.core v.bay
  { accs := b.accs.mapIdx fun k a => if keepsAcc r k then a else Vector.replicate 8 (Vector.replicate 32 0)
    mstat := b.mstat
    poison := s.poison.filterMap fun q => match q.1 with
      | .acc c y t i k => if c = v.core ∧ y = v.bay ∧ keepsAcc r t then some (t, i, k, q.2) else none
      | _ => none }

/-- What R326 makes of a wave's work and units before its context is written. -/
def settleForSave (s : State) (w : Nat) (v : Wave) : State :=
  let s := if v.hint.isNone then abortRegion s w 7 0 0 else s
  let s := cancelFlights s fun f => f.wave == w && cancels s v f
  let s := ((List.range 8).filter fun y => !keepsYarn v.hint y).foldl (fun s y => closeYarn s w y) s
  modWave (stopWave s w) w fun v => { v with monitor := none }

/-- The saved wave (R265, R329): what the record does not name is 0. -/
def Wave.saved (v : Wave) (r : Option (Nat × Bytes)) (me : Option MeImage) : Wave :=
  { v with
    phase := .saved, preempt := .none, drowsy := [], affine := [], latch := none, finish := none
    access := v.access.map fun a => { a with affine := [] }
    regs := v.regs.mapIdx fun k x => if keepsReg r k then x else Word.splat 0
    image := some { record := r.map Prod.fst, ranges := match r with | some p => liveRanges p.2 | none => [], me := me } }

/-- The poison of registers that a save drops. -/
def dropRegPoison (s : State) (w : Nat) (r : Option (Nat × Bytes)) : State :=
  { s with poison := s.poison.filter fun q => match q.1 with | .reg u k _ => u != w || decide (256 ≤ k) || keepsReg r k | _ => true }

/-- The ME image that a save keeps (R26): that of a needle holder, or the one that a restored wave has not got back yet. -/
def savedMe (s : State) (w : Nat) (v : Wave) (r : Option (Nat × Bytes)) : Option MeImage :=
  if (bayOf s v.core v.bay).holder = some w then some (meImage s v r) else v.image.bind (·.me)

/-- Saves one wave (R325, R326, R330): its context is written with the poison of what it holds (R421) and it leaves its needle; its slot is free once
its team is saved (R16). A keep of its own goes on (R244); its words that wait behind one are to arrive anew. -/
def saveWave (s : State) (w : Nat) : State :=
  match s.waves[w]? with
  | none => s
  | some v =>
    let r := v.hint
    let s := settleForSave s w v
    match s.waves[w]? with
    | none => s
    | some v =>
      let me := savedMe s w v r
      let at' := ctxBase s v.hank + v.ctx
      let s := (contextPoison s w v r me).foldl (fun s p => setPoison s (.phys (at' / 16 + p.1)) p.2) (homeWrite s v.hank true at' (contextOf s v r me))
      let s := modWave (leaveNeedle s w v) w fun v => v.saved r me
      let s := modHank s v.hank fun k => { k with dirQueue := k.dirQueue.filter fun x => x.1 != w }
      settleSave (dropRegPoison s w r) v.team

/-- The partner of a wave in an active pair. -/
def partnerOf (s : State) (w : Nat) (v : Wave) : Option Nat :=
  (pairOf s v).bind fun p => if p.2.leader = w then some p.2.trailer else some p.2.leader

/-- FULL_SAVE (R264, R325, R326): a wave whose save is due is saved, its partner with it. -/
def execFullSave (w : Nat) (s : State) : Host.Outcome State Fault Refusal :=
  onLive s w fun v =>
    if !saveReady s w v then notNow s
    else if Config.physBytes < ctxBase s v.hank + v.ctx + waveRoom v.nregs then .fault (.physicalHole (ctxBase s v.hank + v.ctx))
    else match partnerOf s w v with
      | none => afterStep (settleAll (saveWave s w))
      | some u =>
        match s.waves[u]? with
        | some x => if saveReady s u x then afterStep (settleAll (saveWave (saveWave s w) u)) else notNow s
        | none => notNow s

/-! ### Restores -/

/-- A restored needle holder waits for its bay's needle ahead of every NTAKE waiter (R382), or has it at once. -/
def queueNeedle (s : State) (w : Nat) (v : Wave) : State :=
  let waits := fun (u : Nat) => match s.waves[u]? with | some x => x.image.isSome | none => false
  let b := bayOf s v.core v.bay
  if b.holder = none ∧ b.fifo = [] then giveNeedle s v.core v.bay w
  else modBay s v.core v.bay fun b => { b with fifo := b.fifo.takeWhile waits ++ w :: b.fifo.dropWhile waits }

/-- A strand after a restore (R382): a waiter for the needle issues its NTAKE again. One parked at a PKEEP goes on when its keep is over (R248), which
may have come while it was saved. -/
def Strand.restored (t : Strand) : Strand := if t.park = .needle then { t with park := .none } else t

/-- Restores one wave on its core and bay (R329). -/
def restoreWave (seats : List (Nat × Nat)) (first : Nat) (s : State) (w : Nat) : State :=
  match s.waves[w]? with
  | none => s
  | some v =>
    let b := seats.getD (v.waveid.toNat - first) (0, 0)
    let slot := freeSlot s b
    let s := modWave s w fun v =>
      { v.modAll Strand.restored with
        phase := .live, core := b.1, bay := b.2, slot := slot
        image := match v.image with | some m => (if m.me.isSome then some m else none) | none => none }
    match s.waves[w]? with
    | some v => if v.image.isSome then queueNeedle s w v else s
    | none => s

/-- Restores one team (R329). -/
def restoreTeam (s : State) (p : Nat × Seat) : State :=
  match s.teams[p.1]? with
  | none => s
  | some t =>
    let s := modTeam { s with fresh := s.fresh + 1 } p.1 fun t => { t with cores := p.2.cores, order := s.fresh, ctx := none }
    let ws := (s.waves.mapIdx fun i v => (i, v)).filterMap fun q => if q.2.team = p.1 ∧ q.2.phase = .saved then some q.1 else none
    modTeam (ws.foldl (restoreWave p.2.bays (t.index * wavesPerUnit (teamRecord s p.1))) s) p.1 fun t => { t with phase := .placed }

/-- Whether no bay holds more than 64 KiB of yarns (R206, R329). -/
def buffersFit (s : State) : Bool :=
  s.waves.all fun v => v.phase != .live || decide (bayBuffer s v.core v.bay s.waves.length 0 ≤ 2 ^ 16)

/-- TEAM_RESTORE (R329, R374): the head pending team is a saved one, and it is restored with those saved together with it. -/
def execTeamRestore (team : Nat) (s : State) : Host.Outcome State Fault Refusal :=
  match s.teams[team]? with
  | none => notNow s
  | some t =>
    if headPending s t.hank ≠ some (.saved team) ∨ s.sysc.stage = 15 then notNow s
    else match restoreSeats s t.hank (teamRecord s team) s.teams.length (teamUnit s team) (roomOf s t.hank) [] with
      | none => notNow s
      | some ps =>
        let u := ps.foldl restoreTeam s
        if buffersFit u then afterStep (settleAll u) else notNow s

end Sys2Proof.Machine
end

