-- ==== Sys2Proof/Machine/Registers.lean ====
section
/-! DEFINITION. The device registers of BAR0 as software reads and writes them (22 R407, R410, R411): what a register reads, what a write of
a half leaves, quiescence, the memory regions that registers assign (18 R364), and accesses to registers. -/

namespace Sys2Proof.Machine

/-! ### Writes -/

/-- The value a register would hold after a write (R411): a 32-bit write, whose bits are the low half of `val`, keeps the other half. -/
def mergeWrite (x : RegWrite) (old : DWord) : DWord :=
  match x.half with
  | .full => x.val
  | .low => BitVec.ofNat 64 (old.toNat / 2 ^ 32 * 2 ^ 32 + x.val.toNat % 2 ^ 32)
  | .high => BitVec.ofNat 64 (x.val.toNat % 2 ^ 32 * 2 ^ 32 + old.toNat % 2 ^ 32)

/-- Clears the bits of `m` that the covered half writes as 1 (R411). -/
def clearOnes (x : RegWrite) (old m : DWord) : DWord := old &&& ~~~(mergeWrite x 0 &&& m)

/-- Whether a write is one of 64 bits, which a command register needs (R411). -/
def isFull (x : RegWrite) : Bool := x.half == .full

/-- Whether a value has no bit outside a mask (R8). -/
def fitsMask (v : DWord) (m : Nat) : Bool := v.toNat &&& m == v.toNat

/-- Boot complete (R431). -/
def inRun (s : State) : Bool := s.sysc.stage == 6

/-- Whether the driver acknowledged a feature (R438). -/
def feature (s : State) (n : Nat) : Bool := s.sysc.featack.getLsbD n

/-- Whether a hank's virtual function is present (R407, R411). -/
def vfOn (s : State) (h : Nat) : Bool := feature s 0 && (hreg s h 0).getLsbD 6

/-- Whether a write of a hank's control block reaches it (R411, R431). -/
def reaches (s : State) (h : Nat) (x : RegWrite) : Bool := inRun s && (!x.vf || vfOn s h)

/-! ### Quiescence -/

/-- Whether a hank has a team placed, pending or saved (R410). -/
def hasTeams (s : State) (h : Nat) : Bool :=
  (s.teams.any fun t => t.hank == h && t.phase != .ended)
    || s.launches.any fun l => l.hank == h && l.phase != .ended

/-- Whether a hank is quiescent (R410). -/
def quiescent (s : State) (h : Nat) : Bool :=
  let k := hankOf s h
  quiesced s h && !hasTeams s h && (k.bins.all fun b => b.recs.isEmpty) && (k.plies.all fun y => y.num == 0) && k.migr.isEmpty
    && k.ctxs.toList.all fun c => !c.busy

/-- Whether a formation register takes a write (R407). -/
def formOk (s : State) (h : Nat) (x : RegWrite) : Bool := !x.vf && quiescent s h && !(hankOf s h).wayBusy

/-! ### Reads -/

/-- TRCTL and TRSTAT of a context (R401). -/
def readContext (c : TrContext) (stat : Bool) : DWord :=
  if stat then BitVec.ofNat 64 (c.ndrop * 2 ^ 32 + c.badImg.toNat * 8 + c.fault.toNat * 4 + c.busy.toNat * 2 + c.loaded.toNat) else c.image

/-- A gauge's mirror (R424). -/
def readGauge (g : Gauge) (ctl : Bool) : DWord :=
  BitVec.ofNat 64 (if ctl then g.fails * 2 ^ 32 + g.type * 4 + g.mode else g.hi.toNat * 2 ^ 32 + g.lo.toNat)

/-- The core of its hank that PERFSEL names (R380). -/
def perfCore (s : State) (h : Nat) : Option Nat :=
  let v := (hreg s h 0x1A0).toNat
  let core := bitsN v 7 4 * 14 + bitsN v 3 0
  if bitsN v 7 4 < 8 ∧ bitsN v 3 0 < 14 ∧ coreInHank s h core then some core else none

/-- A 64-bit register of a hank's control block (R363, R365, R391, R401, R407, R424, R440). -/
def readHank (s : State) (h off : Nat) : DWord :=
  let k := hankOf s h
  if off = 0 then (hreg s h 0 &&& ~~~6) ||| BitVec.ofNat 64 (k.wayBusy.toNat * 4 + (quiescent s h).toNat * 2)
  else if off = 0x138 then BitVec.ofNat 64 ((hreg s h 0x130).toNat - k.taken.length)
  else if off = 0x140 then BitVec.ofNat 64 (!k.inv.isEmpty).toNat
  else if off = 0x160 then 0
  else if off = 0x1A8 then
    (match perfCore s h with | some core => Sparse.get (α := DWord) 0 s.perf core | none => 0)
  else if 0x400 ≤ off ∧ off < 0x500 then readGauge (gaugeOf s h ((off - 0x400) / 16)) (decide (off % 16 = 8))
  else if 0x1800 ≤ off ∧ off < 0x1880 then readContext (k.ctxs[(off - 0x1800) / 16]?.getD TrContext.reset) (decide (off % 16 = 8))
  else if 0x10000 ≤ off ∧ off < 0x50000 then
    if off % 0x1000 = 0 ∧ feature s 1 then hreg s h (0x1008 + 32 * ((off - 0x10000) / 0x1000)) else 0
  else hreg s h off

/-- Eight bytes of a byte string as a register. -/
def bytesAt (bs : Bytes) (off : Nat) : DWord := BitVec.ofNat 64 (leNat ((bs.drop off).take 8))

/-- A byte string of a given length (R433, R436, R439): cut, or filled with zeros. -/
def fixLen (n : Nat) (bs : Bytes) : Bytes := (bs ++ List.replicate n 0).take n

/-- A SHA3-256 digest: 32 bytes (R434, log 12). -/
def digest (bs : Bytes) : Bytes := fixLen 32 (Config.sha3 bs)

/-- The identity block (R437). -/
def readIdentity (s : State) (off : Nat) : DWord :=
  let y := s.sysc
  if off = 0 then BitVec.ofNat 64 (0x00363947 + y.stepping.toNat * 2 ^ 32)
  else if off = 0x008 then (if y.stage < 3 then 0 else y.enmask.setWidth 64)
  else if off = 0x010 then y.features
  else if 0x020 ≤ off ∧ off < 0x040 then bytesAt (if y.devkey = [] then [] else digest y.devkey) (off - 0x020)
  else if 0x040 ≤ off ∧ off < 0x060 then bytesAt y.fwDigest (off - 0x040)
  else if 0x060 ≤ off ∧ off < 0x080 then bytesAt y.fpDigest (off - 0x060)
  else if 0x100 ≤ off ∧ off < 0x100 + 1312 then bytesAt y.devkey (off - 0x100)
  else 0

/-- POWER (R442). -/
def readPower (y : Sysc) : DWord :=
  BitVec.ofNat 64 (y.throt.toNat * 2 ^ 40 + y.temp % 2 ^ 8 * 2 ^ 32 + y.watts % 2 ^ 16 * 2 ^ 16 + y.amhz % 2 ^ 16)

/-- The status block (R431, R438, R439, R442). -/
def readStatus (s : State) (off : Nat) : DWord :=
  let y := s.sysc
  if off = 0 then BitVec.ofNat 64 ((if y.stage = 15 then y.halt else 0) * 2 ^ 8 + y.stage)
  else if off = 0x008 then y.featack
  else if off = 0x010 then readPower y
  else if 0x100 ≤ off ∧ off < 0x120 then bytesAt y.nonce (off - 0x100)
  else if off = 0x120 then y.attctl
  else if off = 0x128 then BitVec.ofNat 64 y.attstat
  else 0

/-- A head's registers (R417). -/
def readHead (d : Head) (off : Nat) : DWord :=
  if off = 0x20 then BitVec.ofNat 64 (d.shown * 2 ^ 32 + d.flips.length) else if off = 0x28 then d.curSurf else d.regs.read off

/-- The reliability block (R427, R429). -/
def readRel (s : State) (off : Nat) : DWord := if off = 8 then BitVec.ofNat 64 (s.err.lost * 2 ^ 32 + s.err.tail) else s.rel.read off

/-- A 64-bit read of BAR0 (R411, R431). -/
def readReg (s : State) (off : Nat) : DWord :=
  if off < 0x1000 then readIdentity s off
  else if off < 0x2000 then readStatus s (off - 0x1000)
  else if !inRun s then 0
  else if 0x100000 ≤ off ∧ off < 0x100400 then readHead (headOf s ((off - 0x100000) / 0x100)) (off % 0x100)
  else if 0x200000 ≤ off ∧ off < 0x300000 then readRel s (off - 0x200000)
  else if 0x800000 ≤ off ∧ off < 0x1000000 then readHank s ((off - 0x800000) / 0x100000) (off % 0x100000)
  else 0

/-- What a read of BAR0 answers (R411): the half or the register that an aligned read of 4 or 8 bytes covers, zeros for any other. -/
def regData (v : Nat → DWord) (off size : Nat) : Bytes :=
  if (size = 4 ∨ size = 8) ∧ off % size = 0 then natLe size ((v (off / 8 * 8)).toNat / 2 ^ (8 * (off % 8))) else List.replicate size 0

/-- The completion of a BAR0 read (R411): through a virtual function it reads the control block of its hank; no function answers for one that is not
present (log 33). -/
def regRead (s : State) (off size : Nat) (vf : Option Nat) : HostOut :=
  match vf with
  | none => .data (regData (readReg s) off size) false
  | some h => if inRun s && vfOn s h then .data (regData (readHank s h) off size) false else .ur

/-! ### Memory regions -/

/-- The memory regions that a hank's registers assign (R364): kind, base, length. A BINBASE or MIGBASE of 0, as after reset, assigns none (log
33). -/
def hankRegions (s : State) (h : Nat) : List (Nat × Nat × Nat) :=
  let r := fun off => (hreg s h off).toNat
  [(0, r 0x108, 2 ^ 16 * r 0x110), (1, r 0x188, 2 ^ 16 * r 0x190), (2, r 0x180, if r 0x180 = 0 then 0 else 2 ^ 22),
   (3, r 0x128, 2 ^ 16 * r 0x130), (4, r 0x148, if r 0x148 = 0 then 0 else 4096)]

/-- Whether a region may be assigned (R364): within GDDR 7, and apart from every other. -/
def regionFree (s : State) (h kind base len : Nat) : Bool :=
  decide (base + len ≤ Config.physBytes)
    && (List.range 8).all fun g => (hankRegions s g).all fun r =>
      (g == h && r.1 == kind) || decide (len = 0 ∨ r.2.2 = 0 ∨ base + len ≤ r.2.1 ∨ r.2.1 + r.2.2 ≤ base)

/-- Whether a register write may change a hank's region, by the register's offset (R364, R365, R391). -/
def regionWriteOk (s : State) (h off v : Nat) : Bool :=
  let r := fun o => if o = off then v else (hreg s h o).toNat
  if off = 0x108 ∨ off = 0x110 then regionFree s h 0 (r 0x108) (2 ^ 16 * r 0x110)
  else if off = 0x188 ∨ off = 0x190 then regionFree s h 1 (r 0x188) (2 ^ 16 * r 0x190)
  else if off = 0x180 then regionFree s h 2 v (if v = 0 then 0 else 2 ^ 22)
  else if off = 0x128 ∨ off = 0x130 then regionFree s h 3 (r 0x128) (2 ^ 16 * r 0x130)
  else regionFree s h 4 v (if v = 0 then 0 else 4096)

/-! ### REGISTER_WRITE -/

/-- Stores a register when a write is accepted. -/
def storeIf (s : State) (h off : Nat) (v : DWord) (ok : Bool) : State := if ok then setHreg s h off v else s

/-- CLUSTERS of the other hanks. -/
def otherClusters (s : State) (h : Nat) : Nat :=
  ((List.range 8).filter (· != h)).foldl (fun m g => m ||| (hreg s g 0x008).toNat) 0

/-- Whether CLUSTERS may be written (R407). -/
def clustersOk (s : State) (h : Nat) (v : DWord) : Bool :=
  fitsMask v s.sysc.enmask.toNat && v.toNat &&& otherClusters s h == 0
    && (v == 0 || ((hreg s h 0x010).toNat % 2 ^ 16 != 0 && hreg s h 0x018 != 0))

/-- Whether TENSION may be written (R407). -/
def tensionOk (s : State) (h : Nat) (v : DWord) : Bool :=
  fitsMask v 0xFF
    && decide ((((List.range 8).filter (· != h)).map fun g => (hreg s g 0x018).toNat % 128).sum + v.toNat % 128 ≤ 64)
    && (hreg s h 0x008 == 0 || v != 0)

/-- The bits of a plain register that are not reserved, and whether it is written only while quiescent (R365, R391, R407). -/
def plainReg (off : Nat) : Option (Nat × Bool) :=
  match off with
  | 0x048 => some (0x7FF000F, false)
  | 0x120 => some (0xFFFFFFFFFF000, true)
  | 0x128 | 0x188 => some (0xFFFFFFFFF0000, true)
  | 0x130 | 0x190 => some (0xFFFFFF, true)
  | 0x148 => some (0xFFFFFFFFFF000, true)
  | 0x180 => some (0xFFFFFFFC00000, true)
  | 0x1A0 => some (0xFF, false)
  | _ => none

/-- Whether a register assigns a memory region. -/
def assignsRegion (off : Nat) : Bool := [0x128, 0x130, 0x148, 0x180, 0x188, 0x190].contains off

/-- A new frame pool starts with every frame free (R364). -/
def freshPool (s : State) (h off : Nat) : State := if off = 0x128 ∨ off = 0x130 then modHank s h fun k => { k with taken := [] } else s

/-- PERFSTAT's bits written as 1 are cleared (R380). -/
def perfClear (s : State) (h : Nat) (x : RegWrite) : State :=
  match perfCore s h with
  | none => s
  | some core =>
    if !fitsMask (mergeWrite x 0) 0xFFFFFFFFFFFF then s
    else { s with perf := Sparse.put (α := DWord) 0 s.perf core (clearOnes x (readHank s h 0x1A8) 0xFFFFFFFFFFFF) }

/-- Whether a register of a control block is written by a step of its own. -/
def ownStep (off : Nat) (v : DWord) : Bool :=
  [0x000, 0x010, 0x100, 0x108, 0x110, 0x138, 0x140, 0x158, 0x160].contains off
    || decide (0x200 ≤ off ∧ off < 0x400) || (decide (0x400 ≤ off ∧ off < 0x500) && decide (off % 16 = 8))
    || (decide (0x1000 ≤ off ∧ off < 0x1800) && off % 32 != 16)
    || (decide (0x10000 ≤ off ∧ off < 0x50000) && decide (off % 0x1000 = 0))
    || (decide (0x1800 ≤ off ∧ off < 0x1880) && off % 16 == 0 && v.toNat % 4 != 0)

/-- A write of a register of a control block that has no step of its own; every other offset ignores it. -/
def hankWrite (s : State) (h off : Nat) (x : RegWrite) : State :=
  let v := mergeWrite x (hreg s h off)
  if !reaches s h x then s
  else match off with
    | 0x008 => storeIf s h off v (formOk s h x && clustersOk s h v)
    | 0x018 => storeIf s h off v (formOk s h x && tensionOk s h v)
    | 0x020 => storeIf s h off v (formOk s h x && v.toNat % 8 == 0)
    | 0x028 => storeIf s h off v (formOk s h x && fitsMask v 0xFFFFFFFF)
    | 0x030 => storeIf s h off v (formOk s h x && v.toNat % 2 ^ 37 == 0)
    | 0x040 => if fitsMask (mergeWrite x 0) 0xF then setHreg s h off (clearOnes x (hreg s h off) 0xF) else s
    | 0x1A8 => perfClear s h x
    | _ =>
      match plainReg off with
      | some (m, q) =>
        if fitsMask v m && (!q || quiescent s h) && (!assignsRegion off || regionWriteOk s h off v.toNat) then
          freshPool (setHreg s h off v) h off
        else s
      | none =>
        if 0x1900 ≤ off ∧ off < 0x1980 then storeIf s h off v (!x.vf && quiescent s h)
        else if 0x1800 ≤ off ∧ off < 0x1880 ∧ off % 16 = 0 then
          let c := (off - 0x1800) / 16
          let k := (hankOf s h).ctxs[c]?.getD TrContext.reset
          if isFull x ∧ !k.busy ∧ fitsMask v 0xFFFFFFFFFC000 then
            modHank s h fun y => { y with ctxs := y.ctxs.setIfInBounds c { k with image := v } }
          else s
        else s

/-- A write of a head's register other than HEADCTL (R417). -/
def headWrite (s : State) (n off : Nat) (x : RegWrite) : State :=
  let d := headOf s n
  let v := mergeWrite x (d.regs.read off)
  let m := match off with
    | 0x08 => 0xFFFFFFFFFFFFFFFF
    | 0x10 | 0x18 => 0xFFFFFFFFFFFF
    | 0x30 => 0xFFFFFFFF
    | 0x38 => 0xFF0F
    | 0x40 => 0x103FF
    | _ => 0
  if m = 0 ∨ !inRun s ∨ x.vf ∨ (d.regs.read 0).getLsbD 0 ∨ !fitsMask v m then s
  else modHead s n fun d => { d with regs := d.regs.set off v }

/-- A write of the reliability block other than ERRBASE, CECOUNT and INJSEL (R427, R429): an armed injector ignores it, and FIRED stays. -/
def relWrite (s : State) (off : Nat) (x : RegWrite) : State :=
  let v := mergeWrite x (s.rel.read off)
  let put := fun (ok : Bool) => if ok then { s with rel := s.rel.set off v } else s
  if !inRun s ∨ x.vf then s
  else if off = 0x010 then put (fitsMask v 0x3FF)
  else if off = 0x018 then put (fitsMask v 0x7FF000F)
  else if 0x1000 ≤ off ∧ off < 0x1400 then
    let armed := bitsN (s.rel.read (off / 32 * 32)).toNat 21 20 != 0
    if armed then s
    else match off % 32 with
      | 0x08 => put (fitsMask v 0xFFFFFFFFFFFFB)
      | 0x10 => put true
      | 0x18 => { s with rel := s.rel.set off (BitVec.ofNat 64 ((s.rel.read off).toNat / 2 ^ 32 * 2 ^ 32 + v.toNat % 2 ^ 32)) }
      | _ => s
  else s

/-- A write of the status block other than FEATACK, POWER and a GO (R431, R439): NONCE, and ATTCTL without GO. -/
def statusWrite (s : State) (off : Nat) (x : RegWrite) : State :=
  let y := s.sysc
  if x.vf ∨ y.attstat = 1 then s
  else if 0x100 ≤ off ∧ off < 0x120 then
    { s with sysc := { y with nonce := overlay y.nonce (off - 0x100) (natLe 8 (mergeWrite x (bytesAt y.nonce (off - 0x100))).toNat) } }
  else if off = 0x120 ∧ isFull x ∧ fitsMask x.val 0xFFFFFFFFFFFFF000 then { s with sysc := { y with attctl := x.val } }
  else s

/-- A write of an aligned BAR0 offset of the physical function, or through a virtual function the same offset of its hank (R8, R411). What a
register with a step of its own takes is that step; of the writes of such a register this one is only those that are ignored (a half of a
command register, STATUS 2 and 3 of MIGACK, reserved bits), and it changes nothing. -/
def regWrite (s : State) (off : Nat) (x : RegWrite) : Host.Outcome State Fault Refusal :=
  if off % 8 ≠ 0 then .next s
  else if off < 0x1000 then .next s
  else if off < 0x2000 then
    if off = 0x1008 ∨ off = 0x1010 ∨ (off = 0x1120 ∧ x.val.getLsbD 0) then notNow s
    else .next (statusWrite s (off - 0x1000) x)
  else if 0x100000 ≤ off ∧ off < 0x100400 then
    if off % 0x100 = 0 then notNow s else afterStep (headWrite s ((off - 0x100000) / 0x100) (off % 0x100) x)
  else if 0x200000 ≤ off ∧ off < 0x300000 then
    let o := off - 0x200000
    if o = 0 ∨ o = 0x20 ∨ (0x1000 ≤ o ∧ o < 0x1400 ∧ o % 32 = 0) then notNow s else afterStep (relWrite s o x)
  else if 0x800000 ≤ off ∧ off < 0x1000000 then
    let h := (off - 0x800000) / 0x100000
    let o := off % 0x100000
    if ownStep o (mergeWrite x (hreg s h o)) then notNow s else afterStep (hankWrite s h o x)
  else .next s

/-- REGISTER_WRITE (R8, R411): an access to BAR0. A read answers and changes nothing else. -/
def execRegisterWrite (off : Nat) (x : RegAccess) (s : State) : Host.Outcome State Fault Refusal :=
  match x with
  | .write x => regWrite s off x
  | .read size vf => .next { s with host := s.host ++ [regRead s off size vf] }

end Sys2Proof.Machine
end

