-- ==== Sys2Proof/Machine/HankWrites.lean ====
section
/-! DEFINITION. Writes of registers that have a step of their own: queues and bins (19 R366, R367, R375), formation and memory
configuration (22 R407, 18 R364), translation and migration (20 R391-R394), gauges (23 R424). -/

namespace Sys2Proof.Machine

/-! ### Queues and bins -/

/-- Sets BADDB of a queue, which is an event of its hank (R366, R407). -/
def badDoorbell (s : State) (h p q : Nat) : State := hankEvent (queueStat s h p q 0xFFFF 1) h 1

/-- HOST_DOORBELL (R367): a 64-bit write of QTAIL, or of its doorbell page, which needs LEVEL3 (R411, R438). -/
def execHostDoorbell (h p q : Nat) (page : Bool) (x : RegWrite) (s : State) : Host.Outcome State Fault Refusal :=
  if !reaches s h x || !isFull x || (page && !feature s 1) then afterStep s
  else
    let o := queueOff p q
    let r := (hreg s h o).toNat
    let tail := (hreg s h (o + 0x08)).toNat
    let head := (hreg s h (o + 0x10)).toNat
    let t := x.val.toNat
    afterStep (if !ringSrc r && ringEn r && decide (tail < t ∧ t - head ≤ ringSize r) then setHreg s h (o + 0x08) x.val else badDoorbell s h p q)

/-- QRING_WRITE (R366): accepted while HEAD = TAIL and LOG2N is 1 to 12; HEAD and TAIL become 0. -/
def execQringWrite (h p q : Nat) (x : RegWrite) (s : State) : Host.Outcome State Fault Refusal :=
  let o := queueOff p q
  let v := mergeWrite x (hreg s h o)
  afterStep
    (if reaches s h x && hreg s h (o + 0x08) == hreg s h (o + 0x10) && decide (1 ≤ v.toNat % 32 ∧ v.toNat % 32 ≤ 12) then
      setHreg (setHreg (setHreg s h o v) h (o + 0x08) 0) h (o + 0x10) 0
    else s)

/-- QSTAT_WRITE (R366): clears REFUSED and BADDB where it writes 1. -/
def execQstatWrite (h p q : Nat) (x : RegWrite) (s : State) : Host.Outcome State Fault Refusal :=
  let o := queueOff p q + 0x18
  afterStep (if reaches s h x then setHreg s h o (clearOnes x (hreg s h o) 3) else s)

/-- Whether a bin holds records or has a team running (R375). -/
def binBusy (s : State) (h b : Nat) : Bool :=
  (match binOf s h b with | some k => !k.recs.isEmpty | none => false)
    || s.teams.any fun t =>
      t.hank == h && t.phase == .placed && (match s.launches[t.launch]? with | some l => l.bin == some b | none => false)

/-- Configures a bin from its template (R375, R377): EN reads 0 when the check fails. -/
def configureBin (s : State) (h b : Nat) (v : DWord) : State :=
  let off := 0x200 + 8 * b
  let s := modHank s h fun k => { k with bins := k.bins.filter fun n => n.num != b }
  if !v.getLsbD 0 then setHreg s h off v
  else
    let r := agentRead s h (v.toNat / 128 * 128) 128
    match r.2 with
    | none => setHreg r.1 h off (v &&& ~~~1)
    | some bs =>
      if templateOk r.1 h (recordOfBytes bs) then
        setHreg (modHank r.1 h fun k => { k with bins := k.bins ++ [{ num := b, template := recordOfBytes bs, recs := [] }] }) h off v
      else setHreg r.1 h off (v &&& ~~~1)

/-- BINCFG_WRITE (R375). -/
def execBincfgWrite (h b : Nat) (x : RegWrite) (s : State) : Host.Outcome State Fault Refusal :=
  let v := mergeWrite x (hreg s h (0x200 + 8 * b))
  afterStep (if reaches s h x && fitsMask v 0xFFFFFFFFFFFFFF81 && !binBusy s h b then configureBin s h b v else s)

/-! ### Formation and memory configuration -/

/-- HANKCTL after an accepted write (R407, R438): SLOT 3 keeps SLOT, VF needs LEVEL2, and while the hank is not quiescent only QUIESCE
is taken. -/
def hankctlNext (s : State) (h : Nat) (v old : DWord) : DWord :=
  let v := if feature s 0 then v else (v &&& ~~~0x40) ||| (old &&& 0x40)
  let v := if bitsN v.toNat 4 3 = 3 then (v &&& ~~~0x18) ||| (old &&& 0x18) else v
  let v := if quiescent s h then v else (old &&& ~~~1) ||| (v &&& 1)
  v &&& 0x79

/-- HANKCTL_WRITE (R407). -/
def execHankctlWrite (h : Nat) (x : RegWrite) (s : State) : Host.Outcome State Fault Refusal :=
  let old := hreg s h 0
  let v := mergeWrite x old
  afterStep (if reaches s h x && !x.vf && !(hankOf s h).wayBusy && fitsMask v 0x7F then setHreg s h 0 (hankctlNext s h v old) else s)

/-- Vault ways that some hank's VWAYS names. -/
def allVways (s : State) : Nat := (List.range 8).foldl (fun m g => m ||| vwaysOf s g) 0

/-- WAYS of the other hanks. -/
def otherWays (s : State) (h : Nat) : Nat := ((List.range 8).filter (· != h)).foldl (fun m g => m ||| (hreg s g 0x010).toNat) 0

/-- Whether WAYS may be written (R407). -/
def waysOk (s : State) (h : Nat) (v : DWord) : Bool :=
  fitsMask v 0xFFFFFFFF && v.toNat &&& otherWays s h == 0 && v.toNat / 2 ^ 16 &&& allVways s == 0
    && (hreg s h 0x008 == 0 || v.toNat % 2 ^ 16 != 0)

/-- WAYS_WRITE (R407): BUSY is set while removed ways are written back. -/
def execWaysWrite (h : Nat) (x : RegWrite) (s : State) : Host.Outcome State Fault Refusal :=
  let old := hreg s h 0x010
  let v := mergeWrite x old
  afterStep
    (if reaches s h x && formOk s h x && waysOk s h v then
      modHank (setHreg s h 0x010 v) h fun k => { k with wayBusy := old &&& ~~~v != 0 }
    else s)

/-- WAY_CHANGE_COMPLETE (R407): the removed ways' lines are written back and gone. -/
def execWayChangeComplete (h : Nat) (s : State) : Host.Outcome State Fault Refusal :=
  if (hankOf s h).wayBusy then afterStep (modHank (flushHank s h) h fun k => { k with wayBusy := false }) else notNow s

/-- Vault ways assigned as cache to some hank. -/
def cacheWays (s : State) : Nat := (List.range 8).foldl (fun m g => m ||| (hreg s g 0x010).toNat / 2 ^ 16) 0

/-- Vault memory after a change of VWAYS (R364): ways that are vault memory no more lose their contents, and ways that become it read 0. -/
def loseWays (s : State) (h old new : Nat) : State :=
  let gone := fun (key : Nat) => coreInHank s h (key / 2 ^ 26) && bitN old (key / 2 ^ 22 % 16) != bitN new (key / 2 ^ 22 % 16)
  { s with vault := s.vault.filter fun p => !gone p.1 }

/-- Vault poison after a change of VWAYS (R359, R364): granules follow their way to its new offset. -/
def moveVaultPoison (s : State) (h old new : Nat) : State :=
  let waysOf := fun (m : Nat) => (List.range 16).filter (bitN m)
  { s with
    poison := s.poison.filterMap fun q => match q.1 with
      | .vault core g =>
        if !coreInHank s h core then some q
        else
          let way := (waysOf old).getD (g / 2 ^ 18) 16
          (match (waysOf new).idxOf? way with
           | some k => some (.vault core (k * 2 ^ 18 + g % 2 ^ 18), q.2)
           | none => none)
      | _ => some q }

/-- MEMCFG_WRITE (R363, R364). -/
def execMemcfgWrite (h : Nat) (x : RegWrite) (s : State) : Host.Outcome State Fault Refusal :=
  let v := mergeWrite x (hreg s h 0x100)
  let new := bitsN v.toNat 47 32
  let old := vwaysOf s h
  afterStep
    (if reaches s h x && quiescent s h && fitsMask v 0xFFFF00000FFF && new &&& cacheWays s == 0 then
      setHreg (if new = old then s else moveVaultPoison (loseWays s h old new) h old new) h 0x100 v
    else s)

/-- SHADOW_POOL_WRITE (R364): SHBASE, or SHCHUNKS when `chunks`. A new pool is empty: a quiescent hank holds no version, and plies that are still
being reconciled keep no slot of it. -/
def execShadowPoolWrite (h : Nat) (chunks : Bool) (x : RegWrite) (s : State) : Host.Outcome State Fault Refusal :=
  let off := if chunks then 0x110 else 0x108
  let v := mergeWrite x (hreg s h off)
  afterStep
    (if reaches s h x && quiescent s h && fitsMask v (if chunks then 0xFFFFFF else 0xFFFFFFFFF0000) && regionWriteOk s h off v.toNat then
      modHank (setHreg s h off v) h fun k => { k with recon := k.recon.map fun r => (r.1, 0) }
    else s)

/-! ### Translation and migration -/

/-- POOLFREE_WRITE (R391): a 64-bit write of a pool frame that is in use; any other is ignored. -/
def execPoolfreeWrite (h : Nat) (x : RegWrite) (s : State) : Host.Outcome State Fault Refusal :=
  let a := x.val.toNat
  let base := (hreg s h 0x128).toNat
  let i := (a - base) / 2 ^ 16
  afterStep
    (if reaches s h x && isFull x && a % 2 ^ 16 == 0 && decide (base ≤ a ∧ i < (hreg s h 0x130).toNat) then
      modHank s h fun k => { k with taken := k.taken.filter (· != i) }
    else s)

/-- INVREQ_PAGE (R391): the invalidation of one page is under way. Bits 15:1, which the table does not list, are taken as reserved (R8, log 33), and
bit 0 is ALL, whose write is INVREQ_ALL. -/
def execInvreqPage (h : Nat) (va : DWord) (s : State) : Host.Outcome State Fault Refusal :=
  afterStep (if inRun s && va.toNat % 2 ^ 16 == 0 then modHank s h fun k => { k with inv := k.inv ++ [some va.toNat] } else s)

/-- INVREQ_ALL (R391). -/
def execInvreqAll (h : Nat) (s : State) : Host.Outcome State Fault Refusal :=
  afterStep (if inRun s then modHank s h fun k => { k with inv := k.inv ++ [none] } else s)

/-- INVALIDATION_COMPLETE (R388, R391, R394): the oldest invalidation ends. -/
def execInvalidationComplete (h : Nat) (s : State) : Host.Outcome State Fault Refusal :=
  match (hankOf s h).inv with
  | [] => notNow s
  | p :: ps => afterStep (invalidate (modHank s h fun k => { k with inv := ps }) h p)

/-- Every lane parked on a page is answered (R393). -/
def answerPage (s : State) (h : Nat) (p : Nat × Nat) (refused : Option Nat) : State :=
  let s := modHank s h fun k => { k with migr := k.migr.filter fun r => (r.page, r.sh) != p }
  (List.range s.waves.length).foldl (fun s w =>
    match s.waves[w]? with
    | some v => if v.hank = h ∧ v.phase = .live then answerWave s w p refused else s
    | none => s) s

/-- The page with an open request that a MIGACK's VA lies in (R384, R393). Bits 15:2, which the table does not list, are taken as reserved
(R8, log 33). -/
def askedPage (s : State) (h va : Nat) : Option (Nat × Nat) :=
  if va % 2 ^ 16 ≠ 0 then none
  else ((hankOf s h).migr.find? fun r => va / 2 ^ r.sh == r.page).map fun r => (r.page, r.sh)

/-- MIGACK_DONE (R393): the lanes parked on the page walk again; when its leaf names another hank they raise MIGRATED with DETAIL 1. -/
def execMigackDone (h : Nat) (va : DWord) (s : State) : Host.Outcome State Fault Refusal :=
  match askedPage s h va.toNat with
  | none => afterStep s
  | some p => afterStep (if inRun s then settleAll (answerPage s h p (if changedHank s h va.toNat then some 1 else none)) else s)

/-- What `f` makes of the state while the refusal of a page is acted on (R321, R393). -/
def refusing (s : State) (h : Nat) (p : Nat × Nat) (f : State → State) : State :=
  modHank (f (modHank s h fun k => { k with refusing := some p })) h fun k => { k with refusing := none }

/-- Whether an address lies in a page. -/
def inPage (p : Nat × Nat) (va : Nat) : Bool := va / 2 ^ p.2 == p.1

/-- Traversals of a hank that wait on a page find it refused (R286, R321). -/
def refuseTraces (s : State) (h : Nat) (p : Nat × Nat) : State :=
  let one := fun (s : State) (w y : Nat) =>
    match s.waves[w]? with
    | none => s
    | some v =>
      if v.hank ≠ h ∨ v.phase ≠ .live then s
      else match knowSlot s w v y with
        | .error (.migrate va) =>
          if inPage p va then refusing s h p fun s => (match knowSlot s w v y with | .ok u => u | .error _ => s) else s
        | _ => s
  (List.range s.waves.length).foldl (fun s w => (List.range 8).foldl (fun s y => one s w y) s) s

/-- Regions whose commit waits on a page find it refused and abort (R254, R321, log 19). -/
def refuseCommits (s : State) (h : Nat) (p : Nat × Nat) : State :=
  let waits := fun (s : State) (t : RegionStore) =>
    inPage p t.va && (match translate s h t.va t.data.length true with | .migrate => true | _ => false)
  let asks : State → Wave → Bool := fun s v => match v.region with | some r => r.committing && r.stores.any (waits s) | none => false
  (List.range s.waves.length).foldl (fun s w =>
    match s.waves[w]? with
    | some v =>
      if v.hank = h ∧ v.phase = .live ∧ asks s v then abortRegion s w 6 0 0 else s
    | none => s) s

/-- A deferred entry that waits on a page finds it refused (R248, R321). -/
def refuseDeferred (s : State) (h : Nat) (p : Nat × Nat) : State :=
  match (hankOf s h).draining with
  | [] => s
  | e :: es =>
    match issueEntry s h e with
    | .page va =>
      if inPage p va then
        refusing s h p fun s =>
          match issueEntry s h e with
          | .done t =>
            let t := endDeferred (modHank t h fun k => { k with draining := es }) [e]
            if es = [] then endKeep t h else t
          | _ => s
      else s
    | _ => s

/-- MIGACK_REFUSED (R393): the lanes parked on the page raise MIGRATED with DETAIL 0. -/
def execMigackRefused (h : Nat) (va : DWord) (s : State) : Host.Outcome State Fault Refusal :=
  match askedPage s h va.toNat with
  | none => afterStep s
  | some p =>
    afterStep (if inRun s then
      settleAll (refuseDeferred (refuseCommits (refuseTraces (answerPage s h p (some 0)) h p) h p) h p) else s)

/-- MIGHEAD_WRITE (R391, R392): requests that wait are written while the ring has room. -/
def execMigheadWrite (h : Nat) (x : RegWrite) (s : State) : Host.Outcome State Fault Refusal :=
  let v := mergeWrite x (hreg s h 0x158)
  afterStep
    (if reaches s h x && fitsMask v 0xFF then writeRequests (setHreg s h 0x158 v) h (hankOf s h).migr.length else s)

/-! ### Gauges -/

/-- GAUGEC_WRITE (R424): any write clears FAILS. -/
def execGaugecWrite (h g : Nat) (x : RegWrite) (s : State) : Host.Outcome State Fault Refusal :=
  afterStep
    (if reaches s h x then modHank s h fun k => { k with gauges := k.gauges.setIfInBounds g { (k.gauges[g]?.getD Gauge.off) with fails := 0 } }
    else s)

end Sys2Proof.Machine
end

