-- ==== Sys2Proof/Machine/Contexts.lean ====
section
/-! DEFINITION. Traversal contexts (21_visibility_fixed_units R401-R403): loads, resets and faults. -/

namespace Sys2Proof.Machine

/-- A context of a hank. -/
def contextNo (s : State) (h c : Nat) : TrContext := (hankOf s h).ctxs[c]?.getD TrContext.reset

/-- Changes a context. -/
def modContext (s : State) (h c : Nat) (f : TrContext → TrContext) : State :=
  modHank s h fun k => { k with ctxs := k.ctxs.setIfInBounds c (f (k.ctxs[c]?.getD TrContext.reset)) }

/-- Whether a wave has a slot with an unfinished traversal of a context (R402). -/
def tracesIn (c : Nat) (v : Wave) : Bool :=
  v.rays.any fun r => !r.finished && (match r.args with | some a => a.ctl.toNat % 8 == c | none => false)

/-- The waves whose rays a reset or a fault of a context drops (R402), on the cores of a test. -/
def tracers (s : State) (h c : Nat) (on : Nat → Bool) : List Nat :=
  (s.waves.mapIdx fun i v => (i, v)).filterMap fun p =>
    if p.2.phase = .live ∧ p.2.hank = h ∧ on p.2.core ∧ tracesIn c p.2 then some p.1 else none

/-- Steps 2 and 3 of R402: the waves retire as under R318, and count in NDROP and NABORT. -/
def dropRays (s : State) (h c : Nat) (on : Nat → Bool) : State :=
  let ws := tracers s h c on
  let s := modContext s h c fun k => { k with ndrop := k.ndrop + ws.length }
  ws.foldl (fun s w => match s.waves[w]? with
    | some v => retireWave s w (some (v.trapRegs.fcause.toNat % 256))
    | none => s) s

/-- A reset of a context (R402). -/
def resetContext (s : State) (h c : Nat) : State := dropRays (modContext s h c fun k => { k with loaded := false }) h c fun _ => true

/-- Whether a TRCTL write takes effect (R401): 64 bits, not BUSY, no reserved bit, not both commands. -/
def trctlOk (s : State) (h c : Nat) (x : RegWrite) : Bool :=
  reaches s h x && isFull x && !(contextNo s h c).busy && fitsMask x.val 0xFFFFFFFFFC003 && x.val.toNat % 4 != 3

/-- The IMAGE field of a TRCTL write. -/
def imageField (v : DWord) : DWord := v &&& ~~~3

/-- TRCTL_LOAD (R401): the context is reset, and its image is being loaded. -/
def execTrctlLoad (h c : Nat) (x : RegWrite) (s : State) : Host.Outcome State Fault Refusal :=
  if !x.val.getLsbD 0 then notNow s
  else if !trctlOk s h c x then afterStep s
  else
    let s := modContext s h c fun k =>
      { k with busy := true, loading := true, image := imageField x.val, badImg := false, fault := false, ndrop := 0 }
    afterStep (settleAll (resetContext s h c))

/-- TRCTL_RESET (R401, R402). -/
def execTrctlReset (h c : Nat) (x : RegWrite) (s : State) : Host.Outcome State Fault Refusal :=
  if !x.val.getLsbD 1 then notNow s
  else if !trctlOk s h c x then afterStep s
  else
    let s := modContext s h c fun k => { k with busy := true, loading := false, image := imageField x.val }
    afterStep (settleAll (resetContext s h c))

/-- Whether a context's image verifies under the vendor key (R401, R434): 16 KiB of control store, then its signature. -/
def imageValid (s : State) (image : DWord) : Bool :=
  let a := image.toNat
  decide (a + 16384 + 2420 ≤ Config.physBytes) && (poisonOfRead s 0 0 a (16384 + 2420)).isNone
    && Config.sigValid s.sysc.vendorKey (digest (s.mem.readBytes a 16384)) (s.mem.readBytes (a + 16384) 2420)

/-- TRAVERSAL_LOAD_COMPLETE (R401): LOADED on success, BADIMG on failure; a context that faulted during the load stays unusable (R403). -/
def execTraversalLoadComplete (h c : Nat) (s : State) : Host.Outcome State Fault Refusal :=
  let k := contextNo s h c
  if !k.busy || !k.loading then notNow s
  else
    let ok := imageValid s k.image
    afterStep (modContext s h c fun k => { k with busy := false, loading := false, loaded := ok && !k.fault, badImg := !ok })

/-- TRAVERSAL_RESET_COMPLETE (R401). -/
def execTraversalResetComplete (h c : Nat) (s : State) : Host.Outcome State Fault Refusal :=
  let k := contextNo s h c
  if !k.busy || k.loading then notNow s
  else afterStep (modContext s h c fun k => { k with busy := false })

/-- TRAVERSAL_CONTEXT_FAULT (R403): FAULT is set, LOADED clears hank-wide, the context's rays on one unit are dropped, a TRFAULT record
is written and the hank is signalled (R414, R428). An error may strike a unit whatever LOADED says: a second unit whose rays run on, or a
store with nothing loaded. -/
def execTraversalContextFault (row col c : Nat) (s : State) : Host.Outcome State Fault Refusal :=
  let core := 14 * row + col
  match (List.range 8).find? fun h => coreInHank s h core with
  | none => notNow s
  | some h =>
    let s := modContext s h c fun k => { k with fault := true, loaded := false }
    let s := errRecord (dropRays s h c fun k => k == core) 1 (coreField core) h 7 0 (BitVec.ofNat 64 c)
    afterStep (settleAll (hankEvent s h 2))

end Sys2Proof.Machine
end

