-- ==== Sys2Proof/Machine/Display.lean ====
section
/-! DEFINITION. Display heads (22_hanks_host_display R416-R419): HEADCTL, flips at vblank, and what scans out as black. -/

namespace Sys2Proof.Machine

/-- A timing register's total: its three widths (R416). -/
def spans (v : DWord) : Nat := bitsN v.toNat 15 0 + bitsN v.toNat 31 16 + bitsN v.toNat 47 32

/-- A link's rate in kbit/s on one lane, by PROTO and RATE (R417; the figures of the rates' names are the standards', log 22). -/
def linkRate (proto : Bool) (rate : Nat) : Option Nat :=
  if proto then
    match rate with
    | 1 => some 5940000
    | 2 => some 3000000
    | 3 | 4 => some (if rate = 3 then 6000000 else 8000000)
    | 5 => some 10000000
    | 6 => some 12000000
    | _ => none
  else
    match rate with
    | 1 => some 1620000
    | 2 => some 2700000
    | 3 => some 5400000
    | 4 => some 8100000
    | 5 => some 10000000
    | 6 => some 13500000
    | 7 => some 20000000
    | _ => none

/-- The share of a link's bits that carry the stream: coding of the standards (log 22). -/
def linkShare (proto : Bool) (rate : Nat) : Nat × Nat :=
  if proto then (if rate = 1 then (8, 10) else (16, 18)) else if rate ≤ 4 then (8, 10) else (128, 132)

/-- Whether a number of lanes goes with a rate (R417). -/
def lanesOk (proto : Bool) (rate n : Nat) : Bool :=
  if proto then (if rate = 1 then n == 3 else n == 3 || n == 4) else n == 1 || n == 2 || n == 4

/-- Whether the stream fits the link (R416, R417): pixels per second times bits per pixel, in sixteenths of a bit. -/
def streamFits (d : Head) (v : DWord) : Bool :=
  let proto := v.getLsbD 4
  let link := (d.regs.read 0x38).toNat
  let rate := bitsN link 15 8
  let n := bitsN link 3 0
  let dsc := (d.regs.read 0x40).toNat
  let bpp := if bitN dsc 16 then bitsN dsc 9 0 else 16 * (match bitsN v.toNat 6 5 with | 0 => 24 | 1 => 30 | _ => 36)
  match linkRate proto rate with
  | none => false
  | some r =>
    let c := linkShare proto rate
    lanesOk proto rate n && decide ((d.regs.read 0x30).toNat * bpp * c.2 ≤ 16 * (r * n) * c.1)

/-- Whether a head's settings keep the limits of the table (R417). -/
def limitsOk (d : Head) : Bool :=
  let size := (d.regs.read 0x08).toNat
  let khz := (d.regs.read 0x30).toNat
  let dsc := (d.regs.read 0x40).toNat
  decide (1 ≤ bitsN size 15 0 ∧ bitsN size 15 0 ≤ 7680 ∧ 1 ≤ bitsN size 31 16 ∧ bitsN size 31 16 ≤ 4320 ∧ bitsN size 63 32 % 256 = 0
      ∧ 25000 ≤ khz ∧ khz ≤ 2400000)
    && (!bitN dsc 16 || decide (96 ≤ bitsN dsc 9 0 ∧ bitsN dsc 9 0 ≤ 384))

/-- Whether another enabled head uses a connector (R417). -/
def connectorTaken (s : State) (n conn : Nat) : Bool :=
  (List.range 4).any fun m =>
    m != n && ((headOf s m).regs.read 0).getLsbD 0 && bitsN ((headOf s m).regs.read 0).toNat 3 2 == conn

/-- The timing values that take effect at an accepted HEADCTL write with EN = 1 (R417). -/
def timingNow (d : Head) : Vector DWord 6 :=
  #v[d.regs.read 0x08, d.regs.read 0x10, d.regs.read 0x18, d.regs.read 0x30, d.regs.read 0x38, d.regs.read 0x40]

/-- The head after an accepted HEADCTL write (R417): the flip queue is dropped when EN clears or HANK, FMT, PROTO or CONN changes. -/
def headNext (d : Head) (v : DWord) : Head :=
  let old := d.regs.read 0
  { d with
    regs := d.regs.set 0 v
    eff := if v.getLsbD 0 then timingNow d else d.eff
    flips := if !v.getLsbD 0 || (old ^^^ v).toNat / 4 != 0 then [] else d.flips }

/-- HEADCTL_WRITE (R417): an accepted write with EN = 1 starts the first frame (R416). -/
def execHeadctlWrite (head : Nat) (x : RegWrite) (s : State) : Host.Outcome State Fault Refusal :=
  let d := headOf s head
  let v := mergeWrite x (d.regs.read 0)
  let ok := fitsMask v 0x3FD && bitsN v.toNat 6 5 != 3
    && (!v.getLsbD 0 || (limitsOk d && !connectorTaken s head (bitsN v.toNat 3 2) && streamFits d v))
  if inRun s && !x.vf && ok then
    let s := modHead s head fun d => headNext d v
    afterStep (if v.getLsbD 0 then scanFrame s head 0 else s)
  else afterStep s

/-- A head at its vblank (R418): the first entry is popped when it is not immediate, then any immediate ones behind it. -/
def Head.vblank (d : Head) : Head :=
  match d.flips with
  | (a, false) :: q => ({ d with flips := q, shown := (d.shown + 1) % 2 ^ 32, curSurf := a }).serve
  | _ => d

/-- VBLANK (R418): the first entry of the flip queue is shown, and the next frame is scanned (R416). -/
def execVblank (head : Nat) (s : State) : Host.Outcome State Fault Refusal :=
  if inRun s ∧ ((headOf s head).regs.read 0).getLsbD 0 then afterStep (scanFrame (modHead s head Head.vblank) head 0) else notNow s

end Sys2Proof.Machine
end

