-- ==== Sys2Proof/Machine/Media.lean ====
section
/-! DEFINITION. Media sequencers (21_visibility_fixed_units R404-R406): command blocks, their checks, the buffers a command reads and
writes, and its completion value. What a codec makes of its data is free (log 14). -/

namespace Sys2Proof.Machine

/-- Fields of a command block (R405). -/
def blkWord (b : Bytes) (k : Nat) : Nat := leNat ((b.drop (8 * k)).take 8)
def blkEncode (b : Bytes) : Bool := bitsN (blkWord b 0) 1 0 == 1
def blkWidth (b : Bytes) : Nat := bitsN (blkWord b 1) 15 0
def blkHeight (b : Bytes) : Nat := bitsN (blkWord b 1) 31 16
def blkDepth (b : Bytes) : Nat := bitsN (blkWord b 1) 35 32
def blkPitch (b : Bytes) : Nat := blkWord b 4 % 2 ^ 32
def blkBs (b : Bytes) : Nat := blkWord b 5
def blkLen (b : Bytes) : Nat := blkWord b 6 % 2 ^ 32
def blkSession (b : Bytes) : Nat := blkWord b 7
def blkDone (b : Bytes) : Nat := blkWord b 9

/-- Whether a field breaks R404 or R405. The bits that R405 does not list (0x20 63:32, 0x30 63:32, 0x40 63:40) are ignored: the spec does not say
that a value there is BADCMD (DESIGN CHOICE, log 14). -/
def badBlock (b : Bytes) : Bool :=
  let w0 := blkWord b 0
  let hevc := bitN w0 2
  let profile := bitsN w0 4 3
  decide (2 ^ 8 ≤ w0) || bitsN w0 7 6 == 3 || decide (2 ≤ bitsN w0 1 0)
    || (if hevc then decide (1 < profile) else profile != 0)
    || !(blkDepth b == 8 || (blkDepth b == 10 && !(hevc && profile == 0)))
    || decide (2 ^ 36 ≤ blkWord b 1)
    || !decide (64 ≤ blkHeight b ∧ blkHeight b ≤ 4320 ∧ blkHeight b % 2 = 0 ∧ 64 ≤ blkWidth b ∧ blkWidth b ≤ 7680 ∧ blkWidth b % 2 = 0)
    || blkWord b 2 % 256 != 0 || blkWord b 3 % 256 != 0 || blkPitch b % 256 != 0 || blkBs b % 16 != 0 || blkSession b % 2 ^ 16 != 0
    || (b.drop 0x50).any fun x => x != 0

/-- The rows of the luma and chroma planes (R405): address and length of each. -/
def planeRows (b : Bytes) : List (Nat × Nat) :=
  let n := blkWidth b * (if blkDepth b = 10 then 2 else 1)
  ((List.range (blkHeight b)).map fun k => (blkWord b 2 + k * blkPitch b, n))
    ++ (List.range (blkHeight b / 2)).map fun k => (blkWord b 3 + k * blkPitch b, n)

/-- The pieces of a buffer within pages. -/
def pagePieces (a n : Nat) : List (Nat × Nat) :=
  if n = 0 then []
  else (List.range ((a + n - 1) / 2 ^ 16 + 1 - a / 2 ^ 16)).map fun k =>
    let lo := max a (2 ^ 16 * (a / 2 ^ 16 + k))
    (lo % 2 ^ 64, min (a + n) (2 ^ 16 * (a / 2 ^ 16 + k) + 2 ^ 16) - lo)

/-- A buffer's piece as the sequencer reaches it in the root (R406): none when it is unmapped, host-owned, or lacks W for a write. A page that is
being moved is one that it may write once the move has ended (R164, `mediaHeld`). -/
def mediaLeaf (s : State) (h va : Nat) (wr : Bool) : Option Leaf :=
  if (windowAt va).isSome then none
  else match walkFor s h va wr with
    | .leaf l =>
      if pteHank l.pte != h || !pteOwn l.pte || (wr && !pteW l.pte) || decide (Config.physBytes ≤ l.pa) then none else some l
    | _ => none

/-- Reads buffers in the root: none when a page or a poisoned granule ends the command with FAULT (R406, R422). -/
def mediaRead (h : Nat) : List (Nat × Nat) → State → Bytes → State × Option Bytes
  | [], s, acc => (s, some acc)
  | (va, n) :: ps, s, acc =>
    match mediaLeaf s h va false with
    | none => (s, none)
    | some l =>
      let s := foldRange (releaseLines s (linesOf l.pa n)) l.pa n
      if (poisonOfRead s h 0 l.pa n).isSome then (s, none)
      else mediaRead h ps (markUsed s h l false) (acc ++ homeBytes s h 0 l n)

/-- Writes bytes of one page in the root for a sequencer (R406), after the engine commands that own their lines (R357). -/
def mediaPut (s : State) (h : Nat) (l : Leaf) (bs : Bytes) : State :=
  let ls := linesOf l.pa bs.length
  let s := foldRange (releaseLines s ls) l.pa bs.length
  homeWrite (ls.foldl dropCopies (markUsed s h l true)) h (pteCached l.pte) l.pa bs

/-- Writes `fuel` pieces of output from byte `k` of the codec's output on, up to a page that cannot be written; the bytes written so far. -/
def mediaWrite (h : Nat) (out : Nat → Byte) : Nat → List (Nat × Nat) → Nat → State → State × Nat
  | 0, _, k, s => (s, k)
  | _, [], k, s => (s, k)
  | f + 1, (va, n) :: ps, k, s =>
    match mediaLeaf s h va true with
    | none => (s, k)
    | some l => mediaWrite h out f ps (k + n) (mediaPut s h l ((List.range n).map fun j => out (k + j)))

/-- The codec's output as it lies in memory (R405): at DEPTH 10 the low 6 bits of a picture's 16-bit samples are 0. -/
def mediaOut (b data : Bytes) (d k : Nat) : Byte :=
  let x := Config.codecOutput b data d k
  if !blkEncode b && blkDepth b == 10 && k % 2 == 0 then x &&& 0xC0 else x

/-- Writes what the codec keeps in the session area (R405). -/
def sessionWrite (s : State) (h base : Nat) (ws : List (Nat × Byte)) : State :=
  ws.foldl (fun s p =>
    if 2 ^ 30 ≤ p.1 then s
    else match mediaLeaf s h ((base + p.1) % 2 ^ 64) true with
      | some l => mediaPut s h l [p.2]
      | none => s) s

/-- What a command reads and writes (R404, R405): pieces of its input, and of its output when that has `n` bytes. -/
def mediaInput (b : Bytes) : List (Nat × Nat) :=
  if blkEncode b then (planeRows b).flatMap fun r => pagePieces r.1 r.2 else pagePieces (blkBs b) (blkLen b)
def mediaOutput (b : Bytes) (n : Nat) : List (Nat × Nat) :=
  if blkEncode b then pagePieces (blkBs b) n else (planeRows b).flatMap fun r => pagePieces r.1 r.2

/-- Whether every page that a command writes is mapped, the device's and writable (R406). -/
def outputOk (s : State) (h : Nat) (b : Bytes) (n : Nat) : Bool :=
  ((mediaOutput b n) ++ pagePieces (blkSession b) (2 ^ 30)).all fun p => (mediaLeaf s h p.1 true).isSome

/-- A page that a command writes and on which writes wait (R164, R394): the sequencer's command waits with them (log 14). -/
def mediaHeld (s : State) (h : Nat) (b : Bytes) : Option Leaf :=
  (mediaOutput b (blkLen b) ++ pagePieces (blkSession b) (2 ^ 30)).findSome? fun p => (mediaLeaf s h p.1 true).filter (wpHolds s h)

/-- A command that ends with FAULT (R406): some of its output is written; the bytes that a decoder has consumed by then are free (log 14). -/
def mediaFault (s : State) (h : Nat) (b data : Bytes) (n d : Nat) : State × Nat × Nat :=
  let r := mediaWrite h (mediaOut b data d) (Config.codecPartial d) (mediaOutput b n) 0 s
  (r.1, if blkEncode b then r.2 else min (Config.codecCount b data d) (blkLen b), 2)

/-- Runs a command whose fields are legal (R404, R406): the state after its writes, BYTES and STATUS. `lost` says that the sequencer's control store
failed (R420). -/
def runMedia (s : State) (h : Nat) (b : Bytes) (lost : Bool) : State × Nat × Nat :=
  let d := s.fresh
  let s := { s with fresh := s.fresh + 1 }
  match if lost then (s, none) else mediaRead h (mediaInput b) s [] with
  | (s, none) => mediaFault s h b [] (blkLen b) d
  | (s, some data) =>
    let good := Config.codecGood b data d
    let n := if blkEncode b && !good then blkLen b else min (Config.codecCount b data d) (blkLen b)
    if !blkEncode b && !Config.codecFits b data then (s, 0, 1)
    else if !outputOk s h b n then mediaFault s h b data n d
    else
      let r := mediaWrite h (mediaOut b data d) (mediaOutput b n).length (mediaOutput b n) 0 s
      (sessionWrite r.1 h (blkSession b) (Config.codecSession b data d), n, if good then 0 else if blkEncode b then 4 else 3)

/-- Changes a sequencer. -/
def modMedia (s : State) (n : Nat) (f : Sequencer → Sequencer) : State := { s with media := s.media.setIfInBounds n (f (mediaOf s n)) }

/-- Puts a command's completion value into its cell (R406): on a full cell it waits; a cell that cannot be reached takes none. -/
def putMedia (s : State) (n h : Nat) (cell value : DWord) (first : Bool) : Host.Outcome State Fault Refusal :=
  let clear := modMedia s n fun q => { q with done := none }
  let keep := modMedia s n fun q => { q with done := some (h, cell, value) }
  if cell = 0 then afterStep clear
  else match cellOf s h cell.toNat with
    | .bad => afterStep clear
    | .wait l => if first then afterStep (noteMove keep h l) else agentWaits s h l
    | .ok l c =>
      if cellFull c then (if first then afterStep keep else notNow s)
      else afterStep (cellWrite clear h l (natLe 8 value.toNat ++ natLe 8 1))

/-- The DONE cell that a command block names, where a sequencer can read that word though it cannot read the block (R422); none otherwise. -/
def blockCell (s : State) (h blk : Nat) : Option DWord :=
  match mediaLeaf s h ((blk + 0x48) % 2 ^ 64) false with
  | some l => if (poisonOfRead s h 0 l.pa 8).isSome then none else some (BitVec.ofNat 64 (leNat (homeBytes s h 0 l 8)))
  | none => none

/-- MEDIA_COMMAND (R406): the sequencer's next command runs, and its completion value is put. One whose block holds poison (R422), and one that
finds the control store lost, which SYSC then reloads (R420), end with FAULT. -/
def execMediaCommand (sq : Nat) (s : State) : Host.Outcome State Fault Refusal :=
  let q := mediaOf s sq
  match q.done, q.queue with
  | none, m :: ms =>
    let next := modMedia s sq fun q => { q with queue := ms, lost := false }
    (match mediaRead m.hank (pagePieces m.blk.toNat 256) next [] with
     | (t, none) =>
       (match blockCell t m.hank m.blk.toNat with
        | some cell => putMedia t sq m.hank cell 2 true
        | none => afterStep t)
     | (t, some b) =>
       match if badBlock b then none else mediaHeld t m.hank b with
       | some l => agentWaits s m.hank l
       | none =>
         let r := if badBlock b then (t, 0, 1) else runMedia t m.hank b q.lost
         putMedia r.1 sq m.hank (BitVec.ofNat 64 (blkDone b)) (BitVec.ofNat 64 (r.2.1 * 2 ^ 32 + r.2.2)) true)
  | _, _ => notNow s

/-- MEDIA_DONE_RETRY (R406). -/
def execMediaDoneRetry (sq : Nat) (s : State) : Host.Outcome State Fault Refusal :=
  match (mediaOf s sq).done with
  | some (h, cell, value) => putMedia s sq h cell value false
  | none => notNow s

end Sys2Proof.Machine
end

