-- ==== Sys2Proof/Machine/Host.lean ====
section
/-! DEFINITION. What the host and its peers do to memory (22_hanks_host_display R411-R415): the coherent and the direct aperture,
PCI Express AtomicOps, and the coherent window of a virtual function. -/

namespace Sys2Proof.Machine

/-- Gives the host an answer. -/
def answer (s : State) (o : HostOut) : State := { s with host := s.host ++ [o] }

/-- Whether an access of an aperture is served (R411, R415, R431, R438): boot is complete, peers are acknowledged, and the bytes lie in
GDDR 7. -/
def served (s : State) (pa size : Nat) (peer : Bool) : Bool := inRun s && (!peer || feature s 3) && decide (pa + size ≤ Config.physBytes)

/-- The poison code among bytes of root memory. -/
def rootPoison (s : State) (pa n : Nat) : Option Nat :=
  if s.poison.isEmpty then none else (touchedGranules pa n).findSome? fun g => poisonAt s (.phys g)

/-- The lines of an access as their home slices serve it: the engine commands that own them have released them (R357), and partial sums are folded
(R177). -/
def atHome (s : State) (pa n : Nat) : State := foldRange (releaseLines s (linesOf pa n)) pa n

/-- A read of the root at the home slice (R412); poisoned bytes set EP (R422). -/
def coherentRead (s : State) (pa n : Nat) : State :=
  let s := atHome s pa n
  answer s (.data (s.mem.readBytes pa n) (rootPoison s pa n).isSome)

/-- A write of the root at the home slice (R412). -/
def coherentWrite (s : State) (pa : Nat) (bs : Bytes) : State := rootWrite (atHome s pa bs.length) none false pa bs

/-- HOST_COHERENT_READ (R412). -/
def execHostCoherentRead (pa size : Nat) (peer : Bool) (s : State) : Host.Outcome State Fault Refusal :=
  afterStep (if served s pa size peer then coherentRead s pa size else answer s .ur)

/-- HOST_COHERENT_WRITE (R412). -/
def execHostCoherentWrite (pa : Nat) (bs : Bytes) (peer : Bool) (s : State) : Host.Outcome State Fault Refusal :=
  afterStep (if served s pa bs.length peer then coherentWrite s pa bs else answer s .ur)

/-- One byte of GDDR 7 (R387): the bytes it keeps of a line whose home copy differs, else the home copy. -/
def gddrByte (s : State) (pa : Nat) : Byte :=
  match s.stale.find? fun t => t.line == lineOf pa with
  | some t => t.data.getD (pa % 128) 0
  | none => s.mem.read pa

/-- Bytes of GDDR 7. -/
def gddrRead (s : State) (pa n : Nat) : Bytes := (List.range n).map fun k => gddrByte s (pa + k)

/-- Whether GDDR 7 holds poison among bytes: that of lines whose home copy it is. -/
def gddrPoison (s : State) (pa n : Nat) : Bool :=
  !s.poison.isEmpty && (touchedGranules pa n).any fun g =>
    (poisonAt s (.phys g)).isSome && !(s.stale.any fun t => t.line == g / 8)

/-- Evictions before a direct access (R356): of the lines it touches that a cache holds, those that the free value `Config.evicts` names have
left the caches, with a write-back where they were dirty (log 8). -/
def evictSome (s : State) (pa n : Nat) : State :=
  ((linesOf pa n).filter fun l => resident s l && Config.evicts s.progress l).foldl invalidateLine s

/-- HOST_DIRECT_READ (R387, R412): GDDR 7 without looking in any cache. -/
def execHostDirectRead (pa size : Nat) (peer : Bool) (s : State) : Host.Outcome State Fault Refusal :=
  afterStep (if served s pa size peer then
      let s := evictSome s pa size
      answer s (.data (gddrRead s pa size) (gddrPoison s pa size))
    else answer s .ur)

/-- The bytes of a write that fall into a line, put over the line's bytes. -/
def overLine (line pa : Nat) (bs old : Bytes) : Bytes :=
  (List.range 128).map fun k => if pa ≤ 128 * line + k ∧ 128 * line + k < pa + bs.length then bs.getD (128 * line + k - pa) 0 else old.getD k 0

/-- A write of one line of GDDR 7 behind the caches (R387): the home copy keeps its bytes when a cache holds the line. It triggers the monitors that
watch the line (R179). -/
def gddrWriteLine (pa : Nat) (bs : Bytes) (s : State) (line : Nat) : State :=
  let s := triggerMonitors s line
  match s.stale.find? fun t => t.line == line with
  | some _ => { s with stale := s.stale.map fun t => if t.line = line then { t with data := overLine line pa bs t.data } else t }
  | none =>
    if resident s line then
      { s with stale := { line := line, data := overLine line pa bs (s.mem.readBytes (128 * line) 128), dirty := false } :: s.stale }
    else rootWrite s none false (max pa (128 * line)) ((bs.drop (128 * line - pa)).take (128 * (line + 1) - max pa (128 * line)))

/-- HOST_DIRECT_WRITE (R387, R412): GDDR 7 without looking in any cache, whatever the transfer hints. -/
def execHostDirectWrite (pa : Nat) (bs : Bytes) (peer _hint : Bool) (s : State) : Host.Outcome State Fault Refusal :=
  afterStep (if served s pa bs.length peer then (linesOf pa bs.length).foldl (gddrWriteLine pa bs) (evictSome s pa bs.length)
    else answer s .ur)

/-- An AtomicOp at the home slice (R412): the old value is the completion; `f` gives the new one, or none when nothing is written. It
completes with Unsupported Request through the direct aperture, without ATOMICOPS, from a peer without PEER (R438), or in a size or at an
alignment that the standard does not give it. -/
def atomicOp (s : State) (pa n : Nat) (ok : Bool) (via : AtomicVia) (f : Nat → Option Nat) : Host.Outcome State Fault Refusal :=
  if via == .direct || !ok || !feature s 2 || !served s pa n (via == .peer) || pa % n != 0 then afterStep (answer s .ur)
  else
    let s := atHome s pa n
    let old := leNat (s.mem.readBytes pa n)
    let s := answer s (.data (natLe n old) (rootPoison s pa n).isSome)
    afterStep (match f old with | some v => rootWrite (dropCopies s (lineOf pa)) none false pa (natLe n v) | none => dropCopies s (lineOf pa))

/-- FETCHADD (R412): 32 and 64 bits. -/
def execFetchadd (pa size : Nat) (v : DWord) (via : AtomicVia) (s : State) : Host.Outcome State Fault Refusal :=
  atomicOp s pa size (size == 4 || size == 8) via fun old => some ((old + v.toNat) % 2 ^ (8 * size))

/-- SWAP (R412): 32 and 64 bits. -/
def execSwap (pa size : Nat) (v : DWord) (via : AtomicVia) (s : State) : Host.Outcome State Fault Refusal :=
  atomicOp s pa size (size == 4 || size == 8) via fun _ => some (v.toNat % 2 ^ (8 * size))

/-- CAS (R412): 32, 64 and 128 bits. -/
def execCas (pa size : Nat) (cmp new : BitVec 128) (via : AtomicVia) (s : State) : Host.Outcome State Fault Refusal :=
  atomicOp s pa size (size == 4 || size == 8 || size == 16) via fun old =>
    if old = cmp.toNat % 2 ^ (8 * size) then some (new.toNat % 2 ^ (8 * size)) else none

/-- A window access that no leaf of the hank serves (R411, R428): all ones for a read, and an APERTURE record. -/
def windowMiss (s : State) (h off size : Nat) (wr : Bool) : State :=
  let s := errRecord s 1 0xFF h 8 (BitVec.ofNat 64 off) (BitVec.ofNat 64 (h + 1))
  if wr then s else answer s (.data (List.replicate size 0xFF) false)

/-- A read through the coherent window: as through the coherent aperture, of an uncached page against GDDR 7 (R387, R411). -/
def windowRead (s : State) (h : Nat) (l : Leaf) (n : Nat) : State :=
  let s := atHome s l.pa n
  answer s (.data (homeBytes s h 0 l n) (rootPoison s l.pa n).isSome)

/-- VF_WINDOW_ACCESS (R411): offset `off` is virtual address WINBASE + off of the hank, reached through a valid leaf with OWN = 1 and the
hank's number; a write to a page with WP set waits (R394). -/
def execVfWindowAccess (h off size : Nat) (wr : Option Bytes) (s : State) : Host.Outcome State Fault Refusal :=
  let n := match wr with | some bs => bs.length | none => size
  if !inRun s || !vfOn s h || decide (2 ^ 37 < off + n) then afterStep (answer s .ur)
  else if 2 ^ 16 < off % 2 ^ 16 + n then notNow s
  else match walkFor s h ((hreg s h 0x030).toNat + off) wr.isSome with
    | .hole pa => .fault (.physicalHole pa)
    | .leaf l =>
      if pteHank l.pte ≠ h ∨ !pteOwn l.pte then afterStep (windowMiss s h off n wr.isSome)
      else if Config.physBytes < l.pa + n then .fault (.physicalHole l.pa)
      else match wr with
        | none => afterStep (windowRead (markUsed s h l false) h l n)
        | some bs => if wpHolds s h l then agentWaits s h l else afterStep (coherentWrite (markUsed s h l true) l.pa bs)
    | _ => afterStep (windowMiss s h off n wr.isSome)

end Sys2Proof.Machine
end

