-- ==== Sys2Proof/Machine/Reliability.lean ====
section
/-! DEFINITION. Errors and their containment (23_reliability R420-R423), the registers of the reliability block with a step of their own
(R427), and link injectors (R429, R430). -/

namespace Sys2Proof.Machine

/-! ### Corrected errors and poison -/

/-- Sets a register of the reliability block. -/
def setRel (s : State) (off : Nat) (v : DWord) : State := { s with rel := s.rel.set off v }

/-- A corrected error adds 1 to CECOUNT (R420). -/
def countCorrected (s : State) : State := setRel s 0x020 (s.rel.read 0x020 + 1)

/-- CORRECTED_ERROR (R420): no other effect is visible. -/
def execCorrectedError (s : State) : Host.Outcome State Fault Refusal := afterStep (countCorrected s)

/-- Whether a granule exists. -/
def granuleThere (s : State) : Granule → Bool
  | .phys g => decide (16 * g < Config.physBytes)
  | .version h p g => (versionIn s h p (g / 8)).isSome
  | .scratch t g => (match s.teams[t]? with | some m => m.phase != .ended && scratchIn m (16 * g) 16 | none => false)
  | .vault core g => decide (core < 112 ∧ 16 * g < 2 ^ 26)
  | .reg w n _ =>
    (match s.waves[w]? with
     | some v => v.phase == .live && (if n < 256 then decide (n < v.nregs) else v.access.isSome && decide (n < 288))
     | none => false)
  | .acc core bay t i q => decide (core < 112 ∧ bay < Config.bays ∧ t < 4 ∧ i < 8 ∧ q < 8)
  | .stage w y k q =>
    (match s.waves[w]? with
     | some v => v.phase == .live && (match v.yarns[y]? with
        | some n => (match n.stages[k]? with | some g => g.st == .filled && decide (16 * q < g.data.length) | none => false)
        | none => false)
     | none => false)
  | .store sq => decide (sq < 2)

/-- Poisons a granule (R421). A media sequencer's control store is lost as a whole, and reloaded after the command that finds it so (R420). -/
def poisonGranule (s : State) (loc : Granule) (src : Nat) : State :=
  match loc with
  | .stage w y k q =>
    modWave s w fun v =>
      let n := v.yarns[y]?.getD Yarn.closed
      { v with yarns := v.yarns.setIfInBounds y { n with stages := n.stages.modify k fun g => { g with marks := (q, src) :: g.marks } } }
  | .store sq => modMedia s sq fun q => { q with lost := true }
  | g => setPoison s g src

/-- The physical line of a granule, 0 for one of another structure (R428). -/
def granuleLine : Granule → Nat
  | .phys g | .version _ _ g => g / 8 * 128
  | _ => 0

/-- The core field of a granule's record (R428). -/
def granuleCore (s : State) : Granule → Nat
  | .scratch t g => (match s.teams[t]? with | some m => coreField (sliceCore m (16 * g)) | none => 0xFF)
  | .vault core _ | .acc core _ _ _ _ => coreField core
  | .reg w _ _ | .stage w _ _ _ => waveCore s w
  | _ => 0xFF

/-- POISON (R421, R428): an uncorrectable error poisons a granule with the code of the structure it arose in. One in a control store poisons no data,
and the model writes no record of it (log 29). -/
def execPoison (loc : Granule) (src : Nat) (s : State) : Host.Outcome State Fault Refusal :=
  if !granuleThere s loc || decide (6 < src) then notNow s
  else
    let t := poisonGranule s loc src
    afterStep (match loc with
      | .store _ => t
      | _ => errRecord t 2 (granuleCore s loc) 0 1 (BitVec.ofNat 64 (granuleLine loc)) (BitVec.ofNat 64 src))

/-! ### Shared structures -/

/-- What befalls a live wave of a struck unit (R423): it restarts its idempotent region (true), or its strands raise UNCORRECTABLE (false), which
aborts an open atomic region with FAULT (R254, R320), and in a handler outside the idempotent region is a double fault (R318). A wave that an
abort alone befell has neither restarted nor trapped (log 29). -/
def strikeWave (s : State) (w detail : Nat) : State × Option Bool :=
  match s.waves[w]? with
  | none => (s, none)
  | some v =>
    let handlers := (v.strands.filter (·.handler)).foldl (fun m t => m ||| t.mask) 0
    match v.idem.filter fun r => decide (r.restarts < 4) && handlers &&& ~~~r.lanes == 0 with
    | some r => (restartIdem s w r, some true)
    | none => (raiseAll (leaveFifo s w v) w .uncorrectable detail, if v.strands.all (inRegion v) then none else some false)

/-- Every wave of a core is struck (R423): the waves restarted and those trapped are counted. -/
def strikeCore (s : State) (core detail : Nat) : State × Nat × Nat :=
  ((s.waves.mapIdx fun i v => (i, v)).filter fun p => p.2.phase == .live && p.2.core == core).foldl
    (fun a p =>
      match strikeWave a.1 p.1 detail with
      | (s, some true) => (s, a.2.1 + 1, a.2.2)
      | (s, some false) => (s, a.2.1, a.2.2 + 1)
      | (s, none) => (s, a.2)) (s, 0, 0)

/-- A SHARED record (R428). -/
def sharedRecord (sev core h : Nat) (r : State × Nat × Nat) : State :=
  errRecord r.1 sev core h 3 0 (BitVec.ofNat 64 (r.2.2 * 2 ^ 16 + r.2.1))

/-- Poisons a line of root memory. -/
def poisonLine (src : Nat) (s : State) (line : Nat) : State :=
  (List.range 8).foldl (fun s k => setPoison s (.phys (8 * line + k)) src) s

/-- Zeroes the accumulators of a bay's needle holder (R423). -/
def zeroHolder (s : State) (core bay : Nat) : State :=
  if (bayOf s core bay).holder.isSome then
    clearAccs (modBay s core bay fun b => { b with accs := Vector.replicate 4 (Vector.replicate 8 (Vector.replicate 32 0)) }) core bay
  else s

/-- Poisons a cached line: a root line's granules, or those of a version. -/
def poisonCached (src : Nat) (s : State) (e : CacheLine) : State :=
  if e.ply = 0 then poisonLine src (foldLine s e.line) e.line
  else (List.range 8).foldl (fun s k => setPoison s (.version e.hank e.ply (8 * e.line + k)) src) s

/-- The lines of a set of an L1 slice (R354, R356), and those among them that the cluster has changed: it owns them, or holds partial sums
(R177). -/
def l1SetOf (s : State) (tile set : Nat) : List L1Line :=
  s.l1.filter fun e => sliceTile e.cluster e.line == tile && Config.l1Set e.line % 128 == set
def l1Dirty (s : State) (tile set : Nat) : List CacheLine :=
  (((l1SetOf s tile set).filter (·.owned)).map fun e => { hank := e.hank, ply := e.ply, line := e.line })
    ++ (s.partials.filter fun p => sliceTile p.cluster p.line == tile && Config.l1Set p.line % 128 == set).map
      fun p => { hank := p.hank, ply := 0, line := p.line }

/-- The lines of a set of an L2 home slice (R354, R356). -/
def l2SetOf (s : State) (tile set : Nat) : List CacheLine :=
  s.l2.filter fun e => homeTile s e.line == tile && Config.l2Set e.line % 512 == set

/-- A line of a struck L2 set (R423): its L1 copies are invalidated, the line is poisoned, and it leaves the slice. -/
def strikeL2 (s : State) (e : CacheLine) : State :=
  let s := poisonCached 2 { dropL1 s none e.hank e.ply e.line with l2 := s.l2.filter (· != e) } e
  if e.ply = 0 then leaveCache s e.line else s

/-- The regions that track a line abort with ERROR (R423). -/
def abortTrackers (s : State) (line : Nat) : State :=
  ((s.waves.mapIdx fun i v => (i, v)).filter fun p =>
    p.2.phase == .live && (match p.2.region with | some r => r.lines.any (fun t => t.line == line) | none => false)).foldl
    (fun s p => abortRegion s p.1 10 0 0) s

/-- Every wave of a hank retires, and every non-root ply is frogged (R423). -/
def fellHank (s : State) (h : Nat) : State × Nat :=
  let ws := wavesIn s h fun _ => true
  let s := ws.foldl (fun s w => cancelFlights (retireWave s w (some Cause.uncorrectable.code)) fun f => f.wave == w) s
  ((childrenOf (hankOf s h) 0).foldl (fun s y => frog s h y.num []) s, ws.length)

/-- SHARED (R423, R428): an uncorrectable error in shared state is contained in its unit. -/
def execShared (u : SharedUnit) (s : State) : Host.Outcome State Fault Refusal :=
  match u with
  | .bay row col bay =>
    if Config.rows ≤ row ∨ Config.cols ≤ col ∨ Config.bays ≤ bay then notNow s
    else
      let core := 14 * row + col
      afterStep (settleAll (sharedRecord 1 (coreField core) 0 (strikeCore (zeroHolder s core bay) core 0)))
  | .l1 row col set =>
    if Config.rows ≤ row ∨ Config.cols ≤ col ∨ 128 ≤ set then notNow s
    else
      let core := 14 * row + col
      let dirty := l1Dirty s core set
      let lost := l1SetOf s core set
      let t := lost.foldl (fun s e => dropL1 s (some e.cluster) e.hank e.ply e.line) (dirty.foldl (poisonCached 2) s)
      afterStep (settleAll (sharedRecord (if dirty.isEmpty then 1 else 2) (coreField core) 0 (strikeCore t core 2)))
  | .l2 row col set =>
    let tile := 14 * row + col
    if Config.rows ≤ row ∨ Config.cols ≤ col ∨ !clusterEnabled s (clusterOf tile) ∨ 512 ≤ set then notNow s
    else
      let lines := l2SetOf s tile set
      let t := lines.foldl (fun s e => abortTrackers (strikeL2 s e) e.line) s
      afterStep (settleAll (sharedRecord (if lines.isEmpty then 1 else 2) (coreField tile) 0 (t, 0, 0)))
  | .versionDir h =>
    if 8 ≤ h then notNow s
    else
      let r := fellHank s h
      afterStep (settleAll (sharedRecord 3 0xFF h (r.1, 0, r.2)))

/-! ### Links -/

/-- The fields of INJSEL (R429). -/
def selKind (v : Nat) : Nat := bitsN v 1 0
def selRow (v : Nat) : Nat := bitsN v 7 4
def selCol (v : Nat) : Nat := bitsN v 11 8
def selDir (v : Nat) : Nat := bitsN v 14 12
def selLane (v : Nat) : Nat := bitsN v 19 16
def selAction (v : Nat) : Nat := bitsN v 21 20
def selPoint (v : Nat) : Bool := bitN v 22
def selRepeat (v : Nat) : Bool := bitN v 23

/-- Whether INJSEL's link exists (R429, R353, R362): a mesh link enters a tile from a neighbour inside the array. -/
def linkThere (v : Nat) : Bool :=
  let tile := decide (selRow v < Config.rows ∧ selCol v < Config.cols ∧ selLane v < 2)
  match selKind v with
  | 0 =>
    tile && (match selDir v with
      | 0 => decide (0 < selRow v)
      | 1 => decide (selRow v + 1 < Config.rows)
      | 2 => decide (0 < selCol v)
      | 3 => decide (selCol v + 1 < Config.cols)
      | _ => false)
  | 1 => tile && decide (selDir v < 2)
  | 2 => decide (selLane v < 4)
  | _ => true

/-- The core field of a link's record (R430). -/
def linkCore (v : Nat) : Nat := if selKind v < 2 then selRow v * 16 + selCol v else 0xFF

/-- What a transfer carries, as a granule (R420): of a line of root memory, of vault memory, or of a version. -/
def transferGranule : Transfer → Granule
  | .root pa => .phys (pa / 16)
  | .vault core g => .vault core g
  | .version h p pa => .version h p (pa / 16)

/-- Whether a link carries a transfer (R353-R355, R360, R362): the mesh any, a bond those of its own vault, a channel of GDDR 7 those of its lines and
of the pool's slots (R361). -/
def linkCarries (s : State) (v : Nat) : Transfer → Bool
  | .root pa =>
    (match selKind v with
     | 1 => 14 * selRow v + selCol v == homeTile s (lineOf pa)
     | 2 => selCol v == channelOf (lineOf pa)
     | k => k == 0)
  | .vault core _ => selKind v == 0 || (selKind v == 1 && 14 * selRow v + selCol v == core)
  | .version _ _ pa => selKind v == 0 || selKind v == 2 || (selKind v == 1 && 14 * selRow v + selCol v == homeTile s (lineOf pa))

/-- A transfer that fails after four retries is poisoned, with the code of the link or of GDDR 7, and leaves a record (R420, R421, R428). The model
poisons one granule of it (log 34). -/
def failTransfer (s : State) (v : Nat) (t : Transfer) : State :=
  let g := transferGranule t
  errRecord (setPoison s g (if selKind v = 2 then 4 else 6)) 2 (linkCore v) 0 4 (BitVec.ofNat 64 (granuleLine g)) (BitVec.ofNat 64 v)

/-- LINKFAIL (R420, R421, R428). PCI Express links recover by themselves. -/
def execLinkfail (link : BitVec 20) (what : Transfer) (s : State) : Host.Outcome State Fault Refusal :=
  let v := link.toNat
  if bitN v 15 || bitsN v 3 2 != 0 || selKind v == 3 || !linkThere v || !granuleThere s (transferGranule what) || !linkCarries s v what then notNow s
  else afterStep (failTransfer s v what)

/-- A register of an injector (R429). -/
def injReg (s : State) (i k : Nat) : DWord := s.rel.read (0x1000 + 32 * i + 8 * k)

/-- Sets a register of an injector. -/
def setInj (s : State) (i k : Nat) (v : DWord) : State := setRel s (0x1000 + 32 * i + 8 * k) v

/-- How many matching flits an injector has counted since it was armed (R429, R430). -/
def injCount (s : State) (i : Nat) : Nat := s.err.counts[i]?.getD 0

/-- Sets an injector's count. -/
def setCount (s : State) (i n : Nat) : State := { s with err := { s.err with counts := s.err.counts.setIfInBounds i n } }

/-- INJSEL_WRITE (R429): ignored with a reserved bit, an absent link, or an arming with N = 0; arming starts the count at 0. -/
def execInjselWrite (i : Nat) (x : RegWrite) (s : State) : Host.Outcome State Fault Refusal :=
  let v := mergeWrite x (injReg s i 0)
  afterStep
    (if inRun s && !x.vf && decide (i < 32) && fitsMask v 0xFFFF00FF7FF3 && linkThere v.toNat
        && (selAction v.toNat == 0 || (injReg s i 3).toNat % 2 ^ 32 != 0) then
      setInj (if selAction v.toNat = 0 then s else setCount s i 0) i 0 v
    else s)

/-- The line and the place of a flit (R430). -/
def hitLine : InjectHit → Nat
  | .copy _ line _ | .load _ _ _ _ _ _ line _ | .home _ line _ | .fill _ _ line _ | .back _ _ line _ | .other _ _ _ line => line
  | .host _ => 0
def hitBeat : InjectHit → Option Nat
  | .copy _ _ beat | .load _ _ _ _ _ _ _ beat | .home _ _ beat | .fill _ _ _ beat | .back _ _ _ beat => some beat
  | .other _ _ _ _ | .host _ => none

/-- Whether a transfer from tile `a` to tile `b` crosses the mesh link by which a flit enters a tile from DIR (R355, R429): along the row of
`a` to the column of `b`, then along that column. -/
def onLeg (v a b : Nat) : Bool :=
  let r := selRow v
  let c := selCol v
  match selDir v with
  | 0 => decide (c = b % 14 ∧ a / 14 < r ∧ r ≤ b / 14)
  | 1 => decide (c = b % 14 ∧ r < a / 14 ∧ b / 14 ≤ r)
  | 2 => decide (r = a / 14 ∧ a % 14 < c ∧ c ≤ b % 14)
  | 3 => decide (r = a / 14 ∧ c < a % 14 ∧ b % 14 ≤ c)
  | _ => false

/-- The core of the wave whose operation has a number. -/
def flightCore (s : State) (id : Nat) : Nat :=
  match s.flights.find? fun f => f.id == id with
  | some f => (match s.waves[f.wave]? with | some v => v.core | none => 0)
  | none => 0

/-- Whether a bond carries a flit in a direction, as a request or a response (R429): the link above `tile`. -/
def onBond (v tile : Nat) (down resp : Bool) : Bool :=
  selKind v == 1 && 14 * selRow v + selCol v == tile && selDir v == down.toNat && selLane v == resp.toNat

/-- Whether the mesh carries a flit from tile `a` to tile `b` (R355, R429). -/
def onMesh (v a b : Nat) (resp : Bool) : Bool := selKind v == 0 && selLane v == resp.toNat && onLeg v a b

/-- Whether a response to an operation crosses a link (R353-R355): from the tile that answers to the core, and where its L1 slice missed from the
home tile to the slice before; a read of vault memory comes down its bond and names no line. -/
def loadOnLink (s : State) (v line : Nat) (f : Flight) : Bool :=
  let core := flightCore s f.id
  let src := (f.route.find? fun r => r.1 == line).map Prod.snd
  if f.path = some .v then
    (match src with
     | some t => line == 0 && (onBond v t true true || onMesh v t core true)
     | none => false)
  else if !f.lines.contains line then false
  else match src with
    | none => onMesh v (homeTile s line) core true
    | some t => onMesh v t core true || (f.miss.any (fun m => m.1 == line) && onMesh v (homeTile s line) t true)

/-- Whether a flit crosses the link of an INJSEL (R353-R355, R429): a fill of an L1 slice comes from the home tile, a load's response along its own
path, a store's bytes to the home tile; a home copy is filled from the vault above its tile or from its GDDR 7 channel, and goes back there. -/
def flitOnLink (s : State) (v : Nat) (hit : InjectHit) : Bool :=
  match hit with
  | .copy cl line _ => onMesh v (homeTile s line) (sliceTile cl line) true
  | .load id _ _ _ _ _ line _ => (match flightOf s id with | some f => f.wb && loadOnLink s v line f | none => false)
  | .home src line _ => onMesh v src (homeTile s line) false
  | .fill bond lane line _ =>
    if bond then onBond v (homeTile s line) true true else selKind v == 2 && selCol v == channelOf line && selLane v == lane
  | .back bond lane line _ =>
    if bond then onBond v (homeTile s line) false false else selKind v == 2 && selCol v == channelOf line && selLane v == lane
  | .other src dst resp _ => onMesh v src dst resp || (src == dst && onBond v src resp resp)
  | .host lane => selKind v == 3 && selLane v == lane

/-- Whether a flit crosses an injector's link and meets its enabled matches (R429). -/
def flitMatches (s : State) (i : Nat) (hit : InjectHit) : Bool :=
  let m := (injReg s i 1).toNat
  flitOnLink s (injReg s i 0).toNat hit && (!bitN m 1 || bitsN m 51 7 == hitLine hit) && (!bitN m 0 || hitBeat hit == some (bitsN m 6 3))

/-- The operation whose response a flit is. -/
def hitFlight : InjectHit → Option Nat
  | .load id _ _ _ _ _ _ _ => some id
  | _ => none

/-- XORs the mask into eight bytes of a line, the lowest byte first (R429). -/
def xorFlit (mask : DWord) (beat : Nat) (bs : Bytes) : Bytes :=
  (List.range 128).map fun k =>
    bs.getD k 0 ^^^ (if 8 * beat ≤ k ∧ k < 8 * beat + 8 then BitVec.ofNat 8 (mask.toNat / 2 ^ (8 * (k - 8 * beat))) else 0)

/-- A loaded register whose `n` bytes lie at place `off` of the flit, with the mask put in. -/
def xorWord (mask : DWord) (off n : Nat) (sext : Bool) (v : Word) : Word :=
  let b := (v.toNat ^^^ (mask.toNat / 2 ^ (8 * off))) % 2 ^ (8 * n)
  if sext then BitVec.ofInt 32 (signedN (8 * n) b) else BitVec.ofNat 32 b

/-- A home copy changed on its way in: GDDR 7 keeps its bytes when the copy was clean. -/
def corruptHome (s : State) (mask : DWord) (line beat : Nat) : State :=
  let old := s.mem.readBytes (128 * line) 128
  { s with
    mem := s.mem.writeBytes (128 * line) (xorFlit mask beat old)
    stale := if s.stale.any fun t => t.line == line then s.stale else { line := line, data := old, dirty := false } :: s.stale }

/-- An L1 copy changed on its way in: the fill itself, where the slice does not hold the line yet (R356). -/
def corruptCopy (s : State) (mask : DWord) (cl line beat : Nat) : State :=
  let s := match (List.range 8).find? fun h => (hreg s h 0x008).getLsbD cl with
    | some h => if (presence s h 0 line).contains cl then s else fillLine s cl h 0 line 0 0 false
    | none => s
  let old := match s.corrupt.find? fun c => c.cluster == cl && c.line == line with
    | some c => c.data
    | none => s.mem.readBytes (128 * line) 128
  { s with
    corrupt := { cluster := cl, line := line, data := xorFlit mask beat old } :: s.corrupt.filter fun c => !(c.cluster == cl && c.line == line) }

/-- GDDR 7 bytes changed on their way from the home copy, which keeps its own while a cache holds the line. -/
def corruptBack (s : State) (mask : DWord) (line beat : Nat) : State :=
  let bad := xorFlit mask beat (gddrRead s (128 * line) 128)
  if s.stale.any fun t => t.line == line then
    { s with stale := s.stale.map fun t => if t.line = line then { t with data := bad } else t }
  else if homeListed s line then { s with stale := { line := line, data := bad, dirty := false } :: s.stale }
  else { s with mem := s.mem.writeBytes (128 * line) bad }

/-- A flit corrupted before its CRC is accepted (R429, R430). -/
def corruptFlit (s : State) (mask : DWord) : InjectHit → State
  | .copy cl line beat => corruptCopy s mask cl line beat
  | .load id reg lane off n sext _ _ =>
    modFlight s id fun f =>
      { f with res := f.res.map fun x => if x.reg = reg ∧ x.lane = lane then { x with val := xorWord mask off n sext x.val } else x }
  | .home _ line beat | .fill _ _ line beat => corruptHome s mask line beat
  | .back bond _ line beat => if bond then corruptHome s mask line beat else corruptBack s mask line beat
  | .other _ _ _ _ | .host _ => s

/-- The injectors on the link of injector `i`, ascending, that count a flit (R430): they are armed, and it meets their matches. -/
def injectors (s : State) (i : Nat) (hit : InjectHit) : List Nat :=
  (List.range 32).filter fun j =>
    (injReg s j 0).toNat % 2 ^ 20 == (injReg s i 0).toNat % 2 ^ 20 && selAction (injReg s j 0).toNat != 0 && flitMatches s j hit

/-- An injector counts a flit (R430). At the N-th it fires: FIRED rises, the record is written, and it disarms, or with REPEAT counts again from 0.
The injectors that fired, each with its INJSEL, are collected. -/
def countFlit (hit : InjectHit) (a : State × List (Nat × Nat)) (j : Nat) : State × List (Nat × Nat) :=
  let s := a.1
  let v := injReg s j 0
  let c := (injReg s j 3).toNat
  if injCount s j + 1 < c % 2 ^ 32 then (setCount s j (injCount s j + 1), a.2)
  else
    let s := setInj s j 3 (BitVec.ofNat 64 ((c / 2 ^ 32 + 1) % 2 ^ 32 * 2 ^ 32 + c % 2 ^ 32))
    let s := if selRepeat v.toNat then setCount s j 0 else setInj s j 0 (v &&& ~~~0x300000)
    (errRecord s 0 (linkCore v.toNat) 0 11 (BitVec.ofNat 64 (128 * hitLine hit)) (BitVec.ofNat 64 j), a.2 ++ [(j, v.toNat)])

/-- Whether a fired injector makes the link retry (R429, R430): it drops the flit, or changes it after its CRC. -/
def makesRetry (v : Nat) : Bool := selAction v == 2 || (selAction v == 1 && selPoint v)

/-- What fired injectors do to a flit that is accepted (R430): masks combine by XOR, and each delay holds it. -/
def acceptFlit (s : State) (hit : InjectHit) (fired : List (Nat × Nat)) : State :=
  let masks := fired.filter fun p => selAction p.2 == 1
  let mask := masks.foldl (fun m p => m ^^^ injReg s p.1 2) 0
  let s := if masks.isEmpty then s else corruptFlit s mask hit
  { s with err := { s.err with delayed := s.err.delayed ++ (fired.filter fun p => selAction p.2 == 3).map fun p => (p.1, hitFlight hit) } }

/-- What a flit carries data of, for the failure of its transfer. -/
def hitTransfer : InjectHit → Option Transfer
  | .copy _ line beat | .load _ _ _ _ _ _ line beat | .home _ line beat | .fill _ _ line beat | .back _ _ line beat =>
    some (.root (128 * line + 8 * beat))
  | .other _ _ _ _ | .host _ => none

/-- A flit crosses a link, with `n` retries left (R430): the injectors there count it. One that the link retries is counted again; a retry that
succeeds is a corrected error, and after the fourth the transfer fails (R420). -/
def passFlit (i : Nat) (hit : InjectHit) (again : Bool) : Nat → State → State
  | n, s =>
    let r := (injectors s i hit).foldl (countFlit hit) (s, [])
    match r.2.find? fun p => makesRetry p.2 with
    | none => acceptFlit (if again then countCorrected r.1 else r.1) hit r.2
    | some p =>
      match n with
      | 0 => if selKind p.2 = 3 then r.1 else (match hitTransfer hit with | some t => failTransfer r.1 (p.2 % 2 ^ 20) t | none => r.1)
      | n + 1 => passFlit i hit true n r.1

/-- INJECT (R430): a flit crosses the link of armed injector `i`, which counts it, as do the others there. -/
def execInject (i : Nat) (hit : InjectHit) (s : State) : Host.Outcome State Fault Refusal :=
  if !(injectors s i hit).contains i || decide (Config.physBytes ≤ 128 * hitLine hit) then notNow s
  else afterStep (passFlit i hit false 4 s)

/-- INJECTOR_DELAY_EXPIRY (R430): the flit that an injector holds is released. -/
def execInjectorDelayExpiry (i : Nat) (s : State) : Host.Outcome State Fault Refusal :=
  match s.err.delayed.find? fun d => d.1 == i with
  | none => notNow s
  | some d => afterStep { s with err := { s.err with delayed := s.err.delayed.erase d } }

/-! ### Registers -/

/-- ERRBASE_WRITE (R427): TAIL and HEAD become 0. -/
def execErrbaseWrite (x : RegWrite) (s : State) : Host.Outcome State Fault Refusal :=
  let v := mergeWrite x (s.rel.read 0)
  afterStep
    (if inRun s && !x.vf && fitsMask v 0xFFFFFFFFF8000 then
      (let t := setRel (setRel s 0 v) 0x010 0
       { t with err := { t.err with tail := 0 } })
    else s)

/-- CECOUNT_WRITE (R427): any write clears. -/
def execCecountWrite (x : RegWrite) (s : State) : Host.Outcome State Fault Refusal :=
  afterStep (if inRun s && !x.vf then setRel s 0x020 0 else s)

end Sys2Proof.Machine
end

