-- ==== Sys2Proof/Machine/Boot.lean ====
section
/-! DEFINITION. Bring-up, identity, attestation and power (24_bringup_security_power R431-R442). Signatures, digests and keys are free
values (log 12). -/

namespace Sys2Proof.Machine

/-! ### Boot -/

/-- Changes SYSC's state. -/
def modSysc (s : State) (f : Sysc → Sysc) : State := { s with sysc := f s.sysc }

/-- The device restarted (R431, R432): everything at its reset value but the board, what the host has seen, the steps that are to come,
and the count of free values drawn. -/
def restart (s : State) : State :=
  let t : State :=
    { State.reset with
      inbox := s.inbox, fresh := s.fresh, progress := s.progress, turn := s.turn, timedTurn := s.timedTurn, board := s.board, host := s.host }
  modSysc t fun y => { y with stepping := s.sysc.stepping }

/-- POWER_ON (R431): SYSC is held in RESET. -/
def execPowerOn (s : State) : Host.Outcome State Fault Refusal := .next (restart s)

/-- FUNDAMENTAL_RESET (R432): the device restarts, from HALT too. -/
def execFundamentalReset (s : State) : Host.Outcome State Fault Refusal := .next (restart s)

/-- The device's key pair (R436): generated from the digest of the corrected start-up pattern, with ML-DSA-44's lengths; none when the helper data is
missing or its correction fails. -/
def deviceKeys (b : Board) : Bytes × Bytes :=
  match if b.helper = [] then none else Config.pufCorrect b.sram b.helper with
  | none => ([], [])
  | some x =>
    let k := Config.keyGen (digest x)
    (fixLen 1312 k.1, fixLen 2560 k.2)

/-- ROM (R435, R436): the rollback counter is read and the identity derived. -/
def execRom (s : State) : Host.Outcome State Fault Refusal :=
  if s.sysc.stage ≠ 0 then notNow s
  else
    let k := deviceKeys s.board
    afterStep (modSysc s fun y => { y with stage := 1, rollback := s.board.counter, devkey := k.1, devpriv := k.2 })

/-- Bytes of an object in flash, as a number. -/
def fieldNat (bs : Bytes) (off n : Nat) : Nat := leNat ((bs.drop off).take n)

/-- Whether an object's key and signature, its last 3732 bytes, are good (R433, R434): the signature covers what stands before it. -/
def signedOk (bs : Bytes) : Bool :=
  let body := bs.take (bs.length - 2420)
  let key := (bs.drop (bs.length - 3732)).take 1312
  decide (3732 ≤ bs.length) && digest key == fixLen 32 Config.vendorKeyHash
    && Config.sigValid key (digest body) (bs.drop (bs.length - 2420))

/-- The cause for which the floorplan record is refused (R432, R433); 0 when it is accepted. -/
def floorplanCause (bs : Bytes) (rollback : Nat) (selfTest : DWord) : Nat :=
  let en := fieldNat bs 8 8
  if !signedOk bs || fieldNat bs 0 4 != 0x31504647 || fieldNat bs 4 2 != 1 || decide (2 ^ 28 ≤ en) then 1
  else if fieldNat bs 6 2 < rollback then 2
  else if popcount 28 en ≠ 24 ∨ en &&& selfTest.toNat ≠ 0 then 3
  else 0

/-- FLOORPLAN (R433): `selfTest` names the clusters that fail self-test. -/
def execFloorplan (selfTest : DWord) (s : State) : Host.Outcome State Fault Refusal :=
  if s.sysc.stage ≠ 1 then notNow s
  else
    let bs := s.board.flash.readBytes 0 3988
    let c := floorplanCause bs s.sysc.rollback selfTest
    if c ≠ 0 then afterStep (halt s c)
    else
      afterStep (modSysc s fun y =>
        { y with stage := 2, enmask := BitVec.ofNat 28 (fieldNat bs 8 8), fpSvn := fieldNat bs 6 2, fpDigest := digest bs })

/-- FIRMWARE (R434): the image follows the record in flash. -/
def execFirmware (s : State) : Host.Outcome State Fault Refusal :=
  if s.sysc.stage ≠ 2 then notNow s
  else
    let bs := s.board.flash.readBytes 3988 Config.fwSize
    let svn := fieldNat bs Config.fwSvnAt 2
    if !signedOk bs then afterStep (halt s 4)
    else if svn < s.sysc.rollback then afterStep (halt s 5)
    else
      afterStep (modSysc s fun y =>
        { y with stage := 3, fwSvn := svn, fwDigest := digest bs, vendorKey := (bs.drop (bs.length - 3732)).take 1312 })

/-- Whether a control-store image in flash, with its signature at its end, verifies under the vendor key of the accepted firmware (R434). -/
def storeOk (s : State) (at' : Nat × Nat) : Bool :=
  let bs := s.board.flash.readBytes at'.1 at'.2
  decide (2420 ≤ bs.length)
    && Config.sigValid s.sysc.vendorKey (digest (bs.take (bs.length - 2420))) (bs.drop (bs.length - 2420))

/-- MEMORY (R431, R432, R434): SYSC enters the stage; then training and the self-tests pass or the device halts, and the control stores of the fixed
units are loaded. A store whose image does not verify halts it as invalid firmware does (log 35). -/
def execMemory (trained : Bool) (s : State) : Host.Outcome State Fault Refusal :=
  if s.sysc.stage = 3 then afterStep (modSysc s fun y => { y with stage := 4 })
  else if s.sysc.stage ≠ 4 then notNow s
  else
    afterStep
      (if !trained then halt s 6
      else if Config.storeImages.all (storeOk s) then modSysc s fun y => { y with stage := 5 }
      else halt s 4)

/-- The rollback counter is raised to the lower of the two SVNs when both exceed it and the platform agrees (R435). -/
def raiseRollback (s : State) : State :=
  if s.sysc.rollback < s.sysc.fpSvn ∧ s.sysc.rollback < s.sysc.fwSvn then
    let t := { s with fresh := s.fresh + 1 }
    if Config.raisesCounter s.fresh then { t with board := { t.board with counter := min s.sysc.fpSvn s.sysc.fwSvn } } else t
  else s

/-- FEATACK_WRITE (R411, R438): a 64-bit write in stage 5 stores the features offered among those written, and moves to RUN. -/
def execFeatackWrite (x : RegWrite) (s : State) : Host.Outcome State Fault Refusal :=
  afterStep
    (if s.sysc.stage = 5 ∧ isFull x ∧ !x.vf then raiseRollback (modSysc s fun y => { y with featack := x.val &&& y.features, stage := 6 })
    else s)

/-! ### Attestation -/

/-- ATTCTL_GO (R411, R439): a 64-bit write of ATTCTL with GO starts a quote; while busy it is ignored. -/
def execAttctlGo (x : RegWrite) (s : State) : Host.Outcome State Fault Refusal :=
  if !x.val.getLsbD 0 then notNow s
  else
    afterStep
      (if isFull x && !x.vf && s.sysc.attstat != 1 && fitsMask x.val 0xFFFFFFFFFFFFF001 then
        modSysc s fun y => { y with attctl := x.val &&& ~~~1, attstat := 1 }
      else s)

/-- The registers at offsets 0x000 to 0x048 of every control block (R439). -/
def formation (s : State) : Bytes := (List.range 8).flatMap fun h => (List.range 10).flatMap fun k => natLe 8 (readHank s h (8 * k)).toNat

/-- The signed part of a quote (R439). -/
def quoteBody (s : State) : Bytes :=
  let y := s.sysc
  fixLen 32 y.nonce ++ fixLen 32 y.fwDigest ++ fixLen 32 y.fpDigest ++ digest (formation s) ++ natLe 2 y.fpSvn ++ natLe 2 y.fwSvn
    ++ List.replicate 124 0

/-- The quote (R439). -/
def quote (s : State) : Bytes := quoteBody s ++ fixLen 2420 (Config.sigMake s.sysc.devpriv (digest (quoteBody s)))

/-- QUOTE_COMPLETE (R439): the quote is written and ATTSTAT becomes 2, or 3 without a device key or when the write fails. -/
def execQuoteComplete (ok : Bool) (s : State) : Host.Outcome State Fault Refusal :=
  if s.sysc.attstat ≠ 1 then notNow s
  else if s.sysc.devkey = [] ∨ !ok then afterStep (modSysc s fun y => { y with attstat := 3 })
  else afterStep (modSysc (answer s (.busWrite s.sysc.attctl.toNat (quote s))) fun y => { y with attstat := 2 })

/-! ### Power -/

/-- The thermal hold after a reading (R441). -/
def holdNext (hold : Bool) (temp : Nat) : Bool := if 105 ≤ temp then true else if temp < 100 then false else hold

/-- GOVERNOR_EVALUATION (R441, R442): ACLK is a step of 25 MHz from 800 to 2100 MHz, and 800 MHz under a thermal hold. -/
def execGovernorEvaluation (mhz watts temp : Nat) (s : State) : Host.Outcome State Fault Refusal :=
  let hold := holdNext s.sysc.hold temp
  if s.sysc.stage = 15 ∨ mhz < 800 ∨ 2100 < mhz ∨ mhz % 25 ≠ 0 ∨ 115 ≤ temp ∨ 2 ^ 16 ≤ watts ∨ (hold ∧ mhz ≠ 800) then
    notNow s
  else afterStep (modSysc s fun y => { y with amhz := mhz, watts := watts, temp := temp, hold := hold, throt := y.throt || hold })

/-- THERMAL_TRIP (R432, R441): a device-fatal record (log 23), then HALT with cause 8. -/
def execThermalTrip (s : State) : Host.Outcome State Fault Refusal :=
  afterStep (halt (errRecord s 4 0xFF 0 (1 + Config.tripKind % 13) Config.tripAddr Config.tripInfo) 8)

/-- POWER_WRITE (R442): writing 1 to bit 40 clears THROT. -/
def execPowerWrite (x : RegWrite) (s : State) : Host.Outcome State Fault Refusal :=
  let v := mergeWrite x 0
  afterStep (if !x.vf && v.getLsbD 40 && fitsMask v 0x1FFFFFFFFFF then modSysc s fun y => { y with throt := false } else s)

end Sys2Proof.Machine
end

