-- ==== Sys2Proof/Machine/ControlWords.lean ====
section
/-! DEFINITION. The C-class words (08_control_and_strands): branches and splits (R187-R191), JOIN (R192), barriers (R196-R198), EXIT,
TRAP, BPT and ERET (R200-R203). -/

namespace Sys2Proof.Machine

/-! ### Branches -/

/-- The taken lanes of a word whose PM is a condition (R186). -/
def Ctx.taken (c : Ctx) (x : CWord) : Mask := c.ex &&& predLanes x.pm (c.reg x.preg.toNat)

/-- The target of a branch (R187). -/
def Ctx.target (c : Ctx) (x : CWord) : DWord := c.pc + 8 * Word.sx64 x.off

/-- The strand goes to a header. -/
def jump (s : State) (c : Ctx) (pc : DWord) : Res := .moved (modThread s c.w c.n fun t => t.goto pc)

/-- A strand splits (R188): the lanes of `m` become a strand of their own, the others go on in this one. -/
def splitOff (s : State) (c : Ctx) (m : Mask) (t : Strand) : State :=
  modWave s c.w fun v => (v.modThread c.n fun u => { u with mask := u.mask &&& ~~~m }.advance).addStrands [{ t with mask := m }]

/-- What BRA and CALL do once their lanes are known (R187): jump, fall through, or split; a split inside an atomic region aborts it
(R253), and in the access slice lanes that disagree raise DIVERGENT_ACCESS (R191). -/
def branch (s : State) (c : Ctx) (m : Mask) (pc : DWord) : Res :=
  if m = c.ex then jump s c pc
  else if m = 0 then .ok s
  else if c.acc then c.fault s .divergentAccess
  else if c.region.isSome then .abort 8 0 0
  else .moved (splitOff s c m (c.st.goto pc))

/-- BRA (R187). -/
def execBra (x : CWord) (s : State) : Host.Outcome State Fault Refusal :=
  issue s (.bra x) fun s c => branch s c (c.taken x) (c.target x)

/-- BRU (R187): SUB bit 0 clear asks for every lane, set for any. -/
def execBru (x : CWord) (s : State) : Host.Outcome State Fault Refusal :=
  issue s (.bru x) fun s c =>
    if (if x.sub = 0 then c.taken x = c.ex else c.taken x ≠ 0) then jump s c (c.target x) else .ok s

/-- CALL (R187): the link is the address after the word. -/
def execCall (x : CWord) (s : State) : Host.Outcome State Fault Refusal :=
  issue s (.call x) fun s c =>
    let s := putPair s c.w c.acc (c.taken x) x.d.toNat fun _ => c.pc + 8
    branch (clearRegs s { c with act := c.taken x } (pairRegs x.d)) c (c.taken x) (c.target x)

/-- The strands into which BRX sends the lanes (R189): one for each target, the lanes that fall through, and the lanes whose target is
misaligned, parked at the word; by lowest lane. `ls` are the lanes still to place. -/
def brxParts (c : Ctx) (key : Nat → Option DWord × Bool) (mk : Option DWord × Bool → Strand) : Nat → List Nat → List Strand
  | 0, _ | _, [] => []
  | fuel + 1, l :: ls =>
    let same := (l :: ls).filter fun k => key k == key l
    { mk (key l) with mask := maskOfList same } :: brxParts c key mk fuel ((l :: ls).filter fun k => !(key k == key l))

/-- BRX and RET (R189, R190). -/
def branchLanes (s : State) (c : Ctx) (x : CWord) : Res :=
  let tgt := fun l => c.perm64 x.d 0 l
  let bad := fun l => c.act.getLsbD l && (tgt l).toNat % 8 != 0
  let fs := ((lanesOf c.act).filter bad).map fun l => laneFault l .misalign (tgt l)
  if fs ≠ [] ∧ c.st.handler then .done s { Stops.none with faults := fs }
  else
    let key := fun l => if bad l then (none, true) else if c.act.getLsbD l then (some (tgt l), false) else (none, false)
    let mk : Option DWord × Bool → Strand := fun k =>
      match k with
      | (some pc, _) => c.st.goto pc
      | (none, true) => { c.st with park := .fault c.opc fs }
      | (none, false) => c.st.advance
    match brxParts c key mk 8 (lanesOf c.ex) with
    | [] => .ok s
    | t :: ts => .moved (modWave s c.w fun v => (v.modThread c.n fun _ => { t with num := c.n }).addStrands ts)

/-- BRX (R189). -/
def execBrx (x : CWord) (s : State) : Host.Outcome State Fault Refusal := issue s (.brx x) fun s c => branchLanes s c x

/-- RET (R189): the effect of BRX. -/
def execRet (x : CWord) (s : State) : Host.Outcome State Fault Refusal := issue s (.ret x) fun s c => branchLanes s c x

/-! ### JOIN and barriers -/

/-- JOIN (R192): the strand arrives; the release rule of R193 is checked after every word. -/
def execJoin (x : CWord) (s : State) : Host.Outcome State Fault Refusal :=
  issue s (.join x) fun s c => .park s (.join c.pc ((c.u x.d.toNat).setWidth 8))

/-- The lanes of a strand arrive at a barrier (R197): the count, and each lane's recorded phase. -/
def arrive (s : State) (c : Ctx) (x : CWord) : State × Nat :=
  let b := barrierOf s c.v (barLevel x) (barId x)
  let s := setBarrier s { b with count := b.count + laneCount c.act }
  (modWave s c.w fun v =>
    { v with arrivals :=
        (lanesOf c.act).map (fun l => { level := barLevel x, id := barId x, lane := l, phase := b.phase })
          ++ v.arrivals.filter fun a => !(a.level == barLevel x && a.id == barId x && c.act.getLsbD a.lane) },
   b.phase)

/-- BAR (R198): arrives and waits for the phase to complete. -/
def execBar (x : CWord) (s : State) : Host.Outcome State Fault Refusal :=
  issue s (.bar x) fun s c =>
    let r := arrive s c x
    .park r.1 (.bar (barLevel x) (barId x) r.2)

/-- BARA (R198): arrives and goes on. -/
def execBara (x : CWord) (s : State) : Host.Outcome State Fault Refusal := issue s (.bara x) fun s c => .ok (arrive s c x).1

/-- BARW (R198): waits for the phases that its lanes recorded. -/
def execBarw (x : CWord) (s : State) : Host.Outcome State Fault Refusal :=
  issue s (.barw x) fun s _ => .park s (.barw (barLevel x) (barId x))

/-! ### Ending, hints and traps -/

/-- Results still outstanding for exited lanes are dropped (R200). -/
def dropResults (s : State) (w : Nat) (m : Mask) : State :=
  { s with flights := s.flights.map fun f =>
    if f.wave = w ∧ !f.isAccess then { f with res := f.res.filter fun r => !m.getLsbD r.lane } else f }

/-- Lanes exit (R200). -/
def exitLanes (s : State) (c : Ctx) (m : Mask) : State :=
  modWave (dropResults s c.w m) c.w fun v =>
    let v := { v with exited := v.exited ||| m }
    if m = c.ex then { v with strands := v.strands.filter fun t => t.num != c.n }
    else v.modThread c.n fun t => { t with mask := t.mask &&& ~~~m }.advance

/-- EXIT (R200, R191, R319). -/
def execExit (x : CWord) (s : State) : Host.Outcome State Fault Refusal :=
  issue s (.exit x) fun s c =>
    let m := c.taken x
    if m = 0 then .ok s
    else if c.acc then
      if m = 0xFF then .moved (modWave s c.w fun v => { v with access := v.access.map fun t => { t with ended := true } })
      else c.fault s .divergentAccess
    else if c.st.handler && (match c.v.trap with | some e => e.isAccess | none => false) then .moved (retireWave s c.w none)
    else .moved (exitLanes s c m)

/-- YIELD (R201): no architectural effect. -/
def execYield (x : CWord) (s : State) : Host.Outcome State Fault Refusal := issue s (.yield x) fun s _ => .ok s

/-- NOP (R201): no architectural effect. -/
def execNop (x : CWord) (s : State) : Host.Outcome State Fault Refusal := issue s (.nop x) fun s _ => .ok s

/-- TRAP and BPT (R202): the taken lanes park with the cause and CODE, to resume at the next header. -/
def raiseTrap (s : State) (c : Ctx) (x : CWord) (cause : Cause) : Res :=
  let m := c.taken x
  let fs := (lanesOf m).map fun l => laneFault l cause c.pc false .none x.off.toNat
  if m = 0 then .ok s
  else if c.st.handler then .done s { Stops.none with faults := fs }
  else
    let t := { c.st with pc := c.st.nextPc, clause := none, park := .fault c.opc fs }
    if m = c.ex then .moved (modThread s c.w c.n fun _ => t) else .moved (splitOff s c m t)

/-- TRAP (R202). -/
def execTrap (x : CWord) (s : State) : Host.Outcome State Fault Refusal := issue s (.trap x) fun s c => raiseTrap s c x .trapInsn

/-- BPT (R202). -/
def execBpt (x : CWord) (s : State) : Host.Outcome State Fault Refusal := issue s (.bpt x) fun s c => raiseTrap s c x .breakpoint

/-- ERET (R203, R317): the return from a trap. -/
def execEret (x : CWord) (s : State) : Host.Outcome State Fault Refusal :=
  issue s (.eret x) fun s c => .moved (returnTrap s c.w c.n)

end Sys2Proof.Machine
end

