-- ==== Sys2Proof/Machine/EngineWords.lean ====
section
/-! DEFINITION. The copy engines (09_matrix_and_yarns R216-R219): CPY, CPYD, GATH and SCAT, checked and performed at issue (log 1) and
in flight until ENGINE_COMMAND_COMPLETE. -/

namespace Sys2Proof.Machine

/-- Ranges of global memory that an engine command reads and writes (R301). -/
structure Reach where
  reads : List (Nat × Nat)
  writes : List (Nat × Nat)

/-- Puts an engine command in flight with its markers and its signature (R216, R221, R337); it owns the lines of its global destination until it
is performed, and waits for those that an earlier command owns (R301, R357). -/
def engineFlight (s : State) (c : Ctx) (ws : List Want) (g : Reach) (sg : List Sig) : State :=
  addFlight (addMarkers (addSigs s c.w c.v sg) c.v.team ws)
    { c.flight .engine (some .s) [] [] false true with lines := c.rangeLines s true g.writes, reads := c.rangeLines s false g.reads }

/-- Whether an engine command must wait: S counter, compare buffer, markers (R32, R337, R222). -/
def engineWait (s : State) (c : Ctx) (ws : List Want) (sigs : Nat) : Bool :=
  c.pathFull s .s || !sigRoom s c.w c.v sigs || markersWait s c.v.team ws

/-- An engine's result: the command in flight, or its stop. -/
def engineDone (s0 : State) (c : Ctx) (ws : List Want) (g : Reach) (r : Except EngineStop (State × List Sig)) : Res :=
  match r with
  | .error e => c.engineStop s0 e
  | .ok (s, sg) => if engineWait s0 c ws sg.length then .hold else .ok (engineFlight s c ws g sg)

/-! ### CPY -/

/-- A vault side's CROW and CCOL are illegal (R216). -/
def badVaultSide (row col : Nat) : Bool := (row == 15) != (col == 15) || decide (8 ≤ row ∧ row ≤ 14) || col == 14

/-- The vault that a control word names (R216). -/
def ctlVault (c : Ctx) (ctl : Word) : Nat :=
  let row := bitsN ctl.toNat 31 28
  let col := bitsN ctl.toNat 27 24
  if row = 15 ∧ col = 15 then c.v.core else 14 * row + col

/-- Whether LEN breaks its limits (R216). -/
def badLen (len : Nat) : Bool := len % 16 != 0 || len == 0 || decide (262144 < len)

/-- Reads one side of a CPY under its space's checks (R216). -/
def cpyRead (s : State) (c : Ctx) (sp core a n : Nat) : Except EngineStop (State × Load) :=
  match sp with
  | 0 => readRange s c.v.hank c.v.ply a n
  | 1 => if scratchRangeOk s c.v.team a n then .ok (s, readScratch s c.v.team a n) else .error (.fault .protection a false .scratch 3)
  | _ => .ok (s, readVault s c.v.hank core a n)

/-- Writes one side of a CPY under its space's checks (R216, R219). -/
def cpyWrite (s : State) (c : Ctx) (sp core a : Nat) (d : Load) : Except EngineStop (State × List Sig) :=
  match sp with
  | 0 => (writeRange s c.w c.v.hank c.v.ply a d).map fun r => (r.1, [sigOf (BitVec.ofNat 64 a) r.2])
  | 1 =>
    if scratchRangeOk s c.v.team a d.data.length then .ok (writeScratch s c.v.team a d, [])
    else .error (.fault .protection a true .scratch 3)
  | _ =>
    if c.v.ply ≠ 0 then .error (.fault .versionEscape a true .vault 0)
    else .ok (writeVault s c.v.hank core a d, [])

/-- The markers of a CPY (R221). -/
def cpyWants (dsp ssp dst src n : Nat) : List Want :=
  (if dsp = 1 then [{ off := dst, len := n, wr := true }] else []) ++ (if ssp = 1 then [{ off := src, len := n, wr := false }] else [])

/-- An address as its space reads the pair (R209): all of it, or the even register. -/
def Ctx.side (c : Ctx) (r : BitVec 8) (sp : Nat) : Nat := if sp = 0 then (c.u64 r.toNat).toNat else (c.u r.toNat).toNat

/-- The SPACE of a CPY side. -/
def sideSpace (sp : Nat) : Space := if sp = 0 then .global else if sp = 1 then .scratch else .vault

/-- CPY (R216): the checks in the entry's order, then the copy. -/
def execCpy (x : KWord) (s : State) : Host.Outcome State Fault Refusal :=
  issue s (.cpy x) fun s c =>
    let dsp := x.imm.toNat % 4
    let ssp := x.imm.toNat / 4
    let dst := c.side x.a dsp
    let src := c.side x.b ssp
    let ctl := c.u x.c.toNat
    let len := bitsN ctl.toNat 19 0
    let vault := dsp == 2 || ssp == 2
    let core := ctlVault c ctl
    let va := if dsp = 2 then dst else src
    if badLen len || bitsN ctl.toNat 23 20 != 0
        || (if vault then badVaultSide (bitsN ctl.toNat 31 28) (bitsN ctl.toNat 27 24) else bitsN ctl.toNat 31 24 != 0) then
      c.fault s .desc
    else match if vault then vaultFault s c.v.hank core va len else none with
      | some d => c.fault s .protection (BitVec.ofNat 64 va) (dsp == 2) .vault d
      | none =>
        if src % 16 ≠ 0 then c.fault s .misalign (BitVec.ofNat 64 src) false (sideSpace ssp)
        else if dst % 16 ≠ 0 then c.fault s .misalign (BitVec.ofNat 64 dst) true (sideSpace dsp)
        else
          engineDone s c (cpyWants dsp ssp dst src len) { reads := if ssp = 0 then [(src, len)] else [], writes := if dsp = 0 then [(dst, len)] else [] }
            ((cpyRead s c ssp core src len).bind fun r => cpyWrite r.1 c dsp core dst r.2)

/-! ### CPYD -/

/-- The code length of a symbol (R217). -/
def codeLen (clen sym : Nat) : Nat := clen / 16 ^ sym % 16

/-- The canonical codes (R217): length, code, symbol; `ps` are the (length, symbol) pairs in order. -/
def canonCodes : List (Nat × Nat) → Nat → Nat → List (Nat × Nat × Nat)
  | [], _, _ => []
  | (len, sym) :: ps, prev, code =>
    let code := code * 2 ^ (len - prev)
    (len, code, sym) :: canonCodes ps len (code + 1)

/-- The codes of a header. -/
def codesOf (clen : Nat) : List (Nat × Nat × Nat) :=
  canonCodes ((List.range 15).flatMap fun k => ((List.range 16).filter fun sym => codeLen clen sym == k + 1).map fun sym => (k + 1, sym)) 0 0

/-- Whether a header's lengths over-fill the code space (R217). -/
def overFull (clen : Nat) : Bool :=
  decide (2 ^ 15 < ((List.range 16).map fun sym => if codeLen clen sym = 0 then 0 else 2 ^ (15 - codeLen clen sym)).sum)

/-- The decoding loop of R217 over the coded bits: the symbols, at most `left` of them. -/
def decodeBits (codes : List (Nat × Nat × Nat)) : List Bool → Nat → Nat → Nat → List Nat
  | [], _, _, _ => []
  | b :: bs, v, n, left =>
    if left = 0 ∨ n = 15 then []
    else
      let v := 2 * v + b.toNat
      match codes.find? fun k => k.1 == n + 1 && k.2.1 == v with
      | some k => k.2.2 :: decodeBits codes bs 0 0 (left - 1)
      | none => decodeBits codes bs v (n + 1) left

/-- The low `n` bits of a byte, lowest first. -/
def byteBits (b : Byte) : List Bool := (List.range 8).map fun k => b.getLsbD k

/-- The output bytes of CPYD (R217). -/
def cpydOutput (clen nbits len : Nat) (coded : Bytes) : Bytes :=
  let syms := decodeBits (codesOf clen) ((coded.flatMap byteBits).take nbits) 0 0 (2 * len)
  (List.range len).map fun k => BitVec.ofNat 8 (syms.getD (2 * k) 0 + 16 * syms.getD (2 * k + 1) 0)

/-- The checks of LD for every page of a range (R216). -/
def rangeOk (s : State) (h va n : Nat) : Except EngineStop Unit :=
  (List.range ((va + n - 1) / 2 ^ 16 + 1 - va / 2 ^ 16)).foldr (fun k rest =>
    let a := max va (2 ^ 16 * (va / 2 ^ 16 + k))
    match translate s h (a % 2 ^ 64) (min (va + n) (2 ^ 16 * (va / 2 ^ 16 + k) + 2 ^ 16) - a) false with
    | .fault e d => orStop (.fault e (a % 2 ^ 64) false .global d) rest
    | .migrate => orStop (.migrate (a % 2 ^ 64) false .global) rest
    | .wait => orStop .hold rest
    | .hole pa => orStop (.hole pa) rest
    | .ok _ => rest) (.ok ())

/-- CPYD after its header was read (R217): the source range, the coded bits that can matter, and the scratch destination. -/
def cpydRun (s : State) (c : Ctx) (src dst len : Nat) (hd : Load) : Except EngineStop (State × List Sig) :=
  let clen := (dwordAt hd.data 0).toNat
  let nbits := (dwordAt hd.data 1).toNat % 2 ^ 32
  let bytes := (nbits + 7) / 8
  (rangeOk s c.v.hank src (16 + bytes)).bind fun _ =>
  (readRange s c.v.hank c.v.ply (src + 16) (min bytes (4 * len + 16))).bind fun r =>
    if !scratchRangeOk s c.v.team dst len then .error (.fault .protection dst true .scratch 3)
    else
      let bad := match hd.code <|> r.2.code with
        | none => []
        | some p => (List.range (len / 16)).map fun k => (16 * k, p)
      .ok (writeScratch r.1 c.v.team dst { data := cpydOutput clen nbits len r.2.data, poison := bad }, [])

/-- CPYD (R217). -/
def execCpyd (x : KWord) (s : State) : Host.Outcome State Fault Refusal :=
  issue s (.cpyd x) fun s c =>
    let dst := c.side x.a 1
    let src := c.side x.b 0
    let ctl := (c.u x.c.toNat).toNat
    let len := bitsN ctl 19 0
    let hd := readRange s c.v.hank c.v.ply src 16
    let bytes := match hd with
      | .ok r => ((dwordAt r.2.data 1).toNat % 2 ^ 32 + 7) / 8
      | .error _ => 0
    let badHd := match hd with
      | .ok r => overFull (dwordAt r.2.data 0).toNat || decide (2 ^ 32 ≤ (dwordAt r.2.data 1).toNat)
      | .error _ => false
    if badHd || badLen len || ctl / 2 ^ 20 != 0 then c.fault s .desc
    else if src % 16 ≠ 0 then c.fault s .misalign (BitVec.ofNat 64 src) false .global
    else if dst % 16 ≠ 0 then c.fault s .misalign (BitVec.ofNat 64 dst) true .scratch
    else engineDone s c [{ off := dst, len := len, wr := true }] { reads := [(src, min (16 + bytes) (4 * len + 32))], writes := [] }
      (hd.bind fun r => cpydRun r.1 c src dst len r.2)

/-! ### GATH and SCAT -/

/-- A row of a GATH or SCAT (R218): its global address, its scratch offset, and the poison code of its index. -/
structure TableRow where
  va : Nat
  off : Nat
  code : Option Nat
deriving DecidableEq, Repr

/-- The rows, from the index array at `idx` (R218). -/
def tableRows (s : State) (t base rows idx len n : Nat) : List TableRow :=
  (List.range n).map fun r =>
    { va := (base + leNat (scratchRead s t (idx + 4 * r) 4) * len) % 2 ^ 64, off := rows + r * len, code := scratchPoison s t (idx + 4 * r) 4 }

/-- The poison of a row's `len` bytes: that of its data, or of its index where that is poisoned (log 28). -/
def TableRow.poison (x : TableRow) (len : Nat) (ps : List (Nat × Nat)) : List (Nat × Nat) :=
  match x.code with
  | some d => (List.range (len / 16)).map fun k => (16 * k, d)
  | none => ps

/-- The scratch check of a row (R166, R221): all of the rows lie in the slice of the first. -/
def TableRow.scratchStop (x : TableRow) (s : State) (t rows len : Nat) (wr : Bool) : Option EngineStop :=
  if scratchRangeOk s t x.off len && x.off / 2 ^ 19 == rows / 2 ^ 19 then none else some (.fault .protection x.off wr .scratch 3)

/-- One row after another (R218): `f` copies a row; a row that faults leaves the others to be checked (R313). -/
def overRows (f : State → TableRow → Except EngineStop (State × Bytes)) : List TableRow → State → Bytes → Except EngineStop (State × Bytes)
  | [], s, out => .ok (s, out)
  | x :: xs, s, out =>
    match f s x with
    | .error e => orStop e (overRows f xs s out)
    | .ok r => overRows f xs r.1 (out ++ r.2)

/-- A row's copy between global memory and scratch under its two checks (R218, R313). -/
def tableRow (c : Ctx) (rows len : Nat) (scat : Bool) (s : State) (x : TableRow) : Except EngineStop (State × Bytes) :=
  let t := c.v.team
  let go :=
    if scat then
      let d := readScratch s t x.off len
      writeRange s c.w c.v.hank c.v.ply x.va { d with poison := x.poison len d.poison }
    else
      (readRange s c.v.hank c.v.ply x.va len).map fun r => (writeScratch r.1 t x.off { r.2 with poison := x.poison len r.2.poison }, [])
  match x.scratchStop s t rows len (!scat) with
  | some e => orStop e go
  | none => go

/-- GATH and SCAT share their operands and checks (R218). Rows are copied in ascending r. -/
def tableCopy (s : State) (c : Ctx) (x : KWord) (scat : Bool) : Res :=
  let base := c.side x.a 0
  let rows := c.side x.b 1
  let idx := c.side x.c 1
  let ctl := (c.u (x.c.toNat + 1)).toNat
  let len := 16 * bitsN ctl 31 12
  let n := bitsN ctl 11 0
  if len = 0 ∨ n = 0 ∨ 262144 < n * len then c.fault s .desc
  else if base % 16 ≠ 0 then c.fault s .misalign (BitVec.ofNat 64 base) scat .global
  else if rows % 16 ≠ 0 then c.fault s .misalign (BitVec.ofNat 64 rows) (!scat) .scratch
  else if idx % 4 ≠ 0 then c.fault s .misalign (BitVec.ofNat 64 idx) false .scratch
  else if !scratchRangeOk s c.v.team idx (4 * n) then c.fault s .protection (BitVec.ofNat 64 idx) false .scratch 3
  else
    let ws : List Want := [{ off := idx, len := 4 * n, wr := false }, { off := rows, len := n * len, wr := !scat }]
    let xs := tableRows s c.v.team base rows idx len n
    if markersWait s c.v.team ws then .hold
    else engineDone s c ws (let g := xs.map fun x => (x.va, len); if scat then { reads := [], writes := g } else { reads := g, writes := [] })
      ((overRows (tableRow c rows len scat) xs s []).map fun r => (r.1, if scat then [sigOf (BitVec.ofNat 64 base) r.2] else []))

/-- GATH (R218). -/
def execGath (x : KWord) (s : State) : Host.Outcome State Fault Refusal := issue s (.gath x) fun s c => tableCopy s c x false

/-- SCAT (R218). -/
def execScat (x : KWord) (s : State) : Host.Outcome State Fault Refusal := issue s (.scat x) fun s c => tableCopy s c x true

end Sys2Proof.Machine
end

