-- ==== Sys2Proof/Machine/FloatWords.lean ====
section
/-! DEFINITION. F class: FP32 arithmetic, approximated functions, packed halves, conversions and narrow elements (06 R136-R153). -/

namespace Sys2Proof.Machine

/-! ### Word shapes -/

/-- The rounding of a word (R136). -/
def Ctx.rm (c : Ctx) (rnd : BitVec 3) : Rm := Rm.ofRnd rnd.toNat c.v.fcr

/-- D[l] := f(a) with flags, in each active lane (R91). -/
def float1 (i : Instr) (x : V3) (f : Rm → BitVec 9 → Nat → Nat × BitVec 9) (s : State) : Host.Outcome State Fault Refusal :=
  issue s i fun s c => .ok (floatRow c s x.d.toNat fun l => f (c.rm x.pc) c.v.fcr (c.src x.sA l).toNat)

/-- D[l] := f(a, b) with flags. -/
def float2 (i : Instr) (x : V3) (f : Rm → BitVec 9 → Nat → Nat → Nat × BitVec 9) (s : State) : Host.Outcome State Fault Refusal :=
  issue s i fun s c => .ok (floatRow c s x.d.toNat fun l => f (c.rm x.pc) c.v.fcr (c.src x.sA l).toNat (c.src x.sB l).toNat)

/-- The two halves of a register worked on apart (R146). -/
def halves (f : Nat → Nat × BitVec 9) : Nat × BitVec 9 :=
  let p := f 0
  let q := f 1
  (p.1 + 2 ^ 16 * q.1, p.2 ||| q.2)

/-- Half e of a register (R87). -/
def halfOf (a e : Nat) : Nat := a / 2 ^ (16 * e) % 2 ^ 16

/-- The packed format that MOD bit 0 selects (R146). -/
def packedFmt (x : V3) : Fmt := if x.c.getLsbD 0 then bf16 else fp16

/-- FP32, FP16 or BF16 by a conversion's type code (R147). -/
def convFmt (k : Nat) : Fmt := if k = 0 then fp32 else if k = 1 then fp16 else bf16

/-! ### Conversions and narrow elements -/

/-- The exact integer of CVTI's source (R147). -/
def cviSource (c : Ctx) (x : V3) (l : Nat) : Int :=
  match x.c.toNat % 4 with
  | 0 => (c.src x.sA l).toInt
  | 1 => (c.src x.sA l).toNat
  | 2 => (c.perm64 x.a x.pa l).toInt
  | _ => (c.perm64 x.a x.pa l).toNat

/-- A conversion under RND, stochastic with the lane's seed for RND 6 (R138): the result and the seed afterwards. -/
def convert (c : Ctx) (x : V3) (f : Fmt) (l : Nat) (srcs : List Val) (v : Val) : (Nat × BitVec 9) × Word :=
  if x.pc = 6 then
    let seed := srStep (Row.lane (c.reg (x.d.toNat + 1)) l)
    (f.sr seed c.v.fcr srcs v, seed)
  else (f.write (c.rm x.pc) c.v.fcr srcs v, 0)

/-- Writes a conversion's results, its seeds under RND 6, and its flags (R138, R148). -/
def convRow (c : Ctx) (s : State) (x : V3) (f : Nat → (Nat × BitVec 9) × Word) : State :=
  let s := floatRow c s x.d.toNat fun l => (f l).1
  if x.pc = 6 then c.put s (x.d.toNat + 1) fun l => (f l).2 else s

/-- CVTF of one value (R148): the result as a 64-bit value, and its flags. -/
def cvtfOp (rm : Rm) (fcr : BitVec 9) (src dst a : Nat) : DWord × BitVec 9 :=
  let bits := if dst < 2 then 32 else 64
  let lo : Int := if dst % 2 = 0 then -2 ^ (bits - 1) else 0
  let hi : Int := if dst % 2 = 0 then 2 ^ (bits - 1) - 1 else 2 ^ bits - 1
  match (convFmt src).readZ (fcrFtz fcr) a with
  | .nan _ _ _ => (0, fNV)
  | .inf neg => (BitVec.ofInt 64 (if neg then lo else hi), fNV)
  | .fin neg m e =>
    -- a value of 2^200 or more lies beyond every range
    let r := if 200 < e + bitLen m then (2 ^ 100, false) else roundInt rm neg m e
    let v : Int := if neg then -(r.1 : Int) else r.1
    if v < lo then (BitVec.ofInt 64 lo, fNV) else if hi < v then (BitVec.ofInt 64 hi, fNV)
    else (BitVec.ofInt 64 v, if r.2 then fNX else 0)

/-- The format register of a narrow word and its class width (R149). -/
def narrowFmt (c : Ctx) (x : V3) : Word := c.u x.b.toNat
def narrowWidth (x : V3) : Nat := classWidth (x.c.toNat / 32)

/-- Whether a narrow word raises DESC (R149). -/
def narrowBad (c : Ctx) (x : V3) : Bool :=
  let f := narrowFmt c x
  decide (2 ^ 20 ≤ f.toNat) || !(Nfmt.of f.toNat).valid (narrowWidth x)

/-- The scale byte that bsel picks from a scale register (R103, R149). -/
def scaleByte (c : Ctx) (x : V3) (r : Nat) : Nat :=
  (Row.lane (c.reg r) x.scaleLane).toNat / 256 ^ (x.c.toNat % 4) % 256

/-- Slot k of an element register (R103). -/
def slotOf (w a k : Nat) : Nat := a / 2 ^ (w * k) % 2 ^ w

/-- The two stops every narrow word shares (R102, R149): DESC, then SCALE_SIGN of a scale byte with bit 7 set under SCTRAP. -/
def narrowStop (c : Ctx) (x : V3) (scales : List Nat) : Option Cause :=
  let n := Nfmt.of (narrowFmt c x).toNat
  if narrowBad c x then some .desc
  else if n.sctrap && scales.any (scaleSign n.scale) then some .scaleSign
  else none

/-- NV from a scale byte with bit 7 set (R102). -/
def scaleFlags (n : Nfmt) (scales : List Nat) : BitVec 9 := if scales.any (scaleSign n.scale) then fNV else 0

/-- x / s as PKN forms it (R150): the quotient and its flags. The NaN of a scale NaN or of 0/0 has no sign in the spec, and is positive
here (log 13). -/
def pknQuot (x s : Val) : Val × BitVec 9 :=
  let nv := if x.isSnan then fNV else 0
  match s, x with
  | .fin _ l g, .fin neg m e =>
    if l = 0 then (if m = 0 then (.nan false false (2 ^ 22), fNV) else (.inf neg, fDZ))
    else if m = 0 then (.zero neg, 0) else (divVal neg m e l g 80, 0)
  | .fin _ l _, .nan neg _ f => (.nan neg false f, if l = 0 then fNV else nv)
  | .fin _ _ _, .inf neg => (.inf neg, 0)
  | _, .nan neg _ f => (.nan neg false f, nv)
  | _, _ => (.nan false false (2 ^ 22), 0)

/-- PKN of one lane (R150): element k onwards; the packed register, flags, the seed. DNAN does not change a minifloat's NaN, whose sign is
the source's (R99, log 13). -/
def pknLane (c : Ctx) (x : V3) (n : Nfmt) (sc : Val) (l : Nat) : Nat → Nat → Nat → BitVec 9 → Word → (Nat × BitVec 9) × Word
  | 0, _, out, fl, seed => ((out, fl), seed)
  | fuel + 1, k, out, fl, seed =>
    let a := (Row.lane (c.reg (x.a.toNat + k)) (permLane x.pa c.all l)).toNat
    let q := pknQuot (fp32.readZ (fcrFtz c.v.fcr) a) sc
    let seed := if x.pc = 6 then srStep seed else seed
    let e := n.write (c.rm x.pc) (if x.pc = 6 then some seed else none) q.1
    pknLane c x n sc l fuel (k + 1) (out + e.1 * 2 ^ (narrowWidth x * k)) (fl ||| q.2 ||| e.2) seed

/-- The exact sum of products of values (R108, R152); none when a product or the sum is invalid. A sum that cancels to zero is +0 in every
rounding mode (log 13). -/
def dotVal (ps : List (Val × Val)) : Option Val :=
  match ps.map fun p => p.1.mul p.2 with
  | [] => some (.zero false)
  | p :: qs => qs.foldl (fun acc q => acc.bind fun a => q.bind fun b => a.add false b) p

/-- Whether NDOT forms 0 · ∞ or ∞ − ∞ (R152), whatever NaN stands beside them: in a product, among the products, or between their sum and a
scale. -/
def ndotInvalid (ps : List (Val × Val)) (sA sB : Val) : Bool :=
  let nums := ps.filter fun p => !p.1.isNan && !p.2.isNan
  let infs := nums.filterMap fun p => match p.1.mul p.2 with | some (.inf neg) => some neg | _ => none
  nums.any (fun p => (p.1.mul p.2).isNone) || (infs.contains true && infs.contains false)
    || (nums.length == ps.length && !infs.isEmpty && (sA.isZero || sB.isZero))

/-- NDOT of one lane (R152). A NaN result takes the first NaN of the elements of A, those of B, the scales of A and B, and d, in this order
(R93 orders registers only; log 13). -/
def ndotLane (c : Ctx) (x : V3) (n : Nfmt) (sA sB : Val) (l : Nat) : Nat × BitVec 9 :=
  let w := narrowWidth x
  let a := (c.src x.sA l).toNat
  let b := (Row.lane (c.reg (x.a.toNat + 1)) (permLane x.pa c.all l)).toNat
  let d := fp32.readZ (fcrFtz c.v.fcr) (c.src x.sD l).toNat
  let va := [0, 1, 2, 3].map fun k => n.read (slotOf w a k)
  let vb := [0, 1, 2, 3].map fun k => n.read (slotOf w b k)
  let srcs := va ++ vb ++ [sA, sB, d]
  let p := (dotVal (va.zip vb)).bind fun p => (p.mul sA).bind fun p => p.mul sB
  let r := fp32.result (c.rm x.pc) c.v.fcr srcs (p.bind fun p => p.add (c.rm x.pc = .rdn) d)
  (r.1, if ndotInvalid (va.zip vb) sA sB then r.2 ||| fNV else r.2)

/-! ### The meanings -/

/-- FADD (R140). -/
def execFadd (x : V3) : State → Host.Outcome State Fault Refusal := float2 (.fadd x) x fp32.add
/-- FSUB (R140). -/
def execFsub (x : V3) : State → Host.Outcome State Fault Refusal := float2 (.fsub x) x fp32.sub
/-- FMUL (R140). -/
def execFmul (x : V3) : State → Host.Outcome State Fault Refusal := float2 (.fmul x) x fp32.mul
/-- FFMA (R140); it has no RND field and rounds under `%fcr`.RM (R136). -/
def execFfma (x : V3) (s : State) : Host.Outcome State Fault Refusal :=
  issue s (.ffma x) fun s c => .ok (floatRow c s x.d.toNat fun l =>
    fp32.fma (Rm.ofFcr c.v.fcr) c.v.fcr (c.src x.sA l).toNat (c.src x.sB l).toNat (c.src x.sC l).toNat)
/-- FMIN (R141). -/
def execFmin (x : V3) : State → Host.Outcome State Fault Refusal := float2 (.fmin x) x fun _ => fp32.minMax false
/-- FMAX (R141). -/
def execFmax (x : V3) : State → Host.Outcome State Fault Refusal := float2 (.fmax x) x fun _ => fp32.minMax true
/-- FCMP (R142); MOD bits 2:0 are the condition. -/
def execFcmp (x : V3) : State → Host.Outcome State Fault Refusal :=
  float2 (.fcmp x) x fun _ fcr a b => let r := fcmpOp (x.c.toNat % 8) fcr a b; (r.1.toNat, r.2)
/-- FCLASS (R143). -/
def execFclass (x : V3) : State → Host.Outcome State Fault Refusal := float1 (.fclass x) x fun _ _ a => (fclassOp a, 0)
/-- FRND (R144). -/
def execFrnd (x : V3) : State → Host.Outcome State Fault Refusal := float1 (.frnd x) x frndOp
/-- FRCP (R145). -/
def execFrcp (x : V3) : State → Host.Outcome State Fault Refusal := float1 (.frcp x) x fun _ => frcpOp
/-- FRSQ (R145). -/
def execFrsq (x : V3) : State → Host.Outcome State Fault Refusal := float1 (.frsq x) x fun _ => frsqOp
/-- FSQRT (R145). -/
def execFsqrt (x : V3) : State → Host.Outcome State Fault Refusal := float1 (.fsqrt x) x fsqrtOp
/-- FEXP2 (R145). -/
def execFexp2 (x : V3) : State → Host.Outcome State Fault Refusal := float1 (.fexp2 x) x fun _ => fexp2Op
/-- FLOG2 (R145). -/
def execFlog2 (x : V3) : State → Host.Outcome State Fault Refusal := float1 (.flog2 x) x fun _ => flog2Op
/-- FSIN (R145). -/
def execFsin (x : V3) : State → Host.Outcome State Fault Refusal := float1 (.fsin x) x fun _ => fsinOp
/-- FCOS (R145). -/
def execFcos (x : V3) : State → Host.Outcome State Fault Refusal := float1 (.fcos x) x fun _ => fcosOp
/-- FTANH (R145). -/
def execFtanh (x : V3) : State → Host.Outcome State Fault Refusal := float1 (.ftanh x) x fun _ => ftanhOp
/-- FSCL (R140): b is read as a signed integer. -/
def execFscl (x : V3) : State → Host.Outcome State Fault Refusal :=
  float2 (.fscl x) x fun rm fcr a b => fsclOp rm fcr a (signedN 32 b)
/-- FSCL with an immediate (R137, R140): it rounds under `%fcr`.RM. -/
def execFsclVi (x : VI) (s : State) : Host.Outcome State Fault Refusal :=
  issue s (.fsclVi x) fun s c => .ok (floatRow c s x.d.toNat fun l =>
    fsclOp (Rm.ofFcr c.v.fcr) c.v.fcr (c.src x.sA l).toNat x.imm.toInt)
/-- HPADD (R146). -/
def execHpadd (x : V3) : State → Host.Outcome State Fault Refusal :=
  float2 (.hpadd x) x fun rm fcr a b => halves fun e => (packedFmt x).add rm fcr (halfOf a e) (halfOf b e)
/-- HPMUL (R146). -/
def execHpmul (x : V3) : State → Host.Outcome State Fault Refusal :=
  float2 (.hpmul x) x fun rm fcr a b => halves fun e => (packedFmt x).mul rm fcr (halfOf a e) (halfOf b e)
/-- HPFMA (R146): the addend is D. -/
def execHpfma (x : V3) (s : State) : Host.Outcome State Fault Refusal :=
  issue s (.hpfma x) fun s c => .ok (floatRow c s x.d.toNat fun l =>
    halves fun e => (packedFmt x).fma (c.rm x.pc) c.v.fcr (halfOf (c.src x.sA l).toNat e) (halfOf (c.src x.sB l).toNat e)
      (halfOf (c.src x.sD l).toNat e))
/-- CVTI (R147, R148). -/
def execCvti (x : V3) (s : State) : Host.Outcome State Fault Refusal :=
  issue s (.cvti x) fun s c => .ok (convRow c s x fun l =>
    let v := cviSource c x l
    convert c x (convFmt (x.c.toNat / 4)) l [] (.fin (decide (v < 0)) v.natAbs 0))
/-- CVTF (R147, R148): a 64-bit result fills D:D+1. -/
def execCvtf (x : V3) (s : State) : Host.Outcome State Fault Refusal :=
  issue s (.cvtf x) fun s c =>
    let r := fun l => cvtfOp (c.rm x.pc) c.v.fcr (x.c.toNat % 4) (x.c.toNat / 4) (c.src x.sA l).toNat
    let s := floatRow c s x.d.toNat fun l => ((Word.lo (r l).1).toNat, (r l).2)
    .ok (if x.c.toNat / 4 < 2 then s else c.put s (x.d.toNat + 1) fun l => Word.hi (r l).1)
/-- CVTFF (R147, R148). -/
def execCvtff (x : V3) (s : State) : Host.Outcome State Fault Refusal :=
  issue s (.cvtff x) fun s c => .ok (convRow c s x fun l =>
    let v := (convFmt (x.c.toNat % 4)).readZ (fcrFtz c.v.fcr) (c.src x.sA l).toNat
    let r := convert c x (convFmt (x.c.toNat / 4)) l [v] v
    r)
/-- PKN (R150). -/
def execPkn (x : V3) (s : State) : Host.Outcome State Fault Refusal :=
  issue s (.pkn x) fun s c =>
    let n := Nfmt.of (narrowFmt c x).toNat
    let sb := scaleByte c x (x.b.toNat + 1)
    match narrowStop c x [sb] with
    | some cause => c.fault s cause
    | none => .ok (convRow c s x fun l =>
      pknLane c x n (scaleVal n.scale sb) l 4 0 0 (scaleFlags n [sb]) (Row.lane (c.reg (x.d.toNat + 1)) l))
/-- UPKN (R151). -/
def execUpkn (x : V3) (s : State) : Host.Outcome State Fault Refusal :=
  issue s (.upkn x) fun s c =>
    let n := Nfmt.of (narrowFmt c x).toNat
    let sb := scaleByte c x (x.b.toNat + 1)
    match narrowStop c x [sb] with
    | some cause => c.fault s cause
    | none =>
      let sc := scaleVal n.scale sb
      let r := fun k l =>
        let v := n.read (slotOf (narrowWidth x) (c.src x.sA l).toNat k)
        fp32.result (c.rm x.pc) c.v.fcr [v, sc] (v.mul sc)
      let s := [0, 1, 2, 3].foldl (fun s k => floatRow c s (x.d.toNat + k) (r k)) s
      .ok (raiseFcr s c.w (scaleFlags n [sb]))
/-- NDOT (R152). -/
def execNdot (x : V3) (s : State) : Host.Outcome State Fault Refusal :=
  issue s (.ndot x) fun s c =>
    let n := Nfmt.of (narrowFmt c x).toNat
    let a := scaleByte c x (x.a.toNat + 2)
    let b := scaleByte c x (x.a.toNat + 3)
    match narrowStop c x [a, b] with
    | some cause => c.fault s cause
    | none =>
      let s := floatRow c s x.d.toNat fun l => ndotLane c x n (scaleVal n.scale a) (scaleVal n.scale b) l
      .ok (raiseFcr s c.w (scaleFlags n [a, b]))

end Sys2Proof.Machine
end

