-- ==== Sys2Proof/Machine/PlyWords.lean ====
section
/-! DEFINITION. The words that change the ply tree (10 R239-R249): PFORK, PENTER, PKEEP, PFROG, PQRY, LLINE; and the words of
atomic regions (R252-R259): ARBEG, AREND, ARABT. -/

namespace Sys2Proof.Machine

/-- Whether a word that waits for the directory still does (R241): its strand is parked at it, and may issue it. -/
def dirWaits (s : State) (x : Nat × Nat × Nat) : Bool :=
  match s.waves[x.1]? with
  | some v =>
    (match v.thread x.2.1 with
     | some t => (match t.park with | .hold _ => true | _ => false) && t.wordPc.toNat == x.2.2 && mayIssue s v x.2.1 t
     | none => false)
  | none => false

/-- Whether a word must wait for the version directory (R241): a keep holds it, or words that arrived earlier wait for it. -/
def dirBusy (s : State) (c : Ctx) : Bool :=
  keepBusy s c.v.hank || (((hankOf s c.v.hank).dirQueue.takeWhile fun x => !(x.1 == c.w && x.2.1 == c.n && x.2.2 == c.pc.toNat)).any (dirWaits s))

/-- A word that the directory applies in its turn (R241). -/
def atDirectory (s : State) (c : Ctx) (k : State → Res) : Res :=
  if dirBusy s c then .holdIn (joinDir s c.v.hank c.w c.n c.pc.toNat) else k (leaveDir s c.v.hank c.w c.n)

/-! ### Ply words -/

/-- The lanes' two result words of a 64-bit value. -/
def pairResult (c : Ctx) (v : Nat) : List (Nat × List Word) := (lanesOf c.act).map fun l => (l, [BitVec.ofNat 32 v, BitVec.ofNat 32 (v / 2 ^ 32)])

/-- The result of PFORK (R242). -/
def forkResult (st : Nat) (ns : List Nat) : Nat :=
  st * 2 ^ 56 + ((List.range 7).map fun k => ns.getD k 0xFF * 2 ^ (8 * k)).sum

/-- PFORK (R242): children of the wave's ply, with its range when it is a lifeline (R249). -/
def execPfork (x : SWord) (s : State) : Host.Outcome State Fault Refusal :=
  issue s (.pfork x) fun s c =>
    atDirectory s c fun s =>
      let h := c.v.hank
      let k := hankOf s h
      let n := x.imm.toNat
      let st := forkStatus k c.v.ply n
      let ns := if st = 0 then (freePlies k).take n else []
      let s := if st = 0 then addPlies s h c.v.ply ((plyOf? k c.v.ply).bind (·.life)) ns else s
      .ok (loadFlight s c none 3 x.d false (pairResult c (forkResult st ns)))

/-- The status of PENTER (R240, R243). -/
def enterStatus (k : Hank) (p t : Nat) : Nat := if !isLive k t then 1 else if isUp k p t || isUp k t p then 0 else 4

/-- PENTER (R243). -/
def execPenter (x : SWord) (s : State) : Host.Outcome State Fault Refusal :=
  issue s (.penter x) fun s c =>
    let t := (c.u x.a.toNat).toNat
    atDirectory s c fun s =>
      let st := enterStatus (hankOf s c.v.hank) c.v.ply t
      let s := c.put s x.d.toNat fun _ => BitVec.ofNat 32 st
      .ok (if st = 0 then moveWave s c.w t else s)

/-- PKEEP once its checks have passed (R244): it holds the directory while it waits for the accesses issued in its target, and then for its
deferred effects (R248); it writes D when it completes. -/
def keepGo (s : State) (c : Ctx) (x : SWord) (k : Keep) : Res :=
  let h := c.v.hank
  if keepWaits s h k.target then .park (setKeeper s h (some k)) (.keep x.d.toNat c.act)
  else
    let s := applyKeep s h k.target (keepFrogs s h k.target k.sib) []
    if (hankOf s h).draining.isEmpty then .ok (c.put s x.d.toNat fun _ => 0)
    else .park (setKeeper s h (some { k with merged := true })) (.keep x.d.toNat c.act)

/-- PKEEP (R244): the checks are made at arrival, before it takes the directory. -/
def execPkeep (x : SWord) (s : State) : Host.Outcome State Fault Refusal :=
  issue s (.pkeep x) fun s c =>
    let t := (c.u x.a.toNat).toNat
    atDirectory s c fun s =>
      let st := keepStatus (hankOf s c.v.hank) c.v.ply t (x.imm != 0)
      if st = 0 then keepGo s c x { target := t, wave := c.w, strand := c.n, sib := x.imm != 0, merged := false }
      else .ok (c.put s x.d.toNat fun _ => BitVec.ofNat 32 st)

/-- PFROG (R245). -/
def execPfrog (x : SWord) (s : State) : Host.Outcome State Fault Refusal :=
  issue s (.pfrog x) fun s c =>
    atDirectory s c fun s => .ok (frog s c.v.hank (c.u x.a.toNat).toNat [c.w])

/-- What PQRY reads of a ply (R246); 0 when it is not live. -/
def queryPly (k : Hank) (t : Nat) : Nat :=
  match plyOf? k t with
  | none => 0
  | some y =>
    2 ^ 31 + y.life.isSome.toNat * 2 ^ 30 + y.parent * 2 ^ 24 + y.depth * 2 ^ 20 + (childrenOf k t).length * 2 ^ 14 + y.log.length

/-- What PQRY.hank reads (R246): free pool capacity in units of 448 slots, live plies. -/
def queryHank (s : State) (h : Nat) : Nat :=
  min 0xFFFF ((shadowSlots s h - reservedSlots s h) / 448) * 2 ^ 16 + (hankOf s h).plies.length

/-- PQRY (R246). -/
def execPqry (x : SWord) (s : State) : Host.Outcome State Fault Refusal :=
  issue s (.pqry x) fun s c =>
    let v := if x.imm = 0 then queryPly (hankOf s c.v.hank) (c.u x.a.toNat).toNat else queryHank s c.v.hank
    .ok (loadFlight s c none 2 x.d false ((lanesOf c.act).map fun l => (l, [BitVec.ofNat 32 v])))

/-- Whether a lifeline's range breaks its rule (R249). -/
def badRange (parent : Option Ply) (b l : Nat) : Bool :=
  decide (b % 128 ≠ 0 ∨ l % 128 ≠ 0 ∨ l = 0 ∨ 2 ^ 40 < l ∨ 2 ^ 64 < b + l)
    || (match parent.bind (·.life) with
        | some (pb, pl) => !decide (pb ≤ b ∧ b + l ≤ pb + pl)
        | none => false)

/-- LLINE (R249). -/
def execLline (x : SWord) (s : State) : Host.Outcome State Fault Refusal :=
  issue s (.lline x) fun s c =>
    let h := c.v.hank
    let b := (c.u64 x.a.toNat).toNat
    let l := (c.u64 x.b.toNat).toNat
    atDirectory s c fun s =>
      let k := hankOf s h
      let st := if badRange (plyOf? k c.v.ply) b l then 8 else forkStatus k c.v.ply 1
      if st ≠ 0 then .ok (c.put s x.d.toNat fun _ => BitVec.ofNat 32 (2 ^ 31 + st))
      else
        let n := (freePlies k).headD 0
        .ok (moveWave (addPlies (c.put s x.d.toNat fun _ => BitVec.ofNat 32 n) h c.v.ply (some (b, l)) [n]) c.w n)

/-! ### Region words -/

/-- The state with a region opened by ARBEG (R253). -/
def openRegion (s : State) (c : Ctx) (fallback : DWord) : State :=
  modWave s c.w fun v =>
    { v with
      ars := (v.ars &&& 0x3F) ||| 0x40
      region := some { strand := c.n, handler := c.st.handler, lanes := 0, fallback := fallback, lines := [], stores := [], tags := [], slots := [], conds := [],
                       nConds := 0, nSyms := 0, committing := false } }

/-- ARBEG (R253, R259): NEST inside a region, DIVERGE with more than one live strand. -/
def execArbeg (x : SWord) (s : State) : Host.Outcome State Fault Refusal :=
  issue s (.arbeg x) fun s c =>
    match c.v.region with
    | some r => if r.committing then .hold else .abort 4 0 0
    | none =>
      let s := openRegion s c (c.pc + 8 * Word.sx64 x.imm)
      if 1 < c.v.strands.length then .moved (abortRegion s c.w 8 0 0) else .ok s

/-- AREND (R253, R257): outside a region D := 0xFFFFFFFF; inside, the region goes to the darners, its tagged registers and D pending, and
the strand goes on (R78). -/
def execArend (x : SWord) (s : State) : Host.Outcome State Fault Refusal :=
  issue s (.arend x) fun s c =>
    match c.region with
    | none => .ok (loadFlight s c none 2 x.d false ((lanesOf c.act).map fun l => (l, [0xFFFFFFFF])))
    | some r =>
      let tags := r.tags.filter fun t => !(t.reg == x.d.toNat && c.act.getLsbD t.lane)
      let regs := (x.d.toNat :: tags.map (·.reg)).dedup
      let s := modWave s c.w fun v => { v with region := some { r with tags := tags, lanes := c.ex, committing := true } }
      let res := (lanesOf c.act).map fun l => { reg := x.d.toNat, lane := l, val := 0 }
      .ok (addFlight s (c.flight .commit none regs res true false))

/-- ARABT (R253, R258): outside a region it has no effect. -/
def execArabt (x : SWord) (s : State) : Host.Outcome State Fault Refusal :=
  issue s (.arabt x) fun s c => if c.region.isSome then .abort 9 (x.imm.toNat % 256) 0 else .ok s

end Sys2Proof.Machine
end

