-- ==== Sys2Proof/Machine/Dispatch.lean ====
section
/-! DEFINITION. One arm for each row of the opcode table: a direct call of its meaning. -/

namespace Sys2Proof.Machine

def exec (i : Instr) (s : State) : Host.Outcome State Fault Refusal :=
  match i with
  | .iadd x => Sys2Proof.Machine.execIadd x s
  | .iaddVi x => Sys2Proof.Machine.execIaddVi x s
  | .isub x => Sys2Proof.Machine.execIsub x s
  | .isubVi x => Sys2Proof.Machine.execIsubVi x s
  | .iaddx x => Sys2Proof.Machine.execIaddx x s
  | .icry x => Sys2Proof.Machine.execIcry x s
  | .imul x => Sys2Proof.Machine.execImul x s
  | .imulVi x => Sys2Proof.Machine.execImulVi x s
  | .imulh x => Sys2Proof.Machine.execImulh x s
  | .imulhVi x => Sys2Proof.Machine.execImulhVi x s
  | .imad x => Sys2Proof.Machine.execImad x s
  | .imin x => Sys2Proof.Machine.execImin x s
  | .iminVi x => Sys2Proof.Machine.execIminVi x s
  | .imax x => Sys2Proof.Machine.execImax x s
  | .imaxVi x => Sys2Proof.Machine.execImaxVi x s
  | .iabs x => Sys2Proof.Machine.execIabs x s
  | .ineg x => Sys2Proof.Machine.execIneg x s
  | .and x => Sys2Proof.Machine.execAnd x s
  | .andVi x => Sys2Proof.Machine.execAndVi x s
  | .or x => Sys2Proof.Machine.execOr x s
  | .orVi x => Sys2Proof.Machine.execOrVi x s
  | .xor x => Sys2Proof.Machine.execXor x s
  | .xorVi x => Sys2Proof.Machine.execXorVi x s
  | .andn x => Sys2Proof.Machine.execAndn x s
  | .andnVi x => Sys2Proof.Machine.execAndnVi x s
  | .not x => Sys2Proof.Machine.execNot x s
  | .blut x => Sys2Proof.Machine.execBlut x s
  | .shl x => Sys2Proof.Machine.execShl x s
  | .shlVi x => Sys2Proof.Machine.execShlVi x s
  | .shr x => Sys2Proof.Machine.execShr x s
  | .shrVi x => Sys2Proof.Machine.execShrVi x s
  | .sar x => Sys2Proof.Machine.execSar x s
  | .sarVi x => Sys2Proof.Machine.execSarVi x s
  | .rotl x => Sys2Proof.Machine.execRotl x s
  | .rotlVi x => Sys2Proof.Machine.execRotlVi x s
  | .bfx x => Sys2Proof.Machine.execBfx x s
  | .bfi x => Sys2Proof.Machine.execBfi x s
  | .brev x => Sys2Proof.Machine.execBrev x s
  | .popc x => Sys2Proof.Machine.execPopc x s
  | .clz x => Sys2Proof.Machine.execClz x s
  | .ctz x => Sys2Proof.Machine.execCtz x s
  | .bitlv x => Sys2Proof.Machine.execBitlv x s
  | .bdlv x => Sys2Proof.Machine.execBdlv x s
  | .icmp x => Sys2Proof.Machine.execIcmp x s
  | .sel x => Sys2Proof.Machine.execSel x s
  | .iclamp x => Sys2Proof.Machine.execIclamp x s
  | .mov x => Sys2Proof.Machine.execMov x s
  | .movi x => Sys2Proof.Machine.execMovi x s
  | .idp4 x => Sys2Proof.Machine.execIdp4 x s
  | .fadd x => Sys2Proof.Machine.execFadd x s
  | .fsub x => Sys2Proof.Machine.execFsub x s
  | .fmul x => Sys2Proof.Machine.execFmul x s
  | .ffma x => Sys2Proof.Machine.execFfma x s
  | .fmin x => Sys2Proof.Machine.execFmin x s
  | .fmax x => Sys2Proof.Machine.execFmax x s
  | .fcmp x => Sys2Proof.Machine.execFcmp x s
  | .fclass x => Sys2Proof.Machine.execFclass x s
  | .frnd x => Sys2Proof.Machine.execFrnd x s
  | .frcp x => Sys2Proof.Machine.execFrcp x s
  | .frsq x => Sys2Proof.Machine.execFrsq x s
  | .fsqrt x => Sys2Proof.Machine.execFsqrt x s
  | .fexp2 x => Sys2Proof.Machine.execFexp2 x s
  | .flog2 x => Sys2Proof.Machine.execFlog2 x s
  | .fsin x => Sys2Proof.Machine.execFsin x s
  | .fcos x => Sys2Proof.Machine.execFcos x s
  | .ftanh x => Sys2Proof.Machine.execFtanh x s
  | .fscl x => Sys2Proof.Machine.execFscl x s
  | .fsclVi x => Sys2Proof.Machine.execFsclVi x s
  | .hpadd x => Sys2Proof.Machine.execHpadd x s
  | .hpmul x => Sys2Proof.Machine.execHpmul x s
  | .hpfma x => Sys2Proof.Machine.execHpfma x s
  | .cvti x => Sys2Proof.Machine.execCvti x s
  | .cvtf x => Sys2Proof.Machine.execCvtf x s
  | .cvtff x => Sys2Proof.Machine.execCvtff x s
  | .pkn x => Sys2Proof.Machine.execPkn x s
  | .upkn x => Sys2Proof.Machine.execUpkn x s
  | .ndot x => Sys2Proof.Machine.execNdot x s
  | .amov x => Sys2Proof.Machine.execAmov x s
  | .aldi x => Sys2Proof.Machine.execAldi x s
  | .aadd x => Sys2Proof.Machine.execAadd x s
  | .aaddVi x => Sys2Proof.Machine.execAaddVi x s
  | .asub x => Sys2Proof.Machine.execAsub x s
  | .asubVi x => Sys2Proof.Machine.execAsubVi x s
  | .amuli x => Sys2Proof.Machine.execAmuli x s
  | .ashli x => Sys2Proof.Machine.execAshli x s
  | .acmp x => Sys2Proof.Machine.execAcmp x s
  | .shfl x => Sys2Proof.Machine.execShfl x s
  | .shfli x => Sys2Proof.Machine.execShfli x s
  | .vote x => Sys2Proof.Machine.execVote x s
  | .lred x => Sys2Proof.Machine.execLred x s
  | .lscan x => Sys2Proof.Machine.execLscan x s
  | .mread x => Sys2Proof.Machine.execMread x s
  | .mwrite x => Sys2Proof.Machine.execMwrite x s
  | .ld x => Sys2Proof.Machine.execLd x s
  | .st x => Sys2Proof.Machine.execSt x s
  | .lds x => Sys2Proof.Machine.execLds x s
  | .sts x => Sys2Proof.Machine.execSts x s
  | .ldv x => Sys2Proof.Machine.execLdv x s
  | .stv x => Sys2Proof.Machine.execStv x s
  | .ldk x => Sys2Proof.Machine.execLdk x s
  | .atom x => Sys2Proof.Machine.execAtom x s
  | .acas x => Sys2Proof.Machine.execAcas x s
  | .atoms x => Sys2Proof.Machine.execAtoms x s
  | .cadd x => Sys2Proof.Machine.execCadd x s
  | .fenceMem x => Sys2Proof.Machine.execFenceMem x s
  | .fenceVault x => Sys2Proof.Machine.execFenceVault x s
  | .mon x => Sys2Proof.Machine.execMon x s
  | .mwait x => Sys2Proof.Machine.execMwait x s
  | .pref x => Sys2Proof.Machine.execPref x s
  | .cinv x => Sys2Proof.Machine.execCinv x s
  | .cwb x => Sys2Proof.Machine.execCwb x s
  | .ntake x => Sys2Proof.Machine.execNtake x s
  | .npass x => Sys2Proof.Machine.execNpass x s
  | .mma x => Sys2Proof.Machine.execMma x s
  | .mmas x => Sys2Proof.Machine.execMmas x s
  | .azero x => Sys2Proof.Machine.execAzero x s
  | .afill x => Sys2Proof.Machine.execAfill x s
  | .adrain x => Sys2Proof.Machine.execAdrain x s
  | .mepi x => Sys2Proof.Machine.execMepi x s
  | .mstat x => Sys2Proof.Machine.execMstat x s
  | .yopen x => Sys2Proof.Machine.execYopen x s
  | .yclose x => Sys2Proof.Machine.execYclose x s
  | .ypush x => Sys2Proof.Machine.execYpush x s
  | .ydrop x => Sys2Proof.Machine.execYdrop x s
  | .cpy x => Sys2Proof.Machine.execCpy x s
  | .cpyd x => Sys2Proof.Machine.execCpyd x s
  | .gath x => Sys2Proof.Machine.execGath x s
  | .scat x => Sys2Proof.Machine.execScat x s
  | .kwait x => Sys2Proof.Machine.execKwait x s
  | .trace x => Sys2Proof.Machine.execTrace x s
  | .tres x => Sys2Proof.Machine.execTres x s
  | .msub x => Sys2Proof.Machine.execMsub x s
  | .smap x => Sys2Proof.Machine.execSmap x s
  | .sunmap x => Sys2Proof.Machine.execSunmap x s
  | .bra x => Sys2Proof.Machine.execBra x s
  | .bru x => Sys2Proof.Machine.execBru x s
  | .brx x => Sys2Proof.Machine.execBrx x s
  | .call x => Sys2Proof.Machine.execCall x s
  | .ret x => Sys2Proof.Machine.execRet x s
  | .join x => Sys2Proof.Machine.execJoin x s
  | .bar x => Sys2Proof.Machine.execBar x s
  | .bara x => Sys2Proof.Machine.execBara x s
  | .barw x => Sys2Proof.Machine.execBarw x s
  | .exit x => Sys2Proof.Machine.execExit x s
  | .yield x => Sys2Proof.Machine.execYield x s
  | .trap x => Sys2Proof.Machine.execTrap x s
  | .bpt x => Sys2Proof.Machine.execBpt x s
  | .nop x => Sys2Proof.Machine.execNop x s
  | .eret x => Sys2Proof.Machine.execEret x s
  | .sysrd x => Sys2Proof.Machine.execSysrd x s
  | .syswr x => Sys2Proof.Machine.execSyswr x s
  | .phint x => Sys2Proof.Machine.execPhint x s
  | .idem x => Sys2Proof.Machine.execIdem x s
  | .idemEnd x => Sys2Proof.Machine.execIdemEnd x s
  | .gset x => Sys2Proof.Machine.execGset x s
  | .pfork x => Sys2Proof.Machine.execPfork x s
  | .penter x => Sys2Proof.Machine.execPenter x s
  | .pkeep x => Sys2Proof.Machine.execPkeep x s
  | .pfrog x => Sys2Proof.Machine.execPfrog x s
  | .pqry x => Sys2Proof.Machine.execPqry x s
  | .lline x => Sys2Proof.Machine.execLline x s
  | .arbeg x => Sys2Proof.Machine.execArbeg x s
  | .arend x => Sys2Proof.Machine.execArend x s
  | .arabt x => Sys2Proof.Machine.execArabt x s
  | .rpair x => Sys2Proof.Machine.execRpair x s
  | .rchk x => Sys2Proof.Machine.execRchk x s
  | .rend x => Sys2Proof.Machine.execRend x s
  | .fmap x => Sys2Proof.Machine.execFmap x s
  | .invpg x => Sys2Proof.Machine.execInvpg x s
  | .launch x => Sys2Proof.Machine.execLaunch x s
  | .emit x => Sys2Proof.Machine.execEmit x s
  | .recv x => Sys2Proof.Machine.execRecv x s
  | .qpush x => Sys2Proof.Machine.execQpush x s
  | .qpop x => Sys2Proof.Machine.execQpop x s
  | .qtokPut x => Sys2Proof.Machine.execQtokPut x s
  | .qtokTake x => Sys2Proof.Machine.execQtokTake x s
  | .flip x => Sys2Proof.Machine.execFlip x s
  | .clauseStart w n => Sys2Proof.Machine.execClauseStart w n s
  | .heldWordIssue w n => Sys2Proof.Machine.execHeldWordIssue w n s
  | .strandWake w n => Sys2Proof.Machine.execStrandWake w n s
  | .opportunisticFusion w n m => Sys2Proof.Machine.execOpportunisticFusion w n m s
  | .slotFree w => Sys2Proof.Machine.execSlotFree w s
  | .resultWriteback id => Sys2Proof.Machine.execResultWriteback id s
  | .accessPerformed id => Sys2Proof.Machine.execAccessPerformed id s
  | .yarnFillComplete id => Sys2Proof.Machine.execYarnFillComplete id s
  | .engineCommandComplete id => Sys2Proof.Machine.execEngineCommandComplete id s
  | .meOperationComplete id => Sys2Proof.Machine.execMeOperationComplete id s
  | .traversalComplete id => Sys2Proof.Machine.execTraversalComplete id s
  | .darnerCommit w => Sys2Proof.Machine.execDarnerCommit w s
  | .deferredEntryIssue h => Sys2Proof.Machine.execDeferredEntryIssue h s
  | .plyReconcile h p => Sys2Proof.Machine.execPlyReconcile h p s
  | .partialEviction cl line => Sys2Proof.Machine.execPartialEviction cl line s
  | .monitorSpuriousTrigger w => Sys2Proof.Machine.execMonitorSpuriousTrigger w s
  | .mwaitTimeout w n => Sys2Proof.Machine.execMwaitTimeout w n s
  | .watchdog w n => Sys2Proof.Machine.execWatchdog w n s
  | .trapTaken w => Sys2Proof.Machine.execTrapTaken w s
  | .walkStarvation w => Sys2Proof.Machine.execWalkStarvation w s
  | .accessRejectRetry id => Sys2Proof.Machine.execAccessRejectRetry id s
  | .agedReservation id => Sys2Proof.Machine.execAgedReservation id s
  | .bankDrowsy w bank => Sys2Proof.Machine.execBankDrowsy w bank s
  | .queueDispatch h => Sys2Proof.Machine.execQueueDispatch h s
  | .teamPlacement h => Sys2Proof.Machine.execTeamPlacement h s
  | .binLaunch h b => Sys2Proof.Machine.execBinLaunch h b s
  | .binTimerExpiry h b => Sys2Proof.Machine.execBinTimerExpiry h b s
  | .doneTokenPut launch => Sys2Proof.Machine.execDoneTokenPut launch s
  | .doneTokenRetry launch => Sys2Proof.Machine.execDoneTokenRetry launch s
  | .preemptRequest h => Sys2Proof.Machine.execPreemptRequest h s
  | .promiseBroken w => Sys2Proof.Machine.execPromiseBroken w s
  | .fullSave w => Sys2Proof.Machine.execFullSave w s
  | .teamRestore team => Sys2Proof.Machine.execTeamRestore team s
  | .hostDoorbell h p q page x => Sys2Proof.Machine.execHostDoorbell h p q page x s
  | .qringWrite h p q x => Sys2Proof.Machine.execQringWrite h p q x s
  | .qstatWrite h p q x => Sys2Proof.Machine.execQstatWrite h p q x s
  | .bincfgWrite h b x => Sys2Proof.Machine.execBincfgWrite h b x s
  | .hankctlWrite h x => Sys2Proof.Machine.execHankctlWrite h x s
  | .waysWrite h x => Sys2Proof.Machine.execWaysWrite h x s
  | .wayChangeComplete h => Sys2Proof.Machine.execWayChangeComplete h s
  | .memcfgWrite h x => Sys2Proof.Machine.execMemcfgWrite h x s
  | .shadowPoolWrite h chunks x => Sys2Proof.Machine.execShadowPoolWrite h chunks x s
  | .traversalLoadComplete h c => Sys2Proof.Machine.execTraversalLoadComplete h c s
  | .traversalContextFault row col c => Sys2Proof.Machine.execTraversalContextFault row col c s
  | .vblank head => Sys2Proof.Machine.execVblank head s
  | .mediaCommand sq => Sys2Proof.Machine.execMediaCommand sq s
  | .mediaDoneRetry sq => Sys2Proof.Machine.execMediaDoneRetry sq s
  | .correctedError => Sys2Proof.Machine.execCorrectedError s
  | .poison loc src => Sys2Proof.Machine.execPoison loc src s
  | .shared u => Sys2Proof.Machine.execShared u s
  | .linkfail link pa => Sys2Proof.Machine.execLinkfail link pa s
  | .inject ix hit => Sys2Proof.Machine.execInject ix hit s
  | .injectorDelayExpiry ix => Sys2Proof.Machine.execInjectorDelayExpiry ix s
  | .quoteComplete ok => Sys2Proof.Machine.execQuoteComplete ok s
  | .powerOn => Sys2Proof.Machine.execPowerOn s
  | .fundamentalReset => Sys2Proof.Machine.execFundamentalReset s
  | .rom => Sys2Proof.Machine.execRom s
  | .floorplan selfTest => Sys2Proof.Machine.execFloorplan selfTest s
  | .firmware => Sys2Proof.Machine.execFirmware s
  | .memory trained => Sys2Proof.Machine.execMemory trained s
  | .governorEvaluation mhz watts temp => Sys2Proof.Machine.execGovernorEvaluation mhz watts temp s
  | .thermalTrip => Sys2Proof.Machine.execThermalTrip s
  | .debuggerAccess w reg lane wr => Sys2Proof.Machine.execDebuggerAccess w reg lane wr s
  | .migheadWrite h x => Sys2Proof.Machine.execMigheadWrite h x s
  | .invalidationComplete h => Sys2Proof.Machine.execInvalidationComplete h s
  | .traversalResetComplete h c => Sys2Proof.Machine.execTraversalResetComplete h c s
  | .poolfreeWrite h x => Sys2Proof.Machine.execPoolfreeWrite h x s
  | .invreqPage h va => Sys2Proof.Machine.execInvreqPage h va s
  | .invreqAll h => Sys2Proof.Machine.execInvreqAll h s
  | .migackDone h va => Sys2Proof.Machine.execMigackDone h va s
  | .migackRefused h va => Sys2Proof.Machine.execMigackRefused h va s
  | .trctlLoad h c x => Sys2Proof.Machine.execTrctlLoad h c x s
  | .trctlReset h c x => Sys2Proof.Machine.execTrctlReset h c x s
  | .headctlWrite head x => Sys2Proof.Machine.execHeadctlWrite head x s
  | .hostCoherentRead pa size peer => Sys2Proof.Machine.execHostCoherentRead pa size peer s
  | .hostCoherentWrite pa bs peer => Sys2Proof.Machine.execHostCoherentWrite pa bs peer s
  | .hostDirectRead pa size peer => Sys2Proof.Machine.execHostDirectRead pa size peer s
  | .hostDirectWrite pa bs peer hint => Sys2Proof.Machine.execHostDirectWrite pa bs peer hint s
  | .fetchadd pa size v via => Sys2Proof.Machine.execFetchadd pa size v via s
  | .swap pa size v via => Sys2Proof.Machine.execSwap pa size v via s
  | .cas pa size cmp new via => Sys2Proof.Machine.execCas pa size cmp new via s
  | .vfWindowAccess h off size wr => Sys2Proof.Machine.execVfWindowAccess h off size wr s
  | .injselWrite ix x => Sys2Proof.Machine.execInjselWrite ix x s
  | .errbaseWrite x => Sys2Proof.Machine.execErrbaseWrite x s
  | .cecountWrite x => Sys2Proof.Machine.execCecountWrite x s
  | .gaugecWrite h g x => Sys2Proof.Machine.execGaugecWrite h g x s
  | .featackWrite x => Sys2Proof.Machine.execFeatackWrite x s
  | .attctlGo x => Sys2Proof.Machine.execAttctlGo x s
  | .registerWrite off x => Sys2Proof.Machine.execRegisterWrite off x s
  | .powerWrite x => Sys2Proof.Machine.execPowerWrite x s

end Sys2Proof.Machine
end

