-- ==== Sys2Proof/Machine/Auto.lean ====
section
/-! DEFINITION. Which step the device takes next (log 4): the strand that issues, and the steps that occur by themselves. The order of
steps is open in the spec (01 R41, R42; 19 R379 calls the rest not architectural); `inbox` gives any other order. -/

namespace Sys2Proof.Machine

/-- Whether an instruction is a step of the machine and no instruction word. -/
def isStep (i : Instr) : Bool := (encodeNat i).isNone

/-- Steps that come from outside the device: the host, its peers, and the board. -/
def isOutside : Instr → Bool
  | .hostDoorbell _ _ _ _ _ | .qringWrite _ _ _ _ | .qstatWrite _ _ _ _ | .bincfgWrite _ _ _ | .hankctlWrite _ _ | .waysWrite _ _
  | .memcfgWrite _ _ | .shadowPoolWrite _ _ _ | .poolfreeWrite _ _ | .invreqPage _ _ | .invreqAll _ | .migackDone _ _
  | .migackRefused _ _ | .migheadWrite _ _ | .trctlLoad _ _ _ | .trctlReset _ _ _ | .headctlWrite _ _ | .hostCoherentRead _ _ _
  | .hostCoherentWrite _ _ _ | .hostDirectRead _ _ _ | .hostDirectWrite _ _ _ _ | .fetchadd _ _ _ _ | .swap _ _ _ _ | .cas _ _ _ _ _
  | .vfWindowAccess _ _ _ _ | .injselWrite _ _ | .errbaseWrite _ | .cecountWrite _ | .gaugecWrite _ _ _ | .featackWrite _ | .attctlGo _
  | .registerWrite _ _ | .powerWrite _ | .powerOn | .fundamentalReset => true
  | _ => false

/-- Steps that go on in HALT (R432): those from outside, and the answer of the mailbox in the status block. -/
def inHalt : Instr → Bool
  | .quoteComplete _ => true
  | i => isOutside i

/-- A step that the inbox schedules: a step of the machine with legal operands, and in HALT one that goes on there (R432). -/
def takeStep (s : State) (i : Instr) : Host.Outcome State Fault Refusal :=
  if isStep i && WellFormed i && (s.sysc.stage != 15 || inHalt i) then exec i s else .next s

/-- The strand that issues next, among those that may go on, is brought to the head of the running list (log 4). -/
def chooseStrand (s : State) : State :=
  match s.running.filter (mayGoOn s) with
  | [] => s
  | [r] => { s with running := r :: s.running.erase r }
  | r :: rs =>
    let q := (r :: rs).getD (Config.pick s.fresh % (rs.length + 1)) r
    { s with running := q :: s.running.erase q, fresh := s.fresh + 1 }

/-- Steps that do not wait behind others: traps (R314) and saves (R325). -/
def urgent (s : State) : List Instr :=
  (List.range s.waves.length).flatMap fun w => [.trapTaken w, .promiseBroken w, .fullSave w]

/-- The numbers of a wave's strands. -/
def Wave.nums (v : Wave) : List Nat := v.strands.map fun t => t.num

/-- Steps of a wave's strands and of its access thread. -/
def strandSteps (s : State) (w : Nat) : List Instr :=
  match s.waves[w]? with
  | none => []
  | some v =>
    if v.phase = .live then
      (Wave.nums v ++ [8]).flatMap fun n => [.clauseStart w n, .strandWake w n, .heldWordIssue w n]
    else []

/-- Steps that end an operation in flight. -/
def flightSteps (f : Flight) : List Instr :=
  if f.rejected.isSome then [.agedReservation f.id, .accessRejectRetry f.id]
  else if f.wb then [.resultWriteback f.id, .traversalComplete f.id]
  else match f.kind with
    | .access => [.accessPerformed f.id]
    | .fill _ _ _ => [.yarnFillComplete f.id]
    | .engine => [.engineCommandComplete f.id]
    | .me => [.meOperationComplete f.id]
    | .trace _ => [.traversalComplete f.id]
    | _ => []

/-- Steps of a hank's units. -/
def hankSteps (s : State) (h : Nat) : List Instr :=
  let k := hankOf s h
  [.queueDispatch h, .teamPlacement h, .preemptRequest h, .deferredEntryIssue h]
    ++ (if k.wayBusy then [.wayChangeComplete h] else [])
    ++ (if k.inv = [] then [] else [.invalidationComplete h])
    ++ k.recon.map (fun r => .plyReconcile h r.1)
    ++ k.bins.map (fun b => .binLaunch h b.num)
    ++ ((List.range 8).filter fun c => (k.ctxs[c]?.getD TrContext.reset).busy).flatMap
        fun c => [.traversalLoadComplete h c, .traversalResetComplete h c]

/-- Steps of bring-up and of SYSC (R431, R439). -/
def syscSteps (s : State) : List Instr :=
  (match s.sysc.stage with
   | 0 => [.rom]
   | 1 => [.floorplan 0]
   | 2 => [.firmware]
   | 3 | 4 => [.memory true]
   | _ => []) ++ if s.sysc.attstat = 1 then [.quoteComplete true] else []

/-- The steps that may occur by themselves. -/
def ownSteps (s : State) : List Instr :=
  syscSteps s
    ++ (List.range s.waves.length).flatMap (strandSteps s)
    ++ s.flights.flatMap flightSteps
    ++ (List.range s.waves.length).flatMap (fun w => [.darnerCommit w, .slotFree w])
    ++ (List.range 8).flatMap (hankSteps s)
    ++ s.dones.map (fun d => .doneTokenPut d.launch)
    ++ (List.range s.teams.length).map (fun t => .teamRestore t)
    ++ [.mediaCommand 0, .mediaCommand 1]
    ++ s.err.delayed.map fun d => .injectorDelayExpiry d.1

/-- Steps that only the passage of time brings about. -/
def timedSteps (s : State) : List Instr :=
  (List.range s.waves.length).flatMap (fun w =>
      match s.waves[w]? with
      | some v => if v.phase = .live then (Wave.nums v).flatMap fun n => [.mwaitTimeout w n, .watchdog w n] else []
      | none => [])
    ++ (List.range 8).flatMap (fun h => (hankOf s h).bins.map fun b => .binTimerExpiry h b.num)
    ++ s.dones.map (fun d => .doneTokenRetry d.launch)
    ++ [.mediaDoneRetry 0, .mediaDoneRetry 1, .vblank 0, .vblank 1, .vblank 2, .vblank 3]

/-- Whether a step occurred: one that has no occurrence in the state changes nothing (`notNow`). -/
def occurred (s : State) : Host.Outcome State Fault Refusal → Bool
  | .next t => t.progress != s.progress || t.running != s.running
  | _ => true

/-- The first step of a list that has an occurrence in the state, with its place; the list begins at place `k`. -/
def firstStep (s : State) (k : Nat) : List Instr → Option (Nat × Host.Outcome State Fault Refusal)
  | [] => none
  | i :: is =>
    let o := exec i s
    if occurred s o then some (k, o) else firstStep s (k + 1) is

/-- The steps of a list take turns (R42: none waits on how often another occurs): the search begins at place `turn`, behind the last one
taken. -/
def inTurn (s : State) (turn : Nat) (is : List Instr) : Option (Nat × Host.Outcome State Fault Refusal) :=
  let k := if turn < is.length then turn else 0
  match firstStep s k (is.drop k) with
  | some r => some r
  | none => firstStep s 0 (is.take k)

/-- What is noted in the state after a step. -/
def noting (f : State → State) : Host.Outcome State Fault Refusal → Host.Outcome State Fault Refusal
  | .next t => .next (f t)
  | o => o

/-- The step that the device takes when no strand issues: a trap or save, else one of its own steps, else one that time brings; with none
of these it waits for the outside. -/
def ownStepTaken (s : State) : Host.Outcome State Fault Refusal :=
  match firstStep s 0 (urgent s) with
  | some (_, o) => o
  | none =>
    match inTurn s s.turn (ownSteps s) with
    | some (k, o) => noting (fun t => { t with turn := k + 1 }) o
    | none =>
      match inTurn s s.timedTurn (timedSteps s) with
      | some (k, o) => noting (fun t => { t with timedTurn := k + 1 }) o
      | none => .next s

/-- Deferred atomics that a keep into the root is issuing (R248): no word issues before them, since what the keep has written is there with them
(15 R338). -/
def keptAtomics (s : State) : List Instr :=
  ((List.range 8).filter fun h =>
    match (hankOf s h).draining with
    | e :: _ => (match e.kind with | .atom _ _ _ _ _ | .acas _ _ _ => true | _ => false)
    | [] => false).map .deferredEntryIssue

/-- One step with an empty inbox: a deferred atomic of a keep, else the word of a strand (R45, R53), else a step of the device. -/
def goOn (s : State) : Host.Outcome State Fault Refusal :=
  match firstStep s 0 (keptAtomics s) with
  | some (_, o) => o
  | none =>
    match nextIssue (chooseStrand s) with
    | some (.exec t i) => exec i t
    | some (.out o) => o
    | none => ownStepTaken s

/-- What goes on in HALT of itself (R432): the mailbox of the status block answers (R439). -/
def haltStep (s : State) : Host.Outcome State Fault Refusal :=
  if s.sysc.attstat = 1 then exec (.quoteComplete true) s else .next s

/-! ### A word to run first -/

/-- The leaf and the node entries of a one-page table (R385): V, and for the leaf W, X, OWN, LEAF, A and D. -/
def nodeEntry (pa : Nat) : Bytes := natLe 8 (pa / 2 ^ 16 * 2 ^ 22 + 1)
def leafEntry (pa : Nat) : Bytes := natLe 8 (pa / 2 ^ 16 * 2 ^ 22 + 0x71007)

/-- A strand of all lanes inside a one-word clause at virtual address 0x10000, before its word. -/
def loneStrand (p : Port) : Strand :=
  { num := 0, mask := 0xFF, pc := 0x10000, clause := some { port := p, count := 1, tok := 0, done := 0 }, park := .none, handler := false }

/-- The port that issues a class at its own (R47). -/
def classPort (cls : Nat) : Port :=
  match cls with
  | 3 => .m
  | 4 => .x
  | 5 => .k
  | 7 => .s
  | _ => .v

/-- A wave of hank 0 that holds one strand, its registers 0. -/
def loneWave (s : State) (p : Port) : Wave :=
  { phase := .live, launch := s.launches.length, team := s.teams.length, hank := 0, core := 0, bay := 0, slot := 0, waveid := 0,
    lvl := Vector.replicate 8 0, ext := Vector.replicate 8 1, kptr := 0, nregs := 256, regs := Vector.replicate 256 (Word.splat 0),
    affine := [], drowsy := [], strands := [loneStrand p], exited := 0, flags := Vector.replicate 12 0, tokens := [], nextTok := 1, ply := 0,
    fcr := 0, ars := 0, rpstat := 0, gst := 0, clkLatch := none,
    trapRegs := { fcause := 0, fmask := 0, fpc := 0, faddrlo := 0, faddrhi := 0, finfo := 0 }, trap := none, more := none, finish := none, monitor := none,
    yarns := Vector.replicate 8 Yarn.closed, access := none, rays := Vector.replicate 8 RaySlot.empty, region := none, idem := none,
    arrivals := [], pair := none, preempt := .none, clauseCount := Vector.replicate 8 0, image := none, ctx := 0, latch := none }

/-- The state with a word where the next step fetches: a lone wave's strand stands at it, behind a table of one page. -/
def placeWord (s : State) (w : Nat) : State :=
  let m := s.mem.writeBytes 0x100000 (nodeEntry 0x110000)
  let m := Memory.writeBytes m 0x110000 (nodeEntry 0x120000)
  let m := Memory.writeBytes m 0x120000 (nodeEntry 0x130000)
  let m := Memory.writeBytes m 0x130008 (leafEntry 0x140000)
  let m := Memory.writeBytes m 0x140008 (natLe 8 w)
  let s := setHreg { s with mem := m } 0 0x120 0x100000
  { s with
    inbox := [], running := [⟨s.waves.length, 0⟩], sysc := { s.sysc with stage := 6 }
    waves := s.waves ++ [loneWave s (classPort (w / 2 ^ 61 % 8))] }

end Sys2Proof.Machine
end

