-- ==== Sys2Proof/Machine/Step.lean ====
section
/-! DEFINITION. The step of the machine (01 R41, 02 R45, R53): the next scheduled step, else the word of the strand whose turn it is, else
a step of the device. -/

namespace Sys2Proof.Machine

/-- One step: a scheduled step first; in HALT nothing else issues (R432). -/
def step (s : State) : Host.Outcome State Fault Refusal :=
  match s.inbox with
  | i :: is => takeStep { s with inbox := is } i
  | [] => if s.sysc.stage = 15 then haltStep s else goOn s

/-- The state with the instruction word `w` where `step` fetches its next instruction (log 9); the bits above `nbits` are zero. -/
def State.withFetchWord (s : State) (nbits w : Nat) : State := placeWord s (w % 2 ^ min nbits 64)

end Sys2Proof.Machine
end

