-- ==== Sys2Proof/Safety.lean ====
section
/-! DEFINITION. The terms that statements about the machine use: when a word runs to its end, what the machine is after it, and what
instructions leave alone. -/

namespace Sys2Proof.Machine

/-- The context of instruction `i` in `s`, where `i` runs to its end: its strand is the one that issues (R53), it passes every check of
the word as a whole (R62, R84, R116, R203, R313), some lane is active (R63), no atomic region is open in it (R253), neither a keep
(R244) nor the commit of a region of its wave (R257) holds it, and no active lane reads poison (R422). -/
def runs (s : State) (c : Ctx) (i : Instr) : Bool :=
  ctxOf s i == some c && (!c.acc || accessOk i) && (!handlerWord i || c.st.handler) && WellFormed i && !stateIllegal s c i
    && !divergent c i && c.act != 0 && c.region.isNone && !holdsNow s c i && (poisonFaults s c i).isEmpty

/-- The wave after a word that is done in every lane: its strand, or its access thread, goes on (R53). -/
def Ctx.goesOn (c : Ctx) (v : Wave) : Wave :=
  if v.phase = .live then
    if c.acc then v.modThread 8 Strand.advance else v.modThread c.n fun t => { t with mask := c.ex }.advance
  else v

/-- The state after a word that was done in every active lane with effects `t`: clean writes cleared poison (R421), the strand went on
(R53), and flags, barriers, JOINs and retirement followed (R48, R193, R197, R200). -/
def wordDone (c : Ctx) (i : Instr) (t : State) : State :=
  bump (settle (rotate (modWave (clearRegPoison t c i) c.w c.goesOn) c) c.w)

/-- The state after a word that moved or parked its strand itself: flags, barriers, JOINs and retirement followed. -/
def strandMoved (c : Ctx) (t : State) : State := bump (settle (rotate t c) c.w)

/-- The state after a class B word that waits, to be tried again (R79); `setb` says that it counts towards SETB (R80). -/
def strandWaits (c : Ctx) (setb : Bool) (t : State) : State :=
  settle (rotate (modThread t c.w c.n fun u => { u with park := .block t.progress setb }) c) c.w

/-- The state after a step that may change a wave: its flags, JOINs, barriers and retirement followed (R48, R193, R197, R200). -/
def waveStepped (s : State) (w : Nat) : State := bump (settle s w)

/-- The state after a step of the device: pairs are settled, and strands that may not run any more are out of the running list. -/
def deviceStepped (s : State) : State := bump (pruneRunning (settlePairs s))

/-- The context of instruction `i` in an open atomic region `r`, where `i` is one of the region's words and runs (R254, R256). -/
def runsInRegion (s : State) (c : Ctx) (i : Instr) (r : Region) : Bool :=
  ctxOf s i == some c && WellFormed i && !stateIllegal s c i && c.act != 0 && c.region == some r && regionOk i
    && !(decide (32 ≤ r.nConds) && !(c.constraint r i).isEmpty) && (poisonFaults s c i).isEmpty

/-- The state after a word of an atomic region, done in every active lane with effects `t`: tags followed (R255), and the strand went on. -/
def wordDoneIn (c : Ctx) (i : Instr) (r : Region) (t : State) : State :=
  strandMoved c (modThread (clearRegPoison (if isRegionMem i then t else trackTags t c r i) c i) c.w c.n Strand.advance)

/-- Wherever `i` runs to its end and `pre` holds, it moves or parks its strand itself: the next state is that of `body`. -/
def Moves (i : Instr) (pre : State → Ctx → Prop) (body : State → Ctx → State) : Prop :=
  ∀ s c, runs s c i = true → pre (wakeBanks s c i) c → exec i s = .next (strandMoved c (body (wakeBanks s c i) c))

/-- Wherever `i` runs to its end and `pre` holds, it waits and changes nothing. -/
def Waits (i : Instr) (pre : State → Ctx → Prop) : Prop :=
  ∀ s c, runs s c i = true → pre (wakeBanks s c i) c → exec i s = .next (strandWaits c false (wakeBanks s c i))

/-- Wherever `i` runs to its end and `pre` holds, it answers a next state: that of its effects `body`. -/
def GivesIf (i : Instr) (pre : State → Ctx → Prop) (body : State → Ctx → State) : Prop :=
  ∀ s c, runs s c i = true → pre (wakeBanks s c i) c → exec i s = .next (wordDone c i (body (wakeBanks s c i) c))

/-- Wherever `i` runs to its end, it answers a next state: that of its effects `body`. -/
def Gives (i : Instr) (body : State → Ctx → State) : Prop :=
  ∀ s c, runs s c i = true → exec i s = .next (wordDone c i (body (wakeBanks s c i) c))

/-- Wherever `i` runs to its end and `pre` holds, it does nothing in the lanes that fault with `stops` (R53, R313). -/
def RaisesIf (i : Instr) (pre : State → Ctx → Prop) (stops : Ctx → Stops) : Prop :=
  ∀ s c, runs s c i = true → pre (wakeBanks s c i) c → exec i s = finishDone (wakeBanks s c i) (wakeBanks s c i) c i (stops c)

/-- The lanes write `f` to register d: D[l] := f(l) in every active lane (R13, R113). -/
def GivesReg (i : Instr) (d : BitVec 8) (f : Ctx → Nat → Word) : Prop := Gives i fun u c => c.put u d.toNat (f c)

/-- The lanes of a word taken in turn, none of which stops: the state after them and their results. -/
def lanesDone {α : Type} (u : State) (c : Ctx) (f : State → Nat → LaneStep α) : Option (State × List (Nat × α)) :=
  match overLanes c.v.hank f (lanesOf c.act) { s := u, res := [], st := Stops.none } with
  | .ok a => if a.st = Stops.none then some (a.s, a.res) else none
  | .error _ => none

/-- Wherever `i` runs to its end, has `room`, and none of its lanes stops at `f`, it answers a next state: `k` of the state before the lanes, the
one after them, and their results. -/
def GivesLanes {α : Type} (i : Instr) (room : State → Ctx → Bool) (f : Ctx → State → Nat → LaneStep α)
    (k : State → Ctx → State → List (Nat × α) → State) : Prop :=
  ∀ s c t res, runs s c i = true → room (wakeBanks s c i) c = true → lanesDone (wakeBanks s c i) c (f c) = some (t, res) →
    exec i s = .next (wordDone c i (k (wakeBanks s c i) c t res))

/-- A global address of hank `h` behind a leaf that the hank may access (R161, R164, R386): no aperture address, the hank's page, owned by
the device, writable for a write, at an address that exists. -/
def Mapped (s : State) (h va : Nat) (wr : Bool) (lf : Leaf) : Prop :=
  windowAt va = none ∧ walkFor s h va wr = .leaf lf ∧ pteHank lf.pte = h ∧ pteOwn lf.pte = true ∧ (wr = true → pteW lf.pte = true)
    ∧ lf.pa < Config.physBytes

/-- The states in which the lanes of a word act, each with its lane (R158). -/
def lanesBefore {α : Type} (h : Nat) (f : State → Nat → LaneStep α) : List Nat → State → List (State × Nat)
  | [], _ => []
  | l :: ls, s =>
    (s, l) :: lanesBefore h f ls (match f s l with
      | .go t _ | .trip t _ => t
      | .migrate va wr _ => requestPage s h va wr
      | .waitIn t => t
      | _ => s)

/-- Every wave of `s` is in `t` with the same registers, the access thread's with them, and the same special registers but `%gst`. -/
def sameRegs (s t : State) : Prop :=
  ∀ (k : Nat) (v : Wave), s.waves[k]? = some v → ∃ v' : Wave, t.waves[k]? = some v' ∧ v'.regs = v.regs ∧ v'.access.map (·.regs) = v.access.map (·.regs)
    ∧ v'.fcr = v.fcr ∧ v'.ars = v.ars ∧ v'.rpstat = v.rpstat ∧ v'.kptr = v.kptr ∧ v'.lvl = v.lvl ∧ v'.ext = v.ext ∧ v'.waveid = v.waveid
    ∧ v'.ply = v.ply ∧ v'.trapRegs = v.trapRegs ∧ v'.yarns = v.yarns

/-- What an access of one lane behind a leaf leaves alone, where it may write `n` bytes in ply `q` of hank `h`: root memory but the
leaf's entry (R390) and, in the root, those bytes; every version but ply q's of that line; vault memory, scratch and the registers. -/
def LeafFrame (s t : State) (h q : Nat) (lf : Leaf) (n : Nat) : Prop :=
  (∀ a, ¬(lf.loc ≤ a ∧ a < lf.loc + 8) → (q = 0 → ¬(lf.pa ≤ a ∧ a < lf.pa + n)) → t.mem.read a = s.mem.read a)
  ∧ (∀ h' p line, ¬(q ≠ 0 ∧ h' = h ∧ p = q ∧ line = lineOf lf.pa) → versionIn t h' p line = versionIn s h' p line)
  ∧ t.vault = s.vault ∧ t.teams = s.teams ∧ t.barriers = s.barriers ∧ t.flights = s.flights ∧ sameRegs s t

/-- The machine apart from one wave's own parts: `t` is `s` but for the schedule, poison, barriers and waves. -/
def sameUnits (s t : State) : Prop :=
  { t with running := s.running, progress := s.progress, poison := s.poison, barriers := s.barriers, waves := s.waves } = s

/-- The waves other than `w` are in `t` as in `s` but for their strands and those a trap set aside, which a barrier may let go on (R198). -/
def sameOthers (s t : State) (w : Nat) : Prop :=
  t.waves.length = s.waves.length
    ∧ ∀ (k : Nat) (v : Wave), k ≠ w → s.waves[k]? = some v → ∃ v' : Wave, t.waves[k]? = some v' ∧ { v' with strands := v.strands, trap := v.trap } = v

/-- Memory and vault memory are in canonical form, so that equal contents are equal data. -/
def canonical (s : State) : Prop := s.mem.wf = true ∧ Sparse.wf (α := Byte) 0 s.vault = true

/-- No pair's compare (R272) and no keep (R244) waits, whose work any step may find done. -/
def nothingWaits (s : State) : Prop := (∀ p ∈ s.pairs, p.active = false) ∧ ∀ k ∈ s.hanks.toList, k.keeper = none

/-- A state in which the access of a word meets no partial sum (R177), no poison (R422), no pair's compare (R272), no keep (R244), no migration
(R392), no line that a direct write changed behind its home copy (R387) and no fault in a handler (R318), and the wave has a strand; its
memories are in canonical form. -/
def plainly (s : State) (c : Ctx) : Prop :=
  canonical s ∧ s.partials = [] ∧ s.poison = [] ∧ nothingWaits s ∧ s.sysc.featack.getLsbD 4 = false
    ∧ (∀ t ∈ s.stale, t.dirty = true) ∧ c.st.handler = false ∧ c.v.strands ≠ []

/-- The condition codes of ICMP and ACMP (R124, R128). -/
def condition {w : Nat} (code : Nat) (unsigned : Bool) (a b : BitVec w) : Bool :=
  match code with
  | 0 => a == b
  | 1 => a != b
  | 2 => if unsigned then a.ult b else a.slt b
  | 3 => if unsigned then a.ule b else a.sle b
  | 4 => if unsigned then b.ult a else b.slt a
  | _ => if unsigned then b.ule a else b.sle a

end Sys2Proof.Machine
end

