-- ==== Sys2Proof/Certificates/Slice0/Obligations.lean ====
section
/-! DEFINITION. The statements about the model for the provers, from the spec's numbered rules: what the words and the steps of the machine do,
when they complete, what they leave alone, the encoding, traps, and what every step keeps. -/

open Sys2Proof Sys2Proof.Machine

/-! ### V class: integer words (05 R113 to R126) -/

/-- R118: IADD to INEG write, in each active lane, the value of the table; the VI forms take the sign-extended immediate as b and are
signed (R113, R114). MOD bit 0 is U for IMULH, IMIN and IMAX and SAT for IABS and INEG.

R119: IDP4 adds to D the four products of the bytes of a and b, exactly, each byte and d read by the signedness of MOD bits 0 and 1,
clamped under SAT (MOD bit 2).

R120: the logic words, the shifts by n = b and 0xFF, and the rotation by b and 31, in both forms (R113). -/
def Obligations.IntegerArithmeticResults : Prop :=
  ((∀ x : V3,
     GivesReg (.iadd x) x.d (fun c l => c.src x.sA l + c.src x.sB l)
     ∧ GivesReg (.isub x) x.d (fun c l => c.src x.sA l - c.src x.sB l)
     ∧ GivesReg (.iaddx x) x.d (fun c l => c.src x.sA l + c.src x.sB l + (c.src x.sC l &&& 1))
     ∧ GivesReg (.icry x) x.d (fun c l =>
         if 2 ^ 32 ≤ (c.src x.sA l).toNat + (c.src x.sB l).toNat + (c.src x.sC l &&& 1).toNat then 1 else 0)
     ∧ GivesReg (.imul x) x.d (fun c l => BitVec.ofNat 32 ((c.src x.sA l).toNat * (c.src x.sB l).toNat))
     ∧ GivesReg (.imulh x) x.d (fun c l =>
         if x.c.getLsbD 0 then BitVec.ofNat 32 ((c.src x.sA l).toNat * (c.src x.sB l).toNat / 2 ^ 32)
         else BitVec.ofInt 32 ((c.src x.sA l).toInt * (c.src x.sB l).toInt / 2 ^ 32))
     ∧ GivesReg (.imad x) x.d (fun c l =>
         BitVec.ofNat 32 ((c.src x.sA l).toNat * (c.src x.sB l).toNat + (c.src x.sC l).toNat))
     ∧ GivesReg (.imin x) x.d (fun c l =>
         if x.c.getLsbD 0 then BitVec.ofNat 32 (min (c.src x.sA l).toNat (c.src x.sB l).toNat)
         else BitVec.ofInt 32 (min (c.src x.sA l).toInt (c.src x.sB l).toInt))
     ∧ GivesReg (.imax x) x.d (fun c l =>
         if x.c.getLsbD 0 then BitVec.ofNat 32 (max (c.src x.sA l).toNat (c.src x.sB l).toNat)
         else BitVec.ofInt 32 (max (c.src x.sA l).toInt (c.src x.sB l).toInt))
     ∧ GivesReg (.iabs x) x.d (fun c l =>
         if (c.src x.sA l).toInt = -2 ^ 31 then (if x.c.getLsbD 0 then 0x7FFFFFFF else 0x80000000)
         else BitVec.ofNat 32 (c.src x.sA l).toInt.natAbs)
     ∧ GivesReg (.ineg x) x.d (fun c l =>
         if (c.src x.sA l).toInt = -2 ^ 31 then (if x.c.getLsbD 0 then 0x7FFFFFFF else 0x80000000)
         else BitVec.ofInt 32 (-(c.src x.sA l).toInt)))
   ∧ ∀ y : VI,
     GivesReg (.iaddVi y) y.d (fun c l => c.src y.sA l + y.imm.signExtend 32)
     ∧ GivesReg (.isubVi y) y.d (fun c l => c.src y.sA l - y.imm.signExtend 32)
     ∧ GivesReg (.imulVi y) y.d (fun c l => BitVec.ofInt 32 ((c.src y.sA l).toInt * y.imm.toInt))
     ∧ GivesReg (.imulhVi y) y.d (fun c l => BitVec.ofInt 32 ((c.src y.sA l).toInt * y.imm.toInt / 2 ^ 32))
     ∧ GivesReg (.iminVi y) y.d (fun c l => BitVec.ofInt 32 (min (c.src y.sA l).toInt y.imm.toInt))
     ∧ GivesReg (.imaxVi y) y.d (fun c l => BitVec.ofInt 32 (max (c.src y.sA l).toInt y.imm.toInt)))
  ∧ (∀ x : V3, GivesReg (.idp4 x) x.d fun c l =>
     let sa := x.c.getLsbD 0
     let sb := x.c.getLsbD 1
     let byte := fun (signed : Bool) (v : Word) (k : Nat) =>
       let b : Byte := v.extractLsb' (8 * k) 8
       if signed then b.toInt else (b.toNat : Int)
     let a := c.src x.sA l
     let b := c.src x.sB l
     let d : Int := if sa || sb then (c.src x.sD l).toInt else (c.src x.sD l).toNat
     let sum := d + byte sa a 0 * byte sb b 0 + byte sa a 1 * byte sb b 1 + byte sa a 2 * byte sb b 2 + byte sa a 3 * byte sb b 3
     BitVec.ofInt 32
       (if x.c.getLsbD 2 then
         (if sa || sb then max (-2 ^ 31) (min sum (2 ^ 31 - 1)) else max 0 (min sum (2 ^ 32 - 1)))
       else sum))
  ∧ ((∀ x : V3,
     GivesReg (.and x) x.d (fun c l => c.src x.sA l &&& c.src x.sB l)
     ∧ GivesReg (.or x) x.d (fun c l => c.src x.sA l ||| c.src x.sB l)
     ∧ GivesReg (.xor x) x.d (fun c l => c.src x.sA l ^^^ c.src x.sB l)
     ∧ GivesReg (.andn x) x.d (fun c l => c.src x.sA l &&& ~~~(c.src x.sB l))
     ∧ GivesReg (.not x) x.d (fun c l => ~~~(c.src x.sA l))
     ∧ GivesReg (.shl x) x.d (fun c l =>
         let n := (c.src x.sB l &&& 0xFF).toNat
         if n < 32 then c.src x.sA l <<< n else 0)
     ∧ GivesReg (.shr x) x.d (fun c l =>
         let n := (c.src x.sB l &&& 0xFF).toNat
         if n < 32 then c.src x.sA l >>> n else 0)
     ∧ GivesReg (.sar x) x.d (fun c l =>
         let n := (c.src x.sB l &&& 0xFF).toNat
         if n < 32 then BitVec.ofInt 32 ((c.src x.sA l).toInt / 2 ^ n)
         else if (c.src x.sA l).getLsbD 31 then 0xFFFFFFFF else 0)
     ∧ GivesReg (.rotl x) x.d (fun c l =>
         let n := (c.src x.sB l &&& 31).toNat
         (c.src x.sA l <<< n) ||| (c.src x.sA l >>> (32 - n))))
   ∧ ∀ y : VI,
     GivesReg (.andVi y) y.d (fun c l => c.src y.sA l &&& y.imm.signExtend 32)
     ∧ GivesReg (.orVi y) y.d (fun c l => c.src y.sA l ||| y.imm.signExtend 32)
     ∧ GivesReg (.xorVi y) y.d (fun c l => c.src y.sA l ^^^ y.imm.signExtend 32)
     ∧ GivesReg (.andnVi y) y.d (fun c l => c.src y.sA l &&& ~~~(y.imm.signExtend 32 : Word))
     ∧ GivesReg (.shlVi y) y.d (fun c l =>
         let n := (y.imm &&& 0xFF).toNat
         if n < 32 then c.src y.sA l <<< n else 0)
     ∧ GivesReg (.shrVi y) y.d (fun c l =>
         let n := (y.imm &&& 0xFF).toNat
         if n < 32 then c.src y.sA l >>> n else 0)
     ∧ GivesReg (.sarVi y) y.d (fun c l =>
         let n := (y.imm &&& 0xFF).toNat
         if n < 32 then BitVec.ofInt 32 ((c.src y.sA l).toInt / 2 ^ n)
         else if (c.src y.sA l).getLsbD 31 then 0xFFFFFFFF else 0)
     ∧ GivesReg (.rotlVi y) y.d (fun c l =>
         let n := (y.imm &&& 31).toNat
         (c.src y.sA l <<< n) ||| (c.src y.sA l >>> (32 - n))))

/-- R121, R122 and R123: BLUT, BFX, BFI, BREV, POPC, CLZ, CTZ, BITLV and BDLV write what their lane functions give, and each of those is
said bit by bit.

R124, R125 and R126: ICMP writes 1 where the condition of MOD bits 2:0 holds of a and b, unsigned under MOD bit 3; SEL, ICLAMP, MOV and
MOVI write the values of their tables. -/
def Obligations.BitFieldCompareAndSelectResults : Prop :=
  ((∀ x : V3,
     GivesReg (.blut x) x.d (fun c l => lutWord x.c (c.src x.sA l) (c.src x.sB l) (c.src x.sD l))
     ∧ GivesReg (.bfx x) x.d (fun c l => extractField (x.c.getLsbD 0) (c.src x.sA l) (c.src x.sB l))
     ∧ GivesReg (.bfi x) x.d (fun c l => insertField (c.src x.sA l) (c.src x.sB l) (c.src x.sC l))
     ∧ GivesReg (.brev x) x.d (fun c l => brevWord (c.src x.sA l))
     ∧ GivesReg (.popc x) x.d (fun c l => popcWord (c.src x.sA l))
     ∧ GivesReg (.clz x) x.d (fun c l => clzWord (c.src x.sA l))
     ∧ GivesReg (.ctz x) x.d (fun c l => ctzWord (c.src x.sA l))
     ∧ GivesReg (.bitlv x) x.d (fun c l => spreadWord x.c (c.src x.sA l))
     ∧ GivesReg (.bdlv x) x.d (fun c l => gatherWord x.c (c.src x.sA l)))
   ∧ (∀ (lut : BitVec 8) (a b d : Word) (j : Nat), j < 32 →
     (lutWord lut a b d).getLsbD j = lut.getLsbD ((a.getLsbD j).toNat * 4 + (b.getLsbD j).toNat * 2 + (d.getLsbD j).toNat))
   ∧ (∀ (a b c : Word) (j : Nat), j < 32 →
     let pos := (b.extractLsb' 0 5).toNat
     let w := min (b.extractLsb' 8 6).toNat (32 - pos)
     (extractField false a b).getLsbD j = (decide (j < w) && a.getLsbD (pos + j))
     ∧ (extractField true a b).getLsbD j = (decide (w ≠ 0) && a.getLsbD (pos + min j (w - 1)))
     ∧ (insertField a b c).getLsbD j = if pos ≤ j ∧ j < pos + w then a.getLsbD (j - pos) else c.getLsbD j)
   ∧ (∀ (a : Word) (j : Nat), j < 32 →
     (brevWord a).getLsbD (31 - j) = a.getLsbD j
     ∧ (spreadWord 0 a).getLsbD j = (decide (j % 2 = 0) && a.getLsbD (j / 2))
     ∧ (spreadWord 1 a).getLsbD j = (decide (j % 3 = 0 ∧ j < 30) && a.getLsbD (j / 3))
     ∧ (gatherWord 0 a).getLsbD j = (decide (j < 16) && a.getLsbD (2 * j))
     ∧ (gatherWord 1 a).getLsbD j = (decide (j < 10) && a.getLsbD (3 * j)))
   ∧ ∀ a : Word,
     (popcWord a).toNat = ((List.range 32).filter a.getLsbD).length
     ∧ (clzWord a).toNat = ((List.range 32).filter fun j => decide (a < BitVec.ofNat 32 (2 ^ j))).length
     ∧ (ctzWord a).toNat = ((List.range 32).filter fun j => decide (a &&& BitVec.ofNat 32 (2 ^ (j + 1) - 1) = 0)).length)
  ∧ ((∀ x : V3,
     GivesReg (.icmp x) x.d (fun c l => if condition (x.c.toNat % 8) (x.c.getLsbD 3) (c.src x.sA l) (c.src x.sB l) then 1 else 0)
     ∧ GivesReg (.sel x) x.d (fun c l => if c.src x.sC l ≠ 0 then c.src x.sA l else c.src x.sB l)
     ∧ GivesReg (.iclamp x) x.d (fun c l =>
         BitVec.ofInt 32 (min (max (c.src x.sA l).toInt (c.src x.sB l).toInt) (c.src x.sC l).toInt))
     ∧ GivesReg (.mov x) x.d (fun c l => c.src x.sA l))
   ∧ ∀ k : K32, GivesReg (.movi k) k.d fun c l =>
       match k.sub.toNat with
       | 0 => k.imm
       | 1 => c.src k.sD l + k.imm
       | 2 => c.src k.sD l &&& k.imm
       | 3 => c.src k.sD l ||| k.imm
       | _ => c.src k.sD l ^^^ k.imm)

/-! ### A class: affine words and lane movement (05 R127 to R134) -/

/-- R128, R129: the affine words write 64-bit values to the pair D in each active lane, modulo 2^64; ACMP writes 1 or 0 to the single D.

R134, R12, R116: in the execute slice MWRITE sets the strand's mask to the named lanes that are neither another strand's nor exited, and a
strand left without lanes ends; in the access slice a write of 0xFF changes nothing and any other value raises DIVERGENT_ACCESS. -/
def Obligations.AffineAndMaskWordResults : Prop :=
  ((∀ x : V3,
     Gives (.amov x) (fun u c => affineRow c u x.d.toNat fun l =>
       c.u64 x.a.toNat + BitVec.ofNat 64 l * (c.u x.b.toNat).signExtend 64)
     ∧ Gives (.aadd x) (fun u c => affineRow c u x.d.toNat fun l => c.perm64 x.a x.pa l + (c.src x.sB l).signExtend 64)
     ∧ Gives (.asub x) (fun u c => affineRow c u x.d.toNat fun l => c.perm64 x.a x.pa l - (c.src x.sB l).signExtend 64)
     ∧ GivesReg (.acmp x) x.d (fun c l =>
         if condition (x.c.toNat % 8) (x.c.getLsbD 3) (c.perm64 x.a x.pa l) (c.perm64 x.b x.pb l) then 1 else 0))
   ∧ (∀ y : VI,
     Gives (.aldi y) (fun u c => affineRow c u y.d.toNat fun l => y.imm.signExtend 64 + BitVec.ofNat 64 l * y.a.signExtend 64)
     ∧ Gives (.aaddVi y) (fun u c => affineRow c u y.d.toNat fun l => c.perm64 y.a y.pa l + y.imm.signExtend 64)
     ∧ Gives (.asubVi y) (fun u c => affineRow c u y.d.toNat fun l => c.perm64 y.a y.pa l - y.imm.signExtend 64)
     ∧ Gives (.amuli y) (fun u c => affineRow c u y.d.toNat fun l => c.perm64 y.a y.pa l * y.imm.signExtend 64)
     ∧ Gives (.ashli y) (fun u c => affineRow c u y.d.toNat fun l => c.perm64 y.a y.pa l <<< y.imm.toNat))
   ∧ ∀ (c : Ctx) (u : State) (r : Nat) (f : Nat → DWord) (v : Wave), u.waves[c.w]? = some v → r + 1 < 256 → c.acc = false →
     ∀ l, l < 8 → ∃ t : Wave, (affineRow c u r f).waves[c.w]? = some t ∧
       Row.lane (t.reg r) l = (if c.act.getLsbD l then (f l).extractLsb' 0 32 else Row.lane (v.reg r) l) ∧
       Row.lane (t.reg (r + 1)) l = (if c.act.getLsbD l then (f l).extractLsb' 32 32 else Row.lane (v.reg (r + 1)) l))
  ∧ (∀ (x : V3) (s : State) (c : Ctx), runs s c (.mwrite x) = true →
     let m : Mask := (c.perm x.a x.pa c.lo).setWidth 8
     let u := wakeBanks s c (.mwrite x)
     (c.acc = false → exec (.mwrite x) s = .next (strandMoved c (writeMask u c m)))
     ∧ (c.acc = true → m = 0xFF → exec (.mwrite x) s = .next (wordDone c (.mwrite x) u))
     ∧ (c.acc = true → m ≠ 0xFF → exec (.mwrite x) s
         = finishDone s u c (.mwrite x) { Stops.none with faults := (lanesOf c.ex).map fun l => laneFault l .divergentAccess }))

/-- R130, R131, R133: SHFL and SHFLI read the lane their tables give, PA first; VOTE combines the active lanes; MREAD reads a mask.

R64: what each permutation field reads: the lane itself, the next lane round, the neighbours by 1, 2 and 4, the mirror, lane 0, and the
lowest active lane. -/
def Obligations.LaneMovementResults : Prop :=
  ((∀ x : V3,
     GivesReg (.shfl x) x.d (fun c l => c.perm x.a x.pa ((Row.lane (c.reg x.b.toNat) l).toNat % 8))
     ∧ GivesReg (.vote x) x.d (fun c _ =>
         match x.c.toNat with
         | 0 => if (lanesOf c.act).any fun l => c.src x.sA l != 0 then 1 else 0
         | 1 => if (lanesOf c.act).all fun l => c.src x.sA l != 0 then 1 else 0
         | _ => (maskOf fun l => c.act.getLsbD l && c.src x.sA l != 0).setWidth 32)
     ∧ GivesReg (.mread x) x.d (fun c _ =>
         (if c.acc then 0xFF else if x.c = 1 then ~~~c.v.exited else c.ex : Mask).setWidth 32))
   ∧ ∀ y : VI, GivesReg (.shfli y) y.d (fun c l =>
       let n := y.imm.toNat % 8
       c.perm y.a y.pa
         (match y.imm.toNat / 8 % 4 with
           | 0 => n
           | 1 => if n ≤ l then l - n else l
           | 2 => if l + n ≤ 7 then l + n else l
           | _ => l ^^^ n)))
  ∧ (∀ (act : Mask) (l : Nat), l < 8 →
     permLane 0 act l = l ∧ permLane 1 act l = (l + 1) % 8 ∧ permLane 2 act l = l ^^^ 1 ∧ permLane 3 act l = l ^^^ 2
     ∧ permLane 4 act l = l ^^^ 4 ∧ permLane 5 act l = 7 - l ∧ permLane 6 act l = 0
     ∧ ∀ k, k < 8 → act.getLsbD k → (∀ j, j < k → act.getLsbD j = false) → permLane 7 act l = k)

/-- R132, R109: LRED and LSCAN combine the lanes in the butterfly order, an inactive lane giving the identity, and set the flags of the
float operations.

R132: for the six integer operations the butterfly gives every lane the same total, that of all eight lanes in turn, and gives lane l of
a scan the combination of lanes 0 to l, or 0 to l - 1 when it is exclusive. -/
def Obligations.ReductionAndScanResults : Prop :=
  (∀ x : V3,
     Gives (.lred x) (fun u c =>
       let r := reduce (redOp (x.c.toNat % 16) (x.c.getLsbD 4) c.v.fcr) false
         (redSource c x (redIdent (x.c.toNat % 16) (x.c.getLsbD 4))) (redSource c x (redIdent (x.c.toNat % 16) (x.c.getLsbD 4)))
       raiseFcr (c.put u x.d.toNat fun l => r.tot.getD l 0) c.w r.fl)
     ∧ Gives (.lscan x) (fun u c =>
       let ident := redIdent (x.c.toNat % 16) (x.c.getLsbD 4)
       let r := reduce (redOp (x.c.toNat % 16) (x.c.getLsbD 4) c.v.fcr) true (redSource c x ident)
         (if x.c.getLsbD 5 then lanes.map fun _ => ident else redSource c x ident)
       raiseFcr (c.put u x.d.toNat fun l => r.scan.getD l 0) c.w r.fl))
  ∧ (∀ (op : Nat) (unsigned : Bool) (xs : List Word), op < 6 → xs.length = 8 →
     let f := fun a b => (redOp op unsigned 0 a b).1
     let i := redIdent op unsigned
     (∀ l, l < 8 → (reduce (redOp op unsigned 0) false xs xs).tot.getD l 0 = xs.foldl f i)
     ∧ (∀ l, l < 8 → (reduce (redOp op unsigned 0) true xs xs).scan.getD l 0 = (xs.take (l + 1)).foldl f i)
     ∧ (∀ l, l < 8 → (reduce (redOp op unsigned 0) true xs (lanes.map fun _ => i)).scan.getD l 0 = (xs.take l).foldl f i))

/-! ### F class: arithmetic and conversions (06 R136 to R152) -/

/-- R140, R141, R142, R143, R144, R145: in each active lane the float words write the result of their operation under RND or `%fcr`.RM, and
the sticky bits of every active lane are set in `%fcr` (R91). For FRCP, FRSQ, FEXP2, FLOG2, FSIN, FCOS and FTANH the operation is the
model's, its value left free within the spec's bounds (log 7).

R146, R147, R148: the packed words work on each half of a register apart; CVTI, CVTF and CVTFF convert, and a 64-bit result of CVTF fills D
and D + 1. -/
def Obligations.FloatWordResults : Prop :=
  (∀ x : V3,
     let two := fun (i : Instr) (f : Rm → BitVec 9 → Nat → Nat → Nat × BitVec 9) =>
       Gives i fun u c => floatRow c u x.d.toNat fun l => f (c.rm x.pc) c.v.fcr (c.src x.sA l).toNat (c.src x.sB l).toNat
     let one := fun (i : Instr) (f : Rm → BitVec 9 → Nat → Nat × BitVec 9) =>
       Gives i fun u c => floatRow c u x.d.toNat fun l => f (c.rm x.pc) c.v.fcr (c.src x.sA l).toNat
     two (.fadd x) fp32.add ∧ two (.fsub x) fp32.sub ∧ two (.fmul x) fp32.mul
     ∧ Gives (.ffma x) (fun u c => floatRow c u x.d.toNat fun l =>
         fp32.fma (Rm.ofFcr c.v.fcr) c.v.fcr (c.src x.sA l).toNat (c.src x.sB l).toNat (c.src x.sC l).toNat)
     ∧ two (.fmin x) (fun _ => fp32.minMax false) ∧ two (.fmax x) (fun _ => fp32.minMax true)
     ∧ two (.fcmp x) (fun _ fcr a b => ((fcmpOp (x.c.toNat % 8) fcr a b).1.toNat, (fcmpOp (x.c.toNat % 8) fcr a b).2))
     ∧ one (.fclass x) (fun _ _ a => (fclassOp a, 0)) ∧ one (.frnd x) frndOp
     ∧ one (.frcp x) (fun _ => frcpOp) ∧ one (.frsq x) (fun _ => frsqOp) ∧ one (.fsqrt x) fsqrtOp
     ∧ one (.fexp2 x) (fun _ => fexp2Op) ∧ one (.flog2 x) (fun _ => flog2Op) ∧ one (.fsin x) (fun _ => fsinOp)
     ∧ one (.fcos x) (fun _ => fcosOp) ∧ one (.ftanh x) (fun _ => ftanhOp)
     ∧ two (.fscl x) (fun rm fcr a b => fsclOp rm fcr a (signedN 32 b))
     ∧ ∀ y : VI, Gives (.fsclVi y) fun u c => floatRow c u y.d.toNat fun l =>
         fsclOp (Rm.ofFcr c.v.fcr) c.v.fcr (c.src y.sA l).toNat y.imm.toInt)
  ∧ (∀ x : V3,
     Gives (.hpadd x) (fun u c => floatRow c u x.d.toNat fun l => halves fun e =>
       (packedFmt x).add (c.rm x.pc) c.v.fcr (halfOf (c.src x.sA l).toNat e) (halfOf (c.src x.sB l).toNat e))
     ∧ Gives (.hpmul x) (fun u c => floatRow c u x.d.toNat fun l => halves fun e =>
       (packedFmt x).mul (c.rm x.pc) c.v.fcr (halfOf (c.src x.sA l).toNat e) (halfOf (c.src x.sB l).toNat e))
     ∧ Gives (.hpfma x) (fun u c => floatRow c u x.d.toNat fun l => halves fun e =>
       (packedFmt x).fma (c.rm x.pc) c.v.fcr (halfOf (c.src x.sA l).toNat e) (halfOf (c.src x.sB l).toNat e)
         (halfOf (c.src x.sD l).toNat e))
     ∧ Gives (.cvti x) (fun u c => convRow c u x fun l =>
       convert c x (convFmt (x.c.toNat / 4)) l [] (.fin (decide (cviSource c x l < 0)) (cviSource c x l).natAbs 0))
     ∧ Gives (.cvtf x) (fun u c =>
       let r := fun l => cvtfOp (c.rm x.pc) c.v.fcr (x.c.toNat % 4) (x.c.toNat / 4) (c.src x.sA l).toNat
       let t := floatRow c u x.d.toNat fun l => ((Word.lo (r l).1).toNat, (r l).2)
       if x.c.toNat / 4 < 2 then t else c.put t (x.d.toNat + 1) fun l => Word.hi (r l).1)
     ∧ Gives (.cvtff x) (fun u c => convRow c u x fun l =>
       let v := (convFmt (x.c.toNat % 4)).readZ (fcrFtz c.v.fcr) (c.src x.sA l).toNat
       convert c x (convFmt (x.c.toNat / 4)) l [v] v))

/-- R149 to R152, R102: with a valid format register and no trapping scale byte, PKN, UPKN and NDOT write their results and flags; otherwise
every active lane faults with DESC, or with SCALE_SIGN under SCTRAP, and nothing is written. -/
def Obligations.NarrowWordResults : Prop :=
  ∀ x : V3,
    GivesIf (.pkn x) (fun _ c => narrowStop c x [scaleByte c x (x.b.toNat + 1)] = none) (fun u c =>
      let n := Nfmt.of (narrowFmt c x).toNat
      let sb := scaleByte c x (x.b.toNat + 1)
      convRow c u x fun l =>
        pknLane c x n (scaleVal n.scale sb) l 4 0 0 (scaleFlags n [sb]) (Row.lane (c.reg (x.d.toNat + 1)) l))
    ∧ GivesIf (.upkn x) (fun _ c => narrowStop c x [scaleByte c x (x.b.toNat + 1)] = none) (fun u c =>
      let n := Nfmt.of (narrowFmt c x).toNat
      let sb := scaleByte c x (x.b.toNat + 1)
      let sc := scaleVal n.scale sb
      let r := fun k l =>
        let v := n.read (slotOf (narrowWidth x) (c.src x.sA l).toNat k)
        fp32.result (c.rm x.pc) c.v.fcr [v, sc] (v.mul sc)
      raiseFcr ([0, 1, 2, 3].foldl (fun t k => floatRow c t (x.d.toNat + k) (r k)) u) c.w (scaleFlags n [sb]))
    ∧ GivesIf (.ndot x) (fun _ c => narrowStop c x [scaleByte c x (x.a.toNat + 2), scaleByte c x (x.a.toNat + 3)] = none) (fun u c =>
      let n := Nfmt.of (narrowFmt c x).toNat
      let a := scaleByte c x (x.a.toNat + 2)
      let b := scaleByte c x (x.a.toNat + 3)
      raiseFcr (floatRow c u x.d.toNat fun l => ndotLane c x n (scaleVal n.scale a) (scaleVal n.scale b) l) c.w (scaleFlags n [a, b]))
    ∧ ∀ cause,
      RaisesIf (.pkn x) (fun _ c => narrowStop c x [scaleByte c x (x.b.toNat + 1)] = some cause) (fun c => c.faultAll cause)
      ∧ RaisesIf (.upkn x) (fun _ c => narrowStop c x [scaleByte c x (x.b.toNat + 1)] = some cause) (fun c => c.faultAll cause)
      ∧ RaisesIf (.ndot x) (fun _ c => narrowStop c x [scaleByte c x (x.a.toNat + 2), scaleByte c x (x.a.toNat + 3)] = some cause)
          (fun c => c.faultAll cause)

/-- R91: the sticky bits of `%fcr` after a float word are those before it and the bits of every active lane; the word clears none. -/
def Obligations.StickyBitsAccumulate : Prop :=
  ∀ (c : Ctx) (u : State) (d : Nat) (f : Nat → Nat × BitVec 9) (v : Wave), u.waves[c.w]? = some v →
    ∃ t : Wave, (floatRow c u d f).waves[c.w]? = some t ∧
      ∀ k, t.fcr.getLsbD k = (v.fcr.getLsbD k || (lanesOf c.act).any fun l => (f l).2.getLsbD k)

/-- R93: what a NaN source makes of FADD, FSUB, FMUL and FFMA: the first NaN in the order A, B, C, quieted, or the canonical NaN under DNAN,
and for FADD, FSUB and FMUL the flag NV, and no other, exactly when a source signals. -/
def Obligations.NanSourcesGiveTheirResult : Prop :=
  ∀ (rm : Rm) (fcr : BitVec 9) (a b z : Word),
    let isNan := fun (w : Word) => decide (0x7F800000 < w.toNat % 2 ^ 31)
    let signals := fun (w : Word) => isNan w && !w.getLsbD 22
    let nan := fun (w : Word) => if fcrDnan fcr then (0x7FC00000 : Word) else w ||| 0x00400000
    let nv := fun (p : Bool) => if p then fNV else 0
    (isNan a || isNan b →
      let first := if isNan a then a else b
      fp32.add rm fcr a.toNat b.toNat = ((nan first).toNat, nv (signals a || signals b))
      ∧ fp32.sub rm fcr a.toNat b.toNat = ((nan first).toNat, nv (signals a || signals b))
      ∧ fp32.mul rm fcr a.toNat b.toNat = ((nan first).toNat, nv (signals a || signals b)))
    ∧ (isNan a || isNan b || isNan z →
      (fp32.fma rm fcr a.toNat b.toNat z.toNat).1 = (nan (if isNan a then a else if isNan b then b else z)).toNat)

/-- R88, R89: rounding a magnitude m times 2 to the e to a format, where it does not overflow: the result brackets it. RTZ gives the nearest
value not above it; RNE gives a value nearest to it, and the even one of two that are equally near. -/
def Obligations.RoundingIsCorrect : Prop :=
  ∀ f ∈ [fp32, fp16, bf16], ∀ (m : Nat) (e : Int), 0 < m →
    let value := fun (code : Nat) => match f.read code with | .fin _ k g => (k : ℚ) * (2 : ℚ) ^ g | _ => 0
    let exact := (m : ℚ) * (2 : ℚ) ^ e
    let down := (roundMag .rtz false m e f.mb f.emin).1
    let near := (roundMag .rne false m e f.mb f.emin).1
    (down < f.infCode → value down ≤ exact ∧ ∀ k, k < f.infCode → value k ≤ exact → value k ≤ value down)
    ∧ (near < f.infCode → ∀ k, k < f.infCode →
        |exact - value near| ≤ |exact - value k| ∧ (k ≠ near → |exact - value near| = |exact - value k| → near % 2 = 0))



/-! ### M class: memory words (07 R155 to R182) -/

/-- R155, R156, R160, R161, R162, R165, R166, R169: where no lane stops, the loads put the loaded words of each lane in flight to registers D up,
on their path's counter; the counter has room below 63 (R32). Loads of memory go through the caches as RC says (R356, R358).

R155, R156, R160, R161, R163, R166, R169, R184: where no lane stops, the stores have written each lane's bytes, the lanes in ascending order, and
wait to be performed on their path's counter; poisoned store data goes on with it (R421). The scratch words hold behind a marker (R168). -/
def Obligations.LoadAndStoreWordsComplete : Prop :=
  (∀ x : MWord,
     GivesLanes (.ld x) (fun u c => !c.pathFull u .g && !c.windowBlocked u (accessA c x) (sizeBytes x.size) false)
       (fun c u l => loadLane u c l (accessA c x l) (sizeBytes x.size) .global (if x.rc = 7 then 28 else clusterOf c.v.core))
       (fun u c t res => c.reach u (loadFlight t c (some .g) x.size x.d false (loadedWords x.size res)) x.rc.toNat false
         (res.map fun p => accessA c x p.1))
     ∧ GivesLanes (.ldk x)
       (fun u c => !c.pathFull u .g && !c.windowBlocked u
         (fun l => (c.v.kptr + BitVec.ofNat 64 (sAddr c x l 0 x.f (sizeBytes x.size))).toNat) (sizeBytes x.size) false)
       (fun c u l => loadLane u c l (c.v.kptr + BitVec.ofNat 64 (sAddr c x l 0 x.f (sizeBytes x.size))).toNat (sizeBytes x.size) .param
         (clusterOf c.v.core))
       (fun u c t res => c.reach u (loadFlight t c (some .g) x.size x.d false (loadedWords x.size res)) 0 false
         (res.map fun p => (c.v.kptr + BitVec.ofNat 64 (sAddr c x p.1 0 x.f (sizeBytes x.size))).toNat))
     ∧ GivesLanes (.lds x) (fun u c => !scratchBlocked u c (fun l => sAddr c x l x.pa x.f (sizeBytes x.size)) (sizeBytes x.size) false)
       (fun c u l =>
         let off := sAddr c x l x.pa x.f (sizeBytes x.size)
         match scratchCheck u c l off (sizeBytes x.size) false with
         | .error f => .stop f
         | .ok true => .wait
         | .ok false =>
           match scratchPoison u c.v.team off (sizeBytes x.size) with
           | some d => .stop (laneFault l .uncorrectable (BitVec.ofNat 64 off) false .scratch d)
           | none => .go u (scratchRead u c.v.team off (sizeBytes x.size)))
       (fun _ c t res => loadFlight t c none x.size x.d false (loadedWords x.size res))
     ∧ ∀ (s : State) (c : Ctx), runs s c (.ldv x) = true →
       let u := wakeBanks s c (.ldv x)
       let n := sizeBytes x.size
       let off := fun l => sAddr c x l x.pa x.off6 n
       c.pathFull u .v = false →
       (∀ l ∈ lanesOf c.act, off l % n = 0 ∧ vaultFault u c.v.hank (vaultCore c x) (off l) n = none
         ∧ vaultPoison u (vaultCore c x) (off l) n = none) →
       exec (.ldv x) s = .next (wordDone c (.ldv x) (addFlight u
         { c.flight .access (some .v) (dataRegs x.size x.d)
             (regResults x.d.toNat ((lanesOf c.act).map fun l => (l, loadWords x.size (vaultRead u c.v.hank (vaultCore c x) (off l) n)))) true false with
           route := [(0, vaultCore c x)] })))
  ∧ (∀ x : MWord,
     GivesLanes (.st x)
       (fun u c => !c.pathFull u .w && !c.windowBlocked u (accessA c x) (sizeBytes x.size) true && sigRoom u c.w c.v (laneCount c.act))
       (fun c u l => carryStore u c (.st x) l (granulesAt u c (accessA c x l) (sizeBytes x.size))
         (storeLane u c l (accessA c x l) (regBytes c x.d.toNat (sizeBytes x.size) l)))
       (fun u c t res => c.reach u (storeFlight (addSigs t c.w c.v (res.map Prod.snd)) c (some .w)) x.rc.toNat true
         (res.map fun p => accessA c x p.1))
     ∧ GivesLanes (.sts x) (fun u c => !scratchBlocked u c (fun l => sAddr c x l x.pa x.f (sizeBytes x.size)) (sizeBytes x.size) true)
       (fun c u l =>
         let off := sAddr c x l x.pa x.f (sizeBytes x.size)
         match scratchCheck u c l off (sizeBytes x.size) true with
         | .error f => .stop f
         | .ok true => .wait
         | .ok false =>
           carryStore u c (.sts x) l ((touchedGranules off (sizeBytes x.size)).map (.scratch c.v.team))
             (.go (scratchWrite u c.v.team off (regBytes c x.d.toNat (sizeBytes x.size) l)) ()))
       (fun _ c t _ => storeFlight t c none)
     ∧ GivesLanes (.stv x) (fun u c => !c.pathFull u .v && c.v.ply == 0)
       (fun c u l =>
         let n := sizeBytes x.size
         let off := sAddr c x l x.pa x.off6 n
         if off % n ≠ 0 then .stop (laneFault l .misalign (BitVec.ofNat 64 off) true .vault)
         else match vaultFault u c.v.hank (vaultCore c x) off n with
           | some d => .stop (laneFault l .protection (BitVec.ofNat 64 off) true .vault d)
           | none =>
             carryStore u c (.stv x) l ((touchedGranules off n).map (.vault (vaultCore c x)))
               (.go (vaultClear (vaultWrite u c.v.hank (vaultCore c x) off (regBytes c x.d.toNat n l)) (vaultCore c x) off n) ()))
       (fun _ c t _ => storeFlight t c (some .v)))

/-- R171 to R175, R176: where no lane stops, ATOM, ACAS and ATOMS replace each lane's location by the value of their table and return the old
one; CADD adds into the partial line. A device-scope ATOM or ACAS of a non-root ply appends one entry to the ply's log and returns 0. -/
def Obligations.AtomicWordsComplete : Prop :=
  ∀ x : MWord,
    let room := fun (u : State) (c : Ctx) => !c.pathFull u .w && sigRoom u c.w c.v (laneCount c.act)
    let now := fun (addr : Ctx → Nat → Nat) (u : State) (c : Ctx) =>
      room u c && !(x.scope == 5 && c.v.ply != 0) && !c.windowBlocked u (addr c) (sizeBytes x.size) true
    let n := sizeBytes x.size
    let b := fun (c : Ctx) (l : Nat) => regBytes c x.b.toNat n l
    let new := fun (c : Ctx) (l : Nat) => regBytes c (x.b.toNat + n / 4) n l
    let result := fun (t : State) (c : Ctx) (res : List (Nat × Nat)) =>
      loadFlight t c (some .w) x.size x.d true (res.map fun p => (p.1, loadWords x.size (natLe n p.2)))
    let free := fun (u : State) (c : Ctx) => !scratchBlocked u c (fun l => sAddr c x l 0 x.off6 n) n true
    GivesLanes (.atom x) (now fun c => atomA c x)
      (fun c u l => rmwLane u c l (atomA c x l) n fun old => some (atomOp x.pa.toNat x.rc.toNat n old (leNat (b c l))))
      (fun u c t res => c.reach u (result (addSigs t c.w c.v (res.map fun p => sigOf (BitVec.ofNat 64 (atomA c x p.1)) (b c p.1))) c res)
        7 true (res.map fun p => atomA c x p.1))
    ∧ GivesLanes (.acas x) (now fun c => casA c x)
      (fun c u l => rmwLane u c l (casA c x l) n fun old => if old = leNat (b c l) then some (leNat (new c l)) else none)
      (fun u c t res =>
        c.reach u (result (addSigs t c.w c.v (res.map fun p => sigOf (BitVec.ofNat 64 (casA c x p.1)) (b c p.1 ++ new c p.1))) c res)
          7 true (res.map fun p => casA c x p.1))
    ∧ GivesLanes (.atoms x) free
      (fun c u l =>
        let off := sAddr c x l 0 x.off6 n
        match scratchCheck u c l off n true with
        | .error f => .stop f
        | .ok true => .wait
        | .ok false =>
          match scratchPoison u c.v.team off n with
          | some d => .stop (laneFault l .uncorrectable (BitVec.ofNat 64 off) true .scratch d)
          | none =>
            let old := scratchRead u c.v.team off n
            .go (scratchWrite u c.v.team off (natLe n (atomOp x.pa.toNat x.rc.toNat n (leNat old) (leNat (b c l))))) old)
      (fun _ c t res => loadFlight t c none x.size x.d true (loadedWords x.size res))
    ∧ GivesLanes (.cadd x) room (fun c u l => caddLane u c x l)
      (fun _ c t res => c.meets (storeFlight (addSigs t c.w c.v (res.map Prod.snd)) c (some .w)) (res.map fun p => casA c x p.1))
    ∧ (∀ s c t res, runs s c (.atom x) = true → x.scope = 5 → c.v.ply ≠ 0 →
      room (wakeBanks s c (.atom x)) c = true → logRoom t c.v.hank c.v.ply = true →
      lanesDone (wakeBanks s c (.atom x)) c (fun u l => deferLane u c l (atomA c x l) n) = some (t, res) →
      exec (.atom x) s = .next (wordDone c (.atom x) (loadFlight
        (addSigs
          (appendLog t c (.atom x.pa.toNat x.rc.toNat n 5
            ((lanesOf c.act).map fun l => (l, BitVec.ofNat 64 (atomA c x l), BitVec.ofNat 64 (leNat (b c l))))))
          c.w c.v ((lanesOf c.act).map fun l => sigOf (BitVec.ofNat 64 (atomA c x l)) (b c l)))
        c (some .w) x.size x.d false ((lanesOf c.act).map fun l => (l, loadWords x.size [])))))
    ∧ ∀ s c t res, runs s c (.acas x) = true → x.scope = 5 → c.v.ply ≠ 0 →
      room (wakeBanks s c (.acas x)) c = true → logRoom t c.v.hank c.v.ply = true →
      lanesDone (wakeBanks s c (.acas x)) c (fun u l => deferLane u c l (casA c x l) n) = some (t, res) →
      exec (.acas x) s = .next (wordDone c (.acas x) (loadFlight
        (addSigs
          (appendLog t c (.acas n 5
            ((lanesOf c.act).map fun l =>
              (l, BitVec.ofNat 64 (casA c x l), BitVec.ofNat 64 (leNat (b c l)), BitVec.ofNat 64 (leNat (new c l))))))
          c.w c.v ((lanesOf c.act).map fun l => sigOf (BitVec.ofNat 64 (casA c x l)) (b c l ++ new c l)))
        c (some .w) x.size x.d false ((lanesOf c.act).map fun l => (l, loadWords x.size []))))

/-- R178 to R182: the fences only go on (every access is performed in order here, log 1); PREF fills the lines of the lanes whose address is
good; MON arms the wave's monitor on the line of its lowest lane, and ends a wait whose monitor has triggered; MWAIT goes on when the
monitor is triggered, which disarms it and lets every strand of the wave that waits go on with it, or not armed, and else waits; CINV and
CWB act on each lane's line. -/
def Obligations.FenceMonitorCacheWordsComplete : Prop :=
  ∀ x : MWord,
    Gives (.fenceMem x) (fun u _ => u) ∧ Gives (.fenceVault x) (fun u _ => u)
    ∧ Gives (.pref x) (fun u c => c.touch u x.rc.toNat false false (c.reached u false
        (((lanesOf c.act).filter fun l => u.poison.isEmpty || (lanePoison u c (.pref x) l).isNone).map (lineA c x))))
    ∧ (∀ lf, GivesIf (.mon x) (fun u c => Mapped u c.v.hank (lineA c x c.lo) false lf)
        (fun u c =>
          let t := markUsed u c.v.hank lf false
          modWave (if c.v.monitorFired then endMwait t c.w else t) c.w fun v =>
            { v with monitor := some { line := lineOf lf.pa, triggered := false } }))
    ∧ GivesIf (.mwait x) (fun _ c => c.v.monitor = none) (fun u _ => u)
    ∧ (∀ m, GivesIf (.mwait x) (fun _ c => c.v.monitor = some m ∧ m.triggered = true) (fun u c => endMwait u c.w))
    ∧ (∀ m, Moves (.mwait x) (fun _ c => c.v.monitor = some m ∧ m.triggered = false)
        (fun u c => modThread u c.w c.n fun t => { t with park := .mwait }))
    ∧ GivesLanes (.cinv x) (fun u c => !c.pathFull u .w) (fun c u l => maintLane u c l (lineA c x l) invalidateLine)
      (fun _ c t res => c.meets (storeFlight t c (some .w)) (res.map Prod.snd))
    ∧ GivesLanes (.cwb x) (fun u c => !c.pathFull u .w) (fun c u l => maintLane u c l (lineA c x l) writeBack)
      (fun _ c t res => c.meets (storeFlight t c (some .w)) (res.map Prod.snd))

/-- R161, R162, R164, R386, R390: one lane's load. A misaligned address raises MISALIGN before translation; an unmapped one raises PAGE_FAULT;
another hank's page raises PROTECTION with DETAIL 0; a host-owned page is waited for where the driver acknowledged migration; a mapped page gives
the bytes of the lane's ply and marks its entry accessed.

R161, R163, R251: one lane's store. A misaligned address raises MISALIGN; a page without W raises PROTECTION with DETAIL 1; a store that
would write a non-root ply to a page without VER raises VERSION_ESCAPE; a mapped page with its gauge off takes the bytes, in the version of the
ply whose lifeline covers the address, or in root memory, where a line that may stay dirty lies in a cache (R354, R356), and its entry is marked
accessed and dirty (R390). -/
def Obligations.LaneAccessRules : Prop :=
  (∀ (s : State) (c : Ctx) (l va n cl : Nat) (sp : Space), 0 < n →
     (va % n ≠ 0 → loadLane s c l va n sp cl = .stop (laneFault l .misalign (BitVec.ofNat 64 va) false sp))
     ∧ (va % n = 0 → windowAt va = none →
       (walk s c.v.hank va = .fault → loadLane s c l va n sp cl = .stop (laneFault l .pageFault (BitVec.ofNat 64 va) false sp))
       ∧ (∀ lf, walk s c.v.hank va = .leaf lf →
         (pteHank lf.pte ≠ c.v.hank → loadLane s c l va n sp cl = .stop (laneFault l .protection (BitVec.ofNat 64 va) false sp 0))
         ∧ (pteHank lf.pte = c.v.hank → pteOwn lf.pte = false → loadLane s c l va n sp cl =
             if asksHost s c.v.hank va then .migrate va false sp
             else .stop (laneFault l .migrated (BitVec.ofNat 64 va) false sp 0)))
       ∧ (∀ lf, Mapped s c.v.hank va false lf → s.partials = [] → s.poison = [] → s.corrupt = [] → (∀ t ∈ s.stale, t.dirty = true) →
         loadLane s c l va n sp cl =
           .go (markUsed s c.v.hank lf false) (readBytes s c.v.hank (if pteVer lf.pte then c.v.ply else 0) lf.pa n))))
  ∧ (∀ (s : State) (c : Ctx) (l va : Nat) (bs : Bytes) (lf : Leaf), 0 < bs.length →
     let ad := BitVec.ofNat 64 va
     let q := storePly (hankOf s c.v.hank) c.v.ply va
     (va % bs.length ≠ 0 → storeLane s c l va bs = .stop (laneFault l .misalign ad true .global))
     ∧ (va % bs.length = 0 → windowAt va = none → walkFor s c.v.hank va true = .leaf lf → pteHank lf.pte = c.v.hank → pteOwn lf.pte = true →
       pteW lf.pte = false → storeLane s c l va bs = .stop (laneFault l .protection ad true .global 1))
     ∧ (va % bs.length = 0 → Mapped s c.v.hank va true lf → q ≠ 0 → pteVer lf.pte = false →
       storeLane s c l va bs = .stop (laneFault l .versionEscape ad true .global))
     ∧ (va % bs.length = 0 → Mapped s c.v.hank va true lf → (q ≠ 0 → pteVer lf.pte = true) → wpHolds s c.v.hank lf = false →
       slotFor s c.v.hank q (lineOf lf.pa) = true → s.partials = [] → (gaugeOf s c.v.hank (pteGidx lf.pte)).mode = 0 →
       let t := plyWrite (markUsed s c.v.hank lf true) (some c.w) (pteMtype lf.pte != 2) c.v.hank q lf.pa bs
       storeLane s c l va bs =
         .go (if q = 0 ∧ pteMtype lf.pte ≠ 2 then cacheRoot t c.v.hank (lineOf lf.pa) else t) (sigOf ad bs)))

/-- R171: the new value of ATOM and ATOMS for the integer variants, on operands of the form's width. -/
def Obligations.AtomicOperationTable : Prop :=
  ∀ n ∈ [4, 8], ∀ (old b : Nat), old < 2 ^ (8 * n) → b < 2 ^ (8 * n) →
    let w := 8 * n
    let sg := fun (v : Nat) => (BitVec.ofNat w v).toInt
    atomOp 0 0 n old b = (old + b) % 2 ^ w ∧ atomOp 0 1 n old b = (old + b) % 2 ^ w
    ∧ sg (atomOp 1 0 n old b) = min (sg old) (sg b) ∧ atomOp 1 1 n old b = min old b
    ∧ sg (atomOp 2 0 n old b) = max (sg old) (sg b) ∧ atomOp 2 1 n old b = max old b
    ∧ atomOp 3 0 n old b = old &&& b ∧ atomOp 4 0 n old b = old ||| b ∧ atomOp 5 0 n old b = old ^^^ b ∧ atomOp 6 0 n old b = b
    ∧ atomOp 7 0 n old b = (if b ≤ old then 0 else old + 1)
    ∧ atomOp 7 1 n old b = (if old = 0 ∨ b < old then b else old - 1)



/-! ### X class: the matrix engine (09 R223 to R234) -/

/-- R223, R225, R226: NTAKE goes on at once when its wave holds the needle, takes a free needle that no wave waits for, and else waits in
the FIFO. NPASS of the holder with the ME idle zeroes the accumulators and flags and passes the needle to the named waiter, else to the
first, else frees it.

R223: every X word but NTAKE raises NEEDLE in a wave that does not hold its bay's needle, and does nothing. MEPI checks its AREG first
(R224), and waits while the high half of a global address is pending (R67).

R230, R231: AZERO and AFILL write rows of the tile for the active lanes; ADRAIN puts eight columns of the tile in flight to eight registers,
and MSTAT the flags, which CLR then clears. Each takes a place in the ME's queue of two (R226). -/
def Obligations.NeedleAndAccumulatorWordsComplete : Prop :=
  (∀ x : XWord,
     GivesIf (.ntake x) (fun u c => (bayOf u c.v.core c.v.bay).holder = some c.w) (fun u _ => u)
     ∧ GivesIf (.ntake x) (fun u c => (bayOf u c.v.core c.v.bay).holder = none ∧ (bayOf u c.v.core c.v.bay).fifo = [])
       (fun u c => modBay u c.v.core c.v.bay fun b => { b with holder := some c.w })
     ∧ Moves (.ntake x)
       (fun u c => (bayOf u c.v.core c.v.bay).holder ≠ some c.w
         ∧ ((bayOf u c.v.core c.v.bay).holder ≠ none ∨ (bayOf u c.v.core c.v.bay).fifo ≠ []))
       (fun u c => modThread
         (modBay u c.v.core c.v.bay fun b => { b with fifo := if b.fifo.contains c.w then b.fifo else b.fifo ++ [c.w] })
         c.w c.n fun t => { t with park := .needle })
     ∧ GivesIf (.npass x) (fun u c => (bayOf u c.v.core c.v.bay).holder = some c.w ∧ meBusy u c.v.core c.v.bay = 0)
       (fun u c => passNeedle (clearAccs u c.v.core c.v.bay) c.v.core c.v.bay (if x.flag then namedWaiter u c (c.u x.vreg) else none)))
  ∧ (∀ x : XWord,
     let free := fun (u : State) (c : Ctx) => holdsNeedle u c = false
     let raises := fun (c : Ctx) => c.faultAll .needle
     RaisesIf (.npass x) free raises ∧ RaisesIf (.azero x) free raises ∧ RaisesIf (.afill x) free raises
     ∧ RaisesIf (.adrain x) free raises ∧ RaisesIf (.mstat x) free raises ∧ RaisesIf (.mma x) free raises ∧ RaisesIf (.mmas x) free raises
     ∧ RaisesIf (.mepi x)
       (fun u c => holdsNeedle u c = false
         ∧ (mepiScratch (c.u x.ereg) = true ∨ (x.vreg % 2 = 0 ∧ x.vreg + 1 < c.regCount ∧ x.vreg + 1 ∉ pendingRegs u c.w c.acc))) raises)
  ∧ (∀ x : XWord,
     let ready := fun (u : State) (c : Ctx) => holdsNeedle u c = true ∧ meBusy u c.v.core c.v.bay < 2
     GivesIf (.azero x) ready (fun u c =>
       addMe (c.clearAcc (c.modBay u fun b => c.setRows b x.acc.toNat fun _ _ => 0) x.acc.toNat (List.range 8)) c)
     ∧ GivesIf (.afill x) ready (fun u c =>
       let f := fun i n => if n / 8 = x.group then Row.lane (c.reg (x.vreg + n % 8)) i else (bayOf u c.v.core c.v.bay).acc x.acc.toNat i n
       addMe (c.clearAcc (c.modBay u fun b => c.setRows b x.acc.toNat f) x.acc.toNat [2 * x.group, 2 * x.group + 1]) c)
     ∧ GivesIf (.adrain x) ready (fun u c =>
       let row := fun i => (List.range 8).map fun j => (bayOf u c.v.core c.v.bay).acc x.acc.toNat i (8 * x.group + j)
       addFlight (addMe (drainPoison u c x) c)
         (c.flight .access none (octRegs x.vreg) (regResults x.vreg ((lanesOf c.act).map fun i => (i, row i))) true false))
     ∧ GivesIf (.mstat x) ready (fun u c =>
       let res := (lanesOf c.act).map fun i => (i, [(bayOf u c.v.core c.v.bay).mstat.setWidth 32])
       addFlight (addMe (if x.flag then c.modBay u fun b => { b with mstat := 0 } else u) c)
         (c.flight .access none [x.vreg] (regResults x.vreg res) true false)))

/-- R228, R229, R106, R107: MMA and MMAS with the needle, open yarns of the right roles and classes, head stages filled with one sequence number,
legal metadata and scales, and no poison: the rows of the active lanes take the sums of the products, the flags accumulate, and the consulted
yarns pop their head stages.

R232 to R234: MEPI with the needle, an idle ME and a legal control word stores its rows: to scratch, where every row lies in the team's slices
and no marker is in the way, or to global memory as lanes of ST. -/
def Obligations.MatrixWordsComplete : Prop :=
  (∀ x : XWord,
     let ready := fun (u : State) (c : Ctx) =>
       holdsNeedle u c = true ∧ mmaDesc c.v x = false ∧ mmaDesync c.v x = false ∧ meBusy u c.v.core c.v.bay < 2
       ∧ (∀ p ∈ consulted c.v x, ((c.v.yarn p.1).stages.head?).map Stage.st ≠ some .filling)
       ∧ mmaSparse c.v x = false ∧ mmaScaleTrap c x = false ∧ mmaPoison u c x = none
     let effect := fun (u : State) (c : Ctx) =>
       let cols := (List.range 32).map fun n => columnElems (c.v.yarn x.yb.toNat) (c.v.headData x.yb) (mmaMeta c.v x) n
       let rows := (lanesOf c.act).map fun i => (i, mmaRow c (bayOf u c.v.core c.v.bay) x cols i)
       addMe (popStages (c.modBay u fun b =>
         let b := rows.foldl (fun b r => b.setRow x.acc.toNat r.1 fun n => (r.2.getD n (0, false)).1) b
         { b with mstat := b.mstat ||| mmaFlags c x (rows.map Prod.snd) }) c x) c
     GivesIf (.mma x) ready effect ∧ GivesIf (.mmas x) ready effect)
  ∧ (∀ (x : XWord) (s : State) (c : Ctx), runs s c (.mepi x) = true →
     let u := wakeBanks s c (.mepi x)
     let w := c.u x.ereg
     let col := c.u (x.ereg + 1)
     let use := mepiCs w || mepiCb w
     let rows := fun i => mepiRow (bayOf u c.v.core c.v.bay) x w (if use then scratchRead u c.v.team col.toNat 256 else []) i
     let ps := fun i => if u.poison.isEmpty then [] else mepiPoison u c x w col.toNat i
     let flags := fun (t : State) => c.modBay t fun b => { b with mstat := (lanesOf c.act).foldl (fun m l => m ||| (rows l).2) b.mstat }
     holdsNeedle u c = true → meBusy u c.v.core c.v.bay = 0 → mepiDesc w col = false →
     (use = true → scratchRangeOk u c.v.team col.toNat 256 = true ∧ markerBlocks u c.v.team col.toNat 256 false = false) →
     (mepiScratch w = true →
       let n := 32 * mepiWidth w
       let off := fun l => (Row.lane (c.reg x.vreg) l).toNat
       let ws := rowSpan ((lanesOf c.act).map off) n
       (∀ l ∈ lanesOf c.act, scratchRowFault u c l (off l) n = none) →
       (∀ m ∈ ws, m.len ≤ 2 ^ 18 ∧ scratchRangeOk u c.v.team m.off m.len = true) →
       markersWait u c.v.team ws = false → c.pathFull u .s = false →
       exec (.mepi x) s = .next (wordDone c (.mepi x)
         (addMe (addFlight (addMarkers
             (flags ((lanesOf c.act).foldl (fun t l => writeScratch t c.v.team (off l) { data := (rows l).1, poison := ps l }) u)) c.v.team ws)
           (c.flight .engine (some .s) [] [] false true)) c)))
     ∧ (mepiScratch w = false → x.vreg % 2 = 0 → x.vreg + 1 < c.regCount → x.vreg + 1 ∉ pendingRegs u c.w c.acc → c.pathFull u .w = false →
       sigRoom u c.w c.v (laneCount c.act) = true →
       let va := fun l => (c.perm64 (BitVec.ofNat 8 x.vreg) 0 l).toNat
       c.windowBlocked u va (32 * mepiWidth w) true = false →
       ∀ t res, lanesDone u c (fun t l => mepiRowLane t c l (va l) (rows l).1 (ps l)) = some (t, res) →
         exec (.mepi x) s = .next (wordDone c (.mepi x)
           (addMe (c.reach u (addFlight (addSigs (flags t) c.w c.v (res.map Prod.snd)) (c.flight .access (some .w) [] [] false true)) 0 true
             (res.map fun p => va p.1)) c))))

/-! ### K class: yarns, copy engines, rays and windows (09 R204 to R222, 11 R285 to R288) -/

/-- R210 to R212, R220: YOPEN of a valid descriptor that its wave and its bay have room for opens the yarn; YCLOSE closes it; YPUSH of the next
sequence number with room appends a stage that fills; YDROP drops head stages; KWAIT goes on when the path's counter is at most the
threshold, and else waits. -/
def Obligations.YarnWordsComplete : Prop :=
  ∀ x : KWord,
    (∀ s c t bs, runs s c (.yopen x) = true →
      let u := wakeBanks s c (.yopen x)
      let va := (c.u64 x.a.toNat).toNat
      let q : Yarn := { Yarn.closed with isOpen := true, desc := Vector.ofFn fun k => dwordAt bs k.val }
      va % 64 = 0 → readGlobal u c.v.hank c.v.ply (clusterOf c.v.core) va 64 = .ok t bs → q.valid = true →
      (c.v.yarns.toList.mapIdx fun k p => if k = x.y.toNat then 0 else p.buffer).sum + q.buffer ≤ 2 ^ 16 →
      bayBuffer t c.v.core c.v.bay c.w x.y.toNat + q.buffer ≤ 2 ^ 16 →
      exec (.yopen x) s
        = .next (wordDone c (.yopen x) (modYarn (closeYarn t c.w x.y.toNat) c.w x.y.toNat fun _ => { q with seq := q.seq0 })))
    ∧ Gives (.yclose x) (fun u c => closeYarn u c.w x.y.toNat)
    ∧ (∀ s c t bs p, runs s c (.ypush x) = true →
      let u := wakeBanks s c (.ypush x)
      let y := c.v.yarn x.y.toNat
      let sq := (c.u x.b.toNat).setWidth 16
      let rs := y.rowStarts (c.u64 x.a.toNat)
      y.isOpen = true → sq = y.seq → (y.total = 0 ∨ y.pushed ≠ y.total) → y.stages.length < y.depth →
      (y.role = 2 ∨ y.role = 3 ∨ ∀ a ∈ rs, a % 4 = 0) → readRows c.v y rs u [] none = .ok (t, bs, p) →
      (∀ m ∈ y.wants rs, m.len ≤ 2 ^ 18 ∧ scratchRangeOk u c.v.team m.off m.len = true) → markersWait u c.v.team (y.wants rs) = false →
      inFlight u c.w .y < 63 →
      let f := c.flight (.fill x.y.toNat sq p) (some .y) [] [] false true
      exec (.ypush x) s = .next (wordDone c (.ypush x)
        (modYarn
          (addFlight (addMarkers t c.v.team (y.wants rs))
            (if y.kind = 0 then { f with reads := c.rangeLines u false (rs.map fun a => (a, y.rowBytes)) } else f))
          c.w x.y.toNat fun y =>
            { y with
              seq := y.seq + 1, pushed := y.pushed + 1
              stages := y.stages ++ [{ seq := sq, st := .filling, data := bs, marks := [] }] })))
    ∧ GivesIf (.ydrop x) (fun _ c => (c.v.yarn x.y.toNat).isOpen = true) (fun u c =>
      let gone := (c.v.yarn x.y.toNat).stages.take x.imm.toNat
      modYarn (cancelFlights u fun f =>
          f.wave == c.w && (match f.kind with | .fill k q _ => k == x.y.toNat && gone.any fun t => t.seq == q | _ => false))
        c.w x.y.toNat fun y => { y with stages := y.stages.drop x.imm.toNat, popped := y.popped + gone.length })
    ∧ GivesIf (.kwait x) (fun u c => inFlight u c.w (kwaitPath x.imm.toNat) ≤ (c.u x.a.toNat).toNat) (fun u _ => u)
    ∧ Waits (.kwait x) (fun u c => (c.u x.a.toNat).toNat < inFlight u c.w (kwaitPath x.imm.toNat))

/-- R216 to R219: CPY, CPYD, GATH and SCAT whose operands pass their checks, whose reads and writes all pass, and which find room in the S counter, the
compare buffer and the range scoreboard, have copied their bytes and are in flight with their markers, owning the lines of global memory that
they write (R301, R357). -/
def Obligations.EngineCommandsComplete : Prop :=
  ∀ x : KWord,
    (∀ s c t sg, runs s c (.cpy x) = true →
      let u := wakeBanks s c (.cpy x)
      let dsp := x.imm.toNat % 4
      let ssp := x.imm.toNat / 4
      let dst := c.side x.a dsp
      let src := c.side x.b ssp
      let ctl := c.u x.c.toNat
      let len := bitsN ctl.toNat 19 0
      let core := ctlVault c ctl
      badLen len = false → bitsN ctl.toNat 23 20 = 0 →
      (if dsp = 2 ∨ ssp = 2 then badVaultSide (bitsN ctl.toNat 31 28) (bitsN ctl.toNat 27 24) = false
          ∧ vaultFault u c.v.hank core (if dsp = 2 then dst else src) len = none
        else bitsN ctl.toNat 31 24 = 0) →
      src % 16 = 0 → dst % 16 = 0 →
      (cpyRead u c ssp core src len).bind (fun r => cpyWrite r.1 c dsp core dst r.2) = .ok (t, sg) →
      engineWait u c (cpyWants dsp ssp dst src len) sg.length = false →
      exec (.cpy x) s = .next (wordDone c (.cpy x)
        (engineFlight t c (cpyWants dsp ssp dst src len)
          { reads := if ssp = 0 then [(src, len)] else [], writes := if dsp = 0 then [(dst, len)] else [] } sg)))
    ∧ (∀ s c t hd v sg, runs s c (.cpyd x) = true →
      let u := wakeBanks s c (.cpyd x)
      let dst := c.side x.a 1
      let src := c.side x.b 0
      let ctl := (c.u x.c.toNat).toNat
      let len := bitsN ctl 19 0
      readRange u c.v.hank c.v.ply src 16 = .ok (t, hd) → overFull (dwordAt hd.data 0).toNat = false →
      (dwordAt hd.data 1).toNat < 2 ^ 32 → badLen len = false → ctl < 2 ^ 20 → src % 16 = 0 → dst % 16 = 0 →
      cpydRun t c src dst len hd = .ok (v, sg) → engineWait u c [{ off := dst, len := len, wr := true }] sg.length = false →
      let bytes := ((dwordAt hd.data 1).toNat + 7) / 8
      exec (.cpyd x) s = .next (wordDone c (.cpyd x)
        (engineFlight v c [{ off := dst, len := len, wr := true }] { reads := [(src, min (16 + bytes) (4 * len + 32))], writes := [] } sg)))
    ∧ ∀ s c, ∀ scat : Bool, (let i : Instr := if scat then .scat x else .gath x
      runs s c i = true →
      let u := wakeBanks s c i
      let base := c.side x.a 0
      let rows := c.side x.b 1
      let idx := c.side x.c 1
      let ctl := (c.u (x.c.toNat + 1)).toNat
      let len := 16 * bitsN ctl 31 12
      let n := bitsN ctl 11 0
      let xs := tableRows u c.v.team base rows idx len n
      let ws : List Want := [{ off := idx, len := 4 * n, wr := false }, { off := rows, len := n * len, wr := !scat }]
      len ≠ 0 → n ≠ 0 → n * len ≤ 262144 → base % 16 = 0 → rows % 16 = 0 → idx % 4 = 0 →
      scratchRangeOk u c.v.team idx (4 * n) = true → markersWait u c.v.team ws = false →
      ∀ t out, overRows (tableRow c rows len scat) xs u [] = .ok (t, out) → engineWait u c ws (if scat then 1 else 0) = false →
        exec i s = .next (wordDone c i (engineFlight t c ws
          (if scat then { reads := [], writes := xs.map fun x => (x.va, len) } else { reads := xs.map fun x => (x.va, len), writes := [] })
          (if scat then [sigOf (BitVec.ofNat 64 base) out] else []))))

/-- R217: the codes that CPYD gives a header whose lengths do not over-fill the code space are prefix-free, so each coded bit string has one
reading. -/
def Obligations.CodesArePrefixFree : Prop :=
  ∀ clen, clen < 2 ^ 64 → overFull clen = false →
    (codesOf clen).Pairwise fun p q => p.1 ≤ q.1 ∧ p.2.1 < 2 ^ p.1 ∧ q.2.1 < 2 ^ q.1 ∧ q.2.1 / 2 ^ (q.1 - p.1) ≠ p.2.1

/-- R285, R286: TRACE of a legal control word, a loaded context and aligned tables replaces its slot's result and puts a traversal in flight; TRES
of a traced slot puts each lane's four results in flight when no ray of an active lane faulted, now or at an earlier TRES. -/
def Obligations.RayWordsComplete : Prop :=
  ∀ x : KWord,
    GivesIf (.trace x)
      (fun u c =>
        let a := c.traceArgs x
        badTraceCtl a.ctl a.count = false ∧ ctxLoaded u c.v.hank (a.ctl.toNat % 8) = true ∧ a.root.toNat % 128 = 0
          ∧ a.table.toNat % 8 = 0)
      (fun u c => addFlight
        (setRaySlot (cancelFlights u fun f => f.wave == c.w && f.kind == .trace x.y.toNat) c.w x.y.toNat
          { RaySlot.empty with args := some (c.traceArgs x), finished := false, known := false })
        (c.flight (.trace x.y.toNat) none [] [] false true))
    ∧ ∀ s c t, runs s c (.tres x) = true → ((raySlot c.v x.y.toNat).args).isSome = true →
      knowSlot (wakeBanks s c (.tres x)) c.w c.v x.y.toNat = .ok t →
      let k := raySlot (c.wave t) x.y.toNat
      (∀ f ∈ k.faults, c.act.getLsbD f.lane = false) → c.act &&& k.again = 0 →
      exec (.tres x) s = .next (wordDone c (.tres x) (addFlight (setRaySlot t c.w x.y.toNat k)
        (c.flight .tres none (quadRegs x.d)
          (regResults x.d.toNat ((lanesOf c.act).map fun l => (l, (k.result[l]?.getD (Vector.replicate 4 0)).toList))) true false)))



/-! ### C class: control flow (08 R186 to R203) -/

/-- R186, R187, R191: BRA and CALL jump when every lane is taken, fall through when none is, and split the strand otherwise; in the access slice
lanes that disagree raise DIVERGENT_ACCESS. CALL writes the address of its next word to the pair D of the taken lanes. BRU jumps for all or any
lane and never splits.

R189, R190: BRX and RET with aligned targets send the active lanes to the addresses in the pair D, one strand for each target, while the
others fall through; the strand of the lowest lane keeps the number. A single target moves the whole strand. -/
def Obligations.BranchWordsComplete : Prop :=
  (∀ x : CWord,
     let jumped := fun (c : Ctx) (u : State) => modThread u c.w c.n fun t => t.goto (c.pc + 8 * x.off.signExtend 64)
     let taken := fun (c : Ctx) => c.ex &&& predLanes x.pm (c.reg x.preg.toNat)
     let linked := fun (c : Ctx) (u : State) =>
       clearRegs (putPair u c.w c.acc (taken c) x.d.toNat fun _ => c.pc + 8) { c with act := taken c } (pairRegs x.d)
     let split := fun (c : Ctx) (u : State) => splitOff u c (taken c) (c.st.goto (c.pc + 8 * x.off.signExtend 64))
     Moves (.bra x) (fun _ c => taken c = c.ex) (fun u c => jumped c u)
     ∧ GivesIf (.bra x) (fun _ c => taken c = 0) (fun u _ => u)
     ∧ Moves (.bra x) (fun _ c => taken c ≠ 0 ∧ taken c ≠ c.ex ∧ c.acc = false) (fun u c => split c u)
     ∧ RaisesIf (.bra x) (fun _ c => taken c ≠ 0 ∧ taken c ≠ c.ex ∧ c.acc = true) (fun c => c.faultAll .divergentAccess)
     ∧ Moves (.call x) (fun _ c => taken c = c.ex) (fun u c => jumped c (linked c u))
     ∧ GivesIf (.call x) (fun _ c => taken c = 0) (fun u c => linked c u)
     ∧ Moves (.call x) (fun _ c => taken c ≠ 0 ∧ taken c ≠ c.ex ∧ c.acc = false) (fun u c => split c (linked c u))
     ∧ Moves (.bru x) (fun _ c => if x.sub = 0 then taken c = c.ex else taken c ≠ 0) (fun u c => jumped c u)
     ∧ GivesIf (.bru x) (fun _ c => if x.sub = 0 then taken c ≠ c.ex else taken c = 0) (fun u _ => u))
  ∧ (∀ x : CWord,
     let tgt := fun (c : Ctx) (l : Nat) => c.perm64 x.d 0 l
     let aligned := fun (_ : State) (c : Ctx) => ∀ l ∈ lanesOf c.act, (tgt c l).toNat % 8 = 0
     let key := fun (c : Ctx) (l : Nat) => if c.act.getLsbD l then (some (tgt c l), false) else (none, false)
     let mk := fun (c : Ctx) (k : Option DWord × Bool) =>
       match k with
       | (some pc, _) => c.st.goto pc
       | (none, _) => c.st.advance
     let effect := fun (u : State) (c : Ctx) =>
       match brxParts c (key c) (mk c) 8 (lanesOf c.ex) with
       | [] => u
       | t :: ts => modWave u c.w fun v => (v.modThread c.n fun _ => { t with num := c.n }).addStrands ts
     Moves (.brx x) aligned effect ∧ Moves (.ret x) aligned effect
     ∧ ∀ pc : DWord, pc.toNat % 8 = 0 →
       Moves (.brx x) (fun _ c => c.act = c.ex ∧ ∀ l ∈ lanesOf c.act, tgt c l = pc)
         (fun u c => modThread u c.w c.n fun _ => { c.st.goto pc with num := c.n }))

/-- R192, R196 to R198: JOIN parks with the mask in D of the lowest lane; BAR and BARA add their lanes to the barrier's count and record its phase,
and BAR waits for that phase; BARW waits for the phases its lanes recorded. -/
def Obligations.JoinAndBarrierWordsComplete : Prop :=
  ∀ x : CWord,
    Moves (.join x) (fun _ _ => True) (fun u c => modThread u c.w c.n fun t => { t with park := .join c.pc ((c.u x.d.toNat).setWidth 8) })
    ∧ Moves (.bar x) (fun _ _ => True) (fun u c =>
        let b := barrierOf u c.v (barLevel x) (barId x)
        modThread (arrive u c x).1 c.w c.n fun t => { t with park := .bar (barLevel x) (barId x) b.phase })
    ∧ Gives (.bara x) (fun u c => (arrive u c x).1)
    ∧ Moves (.barw x) (fun _ _ => True) (fun u c => modThread u c.w c.n fun t => { t with park := .barw (barLevel x) (barId x) })

/-- R193: a JOIN group is released exactly when each lane it wants, and that a strand of the wave holds, is at it, or every such lane that it misses
is parked at another JOIN, at BAR or at BARW. -/
def Obligations.JoinReleaseRule : Prop :=
  ∀ (ts : List Strand) (j : DWord),
    let at_ := fun (l : Nat) => ts.any fun t => t.atJoin j && t.mask.getLsbD l
    let wanted := fun (l : Nat) => (ts.any fun t => t.atJoin j && t.joinMask.getLsbD l) && ts.any fun t => t.mask.getLsbD l
    let lost := fun (l : Nat) => ts.any fun t => t.lostAt j && t.mask.getLsbD l
    joinReleased ts j = true ↔
      (∀ l, l < 8 → wanted l = true → at_ l = true) ∨ (∀ l, l < 8 → wanted l = true → at_ l = false → lost l = true)

/-- R200, R201, R202, R203: EXIT with no lane taken goes on, ends its lanes in the execute slice, retires the wave in the handler of an
access trap, and ends the access thread in its own slice; YIELD and NOP only go on; TRAP and BPT park their taken lanes with the cause and
CODE, to resume at the next header; ERET returns from the trap. -/
def Obligations.ExitTrapAndHintWordsComplete : Prop :=
  ∀ x : CWord,
    let taken := fun (c : Ctx) => c.ex &&& predLanes x.pm (c.reg x.preg.toNat)
    let parked := fun (c : Ctx) (cause : Cause) =>
      { c.st with
        pc := c.st.nextPc, clause := none
        park := .fault c.opc ((lanesOf (taken c)).map fun l => laneFault l cause c.pc false .none x.off.toNat) }
    let plainTrap := fun (c : Ctx) => match c.v.trap with | some e => e.isAccess = false | none => True
    GivesIf (.exit x) (fun _ c => taken c = 0) (fun u _ => u)
    ∧ Moves (.exit x) (fun _ c => taken c ≠ 0 ∧ c.acc = false ∧ (c.st.handler = false ∨ plainTrap c)) (fun u c => exitLanes u c (taken c))
    ∧ Moves (.exit x)
      (fun _ c => taken c ≠ 0 ∧ c.acc = false ∧ c.st.handler = true ∧ ∃ e, c.v.trap = some e ∧ e.isAccess = true)
      (fun u c => retireWave u c.w none)
    ∧ Moves (.exit x) (fun _ c => taken c = 0xFF ∧ c.acc = true)
      (fun u c => modWave u c.w fun v => { v with access := v.access.map fun t => { t with ended := true } })
    ∧ Gives (.yield x) (fun u _ => u) ∧ Gives (.nop x) (fun u _ => u)
    ∧ (∀ p ∈ [(Instr.trap x, Cause.trapInsn), (Instr.bpt x, Cause.breakpoint)],
      GivesIf p.1 (fun _ c => taken c = 0) (fun u _ => u)
      ∧ Moves p.1 (fun _ c => taken c ≠ 0 ∧ taken c = c.ex ∧ c.st.handler = false)
        (fun u c => modThread u c.w c.n fun _ => parked c p.2)
      ∧ Moves p.1 (fun _ c => taken c ≠ 0 ∧ taken c ≠ c.ex ∧ c.st.handler = false)
        (fun u c => splitOff u c (taken c) (parked c p.2)))
    ∧ Moves (.eret x) (fun _ _ => True) (fun u c => returnTrap u c.w c.n)



/-! ### S class: special registers, regions, plies, pairs, pages (10 R236 to R259, 11 R260 to R288) -/

/-- R33, R35, R259, R263, R270: SYSRD writes the special register of its index in each active lane, and 0 for an index that the table does not list;
`%clklo` takes a reading of the clock and latches its high half, which `%clkhi` gives; `%ars` is read where no AREND is open; `%rpstat` counts the
signatures that the leader is ahead, and shows NCHK and RETRY.

R12, R34, R259, R263, R269: what SYSWR does to each writable register: `%exec` as MWRITE, `%fcr` with reserved bits clear, `%ars` clears all but
its read-only bit, `%gst` clears the bits written as 1, `%fpc` takes the value. That a reserved bit of `%fcr` faults in the active lanes is the
model's choice (log 24). -/
def Obligations.SpecialRegisterAccesses : Prop :=
  (∀ x : SWord,
     GivesIf (.sysrd x) (fun _ c => x.imm ≠ 0x0C ∧ x.imm ≠ 0x0D ∧ (x.imm = 0x09 → c.arendOpen = false))
       (fun u c => c.put u x.d.toNat (special u c x.imm.toNat))
     ∧ GivesIf (.sysrd x) (fun _ _ => x.imm = 0x0C) (fun u c =>
       clockFlight (modWave (readClock u).1 c.w fun v => { v with clkLatch := some (BitVec.ofNat 32 ((readClock u).2 / 2 ^ 32)) }) c x.d
         (BitVec.ofNat 32 (readClock u).2))
     ∧ (∀ h, GivesIf (.sysrd x) (fun _ c => x.imm = 0x0D ∧ c.v.clkLatch = some h) (fun u c => clockFlight u c x.d h))
     ∧ GivesIf (.sysrd x) (fun _ c => x.imm = 0x0D ∧ c.v.clkLatch = none)
       (fun u c => clockFlight (readClock u).1 c x.d (BitVec.ofNat 32 ((readClock u).2 / 2 ^ 32)))
     ∧ ∀ (u : State) (c : Ctx) (l : Nat),
       special u c 0x00 l = BitVec.ofNat 32 l ∧ special u c 0x01 l = c.v.waveid ∧ special u c 0x02 l = c.ex.setWidth 32
       ∧ special u c 0x03 l = BitVec.ofNat 32 c.n ∧ special u c 0x04 l = BitVec.ofNat 32 (c.v.core / 14 * 16 + c.v.core % 14)
       ∧ special u c 0x05 l = BitVec.ofNat 32 (c.v.core / 14 / 2 * 7 + c.v.core % 14 / 2) ∧ special u c 0x06 l = BitVec.ofNat 32 c.v.hank
       ∧ special u c 0x07 l = BitVec.ofNat 32 c.v.ply ∧ special u c 0x08 l = c.v.fcr.setWidth 32 ∧ special u c 0x09 l = c.v.ars
       ∧ special u c 0x0B l = c.v.gst.setWidth 32 ∧ special u c 0x10 l = BitVec.ofNat 32 l
       ∧ special u c 0x20 l = c.v.trapRegs.fcause ∧ special u c 0x21 l = c.v.trapRegs.fmask ∧ special u c 0x22 l = c.v.trapRegs.fpc
       ∧ special u c 0x23 l = c.v.trapRegs.faddrlo ∧ special u c 0x24 l = c.v.trapRegs.faddrhi ∧ special u c 0x25 l = c.v.trapRegs.finfo
       ∧ special u c 0x28 l = c.v.kptr.setWidth 32 ∧ special u c 0x29 l = (c.v.kptr >>> 32).setWidth 32
       ∧ (∀ k, k < 7 → special u c (0x11 + k) l = c.v.lvl[k + 1]?.getD 0) ∧ (∀ k, k < 8 → special u c (0x18 + k) l = c.v.ext[k]?.getD 1)
       ∧ (c.v.pair = none → special u c 0x0A l = c.v.rpstat)
       ∧ (∀ n q, c.v.pair = some n → u.pairs[n]? = some q → special u c 0x0A l = (c.v.rpstat &&& 3) ||| BitVec.ofNat 32
           ((if q.active then (q.sigL.length - q.sigT.length) * 2 ^ 16 else 0) + q.nchk * 2 ^ 8 + q.retry * 4))
       ∧ ∀ k, (0x0D < k ∧ k < 0x10) ∨ (0x25 < k ∧ k < 0x28) ∨ 0x29 < k → special u c k l = 0)
  ∧ (∀ x : SWord,
     let a := fun (c : Ctx) => c.u x.a.toNat
     Moves (.syswr x) (fun _ _ => x.imm = 0x02) (fun u c => writeMask u c ((a c).setWidth 8))
     ∧ GivesIf (.syswr x) (fun _ c => x.imm = 0x08 ∧ (a c).toNat < 2 ^ 9) (fun u c => modWave u c.w fun v => { v with fcr := (a c).setWidth 9 })
     ∧ RaisesIf (.syswr x) (fun _ c => x.imm = 0x08 ∧ 2 ^ 9 ≤ (a c).toNat) (fun c => c.faultAll .illegalField)
     ∧ GivesIf (.syswr x) (fun _ c => x.imm = 0x09 ∧ c.arendOpen = false) (fun u c => modWave u c.w fun v => { v with ars := v.ars &&& 0x40 })
     ∧ GivesIf (.syswr x) (fun _ _ => x.imm = 0x0B) (fun u c => modWave u c.w fun v => { v with gst := v.gst &&& ~~~((a c).setWidth 16) })
     ∧ GivesIf (.syswr x) (fun _ _ => x.imm = 0x22)
       (fun u c => modWave u c.w fun v => { v with trapRegs := { v.trapRegs with fpc := a c } }))

/-- R71, R261, R264, R266, R272, R273, R325: the words that name a liveness record, where the record is one of the launch's and legal: PHINT takes the
hint that a promising wave was asked for, and else starts its lanes' clause counts again; that it takes no hint in a handler, nor in a wave without
PROMISE, is the model's reading (log 25). IDEM opens an idempotent region with the named registers saved, their poison with them; in an unpaired
wave RCHK and REND do nothing. IDEM.end closes the region.

R270 to R273: the words of a redundant pair. RPAIR writes A in an unpaired wave and in the leader, which also sends it until its REND; the trailer
takes the oldest value sent (a free value in a lane that sent none, and where the leader sends no more, log 15). RCHK parks both waves, and REND
parks the trailer, until they meet. -/
def Obligations.LivenessAndPairWordsComplete : Prop :=
  (∀ x : SWord,
     let live := fun (i : Instr) (s : State) (c : Ctx) (t : State) (bs : Bytes) =>
       runs s c i = true ∧ x.imm.toNat < recNlive (recordOf (wakeBanks s c i) c.v)
       ∧ readGlobal (wakeBanks s c i) c.v.hank 0 (clusterOf c.v.core)
           ((recLiveBase (recordOf (wakeBanks s c i) c.v) + 128 * x.imm.toNat) % 2 ^ 64) 128 = .ok t bs
       ∧ liveBad t c.v.team bs = false
     (∀ s c t bs, live (.phint x) s c t bs →
       exec (.phint x) s = .next (wordDone c (.phint x)
         (if c.v.preempt = .asked ∧ recPromise (recordOf t c.v) = true ∧ c.v.trap = none then
           stopRunning (modWave t c.w fun v => { v with preempt := .hint x.imm.toNat bs }) c.w 8
         else modWave t c.w fun v =>
           { v with clauseCount := v.clauseCount.mapIdx fun l k => if c.ex.getLsbD l then 0 else k })))
     ∧ (∀ s c t bs, live (.idem x) s c t bs → liveRegsOnly bs = true →
       exec (.idem x) s = .next (wordDone c (.idem x) (modWave t c.w fun v =>
         let named := (List.range v.nregs).filter fun r => (liveMap bs).getLsbD r
         { v.wake named with
           idem := some
             { lanes := c.ex, copied := c.act, entry := c.st.nextPc, regmap := liveMap bs, restarts := 0
               saved := named.map fun r => (r, v.reg r), marks := regMarks t c.w named } })))
     ∧ Gives (.idemEnd x) (fun u c => modWave u c.w fun v => { v with idem := none })
     ∧ (∀ s c t bs, live (.rchk x) s c t bs → liveRegsOnly bs = true → pairOf t c.v = none →
       exec (.rchk x) s = .next (wordDone c (.rchk x) t))
     ∧ GivesIf (.rend x) (fun u c => pairOf u c.v = none) (fun u _ => u))
  ∧ (∀ x : SWord,
     let a := fun (c : Ctx) (l : Nat) => Row.lane (c.reg x.a.toNat) l
     GivesIf (.rpair x) (fun u c => pairOf u c.v = none) (fun u c => c.put u x.d.toNat (a c))
     ∧ (∀ k p, GivesIf (.rpair x) (fun u c => pairOf u c.v = some (k, p) ∧ p.leader = c.w ∧ p.rendL = false)
       (fun u c => modPair (c.put u x.d.toNat (a c)) k fun p => { p with vals := p.vals ++ [(lanesOf c.act).map fun l => (l, a c l)] }))
     ∧ (∀ k p, GivesIf (.rpair x) (fun u c => pairOf u c.v = some (k, p) ∧ p.leader = c.w ∧ p.rendL = true) (fun u c => c.put u x.d.toNat (a c)))
     ∧ (∀ k p, GivesIf (.rpair x) (fun u c => pairOf u c.v = some (k, p) ∧ p.leader ≠ c.w ∧ p.vals = [] ∧ p.noMoreValues u = true)
       (fun u c => { c.put u x.d.toNat (fun l => Config.rpairMissing (u.fresh + l)) with fresh := u.fresh + 8 }))
     ∧ (∀ k p v vs, GivesIf (.rpair x) (fun u c => pairOf u c.v = some (k, p) ∧ p.leader ≠ c.w ∧ p.vals = v :: vs)
       (fun u c =>
         let t := modPair (c.put u x.d.toNat (pairValue u v)) k fun p => { p with vals := vs }
         { t with fresh := t.fresh + 8 }))
     ∧ (∀ k p s c t bs, runs s c (.rchk x) = true → x.imm.toNat < recNlive (recordOf (wakeBanks s c (.rchk x)) c.v) →
       readGlobal (wakeBanks s c (.rchk x)) c.v.hank 0 (clusterOf c.v.core)
         ((recLiveBase (recordOf (wakeBanks s c (.rchk x)) c.v) + 128 * x.imm.toNat) % 2 ^ 64) 128 = .ok t bs →
       liveBad t c.v.team bs = false → liveRegsOnly bs = true → pairOf t c.v = some (k, p) → (p.leader ≠ c.w ∨ p.rendL = false) →
       exec (.rchk x) s = .next (strandMoved c (modThread t c.w c.n fun u => { u with park := .check (liveMap bs) })))
     ∧ (∀ k p, GivesIf (.rend x) (fun u c => pairOf u c.v = some (k, p) ∧ p.leader = c.w) (fun u c => markRend u c.w k))
     ∧ (∀ k p, Moves (.rend x) (fun u c => pairOf u c.v = some (k, p) ∧ p.leader ≠ c.w)
       (fun u c => modThread (markRend u c.w k) c.w c.n fun t => { t with park := .rend })))

/-- R268, R274, R275, R288: GSET of a legal gauge sets its bounds, TYPE and MODE and keeps its count; FMAP of a legal address maps a zeroed frame of the
pool and answers 0, or answers 1 for a mapped address, 2 with too few frames and 3 for an aperture address; INVPG goes on; SMAP takes the lowest
free window and answers its address, or 0 when none is free; SUNMAP frees the window of an aperture address. That SMAP takes the lowest of
the free windows, and that FMAP answers 3 before 1, are the model's choices (log 26). -/
def Obligations.GaugePageAndWindowWordsComplete : Prop :=
  (∀ x : SWord,
    GivesIf (.gset x)
      (fun _ c => (c.u x.b.toNat).toNat < 16 ∧ gaugeBound ((c.u x.b.toNat).toNat / 4) (c.u x.a.toNat) = true
        ∧ gaugeBound ((c.u x.b.toNat).toNat / 4) (c.u (x.a.toNat + 1)) = true)
      (fun u c => modHank u c.v.hank fun k =>
        { k with
          gauges := k.gauges.setIfInBounds x.imm.toNat
            { lo := c.u x.a.toNat, hi := c.u (x.a.toNat + 1), type := (c.u x.b.toNat).toNat / 4, mode := (c.u x.b.toNat).toNat % 4
              fails := (k.gauges[x.imm.toNat]?.getD Gauge.off).fails } })
    ∧ (∀ s c, runs s c (.fmap x) = true →
      let u := wakeBanks s c (.fmap x)
      let va := (c.u64 x.a.toNat).toNat
      let b := (c.u x.b.toNat).toNat
      let ret := fun (t : State) (n : Nat) => wordDone c (.fmap x) (c.put t x.d.toNat fun _ => BitVec.ofNat 32 n)
      b &&& 0xE7FE = b → va % 2 ^ 16 = 0 →
      ((windowAt va).isSome = true → exec (.fmap x) s = .next (ret u 3))
      ∧ (windowAt va = none → mapPath u va (hreg u c.v.hank 0x120).toNat walkLevels = .mapped → exec (.fmap x) s = .next (ret u 1))
      ∧ (∀ loc rest, windowAt va = none → mapPath u va (hreg u c.v.hank 0x120).toNat walkLevels = .missing loc rest →
        exec (.fmap x) s = .next (ret (mapFrame u c.v.hank va b loc rest).1 (mapFrame u c.v.hank va b loc rest).2)))
    ∧ Gives (.invpg x) (fun u c => invalidate u c.v.hank (if x.imm = 0 then some (c.u64 x.a.toNat).toNat else none)))
  ∧ ∀ y : KWord,
    (∀ s c, runs s c (.smap y) = true →
      let u := wakeBanks s c (.smap y)
      let off := (c.u y.b.toNat).toNat
      let len := (c.u y.c.toNat).toNat
      let used := (hankOf u c.v.hank).windows.map (·.num)
      len % 16 = 0 → 16 ≤ len → len ≤ 2 ^ 21 → off % 16 = 0 → scratchSpan (teamOf u c.v.team) off len = true →
      (lowestFree 64 used = none → exec (.smap y) s = .next (wordDone c (.smap y) (c.put64 u y.d.toNat fun _ => 0)))
      ∧ ∀ n, lowestFree 64 used = some n →
        exec (.smap y) s = .next (wordDone c (.smap y)
          (c.put64
            (modHank u c.v.hank fun k =>
              { k with windows := { num := n, team := c.v.team, off := off, len := len, ro := y.imm != 0 } :: k.windows })
            y.d.toNat fun _ => BitVec.ofNat 64 (0xFFFFFF0000000000 + n * 2 ^ 24))))
    ∧ (∀ n off, GivesIf (.sunmap y) (fun _ c => windowAt (c.u64 y.a.toNat).toNat = some (n, off))
      (fun u c => modHank u c.v.hank fun k => { k with windows := k.windows.filter fun w => w.num != n }))
    ∧ GivesIf (.sunmap y) (fun _ c => windowAt (c.u64 y.a.toNat).toNat = none) (fun u _ => u)

/-- R242, R243, R245, R246, R249: the words on the ply tree, in their turn at the directory. PFORK makes children of the wave's ply and answers
their numbers, or a status; PENTER moves the wave to an ancestor or descendant; PFROG frogs its target; PQRY reads a ply or the hank; LLINE opens
a lifeline and moves the wave into it, or answers its status.

R241, R244: PKEEP with a status other than 0 answers it; with status 0 it takes the directory and waits for the accesses of its target, and then
merges the versions, and goes on when no deferred effect is left to issue, or parks until the effects are done. While the directory is held, the
words but PQRY hold and keep their place in the order of arrival. -/
def Obligations.PlyWordsComplete : Prop :=
  (∀ x : SWord,
     let idle := fun (u : State) (c : Ctx) => dirBusy u c = false
     let at_ := fun (u : State) (c : Ctx) => leaveDir u c.v.hank c.w c.n
     let kOf := fun (u : State) (c : Ctx) => hankOf (at_ u c) c.v.hank
     GivesIf (.pfork x) (fun u c => idle u c ∧ forkStatus (kOf u c) c.v.ply x.imm.toNat = 0) (fun u c =>
       let ns := (freePlies (kOf u c)).take x.imm.toNat
       loadFlight (addPlies (at_ u c) c.v.hank c.v.ply ((plyOf? (kOf u c) c.v.ply).bind (·.life)) ns) c none 3 x.d false
         (pairResult c (forkResult 0 ns)))
     ∧ GivesIf (.pfork x) (fun u c => idle u c ∧ forkStatus (kOf u c) c.v.ply x.imm.toNat ≠ 0) (fun u c =>
       loadFlight (at_ u c) c none 3 x.d false (pairResult c (forkResult (forkStatus (kOf u c) c.v.ply x.imm.toNat) [])))
     ∧ GivesIf (.penter x) idle (fun u c =>
       let t := (c.u x.a.toNat).toNat
       let st := if !isLive (kOf u c) t then 1 else if isUp (kOf u c) c.v.ply t || isUp (kOf u c) t c.v.ply then 0 else 4
       let v := c.put (at_ u c) x.d.toNat fun _ => BitVec.ofNat 32 st
       if st = 0 then moveWave v c.w t else v)
     ∧ GivesIf (.pfrog x) idle (fun u c => frog (at_ u c) c.v.hank (c.u x.a.toNat).toNat [c.w])
     ∧ Gives (.pqry x) (fun u c =>
       let v := if x.imm = 0 then queryPly (hankOf u c.v.hank) (c.u x.a.toNat).toNat else queryHank u c.v.hank
       loadFlight u c none 2 x.d false ((lanesOf c.act).map fun l => (l, [BitVec.ofNat 32 v])))
     ∧ GivesIf (.lline x) idle (fun u c =>
       let b := (c.u64 x.a.toNat).toNat
       let l := (c.u64 x.b.toNat).toNat
       let st := if badRange (plyOf? (kOf u c) c.v.ply) b l then 8 else forkStatus (kOf u c) c.v.ply 1
       let n := (freePlies (kOf u c)).headD 0
       if st ≠ 0 then c.put (at_ u c) x.d.toNat fun _ => BitVec.ofNat 32 (2 ^ 31 + st)
       else moveWave (addPlies (c.put (at_ u c) x.d.toNat fun _ => BitVec.ofNat 32 n) c.v.hank c.v.ply (some (b, l)) [n]) c.w n)
     ∧ ∀ i ∈ [Instr.pfork x, .penter x, .pkeep x, .pfrog x, .lline x], ∀ s c, runs s c i = true →
       let u := wakeBanks s c i
       dirBusy u c = true → exec i s = .next (pruneRunning (modThread (joinDir u c.v.hank c.w c.n c.pc.toNat) c.w c.n fun t =>
         { t with park := .hold u.progress })))
  ∧ (∀ x : SWord,
     let at_ := fun (u : State) (c : Ctx) => leaveDir u c.v.hank c.w c.n
     let t := fun (c : Ctx) => (c.u x.a.toNat).toNat
     let status := fun (u : State) (c : Ctx) => keepStatus (hankOf (at_ u c) c.v.hank) c.v.ply (t c) (x.imm != 0)
     let good := fun (u : State) (c : Ctx) => dirBusy u c = false ∧ status u c = 0
     let others := fun (u : State) (c : Ctx) =>
       if x.imm = 0 then [] else match plyOf? (hankOf (at_ u c) c.v.hank) (t c) with
         | some y => siblingsOf (hankOf (at_ u c) c.v.hank) y
         | none => []
     let kept := fun (u : State) (c : Ctx) => applyKeep (at_ u c) c.v.hank (t c) (others u c) []
     let keep := fun (c : Ctx) (merged : Bool) => some { target := t c, wave := c.w, strand := c.n, sib := x.imm != 0, merged := merged : Keep }
     let waits := fun (u : State) (c : Ctx) => modThread u c.w c.n fun v => { v with park := .keep x.d.toNat c.act }
     GivesIf (.pkeep x) (fun u c => dirBusy u c = false ∧ status u c ≠ 0)
       (fun u c => c.put (at_ u c) x.d.toNat fun _ => BitVec.ofNat 32 (status u c))
     ∧ GivesIf (.pkeep x)
       (fun u c => good u c ∧ keepWaits (at_ u c) c.v.hank (t c) = false ∧ (hankOf (kept u c) c.v.hank).draining = [])
       (fun u c => c.put (kept u c) x.d.toNat fun _ => 0)
     ∧ Moves (.pkeep x)
       (fun u c => good u c ∧ keepWaits (at_ u c) c.v.hank (t c) = false ∧ (hankOf (kept u c) c.v.hank).draining ≠ [])
       (fun u c => waits (setKeeper (kept u c) c.v.hank (keep c true)) c)
     ∧ Moves (.pkeep x) (fun u c => good u c ∧ keepWaits (at_ u c) c.v.hank (t c) = true)
       (fun u c => waits (setKeeper (at_ u c) c.v.hank (keep c false)) c))

/-- R253, R257, R258, R259: ARBEG of a wave's only strand opens a region with its fallback; with more strands it aborts at once with DIVERGE. Outside
a region AREND answers 0xFFFFFFFF and ARABT does nothing; inside, AREND sends the region to the darners and ARABT aborts it with its code.

R255, R256: inside an atomic region IADD, ISUB, MOV and ICMP have the effect they have outside it, and then their tags follow: a sum of a
tagged register and an untagged one is tagged with the same slot and the sum of the constants, a copy keeps its tag. -/
def Obligations.RegionWordsComplete : Prop :=
  let reached := fun (s : State) (c : Ctx) (i : Instr) => wakeBanks (concretePred s c i) c i
  (∀ x : SWord,
     let opened := fun (u : State) (c : Ctx) => modWave u c.w fun v =>
       { v with
         ars := (v.ars &&& 0x3F) ||| 0x40
         region := some { strand := c.n, handler := c.st.handler, lanes := 0, fallback := c.pc + 8 * x.imm.signExtend 64, lines := [],
                          stores := [], tags := [], slots := [], conds := [], nConds := 0, nSyms := 0, committing := false } }
     GivesIf (.arbeg x) (fun _ c => c.v.region = none ∧ c.v.strands.length ≤ 1) opened
     ∧ Moves (.arbeg x) (fun _ c => c.v.region = none ∧ 1 < c.v.strands.length) (fun u c => abortRegion (opened u c) c.w 8 0 0)
     ∧ Gives (.arend x) (fun u c => loadFlight u c none 2 x.d false ((lanesOf c.act).map fun l => (l, [0xFFFFFFFF])))
     ∧ Gives (.arabt x) (fun u _ => u)
     ∧ (∀ s c r, runsInRegion s c (.arend x) r = true →
       let tags := r.tags.filter fun t => !(t.reg == x.d.toNat && c.act.getLsbD t.lane)
       exec (.arend x) s = .next (wordDoneIn c (.arend x) r
         (addFlight
           (modWave (reached s c (.arend x)) c.w fun v => { v with region := some { r with tags := tags, lanes := c.ex, committing := true } })
           (c.flight .commit none (x.d.toNat :: tags.map (·.reg)).dedup
             ((lanesOf c.act).map fun l => { reg := x.d.toNat, lane := l, val := 0 }) true false))))
     ∧ ∀ s c r, runsInRegion s c (.arabt x) r = true →
       exec (.arabt x) s = .next (strandMoved c (abortRegion (reached s c (.arabt x)) c.w 9 (x.imm.toNat % 256) 0)))
  ∧ (∀ (x : V3) (s : State) (c : Ctx) (r : Region),
     (runsInRegion s c (.iadd x) r = true → exec (.iadd x) s = .next (wordDoneIn c (.iadd x) r
       (c.put (reached s c (.iadd x)) x.d.toNat fun l => c.src x.sA l + c.src x.sB l)))
     ∧ (runsInRegion s c (.isub x) r = true → exec (.isub x) s = .next (wordDoneIn c (.isub x) r
       (c.put (reached s c (.isub x)) x.d.toNat fun l => c.src x.sA l - c.src x.sB l)))
     ∧ (runsInRegion s c (.mov x) r = true → exec (.mov x) s = .next (wordDoneIn c (.mov x) r
       (c.put (reached s c (.mov x)) x.d.toNat fun l => c.src x.sA l)))
     ∧ (runsInRegion s c (.icmp x) r = true → exec (.icmp x) s = .next (wordDoneIn c (.icmp x) r
       (c.put (reached s c (.icmp x)) x.d.toNat fun l =>
         if condition (x.c.toNat % 8) (x.c.getLsbD 3) (c.src x.sA l) (c.src x.sB l) then 1 else 0)))
     ∧ ∀ (l : Nat) (t : Tag), x.pa = 0 → x.pb = 0 → r.tag x.a.toNat l = some t → r.tag x.b.toNat l = none →
       c.newTag r (.iadd x) l = some (t.slot, t.c + Row.lane (c.reg x.b.toNat) l)
       ∧ c.newTag r (.isub x) l = some (t.slot, t.c - Row.lane (c.reg x.b.toNat) l)
       ∧ c.newTag r (.mov x) l = some (t.slot, t.c))

/-! ### S class: work for other units (11 R276 to R284) -/

/-- R276, R277, R278, R283, R284: LAUNCH of an aligned record into a queue that takes device records and has room writes it at the tail; EMIT adds a
record to its bin; RECV copies the bin's records to scratch and answers their number; FLIP and MSUB of the root ply join their queues, and of
another ply its log.

R279 to R282: on a mapped, legal queue of the wave's hank, QPUSH with room writes its entry and TAIL, and QPOP of a queue that is not empty answers
the oldest entry and moves HEAD, and of an empty one waits; on a mapped token cell QTOK.put fills an empty cell and answers 0, or answers 1,
and QTOK.take empties a full cell, or waits; each first waits for an engine command that owns its lines (R357). -/
def Obligations.DispatchAndQueueWordsComplete : Prop :=
  ((∀ x : SWord,
     (∀ s c t bs l v, runs s c (.launch x) = true →
       let u := wakeBanks s c (.launch x)
       let va := (c.u64 x.a.toNat).toNat
       let off := queueOff (x.imm.toNat / 16) (x.imm.toNat % 16)
       let r := (hreg u c.v.hank off).toNat
       let tail := (hreg u c.v.hank (off + 0x08)).toNat
       va % 128 = 0 → readGlobal u c.v.hank c.v.ply (clusterOf c.v.core) va 128 = .ok t bs → ringSrc r = true → ringEn r = true →
       tail - (hreg u c.v.hank (off + 0x10)).toNat < ringSize r → storePlace u c.v.hank (ringEntry r tail) 128 .global = .ok l →
       placeWrite t (some c.w) c.v.hank 0 (ringEntry r tail) bs l = .ok v →
       exec (.launch x) s = .next (wordDone c (.launch x) (setbFlight
         (setHreg v c.v.hank (off + 0x08) (BitVec.ofNat 64 (tail + 1))) c)))
     ∧ (∀ s c b t d, runs s c (.emit x) = true →
       let u := wakeBanks s c (.emit x)
       let n := (c.u x.a.toNat).toNat
       let va := (c.u64 x.b.toNat).toNat
       n < 64 → binOn u c.v.hank n = true → va % 16 = 0 → binOf u c.v.hank n = some b → b.recs.length < 65536 / b.len →
       readRange u c.v.hank c.v.ply va b.len .record = .ok (t, d) → d.code = none →
       ∃ k, k < 65536 / b.len ∧ (∀ r ∈ b.recs, r.2 ≠ k) ∧
         exec (.emit x) s = .next (wordDone c (.emit x) (setbFlight
           (homeWrite
             (modBin { (readClock t).1 with fresh := (readClock t).1.fresh + 1 } c.v.hank b.num fun b =>
               { b with recs := b.recs ++ [((readClock t).2, k)] })
             c.v.hank true
             ((hreg (modBin { (readClock t).1 with fresh := (readClock t).1.fresh + 1 } c.v.hank b.num fun b =>
               { b with recs := b.recs ++ [((readClock t).2, k)] }) c.v.hank 0x180).toNat + 65536 * b.num + b.len * k) d.data) c)))
     ∧ (∀ s c, runs s c (.recv x) = true →
       let u := wakeBanks s c (.recv x)
       let off := (c.u x.a.toNat).toNat
       let recs := (teamOf u c.v.team).recs
       off % 16 = 0 →
       (recs = [] → exec (.recv x) s = .next (wordDone c (.recv x) (c.put u x.d.toNat fun _ => 0)))
       ∧ (recs ≠ [] → scratchRangeOk u c.v.team off recs.flatten.length = true →
         markersWait u c.v.team [{ off := off, len := recs.flatten.length, wr := true }] = false →
         exec (.recv x) s = .next (wordDone c (.recv x)
           (c.put (scratchWrite u c.v.team off recs.flatten) x.d.toNat fun _ => BitVec.ofNat 32 recs.length))))
     ∧ (let legal := fun (u : State) (c : Ctx) =>
           (c.u x.b.toNat).toNat < 8 ∧ headOn u c.v.hank ((c.u x.b.toNat).toNat % 4) = true ∧ (c.u64 x.a.toNat).toNat % 256 = 0
       GivesIf (.flip x) (fun u c => legal u c ∧ c.v.ply = 0 ∧ (headOf u ((c.u x.b.toNat).toNat % 4)).flips.length < 16)
         (fun u c => setbFlight (joinFlip u ((c.u x.b.toNat).toNat % 4) (c.u64 x.a.toNat) ((c.u x.b.toNat).getLsbD 2)) c)
       ∧ GivesIf (.flip x)
         (fun u c => legal u c ∧ c.v.ply ≠ 0 ∧ sigRoom u c.w c.v (laneCount c.act) = true ∧ logRoom u c.v.hank c.v.ply = true)
         (fun u c => addSigs (appendLog u c (.flip (c.u64 x.a.toNat) (c.u x.b.toNat))) c.w c.v
           ((lanesOf c.act).map fun _ => sigOf (c.u64 x.a.toNat)
             (natLe 8 (c.u64 x.a.toNat).toNat ++ natLe 4 (c.u x.b.toNat).toNat)))))
   ∧ ∀ y : KWord,
     let legal := fun (c : Ctx) => (c.u y.b.toNat).toNat < 2 ∧ (c.u64 y.a.toNat).toNat % 256 = 0
     GivesIf (.msub y) (fun u c => legal c ∧ c.v.ply = 0 ∧ (mediaOf u ((c.u y.b.toNat).toNat % 2)).queue.length < 32)
       (fun u c => setbFlight (joinMedia u ((c.u y.b.toNat).toNat % 2) c.v.hank (c.u64 y.a.toNat).toNat) c)
     ∧ GivesIf (.msub y)
       (fun u c => legal c ∧ c.v.ply ≠ 0 ∧ sigRoom u c.w c.v (laneCount c.act) = true ∧ logRoom u c.v.hank c.v.ply = true)
       (fun u c => addSigs (appendLog u c (.msub (c.u64 y.a.toNat) ((c.u y.b.toNat).toNat % 2))) c.w c.v
         ((lanesOf c.act).map fun _ => sigOf (c.u64 y.a.toNat)
           (natLe 8 (c.u64 y.a.toNat).toNat ++ natLe 4 (c.u y.b.toNat).toNat))))
  ∧ (∀ x : SWord,
     let va := fun (c : Ctx) => (c.u64 x.a.toNat).toNat
     let read := fun (u : State) (c : Ctx) (may : QueueDesc → Bool) (r : QueueRead) =>
       va c % 64 = 0 ∧ readQueue u c.v.hank c.v.ply (va c) may = .ok r ∧ r.stops = []
     (∀ s c r l v, runs s c (.qpush x) = true → read (wakeBanks s c (.qpush x)) c (fun d => d.mayPush c.v.hank) r →
       x.imm.toNat < 4096 → queuePlace r.s c.v.hank (r.desc.entry r.desc.tail) 16 (r.desc.allows c.v.hank) = .ok l →
       (c.v.ply = 0 ∨ r.desc.kind = 0) → r.desc.escapes r.s c.v.hank c.v.ply (r.desc.entry r.desc.tail) (.ok l) = [] →
       r.desc.used ≠ r.desc.size →
       pushEntry (releaseLines r.s (r.desc.place.lines ++ l.lines)) (some c.w) c.v.hank c.v.ply r.desc l (c.u64 x.b.toNat) x.imm.toNat = .ok v →
       exec (.qpush x) s = .next (wordDone c (.qpush x) (setbFlight v c)))
     ∧ (∀ s c r l, runs s c (.qpop x) = true → read (wakeBanks s c (.qpop x)) c (fun d => d.mayPop c.v.hank) r →
       (c.v.ply = 0 ∨ r.desc.kind = 0) → queuePlace r.s c.v.hank (r.desc.entry r.desc.head) 16 (r.desc.allows c.v.hank) = .ok l →
       r.desc.escapes r.s c.v.hank c.v.ply (r.desc.entry r.desc.head) (.ok l) = [] →
       let free := releaseLines r.s (r.desc.place.lines ++ l.lines)
       (∀ t bs v w, r.desc.used ≠ 0 → popEntry free c.w c.v.hank c.v.ply r.desc = .ok w →
         placeBytes free c.v.hank c.v.ply 16 l = (t, .ok bs) → popEntry t c.w c.v.hank c.v.ply r.desc = .ok v →
         exec (.qpop x) s = .next (wordDone c (.qpop x) (c.put64 v x.d.toNat fun _ => dwordAt bs 0)))
       ∧ (r.desc.used = 0 → exec (.qpop x) s = .next (strandWaits c false r.s)))
     ∧ (∀ (u : State) (h ply a : Nat) (may : QueueDesc → Bool) (lf : Leaf), u.partials = [] → u.poison = [] → u.corrupt = [] →
       (∀ t ∈ u.stale, t.dirty = true) → Mapped u h a true lf →
       let bs := readBytes u h (readPly lf ply) lf.pa 64
       queueBad bs = false → may (QueueDesc.of a (.mem lf) bs) = true →
       readQueue u h ply a may = .ok { s := markUsed u h lf false, desc := QueueDesc.of a (.mem lf) bs, stops := [] })
     ∧ ∀ s c, (runs s c (.qtokPut x) = true ∨ runs s c (.qtokTake x) = true) →
       let i : Instr := if runs s c (.qtokPut x) then .qtokPut x else .qtokTake x
       let u := wakeBanks s c i
       let put := natLe 8 (c.u64 x.b.toNat).toNat ++ natLe 8 1
       let did := fun (bs : Bytes) (home : State) (written : Bytes → State) =>
         (i = .qtokPut x →
           (cellFull bs = true → exec i s = .next (wordDone c i (setbFlight (c.put home x.d.toNat fun _ => 1) c)))
           ∧ (cellFull bs = false → exec i s = .next (wordDone c i (setbFlight (c.put (written put) x.d.toNat fun _ => 0) c))))
         ∧ (i = .qtokTake x →
           (cellFull bs = true → exec i s
             = .next (wordDone c i (setbFlight (c.put64 (written (bs.take 8 ++ natLe 8 0)) x.d.toNat fun _ => dwordAt bs 0) c)))
           ∧ (cellFull bs = false → exec i s = .next (strandWaits c true u)))
       va c % 16 = 0 →
       (∀ lf q t bs, translate u c.v.hank (va c) 16 true = .ok (.mem lf) →
         let free := releaseLines u [lineOf lf.pa]
         writePly free c.v.hank c.v.ply (va c) lf = .to q → placeBytes free c.v.hank c.v.ply 16 (.mem lf) = (t, .ok bs) →
         did bs (dropCopies t (lineOf lf.pa)) fun new => writeLeaf (dropCopies t (lineOf lf.pa)) (some c.w) c.v.hank q lf new)
       ∧ ∀ t off, translate u c.v.hank (va c) 16 true = .ok (.win t off) → storePly (hankOf u c.v.hank) c.v.ply (va c) = 0 →
         markerBlocks u t off 16 true = false → scratchPoison u t off 16 = none →
         did (scratchRead u t off 16) u fun new => scratchWrite u t off new)

/-! ### Steps that are no instruction words: waves and operations in flight (01, 02, 07, 08, 09, 12, 13, 18, 21) -/

/-- R31, R40, R41, R45 to R53, R79, R194, R195, R200: a ready strand whose header passes its checks starts its clause: its flags rise, it holds its
port; it parks where the header waits; inside its clause it goes on. A word that held, a parked word and a waiting strand are tried again. Two
strands at one header may fuse, and a retired wave whose accesses are performed frees its slot. That the fused strand is a handler's when one
of the two is is the model's choice (log 24). -/
def Obligations.ClauseStepsComplete : Prop :=
  (∀ (s : State) (w n : Nat) (v : Wave) (t : Strand), s.waves[w]? = some v → v.phase = .live → v.thread n = some t →
    (∀ u x h, t.free = true → ¬ ⟨w, n⟩ ∈ s.running → mayIssue s v n t = true → t.clause = none → t.pc.toNat % 8 = 0 →
      fetchWord s v t.pc.toNat = .ok u x → headerOf x = .ok h →
      ∀ u' ws, fetchWords v (clauseAddrs t.pc h.count) u = (u', ws, none) → clauseError v (n == 8) t.mask h ws = none →
      let wait := headerWait u' w v (n == 8) t.mask h (ws.filterMap instrOf)
      (wait = .no → n = 8 ∨ portBusy u w n v h.port = false → exec (.clauseStart w n) s = .next (bump (beginClause u' w n t h)))
      ∧ (wait ≠ .no → exec (.clauseStart w n) s = .next (bump (parkWait u' v w n wait))))
    ∧ (∀ c, t.clause = some c → mayIssue s v n t = true → pendingHit s w v (n == 8) t.mask (remaining s v t) = false →
      n = 8 ∨ portBusy s w n v c.port = false →
      (t.free = true → ¬ ⟨w, n⟩ ∈ s.running →
        exec (.clauseStart w n) s = .next (bump { s with running := s.running ++ [⟨w, n⟩] }))
      ∧ (∀ k b, k < s.progress →
        let again := (Host.Outcome.next
          { modThread s w n (fun t => { t with park := .none }) with
            running := ⟨w, n⟩ :: (modThread s w n fun t => { t with park := .none }).running } : Host.Outcome State Fault Refusal)
        (t.park = .hold k → exec (.heldWordIssue w n) s = again) ∧ (t.park = .block k b → exec (.strandWake w n) s = again)))
    ∧ (∀ k, t.park = .wait k → (n = 8 → stopping s v = false) →
      let now := waitNow s w n v t
      (now = .no → k ≠ .no → exec (.strandWake w n) s = .next (bump (modThread s w n fun t => { t with park := .none })))
      ∧ (now ≠ .no → now ≠ k → exec (.strandWake w n) s = .next (bump (parkWait s v w n now)))))
  ∧ (∀ (s : State) (w n m : Nat) (v : Wave) (a b : Strand), s.waves[w]? = some v → v.phase = .live → n ≠ m →
    (v.strands.find? fun t => t.num == n) = some a → (v.strands.find? fun t => t.num == m) = some b →
    fusible a = true → fusible b = true → a.pc = b.pc →
    exec (.opportunisticFusion w n m) s = .next (waveStepped (modWave s w fun v =>
      { v with
        strands := { num := min n m, mask := a.mask ||| b.mask, pc := a.pc, clause := none, park := .none, handler := a.handler || b.handler }
          :: v.strands.filter fun u => u.num != n && u.num != m }) w))
  ∧ ∀ (s : State) (w : Nat) (v : Wave), s.waves[w]? = some v → v.phase = .retired → unperformed s w = false →
    exec (.slotFree w) s = .next (deviceStepped (modWave s w fun v => { v with phase := .gone }))

/-- R47: a header word gives its fields as the rule lays them out: PORT, COUNT (0 means 16), WAIT, SETA and SETB (15 means none). -/
def Obligations.HeaderFieldsRead : Prop :=
  ∀ (port : Fin 5) (count : Fin 16) (wait : BitVec 12) (a b : Fin 13),
    let code := fun (f : Fin 13) => if f.val = 12 then 15 else f.val
    let flag := fun (f : Fin 13) => if f.val = 12 then none else some f.val
    headerOf (0b1010 * 2 ^ 60 + port.val * 2 ^ 57 + count.val * 2 ^ 53 + wait.toNat * 2 ^ 41 + code a * 2 ^ 37 + code b * 2 ^ 33)
      = .ok { port := [Port.v, .m, .x, .k, .s].getD port.val .v, count := if count.val = 0 then 16 else count.val, wait := wait.toNat
              seta := flag a, setb := flag b }

/-- R48, R66, R211, R216, R226, R285, R299, R381, R389, R399, R430: how operations in flight end. A result is written to its registers,
which are no longer pending; a store, a fill or an engine command that no engine command before it keeps from its lines, or the bay's oldest
X operation, is performed; a traversal ends with its slot finished; a rejected access is tried again, takes its entries or counts one more
rejection, and after 64 takes a reserved one; an injector releases what it held. -/
def Obligations.FlightStepsComplete : Prop :=
  (∀ (s : State) (id : Nat) (f : Flight), flightOf s id = some f →
    (f.wb = true → f.kind ≠ .commit → tresWaits s f = false → f.rejected = none → f.behind s = false → (∀ d ∈ s.err.delayed, d.2 ≠ some id) →
      exec (.resultWriteback id) s = .next (waveStepped (updateFlight (modWave s f.wave fun v => returnResults v f) id fun f =>
        { f with wb := false, regs := [], res := [] }) f.wave))
    ∧ (f.perf = true →
      (f.kind = .access → f.rejected = none → f.behind s = false → exec (.accessPerformed id) s = .next (waveStepped (performed s id) f.wave))
      ∧ (f.kind = .engine → f.behind s = false →
        exec (.engineCommandComplete id) s = .next (waveStepped (performed s id) f.wave))
      ∧ (∀ y seq p, f.kind = .fill y seq p → f.behind s = false →
        exec (.yarnFillComplete id) s = .next (waveStepped (performed (modYarn s f.wave y fun k => endFill k seq p) id) f.wave))
      ∧ (f.kind = .me → (∀ g ∈ s.flights, g.id < id → g.kind = .me → g.perf = true → sameBay s g.wave f.wave = false) →
        exec (.meOperationComplete id) s = .next (waveStepped (performed s id) f.wave))
      ∧ (∀ y v, f.kind = .trace y → s.waves[f.wave]? = some v →
        ((raySlot v y).known = true → exec (.traversalComplete id) s = .next (waveStepped (endTrace s f.wave y id) f.wave))
        ∧ ∀ u, (raySlot v y).known = false → knowSlot s f.wave v y = .ok u →
          exec (.traversalComplete id) s = .next (waveStepped (endTrace u f.wave y id) f.wave)))
    ∧ ∀ k v, f.rejected = some k → s.waves[f.wave]? = some v →
      (missRoom s false f.miss f.homeMiss = true →
        exec (.accessRejectRetry id) s = .next (deviceStepped (modFlight s id fun f => { f with rejected := none })))
      ∧ (missRoom s false f.miss f.homeMiss = false → exec (.accessRejectRetry id) s
        = .next (raisePerf (modFlight s id fun f => { f with rejected := some (k + 1), aged := false }) v.core v.bay 1))
      ∧ (64 ≤ k → missRoom s true f.miss f.homeMiss = true →
        (∀ g ∈ s.flights, ∀ j, g.rejected = some j → g.id < id → 64 ≤ j →
          (∀ a ∈ f.miss, ∀ b ∈ g.miss, b.2 ≠ a.2) ∧ ∀ a ∈ f.homeMiss, ∀ b ∈ g.homeMiss, b.2 ≠ a.2) →
        exec (.agedReservation id) s
          = .next (deviceStepped (raisePerf (modFlight s id fun f => { f with rejected := none, aged := true }) v.core v.bay 2))))
  ∧ (∀ (s : State) (w : Nat) (v : Wave), s.waves[w]? = some v → v.phase = .live → exec (.walkStarvation w) s = .next s)
  ∧ ∀ (s : State) (ix : Nat) (d : Nat × Option Nat), (s.err.delayed.find? fun d => d.1 == ix) = some d →
    exec (.injectorDelayExpiry ix) s = .next (deviceStepped { s with err := { s.err with delayed := s.err.delayed.erase d } })

/-- R36, R37, R179, R180, R241, R248, R257, R304, R314, R322, R351: what may befall a wave between its words, and what the version directory
and the home slices do by themselves: a monitor triggers, an MWAIT times out, the watchdog and the trap of a parked strand, a bank goes
drowsy, a debugger reads and writes a register, or meets a gated one; a region is darned, a ply reconciled, a partial line folded, a
deferred effect issued. -/
def Obligations.WaveEventStepsComplete : Prop :=
  (∀ (s : State) (w : Nat) (v : Wave), s.waves[w]? = some v → v.phase = .live →
    (∀ m, v.monitor = some m → exec (.monitorSpuriousTrigger w) s
      = .next (waveStepped (modWave s w fun v => { v with monitor := some { m with triggered := true } }) w))
    ∧ (trapReady s w v = true → exec (.trapTaken w) s = .next (waveStepped (takeTrap s w) w))
    ∧ (∀ bank, bankHeld v bank = true → ¬ bank ∈ v.drowsy → bitsN (hreg s v.hank 0x100).toNat 11 0 ≠ 0 →
      exec (.bankDrowsy w bank) s = .next (modWave s w fun v => { v with drowsy := v.drowsy ++ [bank] }))
    ∧ (∀ r x q, v.region = some r → r.committing = true → tagsPending s w r = false →
      (foldTracked s r).waves[w]? = some x → x.region = some q → darn (foldTracked s r) w x q ≠ s →
      exec (.darnerCommit w) s = .next (waveStepped (darn (foldTracked s r) w x q) w))
    ∧ (∀ n t x, v.thread n = some t → t.park = .mwait → parkedAt s v t = some (.mwait x) → x.f ≠ 0 →
      exec (.mwaitTimeout w n) s = .next (waveStepped (endMwait s w) w))
    ∧ (∀ n t x, v.thread n = some t → watched s v t = true → hreg s v.hank 0x028 ≠ 0 →
      let last := t.park = .needle ∧ ∀ u ∈ v.everyStrand, u.num ≠ n → u.park ≠ .needle
      let u := modThread (if last then leaveFifo s w v else s) w n fun t => { t with park := .none }
      u.waves[w]? = some x →
      (t.handler = true → exec (.watchdog w n) s = .next (waveStepped (doubleFault u w x) w))
      ∧ (t.handler = false → ∃ r, exec (.watchdog w n) s = .next r
        ∧ finishDone u u (fetchCtx x w n { t with park := .none } (opcAt u x t.wordPc)) noWord
            { Stops.none with faults := (lanesOf t.mask).map fun l => laneFault l .watchdog } = .next r))
    ∧ (∀ reg lane, reg < v.nregs → reg < 256 → lane < 8 →
      let t := modWave s w fun v => { v with drowsy := v.drowsy.filter (· != reg / 32) }
      exec (.debuggerAccess w reg lane none) s = .next { t with host := t.host ++ [.data (natLe 4 (Row.lane (v.reg reg) lane).toNat) false] }
      ∧ ∀ x, exec (.debuggerAccess w reg lane (some x)) s = .next (modWave s w fun v =>
          { (v.put false (maskOfList [lane]) reg (Word.splat x)) with drowsy := v.drowsy.filter (· != reg / 32) })))
  ∧ (∀ (s : State) (w reg lane : Nat), lane < 8 → reg < 256 → (∀ v, s.waves[w]? = some v → v.phase ≠ .live ∨ v.nregs ≤ reg) →
    exec (.debuggerAccess w reg lane none) s = .next { s with gated := true, host := s.host ++ [.data (natLe 4 0) false] }
    ∧ ∀ x, exec (.debuggerAccess w reg lane (some x)) s = .next { s with gated := true })
  ∧ (∀ (s : State) (h p : Nat), ((hankOf s h).recon.any fun r => r.1 == p) = true →
    exec (.plyReconcile h p) s = .next (deviceStepped (modHank s h fun k => { k with recon := k.recon.filter fun r => r.1 != p })))
  ∧ (∀ (s : State) (cl line : Nat) (p : Partial), (s.partials.find? fun p => p.cluster == cl && p.line == line) = some p →
    exec (.partialEviction cl line) s = .next (deviceStepped
      (evictPartial { s with partials := s.partials.filter fun q => !(q.cluster == cl && q.line == line) } p)))
  ∧ ∀ (s : State) (h : Nat) (e : LogEntry) (es : List LogEntry) (t : State), (hankOf s h).draining = e :: es → issueEntry s h e = .done t →
    let u := endDeferred (modHank t h fun k => { k with draining := es }) [e]
    exec (.deferredEntryIssue h) s = .next (deviceStepped (settleAll (if es = [] then endKeep u h else u)))

/-! ### The scheduler (13 R324 to R331, 19 R365 to R383) -/

/-- R325, R329, R368 to R374, R378, R383: the queue processor takes and checks the next record and refuses it with its first reason; the
head pending team is placed where it has seats; a bin that holds enough records, or an old one, launches; a completion value enters an empty
cell; victims are asked, and waves are saved and restored. -/
def Obligations.SchedulerStepsComplete : Prop :=
  (∀ (s : State) (h p q : Nat), quiesced s h = false → nextQueue s h = some (p, q) →
    (headRec s h p q = .unreadable → exec (.queueDispatch h) s
      = .next (deviceStepped (refuse (takeHead s h p q (Vector.replicate 16 0)) s.launches.length 1)))
    ∧ ∀ r tok, headRec s h p q = .record r tok →
      let u := match tok with
        | some (l, c) => cellWrite (takeHead s h p q r) h l (c.take 8 ++ natLe 8 0)
        | none => takeHead s h p q r
      let reason := if doneUnreadable u h r then 1 else refuseReason u h p r false
      exec (.queueDispatch h) s = .next (deviceStepped (if reason = 0 then u else refuse u s.launches.length reason)))
  ∧ (∀ (s : State) (h li : Nat) (l : Launch), headPending s h = some (.next li) → s.launches[li]? = some l →
    ∀ xs, seatsFor s l (roomOf s h) = some xs →
      (l.nextTeam = 0 → isLive (hankOf s h) (recPly l.record) = false → exec (.teamPlacement h) s = .next (deviceStepped (refuse s li 11)))
      ∧ (l.nextTeam ≠ 0 ∨ isLive (hankOf s h) (recPly l.record) = true → s.sysc.stage ≠ 15 →
        exec (.teamPlacement h) s = .next (deviceStepped (placeTeams s li l xs))))
  ∧ (∀ (s : State) (h b : Nat) (k : Bin), binOf s h b = some k → binOn s h b = true →
    (max 1 (recBatch k.template) ≤ k.recs.length → exec (.binLaunch h b) s = .next (deviceStepped (launchBin s h k)))
    ∧ ∀ t d ds, k.recs = (t, d) :: ds → recTimer k.template ≠ 0 → exec (.binTimerExpiry h b) s
      = .next (deviceStepped (launchBin { s with clock := max s.clock (t + 1024 * recTimer k.template) } h k)))
  ∧ (∀ (s : State) (li : Nat) (d : Done) (l : Leaf) (c : Bytes), (s.dones.find? fun d => d.launch == li) = some d →
    cellOf s d.hank d.cell.toNat = .ok l c → cellFull c = false →
    let put := deviceStepped (markHeld (cellWrite { s with dones := s.dones.filter fun e => e.launch != d.launch } d.hank l
      (natLe 8 d.value.toNat ++ natLe 8 1)) d.hank d.queue)
    (d.held = false → earlierDone s d = false → launchBusy s li = false → exec (.doneTokenPut li) s = .next put)
    ∧ (d.held = true → exec (.doneTokenRetry li) s = .next put))
  ∧ (∀ (s : State) (h : Nat) (p : PendingTeam) (vs : List Nat) (u : State), headPending s h = some p →
    let going := (List.range s.teams.length).filter (askedTeam s)
    let ok := fun (ts : List Nat) => fits s h p (roomWithout s h (going ++ ts))
    ok [] = false → gather s ok (victims s h (pendingPrio s p)) [] = some vs → askTeams h (prune s ok vs.reverse vs) s = some u →
    exec (.preemptRequest h) s = .next (deviceStepped u))
  ∧ (∀ (s : State) (w : Nat) (v : Wave), s.waves[w]? = some v → v.phase = .live →
    (v.preempt = .asked → recPromise (recordOf s v) = true → (v.clauseCount.any fun k => decide (4096 ≤ k)) = true →
      exec (.promiseBroken w) s = .next (deviceStepped
        { s with waves := s.waves.map fun u => if u.team = v.team ∧ u.preempt = .asked then { u with preempt := .full } else u }))
    ∧ (saveReady s w v = true → ctxBase s v.hank + v.ctx + waveRoom v.nregs ≤ Config.physBytes →
      (partnerOf s w v = none → exec (.fullSave w) s = .next (deviceStepped (settleAll (saveWave s w))))
      ∧ ∀ n x, partnerOf s w v = some n → s.waves[n]? = some x → saveReady s n x = true →
        exec (.fullSave w) s = .next (deviceStepped (settleAll (saveWave (saveWave s w) n)))))
  ∧ ∀ (s : State) (i : Nat) (t : Team) (ps : List (Nat × Seat)), s.teams[i]? = some t → headPending s t.hank = some (.saved i) →
    s.sysc.stage ≠ 15 → restoreSeats s t.hank (teamRecord s i) s.teams.length (teamUnit s i) (roomOf s t.hank) [] = some ps →
    buffersFit (ps.foldl restoreTeam s) = true →
    exec (.teamRestore i) s = .next (deviceStepped (settleAll (ps.foldl restoreTeam s)))

/-! ### Registers of the device (18 R364, 19 R366 to R375, 20 R391 to R394, 22 R407 to R411, 23 R424, R427, R429, 24 R438, R439, R442) -/

/-- R366, R367, R375: in RUN a 64-bit doorbell write of a host queue within its ring advances TAIL, any other sets BADDB; a legal QRING
write of an empty queue stores it and zeroes HEAD and TAIL; QSTAT clears the bits written as 1; a legal BINCFG write configures an idle bin.
A write that a rule does not accept changes nothing. -/
def Obligations.QueueRegisterWritesComplete : Prop :=
  ∀ (s : State) (h p q : Nat) (x : RegWrite),
    let o := queueOff p q
    let r := (hreg s h o).toNat
    let tail := (hreg s h (o + 0x08)).toNat
    let head := (hreg s h (o + 0x10)).toNat
    (∀ page, reaches s h x = true → x.half = .full → (page = false ∨ feature s 1 = true) →
      (ringSrc r = false → ringEn r = true → tail < x.val.toNat → x.val.toNat - head ≤ ringSize r →
        exec (.hostDoorbell h p q page x) s = .next (deviceStepped (setHreg s h (o + 0x08) x.val)))
      ∧ (ringSrc r = true ∨ ringEn r = false ∨ x.val.toNat ≤ tail ∨ ringSize r < x.val.toNat - head →
        exec (.hostDoorbell h p q page x) s = .next (deviceStepped (badDoorbell s h p q))))
    ∧ (let v := mergeWrite x (hreg s h o)
      let accepts := reaches s h x = true ∧ hreg s h (o + 0x08) = hreg s h (o + 0x10) ∧ 1 ≤ v.toNat % 32 ∧ v.toNat % 32 ≤ 12
      (accepts → exec (.qringWrite h p q x) s
        = .next (deviceStepped (setHreg (setHreg (setHreg s h o v) h (o + 0x08) 0) h (o + 0x10) 0)))
      ∧ (¬ accepts → exec (.qringWrite h p q x) s = .next (deviceStepped s)))
    ∧ (reaches s h x = true → exec (.qstatWrite h p q x) s
      = .next (deviceStepped (setHreg s h (o + 0x18) (hreg s h (o + 0x18) &&& ~~~(mergeWrite x 0 &&& 3)))))
    ∧ ∀ b, let v := mergeWrite x (hreg s h (0x200 + 8 * b))
      let accepts := reaches s h x = true ∧ fitsMask v 0xFFFFFFFFFFFFFF81 = true ∧ binBusy s h b = false
      (accepts → exec (.bincfgWrite h b x) s = .next (deviceStepped (configureBin s h b v)))
      ∧ (¬ accepts → exec (.bincfgWrite h b x) s = .next (deviceStepped s))

/-- R363, R364, R391 to R394, R407, R424: the registers of a control block with an effect of their own, where the write is accepted:
HANKCTL, WAYS with BUSY until the change completes, MEMCFG, the shadow pool, POOLFREE, INVREQ until its invalidation completes, MIGACK,
MIGHEAD, GAUGEC. A plain register keeps the value written within its mask, its regions and its quiescence. That MIGACK answers the whole
leaf that holds the page is the model's reading (log 33). -/
def Obligations.HankRegisterWritesComplete : Prop :=
  ∀ (s : State) (h : Nat) (x : RegWrite),
    let at_ := fun (off : Nat) => mergeWrite x (hreg s h off)
    let took := fun (i : Instr) (t : State) => exec i s = .next (deviceStepped t)
    let emptied := fun (t : State) => modHank t h fun k => { k with recon := k.recon.map fun r => (r.1, 0) }
    (reaches s h x = true →
      (x.vf = false → (hankOf s h).wayBusy = false → fitsMask (at_ 0) 0x7F = true →
        took (.hankctlWrite h x) (setHreg s h 0 (hankctlNext s h (at_ 0) (hreg s h 0))))
      ∧ (formOk s h x = true → waysOk s h (at_ 0x010) = true →
        took (.waysWrite h x) (modHank (setHreg s h 0x010 (at_ 0x010)) h fun k =>
          { k with wayBusy := hreg s h 0x010 &&& ~~~(at_ 0x010) != 0 }))
      ∧ (quiescent s h = true → fitsMask (at_ 0x100) 0xFFFF00000FFF = true → bitsN (at_ 0x100).toNat 47 32 &&& cacheWays s = 0 →
        let old := vwaysOf s h
        let new := bitsN (at_ 0x100).toNat 47 32
        took (.memcfgWrite h x) (setHreg (if new = old then s else moveVaultPoison (loseWays s h old new) h old new) h 0x100 (at_ 0x100)))
      ∧ (quiescent s h = true → fitsMask (at_ 0x108) 0xFFFFFFFFF0000 = true → regionWriteOk s h 0x108 (at_ 0x108).toNat = true →
        took (.shadowPoolWrite h false x) (emptied (setHreg s h 0x108 (at_ 0x108))))
      ∧ (quiescent s h = true → fitsMask (at_ 0x110) 0xFFFFFF = true → regionWriteOk s h 0x110 (at_ 0x110).toNat = true →
        took (.shadowPoolWrite h true x) (emptied (setHreg s h 0x110 (at_ 0x110))))
      ∧ (∀ i, x.half = .full → x.val.toNat = (hreg s h 0x128).toNat + 2 ^ 16 * i → (hreg s h 0x128).toNat % 2 ^ 16 = 0 →
        i < (hreg s h 0x130).toNat →
        took (.poolfreeWrite h x) (modHank s h fun k => { k with taken := k.taken.filter (· != i) }))
      ∧ (fitsMask (at_ 0x158) 0xFF = true →
        took (.migheadWrite h x) (writeRequests (setHreg s h 0x158 (at_ 0x158)) h (hankOf s h).migr.length))
      ∧ (∀ g, took (.gaugecWrite h g x) (modHank s h fun k =>
          { k with gauges := k.gauges.setIfInBounds g { (k.gauges[g]?.getD Gauge.off) with fails := 0 } }))
      ∧ ∀ off m q, h < 8 → plainReg off = some (m, q) → fitsMask (at_ off) m = true → (q = false ∨ quiescent s h = true) →
        (assignsRegion off = false ∨ regionWriteOk s h off (at_ off).toNat = true) →
        took (.registerWrite (0x800000 + 0x100000 * h + off) (.write x)) (freshPool (setHreg s h off (at_ off)) h off))
    ∧ ((hankOf s h).wayBusy = true → took (.wayChangeComplete h) (modHank (flushHank s h) h fun k => { k with wayBusy := false }))
    ∧ (s.sysc.stage = 6 → ∀ va : DWord,
      (va.toNat % 2 ^ 16 = 0 → took (.invreqPage h va) (modHank s h fun k => { k with inv := k.inv ++ [some va.toNat] }))
      ∧ took (.invreqAll h) (modHank s h fun k => { k with inv := k.inv ++ [none] })
      ∧ ∀ p, askedPage s h va.toNat = some p →
        took (.migackDone h va) (settleAll (answerPage s h p (if changedHank s h va.toNat then some 1 else none)))
        ∧ took (.migackRefused h va)
          (settleAll (refuseDeferred (refuseCommits (refuseTraces (answerPage s h p (some 0)) h p) h p) h p)))
    ∧ ∀ p ps, (hankOf s h).inv = p :: ps →
      took (.invalidationComplete h) (invalidate (modHank s h fun k => { k with inv := ps }) h p)

/-! ### Traversal contexts, display, media (21 R401 to R406, 22 R416 to R419) -/

/-- R401 to R403, R406, R417, R418: LOAD and RESET of a context that is not busy make it busy, drop its rays and retire their waves; the
load ends LOADED when the image verifies, else BADIMG; a context fault sets FAULT, clears LOADED, writes a record and signals the hank. An
accepted HEADCTL write takes effect, and a vblank of an enabled head shows its next flip; each starts a frame (R416). A media command whose
block can be read runs, or gives status 1, and puts its value; one whose block cannot be read puts FAULT where its DONE word can. -/
def Obligations.ContextDisplayMediaStepsComplete : Prop :=
  (∀ (s : State) (h c : Nat) (x : RegWrite), trctlOk s h c x = true →
    (x.val.getLsbD 0 = true → exec (.trctlLoad h c x) s = .next (deviceStepped (settleAll (resetContext (modContext s h c fun k =>
      { k with busy := true, loading := true, image := x.val &&& ~~~3, badImg := false, fault := false, ndrop := 0 }) h c))))
    ∧ (x.val.getLsbD 1 = true → exec (.trctlReset h c x) s = .next (deviceStepped (settleAll (resetContext (modContext s h c fun k =>
      { k with busy := true, loading := false, image := x.val &&& ~~~3 }) h c)))))
  ∧ (∀ (s : State) (h c : Nat), (contextNo s h c).busy = true →
    ((contextNo s h c).loading = true → exec (.traversalLoadComplete h c) s = .next (deviceStepped (modContext s h c fun k =>
      { k with busy := false, loading := false, loaded := imageValid s (contextNo s h c).image && !k.fault
               badImg := !imageValid s (contextNo s h c).image })))
    ∧ ((contextNo s h c).loading = false →
      exec (.traversalResetComplete h c) s = .next (deviceStepped (modContext s h c fun k => { k with busy := false }))))
  ∧ (∀ (s : State) (row col c h : Nat), ((List.range 8).find? fun h => coreInHank s h (14 * row + col)) = some h →
    exec (.traversalContextFault row col c) s = .next (deviceStepped (settleAll (hankEvent
      (errRecord (dropRays (modContext s h c fun k => { k with fault := true, loaded := false }) h c fun k => k == 14 * row + col)
        1 (coreField (14 * row + col)) h 7 0 (BitVec.ofNat 64 c)) h 2))))
  ∧ (∀ (s : State) (n : Nat) (x : RegWrite), s.sysc.stage = 6 → x.vf = false →
    let v := mergeWrite x ((headOf s n).regs.read 0)
    fitsMask v 0x3FD = true → bitsN v.toNat 6 5 ≠ 3 →
    (v.getLsbD 0 = false ∨ (limitsOk (headOf s n) = true ∧ connectorTaken s n (bitsN v.toNat 3 2) = false ∧ streamFits (headOf s n) v = true)) →
    let t := modHead s n fun d => headNext d v
    exec (.headctlWrite n x) s = .next (deviceStepped (if v.getLsbD 0 then scanFrame t n 0 else t)))
  ∧ (∀ (s : State) (n : Nat), s.sysc.stage = 6 → ((headOf s n).regs.read 0).getLsbD 0 = true →
    exec (.vblank n) s = .next (deviceStepped (scanFrame (modHead s n Head.vblank) n 0)))
  ∧ ∀ (s : State) (n : Nat),
    (∀ m ms u b, (mediaOf s n).done = none → (mediaOf s n).queue = m :: ms →
      mediaRead m.hank (pagePieces m.blk.toNat 256) (modMedia s n fun q => { q with queue := ms, lost := false }) [] = (u, some b) →
      badBlock b = true ∨ mediaHeld u m.hank b = none →
      let r := if badBlock b then (u, 0, 1) else runMedia u m.hank b (mediaOf s n).lost
      let value := BitVec.ofNat 64 (r.2.1 * 2 ^ 32 + r.2.2)
      let cell := BitVec.ofNat 64 (blkDone b)
      (cell = 0 → exec (.mediaCommand n) s = .next (deviceStepped (modMedia r.1 n fun q => { q with done := none })))
      ∧ ∀ l c, cell ≠ 0 → cellOf r.1 m.hank cell.toNat = .ok l c →
        exec (.mediaCommand n) s = .next (deviceStepped
          (if cellFull c then modMedia r.1 n fun q => { q with done := some (m.hank, cell, value) }
          else cellWrite (modMedia r.1 n fun q => { q with done := none }) m.hank l (natLe 8 value.toNat ++ natLe 8 1))))
    ∧ (∀ m ms u, (mediaOf s n).done = none → (mediaOf s n).queue = m :: ms →
      mediaRead m.hank (pagePieces m.blk.toNat 256) (modMedia s n fun q => { q with queue := ms, lost := false }) [] = (u, none) →
      (blockCell u m.hank m.blk.toNat = none → exec (.mediaCommand n) s = .next (deviceStepped u))
      ∧ ∀ cell l c, blockCell u m.hank m.blk.toNat = some cell → cell ≠ 0 → cellOf u m.hank cell.toNat = .ok l c → cellFull c = false →
        exec (.mediaCommand n) s = .next (deviceStepped (cellWrite (modMedia u n fun q => { q with done := none }) m.hank l (natLe 8 2 ++ natLe 8 1))))
    ∧ ∀ h cell value l c, (mediaOf s n).done = some (h, cell, value) → cell ≠ 0 → cellOf s h cell.toNat = .ok l c → cellFull c = false →
      exec (.mediaDoneRetry n) s = .next (deviceStepped (cellWrite (modMedia s n fun q => { q with done := none }) h l
        (natLe 8 value.toNat ++ natLe 8 1)))

/-! ### The host (22 R411 to R415) -/

/-- R411, R412, R415, R431: in RUN a host access of bytes of GDDR 7 is served: coherent ones at the home copy, direct ones behind the
caches, after the evictions that the free value of log 8 names; an AtomicOp of a size and alignment it may have answers the old value and
writes the new one, and one through the direct aperture, or from a peer without PEER, gets an Unsupported Request; outside RUN a coherent
access gets one too. That a coherent write reaches GDDR 7 at once is the model's choice (log 33). A window access of a hank whose virtual
function is on reaches the bytes behind its leaf. -/
def Obligations.HostAccessesComplete : Prop :=
  (∀ (s : State) (pa n : Nat) (peer hint : Bool) (bs : Bytes),
    (s.sysc.stage = 6 → (peer = false ∨ feature s 3 = true) →
      (pa + n ≤ Config.physBytes →
        exec (.hostCoherentRead pa n peer) s = .next (deviceStepped (coherentRead s pa n))
        ∧ exec (.hostDirectRead pa n peer) s = .next (deviceStepped (answer (evictSome s pa n)
          (.data (gddrRead (evictSome s pa n) pa n) (gddrPoison (evictSome s pa n) pa n)))))
      ∧ (pa + bs.length ≤ Config.physBytes →
        exec (.hostCoherentWrite pa bs peer) s = .next (deviceStepped (rootWrite (atHome s pa bs.length) none false pa bs))
        ∧ exec (.hostDirectWrite pa bs peer hint) s
          = .next (deviceStepped ((linesOf pa bs.length).foldl (gddrWriteLine pa bs) (evictSome s pa bs.length)))))
    ∧ (s.sysc.stage ≠ 6 →
      exec (.hostCoherentRead pa n peer) s = .next (deviceStepped (answer s .ur))
      ∧ exec (.hostCoherentWrite pa bs peer) s = .next (deviceStepped (answer s .ur))))
  ∧ (∀ (s : State) (pa n : Nat) (via : AtomicVia), s.sysc.stage = 6 → feature s 2 = true → pa + n ≤ Config.physBytes → pa % n = 0 →
    via = .coherent ∨ (via = .peer ∧ feature s 3 = true) →
    let u := atHome s pa n
    let old := leNat (u.mem.readBytes pa n)
    let told := dropCopies (answer u (.data (natLe n old) (rootPoison u pa n).isSome)) (lineOf pa)
    (n = 4 ∨ n = 8 → ∀ v : DWord,
      exec (.fetchadd pa n v via) s = .next (deviceStepped (rootWrite told none false pa (natLe n ((old + v.toNat) % 2 ^ (8 * n)))))
      ∧ exec (.swap pa n v via) s = .next (deviceStepped (rootWrite told none false pa (natLe n (v.toNat % 2 ^ (8 * n))))))
    ∧ (n = 4 ∨ n = 8 ∨ n = 16 → ∀ cmp new : BitVec 128,
      exec (.cas pa n cmp new via) s = .next (deviceStepped
        (if old = cmp.toNat % 2 ^ (8 * n) then rootWrite told none false pa (natLe n (new.toNat % 2 ^ (8 * n))) else told))))
  ∧ (∀ (s : State) (pa n : Nat) (v : DWord) (cmp new : BitVec 128), ∀ via : AtomicVia, via = .direct ∨ (via = .peer ∧ feature s 3 = false) →
    let refused := (Host.Outcome.next (deviceStepped (answer s .ur)) : Host.Outcome State Fault Refusal)
    exec (.fetchadd pa n v via) s = refused ∧ exec (.swap pa n v via) s = refused ∧ exec (.cas pa n cmp new via) s = refused)
  ∧ ∀ (s : State) (h off : Nat) (l : Leaf), s.sysc.stage = 6 → vfOn s h = true →
    pteHank l.pte = h → pteOwn l.pte = true →
    (∀ n, walk s h ((hreg s h 0x030).toNat + off) = .leaf l → off + n ≤ 2 ^ 37 → off % 2 ^ 16 + n ≤ 2 ^ 16 →
      l.pa + n ≤ Config.physBytes →
      exec (.vfWindowAccess h off n none) s = .next (deviceStepped (windowRead (markUsed s h l false) h l n)))
    ∧ ∀ n bs, walkFor s h ((hreg s h 0x030).toNat + off) true = .leaf l → off + bs.length ≤ 2 ^ 37 → off % 2 ^ 16 + bs.length ≤ 2 ^ 16 →
      l.pa + bs.length ≤ Config.physBytes → wpHolds s h l = false →
      exec (.vfWindowAccess h off n (some bs)) s = .next (deviceStepped (coherentWrite (markUsed s h l true) l.pa bs))

/-! ### Reliability (23 R420 to R430) -/

/-- R420, R421, R423, R427 to R430: a corrected error counts; an uncorrectable one poisons its granule and leaves a record of severity 2;
one in shared state strikes the waves of its unit; a link that fails poisons one granule; an injector counts the flits that it meets, fires
at its N-th, leaves a record, disarms unless it repeats, and acts on the flit. ERRBASE zeroes TAIL and HEAD, CECOUNT is cleared, INJSEL arms
an injector with its count at 0. That SHARED has severity 1 for a bay and for clean lines, 2 for dirty or listed lines and 3 for a version
directory is the model's choice (log 29), and so are LINKFAIL's one granule and its source 4 or 6 (log 34). -/
def Obligations.ReliabilityStepsComplete : Prop :=
  ∀ s : State,
    exec .correctedError s = .next (deviceStepped { s with rel := s.rel.set 0x020 (s.rel.read 0x020 + 1) })
    ∧ (∀ sq src, granuleThere s (.store sq) = true → src ≤ 6 → exec (.poison (.store sq) src) s = .next (deviceStepped (poisonGranule s (.store sq) src)))
    ∧ (∀ loc src, granuleThere s loc = true → src ≤ 6 → (∀ sq, loc ≠ .store sq) → exec (.poison loc src) s = .next (deviceStepped
      (errRecord (poisonGranule s loc src) 2 (granuleCore s loc) 0 1 (BitVec.ofNat 64 (granuleLine loc)) (BitVec.ofNat 64 src))))
    ∧ (∀ row col bay, row < 8 → col < 14 → bay < 12 →
      exec (.shared (.bay row col bay)) s = .next (deviceStepped (settleAll (sharedRecord 1 (coreField (14 * row + col)) 0
        (strikeCore (zeroHolder s (14 * row + col) bay) (14 * row + col) 0)))))
    ∧ (∀ row col set, row < 8 → col < 14 →
      (set < 128 →
        let core := 14 * row + col
        let dirty := l1Dirty s core set
        let lost := (l1SetOf s core set).foldl (fun s e => dropL1 s (some e.cluster) e.hank e.ply e.line) (dirty.foldl (poisonCached 2) s)
        exec (.shared (.l1 row col set)) s = .next (deviceStepped (settleAll
          (sharedRecord (if dirty = [] then 1 else 2) (coreField core) 0 (strikeCore lost core 2)))))
      ∧ (set < 512 → clusterEnabled s (clusterOf (14 * row + col)) = true →
        let lines := l2SetOf s (14 * row + col) set
        exec (.shared (.l2 row col set)) s = .next (deviceStepped (settleAll
          (sharedRecord (if lines = [] then 1 else 2) (coreField (14 * row + col)) 0
            (lines.foldl (fun s e => abortTrackers (strikeL2 s e) e.line) s, 0, 0))))))
    ∧ (∀ h, h < 8 → exec (.shared (.versionDir h)) s
        = .next (deviceStepped (settleAll (sharedRecord 3 0xFF h ((fellHank s h).1, 0, (fellHank s h).2)))))
    ∧ (∀ (link : BitVec 20) what, let v := link.toNat
      let g := transferGranule what
      bitN v 15 = false → bitsN v 3 2 = 0 → selKind v ≠ 3 → linkThere v = true → granuleThere s g = true → linkCarries s v what = true →
      exec (.linkfail link what) s = .next (deviceStepped (errRecord (setPoison s g (if selKind v = 2 then 4 else 6)) 2 (linkCore v) 0 4
        (BitVec.ofNat 64 (granuleLine g)) (BitVec.ofNat 64 v))))
    ∧ (∀ ix hit, injectors s ix hit = [ix] → 128 * hitLine hit < Config.physBytes → let v := injReg s ix 0
      let n := (injReg s ix 3).toNat
      (injCount s ix + 1 < n % 2 ^ 32 → exec (.inject ix hit) s = .next (deviceStepped (setCount s ix (injCount s ix + 1))))
      ∧ (n % 2 ^ 32 ≤ injCount s ix + 1 → makesRetry v.toNat = false →
        let t := setInj s ix 3 (BitVec.ofNat 64 ((n / 2 ^ 32 + 1) % 2 ^ 32 * 2 ^ 32 + n % 2 ^ 32))
        let u := errRecord (if selRepeat v.toNat then setCount t ix 0 else setInj t ix 0 (v &&& ~~~0x300000)) 0 (linkCore v.toNat) 0 11
          (BitVec.ofNat 64 (128 * hitLine hit)) (BitVec.ofNat 64 ix)
        exec (.inject ix hit) s = .next (deviceStepped
          (if selAction v.toNat = 1 then corruptFlit u (injReg u ix 2) hit
          else if selAction v.toNat = 3 then { u with err := { u.err with delayed := u.err.delayed ++ [(ix, hitFlight hit)] } } else u))))
    ∧ (∀ ix hit, ix ∈ injectors s ix hit → 128 * hitLine hit < Config.physBytes →
      exec (.inject ix hit) s = .next (deviceStepped (passFlit ix hit false 4 s)))
    ∧ ∀ x : RegWrite, s.sysc.stage = 6 → x.vf = false →
      (∀ ix, ix < 32 → let v := mergeWrite x (injReg s ix 0)
        fitsMask v 0xFFFF00FF7FF3 = true → linkThere v.toNat = true → (selAction v.toNat = 0 ∨ (injReg s ix 3).toNat % 2 ^ 32 ≠ 0) →
        exec (.injselWrite ix x) s = .next (deviceStepped (setInj (if selAction v.toNat = 0 then s else setCount s ix 0) ix 0 v)))
      ∧ (fitsMask (mergeWrite x (s.rel.read 0)) 0xFFFFFFFFF8000 = true → exec (.errbaseWrite x) s = .next (deviceStepped
        { s with
          rel := (s.rel.set 0 (mergeWrite x (s.rel.read 0))).set 0x010 0
          err := { s.err with tail := 0 } }))
      ∧ exec (.cecountWrite x) s = .next (deviceStepped { s with rel := s.rel.set 0x020 0 })

/-! ### Bring-up and power (24 R431 to R442) -/

/-- R431 to R436, R438, R439, R441, R442: power-on and a fundamental reset restart the device; the boot stages follow one another or halt
with their cause; FEATACK stores the features offered and enters RUN; a quote is started and completed; the governor sets ACLK; a thermal
trip leaves a record, whose fields the spec leaves open (log 23), and halts with cause 8; POWER clears THROT. That a control store whose
image does not verify halts the device with cause 4, and that a thermal trip may come in any state, are the model's choices (log 35), as are
the firmware's size and the place of its SVN (log 12). -/
def Obligations.BringUpStepsComplete : Prop :=
  ∀ s : State,
    exec .powerOn s = .next (restart s) ∧ exec .fundamentalReset s = .next (restart s)
    ∧ (s.sysc.stage = 0 → exec .rom s = .next (deviceStepped (modSysc s fun y =>
        { y with
          stage := 1, rollback := s.board.counter, devkey := (deviceKeys s.board).1, devpriv := (deviceKeys s.board).2 })))
    ∧ (∀ selfTest, s.sysc.stage = 1 →
      let bs := s.board.flash.readBytes 0 3988
      let cause := floorplanCause bs s.sysc.rollback selfTest
      exec (.floorplan selfTest) s = .next (deviceStepped (if cause = 0 then modSysc s fun y =>
        { y with stage := 2, enmask := BitVec.ofNat 28 (fieldNat bs 8 8), fpSvn := fieldNat bs 6 2, fpDigest := digest bs }
        else halt s cause)))
    ∧ (s.sysc.stage = 2 →
      let bs := s.board.flash.readBytes 3988 Config.fwSize
      let svn := fieldNat bs Config.fwSvnAt 2
      exec .firmware s = .next (deviceStepped (if signedOk bs = false then halt s 4 else if svn < s.sysc.rollback then halt s 5
        else modSysc s fun y =>
          { y with stage := 3, fwSvn := svn, fwDigest := digest bs, vendorKey := (bs.drop (bs.length - 3732)).take 1312 })))
    ∧ (∀ trained, s.sysc.stage = 3 → exec (.memory trained) s = .next (deviceStepped (modSysc s fun y => { y with stage := 4 })))
    ∧ (∀ trained, s.sysc.stage = 4 → exec (.memory trained) s = .next (deviceStepped
      (if trained = false then halt s 6
      else if Config.storeImages.all (storeOk s) then modSysc s fun y => { y with stage := 5 } else halt s 4)))
    ∧ (∀ x : RegWrite, s.sysc.stage = 5 → x.half = .full → x.vf = false →
      exec (.featackWrite x) s = .next (deviceStepped (raiseRollback (modSysc s fun y => { y with featack := x.val &&& y.features, stage := 6 }))))
    ∧ (∀ x : RegWrite, x.half = .full → x.vf = false → x.val.getLsbD 0 = true → s.sysc.attstat ≠ 1 → fitsMask x.val 0xFFFFFFFFFFFFF001 = true →
      exec (.attctlGo x) s = .next (deviceStepped (modSysc s fun y => { y with attctl := x.val &&& ~~~1, attstat := 1 })))
    ∧ (∀ ok, s.sysc.attstat = 1 → exec (.quoteComplete ok) s = .next (deviceStepped
      (if s.sysc.devkey = [] ∨ ok = false then modSysc s fun y => { y with attstat := 3 }
      else modSysc (answer s (.busWrite s.sysc.attctl.toNat (quote s))) fun y => { y with attstat := 2 })))
    ∧ (∀ mhz watts temp, s.sysc.stage ≠ 15 → 800 ≤ mhz → mhz ≤ 2100 → mhz % 25 = 0 → temp < 115 → watts < 2 ^ 16 →
      let hold := if 105 ≤ temp then true else if temp < 100 then false else s.sysc.hold
      (hold = false ∨ mhz = 800) → exec (.governorEvaluation mhz watts temp) s = .next (deviceStepped (modSysc s fun y =>
        { y with amhz := mhz, watts := watts, temp := temp, hold := hold, throt := y.throt || hold })))
    ∧ (exec .thermalTrip s = .next (deviceStepped (halt (errRecord s 4 0xFF 0 (1 + Config.tripKind % 13) Config.tripAddr Config.tripInfo) 8)))
    ∧ ∀ x : RegWrite, x.vf = false → (mergeWrite x 0).getLsbD 40 = true → fitsMask (mergeWrite x 0) 0x1FFFFFFFFFF = true →
      exec (.powerWrite x) s = .next (deviceStepped (modSysc s fun y => { y with throt := false }))


/-! ### Encoding and decoding (02 R55 to R60, 03 R77 to R86) -/

/-- The decoder reads back every word that the encoder writes of a well-formed instruction, with every operand at every value its field
admits. -/
def Obligations.DecodingInvertsEncoding : Prop :=
  ∀ (i : Instr) (w : Nat), WellFormed i = true → encodeNat i = some w → w < 2 ^ 64 ∧ decodeNat w = .ok i

/-- The encoder writes back every word that the decoder accepts, so that no two words decode to one instruction and no bit of a word is
dropped; what is decoded is well-formed. -/
def Obligations.EncodingInvertsDecoding : Prop :=
  ∀ (i : Instr) (w : Nat), w < 2 ^ 64 → decodeNat w = .ok i → WellFormed i = true ∧ encodeNat i = some w

/-- Words written out from the tables of R55 to R60 and R78 to R83 decode to the instructions they stand for; an unassigned sub-opcode is
ILLEGAL_OP before its fields are looked at, a reserved field that is not zero ILLEGAL_FIELD (R84). -/
def Obligations.WrittenWordsDecode : Prop :=
  decodeNat 0x07400030400A0080 = .ok (.icmp ⟨0, 0, 3, 4, 0, 5, 0, 2, 0, 0⟩)
  ∧ decodeNat 0x5040004010000000 = .ok (.aldi ⟨0, 0, 4, 1, 0, 0⟩)
  ∧ decodeNat 0x0840001000000074 = .ok (.movi ⟨0, 0, 1, 7, 4⟩)
  ∧ decodeNat 0x2080001020060000 = .ok (.fmul ⟨0, 0, 1, 2, 0, 3, 0, 0, 0, 0⟩)
  ∧ decodeNat 0x60000080600002A0 = .ok (.ld ⟨0, 0, 8, 6, 0, 0, 2, 5, 0, 0⟩)
  ∧ decodeNat 0xC340000000000000 = .ok (.nop ⟨0, 0, 0, 0, 0⟩)
  ∧ decodeNat 0xE000001000000001 = .ok (.sysrd ⟨0, 0, 1, 0, 0, 1⟩)
  ∧ decodeNat 0x0940000000000001 = .error .illegalOp
  ∧ decodeNat 0xC340000000000010 = .error .illegalField

/-! ### Reset and the memory's form -/

/-- After reset SYSC is at STAGE 0, no wave, launch, team, pair or operation is resident, HANKCTL of every hank stores QUIESCE and no other
bit and reads 3, since QUIET reads 1 of a hank without work (R407, R410), every other register of a hank is stored as 0, every gauge is off,
only the root ply lives, and no bin or migration request is held (R431, R407, R268, R236); that an unwritten byte of memory reads 0 is the
model's choice (log 2). -/
def Obligations.ResetState : Prop :=
  State.reset.sysc.stage = 0 ∧ State.reset.waves = [] ∧ State.reset.launches = [] ∧ State.reset.teams = [] ∧ State.reset.pairs = []
  ∧ State.reset.flights = [] ∧ State.reset.poison = [] ∧ State.reset.versions = [] ∧ State.reset.partials = []
  ∧ (∀ a, State.reset.mem.read a = 0)
  ∧ ∀ h, h < 8 → hreg State.reset h 0 = 1 ∧ readHank State.reset h 0 = 3 ∧ (∀ off, off ≠ 0 → hreg State.reset h off = 0) ∧ (hankOf State.reset h).plies = [Ply.root]
      ∧ (∀ g, (gaugeOf State.reset h g).mode = 0) ∧ (hankOf State.reset h).bins = [] ∧ (hankOf State.reset h).migr = []

/-- Memory and vault memory are in canonical form after reset. -/
def Obligations.ResetIsCanonical : Prop := canonical State.reset

/-- Every step keeps memory and vault memory in their canonical form (addresses strictly rising, no listed byte that an unlisted one
reads as), so that equal contents are equal data. -/
def Obligations.StepsKeepMemoryCanonical : Prop :=
  ∀ s t : State, canonical s → step s = .next t → canonical t

/-! ### The step (01 R41, 02 R45, R53) -/

/-- R45, R53: the word that the step issues is the one fetched at the next word of the strand whose turn it is; where its bytes decode to
a well-formed instruction, the step is exec of that instruction, in the state the fetch left. A fetch from a page that the hank may execute reads
the eight bytes of the strand's ply, little-endian, and marks the page's entry accessed (R390). The strand whose turn it is is one that may go on
(R347), and a deferred atomic that a keep is issuing comes first (15 R338, log 4). A scheduled step is exec of that step; in HALT nothing
occurs by itself but the answer of the mailbox in the status block (R432, R439). -/
def Obligations.StepRunsTheFetchedWord : Prop :=
  (∀ (s u : State) (r : IssueRef) (rs : List IssueRef) (v : Wave) (t : Strand) (x : Nat) (i : Instr),
    s.inbox = [] → s.sysc.stage ≠ 15 → firstStep s 0 (keptAtomics s) = none → (chooseStrand s).running = r :: rs →
    mayGoOn (chooseStrand s) r = true → s.waves[r.w]? = some v → v.thread r.n = some t →
    fetchWord (chooseStrand s) v t.wordPc.toNat = .ok u x → decodeNat x = .ok i → step s = exec i u)
  ∧ (∀ (s : State) (k : Nat) (o : Host.Outcome State Fault Refusal), s.inbox = [] → s.sysc.stage ≠ 15 →
    firstStep s 0 (keptAtomics s) = some (k, o) → step s = o)
  ∧ (∀ (s : State) (v : Wave) (va : Nat) (lf : Leaf), Mapped s v.hank va false lf → pteX lf.pte = true →
    s.partials = [] → s.poison = [] → s.corrupt = [] → (∀ t ∈ s.stale, t.dirty = true) →
    (∀ f ∈ s.flights, f.kind ≠ .engine ∨ f.perf = false) →
    fetchWord s v va = .ok (markUsed s v.hank lf false) (leNat (readBytes s v.hank (if pteVer lf.pte then v.ply else 0) lf.pa 8)))
  ∧ (∀ (s : State) (i : Instr) (is : List Instr), s.inbox = i :: is → encodeNat i = none → WellFormed i = true → s.sysc.stage ≠ 15 →
    step s = exec i { s with inbox := is })
  ∧ ∀ s : State, s.inbox = [] → s.sysc.stage = 15 →
    (s.sysc.attstat ≠ 1 → step s = .next s) ∧ (s.sysc.attstat = 1 → step s = exec (.quoteComplete true) s)

/-! ### The checks of every word (02 R50, R62, R63, 03 R84, 05 R116, 13 R313) -/

/-- R63, R84, R116, R203, R254, R313: before a word acts it is checked in this order. A word that the access slice or the strand's mode does
not allow raises ILLEGAL_OP in every lane of `%exec`; a register the wave does not have, a handler's special register or a level it may not use
raises ILLEGAL_FIELD; a predicate that differs between lanes of the access slice raises DIVERGENT_ACCESS; with no active lane the word does nothing
and the strand goes on; in an open atomic region a word that is none of a region's aborts it with cause 5. -/
def Obligations.WordsAreCheckedInOrder : Prop :=
  ∀ (s : State) (c : Ctx) (i : Instr), encodeNat i ≠ none → ctxOf s i = some c → WellFormed i = true →
    let badOp := (c.acc && !accessOk i) || (handlerWord i && !c.st.handler)
    (badOp = true → exec i s = wordFault s c i .illegalOp)
    ∧ (badOp = false → stateIllegal s c i = true → exec i s = wordFault s c i .illegalField)
    ∧ (badOp = false → stateIllegal s c i = false → divergent c i = true → exec i s = wordFault s c i .divergentAccess)
    ∧ (badOp = false → stateIllegal s c i = false → divergent c i = false → c.act = 0 → c.region = none →
        exec i s = .next (wordDone c i (wakeBanks s c i)))
    ∧ ∀ r, badOp = false → stateIllegal s c i = false → divergent c i = false → c.act ≠ 0 → c.region = some r → regionOk i = false →
        isArbeg i = false → exec i s = .next (strandMoved c (abortRegion (wakePred s c i) c.w 5 0 0))

/-- R53, R184, R313: the lanes that a word faults in stay at the word, parked with their faults, and the strand's other lanes go on; no
lane is lost. That the lanes that go on keep the strand's number is the model's choice (log 11). -/
def Obligations.FaultedLanesStayAtTheWord : Prop :=
  ∀ (v : Wave) (c : Ctx) (fs : List LaneFault) (k : Nat), c.acc = false → c.n < 8 →
    v.strands.filter (fun t => t.num == c.n) = [c.st] → c.ex = c.st.mask → fs ≠ [] → (∀ f ∈ fs, f.lane < 8 ∧ c.ex.getLsbD f.lane = true) →
    let fm := maskOfList (fs.map (·.lane))
    let v' := splitStops v c { Stops.none with faults := fs } k
    v'.inStrands = v.inStrands
    ∧ (∃ t ∈ v'.strands, t.mask = fm ∧ t.pc = c.st.pc ∧ t.clause = c.st.clause ∧ t.park = .fault c.opc fs)
    ∧ (c.ex &&& ~~~fm ≠ 0 → v'.thread c.n = some { c.st with mask := c.ex &&& ~~~fm }.advance)
    ∧ { v' with strands := v.strands } = v

/-! ### Traps (13 R313 to R319, 08 R203) -/

/-- R314, R315, R316: taking the trap of a strand writes the six handler registers from the fault of highest priority (its code, the lanes
that have it, the word's address, the access of the lowest such lane), starts the handler strand at the trap base in exactly those lanes
under the strand's number, keeps the other lanes parked on their faults with MORE set, and leaves memory, other waves, registers and flags
alone. -/
def Obligations.TrapEntryDelivers : Prop :=
  ∀ (s : State) (w opc : Nat) (v : Wave) (t : Strand) (fs : List LaneFault) (f g : LaneFault),
    s.waves[w]? = some v → v.nextFault = some t → t.num < 8 → t.park = .fault opc fs → topFault fs = some f → hreg s v.hank 0x020 ≠ 0 →
    let lanes := maskOf fun l => t.mask.getLsbD l && fs.any fun g => g.lane == l && g.cause == f.cause
    let rest := t.mask &&& ~~~lanes
    argMin (·.lane) (fs.filter fun g => g.cause == f.cause && lanes.getLsbD g.lane) = some g →
    f.cause ≠ .trapInsn → f.cause ≠ .breakpoint →
    let s' := takeTrap s w
    { s' with waves := s.waves } = s ∧ s'.waves.length = s.waves.length ∧ (∀ k, k ≠ w → s'.waves[k]? = s.waves[k]?)
    ∧ ∃ v', s'.waves[w]? = some v' ∧ { v' with strands := v.strands, trapRegs := v.trapRegs, trap := v.trap, more := v.more } = v
      ∧ v'.thread t.num = some { num := t.num, mask := lanes, pc := hreg s v.hank 0x020, clause := none, park := .none, handler := true }
      ∧ v'.trapRegs.fcause = BitVec.ofNat 32 ((if rest = 0 then 0 else 2 ^ 31) + f.cause.code)
      ∧ v'.trapRegs.fmask = lanes.setWidth 32 ∧ v'.trapRegs.fpc = Word.lo t.wordPc
      ∧ Word.pair v'.trapRegs.faddrlo v'.trapRegs.faddrhi = g.addr
      ∧ v'.trapRegs.finfo = BitVec.ofNat 32 ((if g.wr then 2 ^ 30 else 0) + g.space.num * 2 ^ 27
          + (match t.clause with | some k => k.idx % 16 | none => 0) * 2 ^ 20 + g.detail % 64 * 2 ^ 10 + opc % 1024)
      ∧ v'.trap = some { aside := [{ t with mask := lanes, park := .none }], isAccess := false, mask := lanes, hi := Word.hi t.wordPc, back := 0, served := false }
      ∧ (rest ≠ 0 → ∃ u ∈ v'.strands, v'.more = some u.num ∧ u.mask = rest ∧ u.pc = t.pc
          ∧ u.park = .fault opc (fs.filter fun g => rest.getLsbD g.lane))

/-- R203, R317, R54: returning from the trap of a strand with `%fpc` as it was delivered puts its lanes back at the word that faulted, inside
its clause, to issue it again; with another `%fpc` the strand is at that address, at a header, with no clause state. The trap is then over. -/
def Obligations.TrapReturnResumes : Prop :=
  ∀ (s : State) (w n : Nat) (v : Wave) (e : TrapEntry) (a h : Strand), n < 8 →
    s.waves[w]? = some v → v.trap = some e → e.isAccess = false → e.aside = [a] →
    v.strands.filter (fun t => t.handler) = [h] → h.num = n → v.strands.filter (fun t => t.num == n) = [h] →
    let pc := Word.pair v.trapRegs.fpc e.hi
    let back : Strand := if pc = a.wordPc then { a with num := n, mask := h.mask, park := .none }
      else { num := n, mask := h.mask, pc := pc, clause := none, park := .none, handler := a.handler }
    let s' := returnTrap s w n
    a.handler = false →
    { s' with waves := s.waves, running := s.running } = s ∧ (∀ k, k ≠ w → s'.waves[k]? = s.waves[k]?)
    ∧ ∃ v', s'.waves[w]? = some v' ∧ { v' with strands := v.strands, trap := v.trap } = v ∧ v'.thread n = some back ∧ v'.trap = none

/-! ### Frames -/

/-- What follows a word (R48, R193, R197) changes nothing but the schedule, barriers, poison that clean writes clear, the strands, and the
word's own wave's flags, trap state, finishing strands and latch (log 4): no memory, no register, no unit. -/
def Obligations.NothingElseChangesAfterAWord : Prop :=
  ∀ (c : Ctx) (i : Instr) (t : State) (v : Wave), t.waves[c.w]? = some v → v.phase = .live → v.strands ≠ [] → nothingWaits t →
    let u := wordDone c i t
    sameUnits t u ∧ (t.poison = [] → u.poison = []) ∧ sameOthers t u c.w
    ∧ ∃ v', u.waves[c.w]? = some v'
      ∧ { v' with strands := v.strands, flags := v.flags, tokens := v.tokens, trap := v.trap, access := v.access, latch := v.latch, finish := v.finish } = v
      ∧ v'.access.map (·.regs) = v.access.map (·.regs) ∧ (c.acc = false → c.n ≠ 8 → v'.access = v.access)

/-- R9, R13: a word of classes V, F and A other than MWRITE changes, of the registers, only its destination registers in its active lanes, `%fcr`'s
sticky bits where it is a float word or a float reduction (R91), and no memory, vault, scratch, unit, special register or other wave's register. -/
def Obligations.RegisterWordsFrame : Prop :=
  ∀ (i : Instr) (x : Nat) (s t : State) (c : Ctx) (v : Wave), encodeNat i = some x → x / 2 ^ 61 ≤ 2 → (∀ y, i ≠ .mwrite y) →
    runs s c i = true → s.waves[c.w]? = some v → c.st.handler = false → v.strands ≠ [] → nothingWaits s →
    exec i s = .next t →
    sameUnits s t ∧ sameOthers s t c.w
    ∧ ∃ v', t.waves[c.w]? = some v'
      ∧ { v' with strands := v.strands, flags := v.flags, tokens := v.tokens, trap := v.trap, access := v.access, regs := v.regs
                  affine := v.affine, drowsy := v.drowsy, fcr := v.fcr, latch := v.latch, finish := v.finish } = v
      ∧ (∀ r l, r < 256 → l < 8 → r ∉ dsts i ∨ c.act.getLsbD l = false → Row.lane (v'.file c.acc r) l = Row.lane (v.file c.acc r) l)
      ∧ (if c.acc then v'.regs = v.regs else v'.access = v.access)
      ∧ v'.fcr &&& v.fcr = v.fcr
      ∧ (x / 2 ^ 61 = 0 → v'.fcr = v.fcr)
      ∧ (x / 2 ^ 61 = 2 → (∀ y, i = .lred y ∨ i = .lscan y → y.c.toNat % 16 < 6) → v'.fcr = v.fcr)

/-- R162, R354, R358: where lines live. The home of a line is an enabled tile, found by the xor of its address; a cluster keeps it in the slice
of one of its own cores, found by bits 1:0 and 7:6; its channel is one of 16. A load that hits a counted copy lowers its count, and drops the copy at
zero; one that misses fills a copy with the count that RC gives, which a page that is not cached ignores. -/
def Obligations.LinesFollowTheirMaps : Prop :=
  (∀ (s : State) (la : BitVec 45), tiles s ≠ [] →
    homeTile s la.toNat ∈ tiles s
    ∧ (tiles s)[(la.extractLsb' 0 16 ^^^ la.extractLsb' 16 16 ^^^ (la.extractLsb' 32 13).setWidth 16).toNat % (tiles s).length]?
      = some (homeTile s la.toNat))
  ∧ (∀ (cl : Nat) (la : BitVec 45), cl < 28 →
    clusterOf (sliceTile cl la.toNat) = cl
    ∧ let k := (la.extractLsb' 0 2 ^^^ la.extractLsb' 6 2).toNat
      sliceTile cl la.toNat / 14 % 2 = k / 2 ∧ sliceTile cl la.toNat % 14 % 2 = k % 2)
  ∧ (∀ la : BitVec 45, channelOf la.toNat
    = (la.extractLsb' 2 4 ^^^ la.extractLsb' 6 4 ^^^ la.extractLsb' 10 4 ^^^ la.extractLsb' 14 4).toNat)
  ∧ ∀ (s : State) (cl h p line rc : Nat) (pte : DWord), (s.l2.any fun e => sameLine h p line e.hank e.ply e.line) = true →
    byL1 pte p (loadRc pte rc) = true → byL2 pte p = true →
    let copy := fun (e : L1Line) => e.cluster == cl && sameLine h p line e.hank e.ply e.line
    let t := fillLine s cl h p line pte rc true
    t.mem = s.mem ∧ t.versions = s.versions
    ∧ (∀ e, s.l1.find? copy = some e →
      (e.count = 0 → t = s) ∧ (e.count = 1 → ∀ x ∈ t.l1, copy x = false)
      ∧ (1 < e.count → t.l1 = s.l1.map fun x => if x = e then { x with count := e.count - 1 } else x))
    ∧ (s.l1.find? copy = none → ∃ x ∈ t.l1, copy x = true ∧ x.owned = false ∧ x.count = if 1 ≤ loadRc pte rc ∧ loadRc pte rc ≤ 6 then loadRc pte rc else 0)

/-- R161, R163, R172, R176, R390: a lane's access that completes changes, of memory, only the accessed and dirty bits' entry and, for a write,
the bytes it writes, in the root or in the one version of the ply that its lifeline gives; a load or a CADD writes no byte; registers, vault memory
and scratch stay. -/
def Obligations.LaneAccessesFrame : Prop :=
  ∀ (s t : State) (c : Ctx) (l va : Nat) (lf : Leaf), canonical s → s.partials = [] → s.poison = [] → (∀ u ∈ s.stale, u.dirty = true) →
    let h := c.v.hank
    let q := storePly (hankOf s h) c.v.ply va
    (∀ n cl sp bs, translate s h va n false = .ok (.mem lf) → loadLane s c l va n sp cl = .go t bs → LeafFrame s t h 0 lf 0)
    ∧ (∀ bs sg, translate s h va bs.length true = .ok (.mem lf) → storeLane s c l va bs = .go t sg → LeafFrame s t h q lf bs.length)
    ∧ (∀ n f old, translate s h va n true = .ok (.mem lf) → rmwLane s c l va n f = .go t old → LeafFrame s t h q lf n)
    ∧ ∀ x sg, casA c x l = va → translate s h va 4 true = .ok (.mem lf) → caddLane s c x l = .go t sg → LeafFrame s t h 0 lf 0

/-- R155, R161, R165, R166, R169, R390: the loads write no byte of memory but the entries of the pages they read, nothing in scratch and vault
memory, and no register: their results come later (R66). -/
def Obligations.LoadWordsFrame : Prop :=
  ∀ (x : MWord) (s t : State) (c : Ctx), plainly s c →
    (runs s c (.ld x) = true → exec (.ld x) s = .next t →
      sameRegs s t ∧ t.vault = s.vault ∧ t.teams = s.teams ∧ t.versions = s.versions
      ∧ ∀ a, (∀ p ∈ lanesBefore c.v.hank
            (fun u l => loadLane u c l (accessA c x l) (sizeBytes x.size) .global (if x.rc = 7 then 28 else clusterOf c.v.core))
            (lanesOf c.act) (wakeBanks s c (.ld x)),
          ∀ lf, translate p.1 c.v.hank (accessA c x p.2) (sizeBytes x.size) false = .ok (.mem lf) → ¬(lf.loc ≤ a ∧ a < lf.loc + 8)) →
        t.mem.read a = s.mem.read a)
    ∧ (runs s c (.ldk x) = true → exec (.ldk x) s = .next t →
      sameRegs s t ∧ t.vault = s.vault ∧ t.teams = s.teams ∧ t.versions = s.versions
      ∧ ∀ a, (∀ p ∈ lanesBefore c.v.hank
            (fun u l => loadLane u c l (c.v.kptr + BitVec.ofNat 64 (sAddr c x l 0 x.f (sizeBytes x.size))).toNat (sizeBytes x.size) .param
              (clusterOf c.v.core))
            (lanesOf c.act) (wakeBanks s c (.ldk x)),
          ∀ lf, translate p.1 c.v.hank (c.v.kptr + BitVec.ofNat 64 (sAddr c x p.2 0 x.f (sizeBytes x.size))).toNat (sizeBytes x.size) false
              = .ok (.mem lf) → ¬(lf.loc ≤ a ∧ a < lf.loc + 8)) →
        t.mem.read a = s.mem.read a)
    ∧ ∀ i, i = .lds x ∨ i = .ldv x → runs s c i = true → exec i s = .next t →
      sameRegs s t ∧ t.vault = s.vault ∧ t.teams = s.teams ∧ t.versions = s.versions ∧ t.mem = s.mem

/-- R155, R161, R163, R166, R169, R390: the stores write no register, and no byte but those at the addresses their lanes store to: ST in memory
(beside the pages' entries), STS in the wave's scratch, STV in the core's vault memory. -/
def Obligations.StoreWordsFrame : Prop :=
  ∀ (x : MWord) (s t : State) (c : Ctx), plainly s c →
    let n := sizeBytes x.size
    let h := c.v.hank
    (runs s c (.st x) = true → exec (.st x) s = .next t →
      sameRegs s t ∧ t.vault = s.vault
      ∧ ∀ a, (∀ p ∈ lanesBefore h
            (fun u l => carryStore u c (.st x) l (granulesAt u c (accessA c x l) n) (storeLane u c l (accessA c x l) (regBytes c x.d.toNat n l)))
            (lanesOf c.act) (wakeBanks s c (.st x)),
          ∀ lf, translate p.1 h (accessA c x p.2) n true = .ok (.mem lf) →
            ¬(lf.loc ≤ a ∧ a < lf.loc + 8) ∧ (storePly (hankOf p.1 h) c.v.ply (accessA c x p.2) = 0 → ¬(lf.pa ≤ a ∧ a < lf.pa + n))) →
        t.mem.read a = s.mem.read a)
    ∧ (runs s c (.sts x) = true → exec (.sts x) s = .next t →
      sameRegs s t ∧ t.vault = s.vault ∧ t.mem = s.mem ∧ t.versions = s.versions
      ∧ ∀ tm off, (tm = c.v.team → ∀ l ∈ lanesOf c.act, ¬(sAddr c x l x.pa x.f n ≤ off ∧ off < sAddr c x l x.pa x.f n + n)) →
        scratchByte t tm off = scratchByte s tm off)
    ∧ (runs s c (.stv x) = true → exec (.stv x) s = .next t →
      sameRegs s t ∧ t.mem = s.mem ∧ t.versions = s.versions ∧ t.teams = s.teams
      ∧ ∀ key, (∀ l ∈ lanesOf c.act, ∀ k, k < n → key ≠ vaultKey (vwaysOf s h) (vaultCore c x) (sAddr c x l x.pa x.off6 n + k)) →
        Sparse.get (α := Byte) 0 t.vault key = Sparse.get (α := Byte) 0 s.vault key)

/-- R155, R171 to R176, R390: the atomics write no register at issue, and no byte but those at the addresses their lanes act on: ATOM and ACAS
that are performed in memory (beside the pages' entries), ATOMS in the wave's scratch; CADD changes no byte of memory but the entries, since its
sums are partial (R177). -/
def Obligations.AtomicWordsFrame : Prop :=
  ∀ (x : MWord) (s t : State) (c : Ctx), plainly s c →
    let n := sizeBytes x.size
    let h := c.v.hank
    let b := fun (c : Ctx) (l : Nat) => leNat (regBytes c x.b.toNat n l)
    let new := fun (c : Ctx) (l : Nat) => leNat (regBytes c (x.b.toNat + n / 4) n l)
    let clear := fun (f : State → Nat → LaneStep Nat) (i : Instr) (addr : Nat → Nat) (a : Nat) =>
      ∀ p ∈ lanesBefore h f (lanesOf c.act) (wakeBanks s c i), ∀ lf, translate p.1 h (addr p.2) n true = .ok (.mem lf) →
        ¬(lf.loc ≤ a ∧ a < lf.loc + 8) ∧ (storePly (hankOf p.1 h) c.v.ply (addr p.2) = 0 → ¬(lf.pa ≤ a ∧ a < lf.pa + n))
    (runs s c (.atom x) = true → exec (.atom x) s = .next t → ¬(x.scope = 5 ∧ c.v.ply ≠ 0) →
      sameRegs s t ∧ t.vault = s.vault
      ∧ ∀ a, clear (fun u l => rmwLane u c l (atomA c x l) n fun old => some (atomOp x.pa.toNat x.rc.toNat n old (b c l))) (.atom x)
          (atomA c x) a → t.mem.read a = s.mem.read a)
    ∧ (runs s c (.acas x) = true → exec (.acas x) s = .next t → ¬(x.scope = 5 ∧ c.v.ply ≠ 0) →
      sameRegs s t ∧ t.vault = s.vault
      ∧ ∀ a, clear (fun u l => rmwLane u c l (casA c x l) n fun old => if old = b c l then some (new c l) else none) (.acas x)
          (casA c x) a → t.mem.read a = s.mem.read a)
    ∧ (∀ i, i = .atom x ∨ i = .acas x → runs s c i = true → exec i s = .next t → x.scope = 5 → c.v.ply ≠ 0 →
      sameRegs s t ∧ t.vault = s.vault ∧ t.mem = s.mem ∧ t.versions = s.versions ∧ t.teams = s.teams)
    ∧ (runs s c (.atoms x) = true → exec (.atoms x) s = .next t →
      sameRegs s t ∧ t.vault = s.vault ∧ t.mem = s.mem ∧ t.versions = s.versions
      ∧ ∀ tm off, (tm = c.v.team → ∀ l ∈ lanesOf c.act, ¬(sAddr c x l 0 x.off6 n ≤ off ∧ off < sAddr c x l 0 x.off6 n + n)) →
        scratchByte t tm off = scratchByte s tm off)
    ∧ (runs s c (.cadd x) = true → exec (.cadd x) s = .next t →
      sameRegs s t ∧ t.vault = s.vault ∧ t.teams = s.teams ∧ t.versions = s.versions
      ∧ ∀ a, (∀ p ∈ lanesBefore h (fun u l => caddLane u c x l) (lanesOf c.act) (wakeBanks s c (.cadd x)),
          ∀ lf, translate p.1 h (casA c x p.2) 4 true = .ok (.mem lf) → ¬(lf.loc ≤ a ∧ a < lf.loc + 8)) →
        t.mem.read a = s.mem.read a)
end

