-- ==== Sys2Proof/Laws/Issue.lean ====
section
/-! SUPPORT. What issuing a word answers, said once: the spec lemma of `issue` that every completion goes through. -/

namespace Sys2Proof.Laws

open Sys2Proof Sys2Proof.Machine

/-- Prepending no element. -/
theorem maskOfList_nil : maskOfList [] = 0 := by decide

/-- Taking no lane away. -/
theorem mask_and_not_zero (m : Mask) : m &&& ~~~0 = m := by
  rw [show (~~~0 : Mask) = BitVec.allOnes 8 from rfl, BitVec.and_allOnes]

/-- No lane stopped: the strand, or the access thread, goes on. -/
theorem splitStops_none (v : Wave) (c : Ctx) (n : Nat) :
    splitStops v c Stops.none n =
      if c.acc then v.modThread 8 Strand.advance else v.modThread c.n fun t => { t with mask := c.ex }.advance := by
  simp only [splitStops, Stops.none, List.map_nil, maskOfList_nil, mask_and_not_zero]
  split
  · rfl
  · simp [Wave.addStrands]

/-- No fault leaves a CONSUMED record. -/
theorem consumedRecords_nil (s : State) (c : Ctx) (m : Mask) : consumedRecords s c m [] = s := rfl

/-- No fault restarts an idempotent region. -/
theorem idemLanes_nil (c : Ctx) : idemLanes c [] = 0 := by
  unfold idemLanes
  split
  · split
    · rfl
    · simp [maskOfList_nil]
  · rfl

/-- Outside an atomic region a word that is done in every lane concludes with its strand gone on. -/
theorem finishDone_ok {s t : State} {c : Ctx} {i : Instr} (h : c.region = none) :
    finishDone s t c i Stops.none = .next (wordDone c i t) := by
  simp only [finishDone, h, Stops.none, idemLanes_nil, consumedRecords_nil, List.map_nil, maskOfList_nil, List.filter_nil]
  simp only [List.any_nil, Bool.and_false, Bool.false_eq_true, ↓reduceIte, BitVec.or_self, mask_and_not_zero, conclude, wordDone]
  have hg : (fun v : Wave => if v.phase = .live then
        splitStops v c { faults := [], migr := [], holds := 0 } (clearRegPoison t c i).progress else v) = c.goesOn := by
    funext v
    simp only [Ctx.goesOn]
    split
    · exact splitStops_none v c _
    · rfl
  rw [hg]
  split <;> rfl

/-- The lowest active lane of a context. -/
theorem lo_of_ctxOf {s : State} {c : Ctx} {i : Instr} (h : ctxOf s i = some c) : c.lo = (lowest c.act).getD 0 := by
  simp only [ctxOf] at h
  split at h
  · cases h
  · split at h
    · cases h
    · split at h
      · cases h
      · split at h
        · simp only [Option.some.injEq] at h
          rw [← h]
        · cases h

/-- The number of a context's strand. -/
theorem num_of_ctxOf {s : State} {c : Ctx} {i : Instr} (h : ctxOf s i = some c) : c.acc = (c.n == 8) ∧ c.ex = c.st.mask ∧ c.pc = c.st.wordPc := by
  simp only [ctxOf] at h
  split at h
  · cases h
  · split at h
    · cases h
    · split at h
      · cases h
      · split at h
        · simp only [Option.some.injEq] at h
          subst h
          exact ⟨rfl, rfl, rfl⟩
        · cases h

/-- The context of a word that runs. -/
theorem ctxOf_of_runs {s : State} {c : Ctx} {i : Instr} (h : runs s c i = true) : ctxOf s i = some c := by
  simp only [runs, Bool.and_eq_true, beq_iff_eq] at h
  exact h.1.1.1.1.1.1.1.1.1

/-- A word that runs is in no atomic region. -/
theorem region_of_runs {s : State} {c : Ctx} {i : Instr} (h : runs s c i = true) : c.region = none := by
  simp only [runs, Bool.and_eq_true, Option.isNone_iff_eq_none] at h
  exact h.1.1.2

/-- Outside an atomic region no predicate concretises. -/
theorem concretePred_none (s : State) {c : Ctx} (i : Instr) (h : c.region = none) : concretePred s c i = s := by
  simp [concretePred, h]

/-- A word that runs to its end answers what becomes of its body's answer. -/
theorem issue_finish {s : State} {c : Ctx} {i : Instr} {body : State → Ctx → Res} (h : runs s c i = true) :
    issue s i body = finish (wakeBanks s c i) c i (body (wakeBanks s c i) c) := by
  have hp := concretePred_none s i (region_of_runs h)
  simp only [runs, Bool.and_eq_true, beq_iff_eq, Bool.or_eq_true, Bool.not_eq_true', bne_iff_ne, ne_eq, Option.isNone_iff_eq_none,
    List.isEmpty_iff] at h
  obtain ⟨⟨⟨⟨⟨⟨⟨⟨⟨h1, h2⟩, h3⟩, h4⟩, h5⟩, h6⟩, h7⟩, h8⟩, h9⟩, h10⟩ := h
  have e1 : ((c.acc && !accessOk i) || (handlerWord i && !c.st.handler)) = false := by
    rcases h2 with h | h <;> rcases h3 with h' | h' <;> simp [h, h']
  simp only [issue, h1, issueIn, e1, h4, h5, h6, h7, h8, h9, h10, hp, Bool.false_eq_true, ↓reduceIte, Bool.not_true, Bool.or_self,
    Option.isSome_none, Bool.false_and]

/-- A word that runs to its end and answers `.ok`: the next state is that of its effects. -/
theorem issue_runs {s t : State} {c : Ctx} {i : Instr} {body : State → Ctx → Res} (h : runs s c i = true)
    (hb : body (wakeBanks s c i) c = .ok t) : issue s i body = .next (wordDone c i t) := by
  rw [issue_finish h, hb]
  exact finishDone_ok (region_of_runs h)

/-- A word that runs to its end and moves its strand itself. -/
theorem issue_moved {s t : State} {c : Ctx} {i : Instr} {body : State → Ctx → Res} (h : runs s c i = true)
    (hb : body (wakeBanks s c i) c = .moved t) : issue s i body = .next (strandMoved c t) := by
  rw [issue_finish h, hb]
  rfl

/-- A word of an open atomic region answers what becomes of its body's answer. -/
theorem issue_finish_region {s : State} {c : Ctx} {i : Instr} {r : Region} {body : State → Ctx → Res}
    (h : runsInRegion s c i r = true) (ha : accessOk i = true ∨ c.acc = false) (hd : divergent c i = false)
    (hh : handlerWord i = false) :
    issue s i body = finish (wakeBanks (concretePred s c i) c i) c i (body (wakeBanks (concretePred s c i) c i) c) := by
  simp only [runsInRegion, Bool.and_eq_true, beq_iff_eq, Bool.not_eq_true', bne_iff_ne, ne_eq, List.isEmpty_iff] at h
  obtain ⟨⟨⟨⟨⟨⟨⟨h1, h4⟩, h5⟩, h7⟩, h8⟩, h9⟩, h11⟩, h10⟩ := h
  have e1 : ((c.acc && !accessOk i) || (handlerWord i && !c.st.handler)) = false := by
    rcases ha with h | h <;> simp [h, hh]
  simp only [issue, h1, issueIn, holdsNow, e1, h4, h5, hd, h7, h8, h9, h10, h11, Bool.false_eq_true, ↓reduceIte, Bool.not_true, Bool.or_self,
    Option.isSome_some, Bool.false_and, Option.isNone_some, Bool.and_false]

/-- A word of an atomic region that is done in every lane. -/
theorem finishDone_region {s t : State} {c : Ctx} {i : Instr} {r : Region} (h : c.region = some r) :
    finishDone s t c i Stops.none = .next (wordDoneIn c i r t) := by
  simp only [finishDone, h, Stops.none, ne_eq, not_true_eq_false, ↓reduceIte]
  rfl

/-- A meaning that is one issue whose body answers `.ok`. -/
theorem gives_of {i : Instr} {body : State → Ctx → Res} {eff : State → Ctx → State} (he : ∀ s, exec i s = issue s i body)
    (hb : ∀ u c, body u c = .ok (eff u c)) : Gives i eff := fun s c h => by
  rw [he]
  exact issue_runs h (hb _ _)

/-- The same under a premise. -/
theorem givesIf_of {i : Instr} {body : State → Ctx → Res} {pre : State → Ctx → Prop} {eff : State → Ctx → State}
    (he : ∀ s, exec i s = issue s i body) (hb : ∀ u c, pre u c → body u c = .ok (eff u c)) : GivesIf i pre eff := fun s c h hp => by
  rw [he]
  exact issue_runs h (hb _ _ hp)

/-- The same where the body reads that no atomic region is open. -/
theorem givesIf_of_noRegion {i : Instr} {body : State → Ctx → Res} {pre : State → Ctx → Prop} {eff : State → Ctx → State}
    (he : ∀ s, exec i s = issue s i body) (hb : ∀ u c, c.region = none → pre u c → body u c = .ok (eff u c)) : GivesIf i pre eff :=
  fun s c h hp => by
    rw [he]
    exact issue_runs h (hb _ _ (region_of_runs h) hp)

/-- A meaning that is one issue whose body stops lanes and does nothing. -/
theorem raisesIf_of {i : Instr} {body : State → Ctx → Res} {pre : State → Ctx → Prop} {stops : Ctx → Stops}
    (he : ∀ s, exec i s = issue s i body) (hb : ∀ u c, c.region = none → pre u c → body u c = .done u (stops c)) : RaisesIf i pre stops :=
  fun s c h hp => by
    rw [he, issue_finish h, hb _ _ (region_of_runs h) hp]
    rfl

/-- A meaning that is one issue whose body moves its strand. -/
theorem moves_of {i : Instr} {body : State → Ctx → Res} {pre : State → Ctx → Prop} {eff : State → Ctx → State}
    (he : ∀ s, exec i s = issue s i body) (hb : ∀ u c, c.region = none → pre u c → body u c = .moved (eff u c)) : Moves i pre eff :=
  fun s c h hp => by
    rw [he]
    exact issue_moved h (hb _ _ (region_of_runs h) hp)

end Sys2Proof.Laws
end

