-- ==== Sys2Proof/Laws/Access.lean ====
section
/-! SUPPORT. Lanes taken one after another, said once: what `overLanes` answers when no lane stops, and what a word over lanes gives. -/

namespace Sys2Proof.Laws

open Sys2Proof Sys2Proof.Machine

/-- The active lanes are lanes. -/
theorem lt_of_mem_lanesOf {m : Mask} {l : Nat} (h : l ∈ lanesOf m) : l < 8 := by
  have h' : l ∈ lanes := (List.mem_filter.1 h).1
  simp only [lanes, List.mem_cons, List.not_mem_nil, or_false] at h'
  omega

/-- A mask with no lane is empty. -/
theorem lanesOf_ne_nil {m : Mask} (h : m ≠ 0) : lanesOf m ≠ [] := by
  revert h
  revert m
  decide

/-- One lane's mask is not empty. -/
theorem maskOfList_single {l : Nat} (h : l < 8) : maskOfList [l] ≠ 0 := by
  revert h
  revert l
  decide

/-- When no lane stops, none had stopped before, and there is one result for each lane, in order. -/
theorem overLanes_none {α : Type} {h : Nat} {f : State → Nat → LaneStep α} {ls : List Nat} {a b : LaneAcc α}
    (hl : ∀ l ∈ ls, l < 8) (ho : overLanes h f ls a = .ok b) (hb : b.st = Stops.none) :
    a.st = Stops.none ∧ b.res.map Prod.fst = a.res.map Prod.fst ++ ls := by
  induction ls generalizing a with
  | nil =>
    simp only [overLanes, Except.ok.injEq] at ho
    subst ho
    exact ⟨hb, by simp⟩
  | cons l ls ih =>
    simp only [overLanes] at ho
    have hl' : ∀ k ∈ ls, k < 8 := fun k hk => hl k (List.mem_cons_of_mem _ hk)
    split at ho
    · have := ih hl' ho
      simpa using this
    · have := (ih hl' ho).1
      simp [Stops.none] at this
    · have := (ih hl' ho).1
      simp [Stops.none] at this
    · have := (ih hl' ho).1
      simp [Stops.none] at this
    · have := (ih hl' ho).1
      simp only [Stops.none, Stops.mk.injEq] at this
      exact absurd (BitVec.or_eq_zero_iff.1 this.2.2).2 (maskOfList_single (hl l List.mem_cons_self))
    · have := (ih hl' ho).1
      simp only [Stops.none, Stops.mk.injEq] at this
      exact absurd (BitVec.or_eq_zero_iff.1 this.2.2).2 (maskOfList_single (hl l List.mem_cons_self))
    · cases ho

/-- What `lanesDone` says of `overLanes`. -/
theorem lanesDone_spec {α : Type} {u t : State} {c : Ctx} {f : State → Nat → LaneStep α} {res : List (Nat × α)}
    (h : lanesDone u c f = some (t, res)) :
    overLanes c.v.hank f (lanesOf c.act) { s := u, res := [], st := Stops.none } = .ok { s := t, res := res, st := Stops.none }
      ∧ res.map Prod.fst = lanesOf c.act := by
  simp only [lanesDone] at h
  split at h
  · next a ha =>
    split at h
    · next hs =>
      cases h
      have := (overLanes_none (fun l hl => lt_of_mem_lanesOf hl) ha hs).2
      refine ⟨?_, by simpa using this⟩
      rw [ha, ← hs]
    · cases h
  · cases h

/-- A word over lanes none of which stops, and with room for them all, is done with the lanes' results (R337). -/
theorem withRoom_done {α : Type} {room : Nat → Bool} {u t : State} {c : Ctx} {f : State → Nat → LaneStep α}
    {k : State → List (Nat × α) → State} {res : List (Nat × α)} (hc : c.act ≠ 0) (h : lanesDone u c f = some (t, res))
    (hr : room (lanesOf c.act).length = true) : withRoom room u c f k = .ok (k t res) := by
  obtain ⟨h1, h2⟩ := lanesDone_spec h
  have he : res.isEmpty = false := by
    cases res with
    | nil => exact absurd h2.symm (lanesOf_ne_nil hc)
    | cons _ _ => rfl
  have hl : res.length = (lanesOf c.act).length := by rw [← h2, List.length_map]
  simp [withRoom, h1, he, hl, hr, Res.ok]

/-- A word over lanes none of which stops is done with the lanes' results. -/
theorem withLanes_done {α : Type} {u t : State} {c : Ctx} {f : State → Nat → LaneStep α} {k : State → List (Nat × α) → State}
    {res : List (Nat × α)} (hc : c.act ≠ 0) (h : lanesDone u c f = some (t, res)) : withLanes u c f k = .ok (k t res) := by
  exact withRoom_done hc h rfl

/-- The active lanes of a word that runs. -/
theorem act_ne_zero {s : State} {c : Ctx} {i : Instr} (h : runs s c i = true) : c.act ≠ 0 := by
  simp only [runs, Bool.and_eq_true, bne_iff_ne, ne_eq] at h
  exact h.1.1.1.2

/-- A word that runs is in no open region. -/
theorem region_eq_none {s : State} {c : Ctx} {i : Instr} (h : runs s c i = true) : c.region = none := by
  simp only [runs, Bool.and_eq_true, Option.isNone_iff_eq_none] at h
  exact h.1.1.2

/-- A word that runs is well-formed. -/
theorem wellFormed_of_runs {s : State} {c : Ctx} {i : Instr} (h : runs s c i = true) : WellFormed i = true := by
  simp only [runs, Bool.and_eq_true] at h
  exact h.1.1.1.1.1.1.2

/-- A meaning that, where there is room, takes its lanes in turn outside a region. -/
theorem givesLanes_of {α : Type} {i : Instr} {body : State → Ctx → Res} {room : State → Ctx → Bool}
    {f : Ctx → State → Nat → LaneStep α} {k : State → Ctx → State → List (Nat × α) → State} (he : ∀ s, exec i s = issue s i body)
    (hb : ∀ u c, c.region = none → room u c = true → body u c = withLanes u c (f c) (k u c)) : GivesLanes i room f k :=
  fun s c t res h hr hd => by
    rw [he]
    refine issue_runs h ?_
    rw [hb _ _ (region_eq_none h) hr]
    exact withLanes_done (act_ne_zero h) hd

end Sys2Proof.Laws
end

