-- ==== Sys2Proof/Laws/Encoding.lean ====
section
/-! SUPPORT. The eight formats (R55 to R60): the fields of a word below OP fit, are read back as they were written, and give the word
back. -/

namespace Sys2Proof.Laws

open Sys2Proof

/-- The bits above and below a place. -/
theorem mod_two_pow_split (n lo w k : Nat) (h : k = lo + w) : n % 2 ^ k = n / 2 ^ lo % 2 ^ w * 2 ^ lo + n % 2 ^ lo := by
  rw [h, Nat.pow_add, Nat.mod_mul, Nat.add_comm, Nat.mul_comm]

/-- The fields of V3 fit below OP. -/
theorem V3.toNat_lt (x : V3) : x.toNat < 2 ^ 54 := by
  have := x.pm.isLt
  have := x.preg.isLt
  have := x.d.isLt
  have := x.a.isLt
  have := x.pa.isLt
  have := x.b.isLt
  have := x.pb.isLt
  have := x.c.isLt
  have := x.pc.isLt
  have := x.latch.isLt
  simp only [V3.toNat, headNat]
  omega

/-- The fields of V3 are read back. -/
theorem V3.ofNat_toNat (x : V3) (k : Nat) : V3.ofNat (k * 2 ^ 54 + x.toNat) = x := by
  have := x.pm.isLt
  have := x.preg.isLt
  have := x.d.isLt
  have := x.a.isLt
  have := x.pa.isLt
  have := x.b.isLt
  have := x.pb.isLt
  have := x.c.isLt
  have := x.pc.isLt
  have := x.latch.isLt
  obtain ⟨pm, preg, d, a, pa, b, pb, c, pc, latch⟩ := x
  simp only [V3.ofNat, V3.toNat, headNat, field, V3.mk.injEq] at *
  refine ⟨?_, ?_, ?_, ?_, ?_, ?_, ?_, ?_, ?_, ?_⟩ <;> (apply BitVec.eq_of_toNat_eq; simp only [BitVec.toNat_ofNat]; omega)

/-- Written back, they give bits 53:0. -/
theorem V3.toNat_ofNat (n : Nat) : (V3.ofNat n).toNat = n % 2 ^ 54 := by
  simp only [V3.ofNat, V3.toNat, headNat, field, BitVec.toNat_ofNat]
  rw [mod_two_pow_split n 52 2 54 rfl,
    mod_two_pow_split n 44 8 52 rfl,
    mod_two_pow_split n 36 8 44 rfl,
    mod_two_pow_split n 28 8 36 rfl,
    mod_two_pow_split n 25 3 28 rfl,
    mod_two_pow_split n 17 8 25 rfl,
    mod_two_pow_split n 14 3 17 rfl,
    mod_two_pow_split n 6 8 14 rfl,
    mod_two_pow_split n 3 3 6 rfl]
  simp only [Nat.pow_zero, Nat.div_one, Nat.add_assoc]

/-- The fields of VI fit below OP. -/
theorem VI.toNat_lt (x : VI) : x.toNat < 2 ^ 54 := by
  have := x.pm.isLt
  have := x.preg.isLt
  have := x.d.isLt
  have := x.a.isLt
  have := x.pa.isLt
  have := x.imm.isLt
  simp only [VI.toNat, headNat]
  omega

/-- The fields of VI are read back. -/
theorem VI.ofNat_toNat (x : VI) (k : Nat) : VI.ofNat (k * 2 ^ 54 + x.toNat) = x := by
  have := x.pm.isLt
  have := x.preg.isLt
  have := x.d.isLt
  have := x.a.isLt
  have := x.pa.isLt
  have := x.imm.isLt
  obtain ⟨pm, preg, d, a, pa, imm⟩ := x
  simp only [VI.ofNat, VI.toNat, headNat, field, VI.mk.injEq] at *
  refine ⟨?_, ?_, ?_, ?_, ?_, ?_⟩ <;> (apply BitVec.eq_of_toNat_eq; simp only [BitVec.toNat_ofNat]; omega)

/-- Written back, they give bits 53:0. -/
theorem VI.toNat_ofNat (n : Nat) : (VI.ofNat n).toNat = n % 2 ^ 54 := by
  simp only [VI.ofNat, VI.toNat, headNat, field, BitVec.toNat_ofNat]
  rw [mod_two_pow_split n 52 2 54 rfl,
    mod_two_pow_split n 44 8 52 rfl,
    mod_two_pow_split n 36 8 44 rfl,
    mod_two_pow_split n 28 8 36 rfl,
    mod_two_pow_split n 25 3 28 rfl]
  simp only [Nat.pow_zero, Nat.div_one, Nat.add_assoc]

/-- The fields of K32 fit below OP. -/
theorem K32.toNat_lt (x : K32) : x.toNat < 2 ^ 54 := by
  have := x.pm.isLt
  have := x.preg.isLt
  have := x.d.isLt
  have := x.imm.isLt
  have := x.sub.isLt
  simp only [K32.toNat, headNat]
  omega

/-- The fields of K32 are read back. -/
theorem K32.ofNat_toNat (x : K32) (k : Nat) : K32.ofNat (k * 2 ^ 54 + x.toNat) = x := by
  have := x.pm.isLt
  have := x.preg.isLt
  have := x.d.isLt
  have := x.imm.isLt
  have := x.sub.isLt
  obtain ⟨pm, preg, d, imm, sub⟩ := x
  simp only [K32.ofNat, K32.toNat, headNat, field, K32.mk.injEq] at *
  refine ⟨?_, ?_, ?_, ?_, ?_⟩ <;> (apply BitVec.eq_of_toNat_eq; simp only [BitVec.toNat_ofNat]; omega)

/-- Written back, they give bits 53:0. -/
theorem K32.toNat_ofNat (n : Nat) : (K32.ofNat n).toNat = n % 2 ^ 54 := by
  simp only [K32.ofNat, K32.toNat, headNat, field, BitVec.toNat_ofNat]
  rw [mod_two_pow_split n 52 2 54 rfl,
    mod_two_pow_split n 44 8 52 rfl,
    mod_two_pow_split n 36 8 44 rfl,
    mod_two_pow_split n 4 32 36 rfl]
  simp only [Nat.pow_zero, Nat.div_one, Nat.add_assoc]

/-- The fields of MWord fit below OP. -/
theorem MWord.toNat_lt (x : MWord) : x.toNat < 2 ^ 54 := by
  have := x.pm.isLt
  have := x.preg.isLt
  have := x.d.isLt
  have := x.a.isLt
  have := x.pa.isLt
  have := x.f.isLt
  have := x.size.isLt
  have := x.scope.isLt
  have := x.ord.isLt
  have := x.rc.isLt
  simp only [MWord.toNat, headNat]
  omega

/-- The fields of MWord are read back. -/
theorem MWord.ofNat_toNat (x : MWord) (k : Nat) : MWord.ofNat (k * 2 ^ 54 + x.toNat) = x := by
  have := x.pm.isLt
  have := x.preg.isLt
  have := x.d.isLt
  have := x.a.isLt
  have := x.pa.isLt
  have := x.f.isLt
  have := x.size.isLt
  have := x.scope.isLt
  have := x.ord.isLt
  have := x.rc.isLt
  obtain ⟨pm, preg, d, a, pa, f, size, scope, ord, rc⟩ := x
  simp only [MWord.ofNat, MWord.toNat, headNat, field, MWord.mk.injEq] at *
  refine ⟨?_, ?_, ?_, ?_, ?_, ?_, ?_, ?_, ?_, ?_⟩ <;> (apply BitVec.eq_of_toNat_eq; simp only [BitVec.toNat_ofNat]; omega)

/-- Written back, they give bits 53:0. -/
theorem MWord.toNat_ofNat (n : Nat) : (MWord.ofNat n).toNat = n % 2 ^ 54 := by
  simp only [MWord.ofNat, MWord.toNat, headNat, field, BitVec.toNat_ofNat]
  rw [mod_two_pow_split n 52 2 54 rfl,
    mod_two_pow_split n 44 8 52 rfl,
    mod_two_pow_split n 36 8 44 rfl,
    mod_two_pow_split n 28 8 36 rfl,
    mod_two_pow_split n 25 3 28 rfl,
    mod_two_pow_split n 11 14 25 rfl,
    mod_two_pow_split n 8 3 11 rfl,
    mod_two_pow_split n 5 3 8 rfl,
    mod_two_pow_split n 3 2 5 rfl]
  simp only [Nat.pow_zero, Nat.div_one, Nat.add_assoc]

/-- The fields of XWord fit below OP. -/
theorem XWord.toNat_lt (x : XWord) : x.toNat < 2 ^ 54 := by
  have := x.pm.isLt
  have := x.preg.isLt
  have := x.d.isLt
  have := x.acc.isLt
  have := x.ya.isLt
  have := x.yb.isLt
  have := x.ysa.isLt
  have := x.ysb.isLt
  have := x.ym.isLt
  have := x.fa.isLt
  have := x.fb.isLt
  have := x.spn.isLt
  have := x.neg.isLt
  have := x.sat.isLt
  have := x.rest.isLt
  simp only [XWord.toNat, headNat, XWord.low36]
  omega

/-- The fields of XWord are read back. -/
theorem XWord.ofNat_toNat (x : XWord) (k : Nat) : XWord.ofNat (k * 2 ^ 54 + x.toNat) = x := by
  have := x.pm.isLt
  have := x.preg.isLt
  have := x.d.isLt
  have := x.acc.isLt
  have := x.ya.isLt
  have := x.yb.isLt
  have := x.ysa.isLt
  have := x.ysb.isLt
  have := x.ym.isLt
  have := x.fa.isLt
  have := x.fb.isLt
  have := x.spn.isLt
  have := x.neg.isLt
  have := x.sat.isLt
  have := x.rest.isLt
  obtain ⟨pm, preg, d, acc, ya, yb, ysa, ysb, ym, fa, fb, spn, neg, sat, rest⟩ := x
  simp only [XWord.ofNat, XWord.toNat, headNat, field, XWord.low36, XWord.mk.injEq] at *
  refine ⟨?_, ?_, ?_, ?_, ?_, ?_, ?_, ?_, ?_, ?_, ?_, ?_, ?_, ?_, ?_⟩ <;> (apply BitVec.eq_of_toNat_eq; simp only [BitVec.toNat_ofNat]; omega)

/-- Written back, they give bits 53:0. -/
theorem XWord.toNat_ofNat (n : Nat) : (XWord.ofNat n).toNat = n % 2 ^ 54 := by
  simp only [XWord.ofNat, XWord.toNat, headNat, field, BitVec.toNat_ofNat, XWord.low36]
  rw [mod_two_pow_split n 52 2 54 rfl,
    mod_two_pow_split n 44 8 52 rfl,
    mod_two_pow_split n 36 8 44 rfl,
    mod_two_pow_split n 34 2 36 rfl,
    mod_two_pow_split n 31 3 34 rfl,
    mod_two_pow_split n 28 3 31 rfl,
    mod_two_pow_split n 25 3 28 rfl,
    mod_two_pow_split n 22 3 25 rfl,
    mod_two_pow_split n 19 3 22 rfl,
    mod_two_pow_split n 16 3 19 rfl,
    mod_two_pow_split n 13 3 16 rfl,
    mod_two_pow_split n 11 2 13 rfl,
    mod_two_pow_split n 10 1 11 rfl,
    mod_two_pow_split n 9 1 10 rfl]
  simp only [Nat.pow_zero, Nat.div_one, Nat.add_assoc]

/-- The fields of KWord fit below OP. -/
theorem KWord.toNat_lt (x : KWord) : x.toNat < 2 ^ 54 := by
  have := x.pm.isLt
  have := x.preg.isLt
  have := x.d.isLt
  have := x.a.isLt
  have := x.b.isLt
  have := x.c.isLt
  have := x.y.isLt
  have := x.imm.isLt
  simp only [KWord.toNat, headNat]
  omega

/-- The fields of KWord are read back. -/
theorem KWord.ofNat_toNat (x : KWord) (k : Nat) : KWord.ofNat (k * 2 ^ 54 + x.toNat) = x := by
  have := x.pm.isLt
  have := x.preg.isLt
  have := x.d.isLt
  have := x.a.isLt
  have := x.b.isLt
  have := x.c.isLt
  have := x.y.isLt
  have := x.imm.isLt
  obtain ⟨pm, preg, d, a, b, c, y, imm⟩ := x
  simp only [KWord.ofNat, KWord.toNat, headNat, field, KWord.mk.injEq] at *
  refine ⟨?_, ?_, ?_, ?_, ?_, ?_, ?_, ?_⟩ <;> (apply BitVec.eq_of_toNat_eq; simp only [BitVec.toNat_ofNat]; omega)

/-- Written back, they give bits 53:0. -/
theorem KWord.toNat_ofNat (n : Nat) : (KWord.ofNat n).toNat = n % 2 ^ 54 := by
  simp only [KWord.ofNat, KWord.toNat, headNat, field, BitVec.toNat_ofNat]
  rw [mod_two_pow_split n 52 2 54 rfl,
    mod_two_pow_split n 44 8 52 rfl,
    mod_two_pow_split n 36 8 44 rfl,
    mod_two_pow_split n 28 8 36 rfl,
    mod_two_pow_split n 20 8 28 rfl,
    mod_two_pow_split n 12 8 20 rfl,
    mod_two_pow_split n 9 3 12 rfl]
  simp only [Nat.pow_zero, Nat.div_one, Nat.add_assoc]

/-- The fields of SWord fit below OP. -/
theorem SWord.toNat_lt (x : SWord) : x.toNat < 2 ^ 54 := by
  have := x.pm.isLt
  have := x.preg.isLt
  have := x.d.isLt
  have := x.a.isLt
  have := x.b.isLt
  have := x.imm.isLt
  simp only [SWord.toNat, headNat]
  omega

/-- The fields of SWord are read back. -/
theorem SWord.ofNat_toNat (x : SWord) (k : Nat) : SWord.ofNat (k * 2 ^ 54 + x.toNat) = x := by
  have := x.pm.isLt
  have := x.preg.isLt
  have := x.d.isLt
  have := x.a.isLt
  have := x.b.isLt
  have := x.imm.isLt
  obtain ⟨pm, preg, d, a, b, imm⟩ := x
  simp only [SWord.ofNat, SWord.toNat, headNat, field, SWord.mk.injEq] at *
  refine ⟨?_, ?_, ?_, ?_, ?_, ?_⟩ <;> (apply BitVec.eq_of_toNat_eq; simp only [BitVec.toNat_ofNat]; omega)

/-- Written back, they give bits 53:0. -/
theorem SWord.toNat_ofNat (n : Nat) : (SWord.ofNat n).toNat = n % 2 ^ 54 := by
  simp only [SWord.ofNat, SWord.toNat, headNat, field, BitVec.toNat_ofNat]
  rw [mod_two_pow_split n 52 2 54 rfl,
    mod_two_pow_split n 44 8 52 rfl,
    mod_two_pow_split n 36 8 44 rfl,
    mod_two_pow_split n 28 8 36 rfl,
    mod_two_pow_split n 20 8 28 rfl]
  simp only [Nat.pow_zero, Nat.div_one, Nat.add_assoc]

/-- The fields of CWord fit below OP. -/
theorem CWord.toNat_lt (x : CWord) : x.toNat < 2 ^ 54 := by
  have := x.pm.isLt
  have := x.preg.isLt
  have := x.d.isLt
  have := x.off.isLt
  have := x.sub.isLt
  simp only [CWord.toNat, headNat]
  omega

/-- The fields of CWord are read back. -/
theorem CWord.ofNat_toNat (x : CWord) (k : Nat) : CWord.ofNat (k * 2 ^ 54 + x.toNat) = x := by
  have := x.pm.isLt
  have := x.preg.isLt
  have := x.d.isLt
  have := x.off.isLt
  have := x.sub.isLt
  obtain ⟨pm, preg, d, off, sub⟩ := x
  simp only [CWord.ofNat, CWord.toNat, headNat, field, CWord.mk.injEq] at *
  refine ⟨?_, ?_, ?_, ?_, ?_⟩ <;> (apply BitVec.eq_of_toNat_eq; simp only [BitVec.toNat_ofNat]; omega)

/-- Written back, they give bits 53:0. -/
theorem CWord.toNat_ofNat (n : Nat) : (CWord.ofNat n).toNat = n % 2 ^ 54 := by
  simp only [CWord.ofNat, CWord.toNat, headNat, field, BitVec.toNat_ofNat]
  rw [mod_two_pow_split n 52 2 54 rfl,
    mod_two_pow_split n 44 8 52 rfl,
    mod_two_pow_split n 36 8 44 rfl,
    mod_two_pow_split n 4 32 36 rfl]
  simp only [Nat.pow_zero, Nat.div_one, Nat.add_assoc]

end Sys2Proof.Laws
end

