-- ==== Sys2Proof/Laws/Memory.lean ====
section
/-! SUPPORT. Sparse storage and memory: what a read gives after a write, that each operation keeps the canonical form, that equal contents
are equal data, and what a write of root memory, of a version and of vault memory leaves alone. -/

namespace Sys2Proof.Laws

open Sys2Proof Sys2Proof.Machine

/-! ### Sparse lists -/

theorem sortedFrom_mono {α : Type} {lo lo' : Nat} (h : lo' ≤ lo) {m : Sparse α} (hm : Sparse.sortedFrom lo m = true) :
    Sparse.sortedFrom lo' m = true := by
  cases m with
  | nil => rfl
  | cons p m =>
    simp only [Sparse.sortedFrom, Bool.and_eq_true, decide_eq_true_eq] at hm ⊢
    exact ⟨by omega, hm.2⟩

theorem sortedFrom_insert {α : Type} {m : Sparse α} {lo a : Nat} (v : α) (h : lo ≤ a) (hm : Sparse.sortedFrom lo m = true) :
    Sparse.sortedFrom lo (m.insert a v) = true := by
  induction m generalizing lo with
  | nil => simpa [Sparse.insert, Sparse.sortedFrom] using h
  | cons p m ih =>
    obtain ⟨k, w⟩ := p
    simp only [Sparse.sortedFrom, Bool.and_eq_true, decide_eq_true_eq] at hm
    simp only [Sparse.insert]
    split
    · simp only [Sparse.sortedFrom, Bool.and_eq_true, decide_eq_true_eq]
      exact ⟨h, by omega, hm.2⟩
    · split
      · subst a
        simpa [Sparse.sortedFrom] using hm
      · simp only [Sparse.sortedFrom, Bool.and_eq_true, decide_eq_true_eq]
        exact ⟨hm.1, ih (by omega) hm.2⟩

theorem sortedFrom_erase {α : Type} {m : Sparse α} {lo : Nat} (a : Nat) (hm : Sparse.sortedFrom lo m = true) :
    Sparse.sortedFrom lo (m.erase a) = true := by
  induction m generalizing lo with
  | nil => rfl
  | cons p m ih =>
    obtain ⟨k, w⟩ := p
    have hm' := hm
    simp only [Sparse.sortedFrom, Bool.and_eq_true, decide_eq_true_eq] at hm
    simp only [Sparse.erase]
    split
    · exact hm'
    · split
      · exact sortedFrom_mono (by omega) hm.2
      · simp only [Sparse.sortedFrom, Bool.and_eq_true, decide_eq_true_eq]
        exact ⟨hm.1, ih hm.2⟩

theorem sortedFrom_filter {α : Type} {m : Sparse α} {lo : Nat} (q : Nat × α → Bool) (hm : Sparse.sortedFrom lo m = true) :
    Sparse.sortedFrom lo (m.filter q) = true := by
  induction m generalizing lo with
  | nil => rfl
  | cons p m ih =>
    obtain ⟨k, w⟩ := p
    simp only [Sparse.sortedFrom, Bool.and_eq_true, decide_eq_true_eq] at hm
    simp only [List.filter]
    split
    · simp only [Sparse.sortedFrom, Bool.and_eq_true, decide_eq_true_eq]
      exact ⟨hm.1, ih hm.2⟩
    · exact ih (sortedFrom_mono (by omega) hm.2)

/-- A key below every listed one reads as the default. -/
theorem get_of_sortedFrom {α : Type} (d : α) {m : Sparse α} {lo a : Nat} (h : a < lo) (hm : Sparse.sortedFrom lo m = true) :
    Sparse.get d m a = d := by
  cases m with
  | nil => rfl
  | cons p m =>
    obtain ⟨k, w⟩ := p
    simp only [Sparse.sortedFrom, Bool.and_eq_true, decide_eq_true_eq] at hm
    simp only [Sparse.get]
    split
    · omega
    · split
      · rfl
      · omega

theorem get_insert {α : Type} (d : α) {m : Sparse α} {lo : Nat} (a b : Nat) (v : α) (hm : Sparse.sortedFrom lo m = true) :
    Sparse.get d (m.insert a v) b = if b = a then v else Sparse.get d m b := by
  induction m generalizing lo with
  | nil =>
    simp only [Sparse.insert, Sparse.get, ite_self]
    split <;> split <;> first | rfl | omega
  | cons p m ih =>
    obtain ⟨k, w⟩ := p
    simp only [Sparse.sortedFrom, Bool.and_eq_true, decide_eq_true_eq] at hm
    by_cases e : b = a
    · subst b
      rw [if_pos rfl]
      simp only [Sparse.insert]
      split
      · simp [Sparse.get]
      · split
        · simp [Sparse.get]
        · simp only [Sparse.get, ih hm.2, if_true]
          split <;> first | rfl | omega
    · rw [if_neg e]
      simp only [Sparse.insert]
      split
      · rw [Sparse.get, if_neg (fun h => e h.symm)]
        split
        · rw [Sparse.get]
          split
          · omega
          · split
            · rfl
            · omega
        · rfl
      · split
        · simp only [Sparse.get]
          split
          · omega
          · split
            · split
              · omega
              · simp [show b < k by omega]
            · split
              · omega
              · simp [show ¬ b < k by omega]
        · simp only [Sparse.get, ih hm.2, if_neg e]

theorem get_erase {α : Type} (d : α) {m : Sparse α} {lo : Nat} (a b : Nat) (hm : Sparse.sortedFrom lo m = true) :
    Sparse.get d (m.erase a) b = if b = a then d else Sparse.get d m b := by
  induction m generalizing lo with
  | nil => simp [Sparse.erase, Sparse.get]
  | cons p m ih =>
    obtain ⟨k, w⟩ := p
    have hm' := hm
    simp only [Sparse.sortedFrom, Bool.and_eq_true, decide_eq_true_eq] at hm
    simp only [Sparse.erase]
    split
    · split
      · subst b
        exact get_of_sortedFrom d (lo := k) ‹_› (by simp [Sparse.sortedFrom, hm.2])
      · rfl
    · split
      · subst a
        split
        · subst b
          exact get_of_sortedFrom d (Nat.lt_succ_self _) hm.2
        · simp only [Sparse.get]
          split
          · omega
          · split
            · exact get_of_sortedFrom d (by omega) hm.2
            · rfl
      · simp only [Sparse.get, ih hm.2]
        split <;> split <;> (try split) <;> first | rfl | omega

/-- What a key reads as after a write. -/
theorem get_put {α : Type} [DecidableEq α] (d : α) {m : Sparse α} (hm : Sparse.wf d m = true) (a b : Nat) (v : α) :
    Sparse.get d (m.put d a v) b = if b = a then v else Sparse.get d m b := by
  simp only [Sparse.wf, Bool.and_eq_true] at hm
  unfold Sparse.put
  split
  · subst v
    exact get_erase d a b hm.1
  · exact get_insert d a b v hm.1

theorem all_insert {α : Type} {m : Sparse α} {q : Nat × α → Bool} {a : Nat} {v : α} (h : q (a, v) = true) (hm : m.all q = true) :
    (m.insert a v).all q = true := by
  induction m with
  | nil => simp [Sparse.insert, h]
  | cons p m ih =>
    obtain ⟨k, w⟩ := p
    simp only [List.all_cons, Bool.and_eq_true] at hm
    simp only [Sparse.insert]
    split
    · simp [h, hm.1, hm.2]
    · split
      · simp [h, hm.2]
      · simp [hm.1, ih hm.2]

theorem all_erase {α : Type} {m : Sparse α} {q : Nat × α → Bool} (a : Nat) (hm : m.all q = true) : (m.erase a).all q = true := by
  induction m with
  | nil => rfl
  | cons p m ih =>
    obtain ⟨k, w⟩ := p
    simp only [List.all_cons, Bool.and_eq_true] at hm
    simp only [Sparse.erase]
    split
    · simp [hm.1, hm.2]
    · split
      · exact hm.2
      · simp [hm.1, ih hm.2]

/-- A write keeps the canonical form. -/
theorem wf_put {α : Type} [DecidableEq α] {d : α} {m : Sparse α} (hm : Sparse.wf d m = true) (a : Nat) (v : α) :
    Sparse.wf d (m.put d a v) = true := by
  simp only [Sparse.wf, Bool.and_eq_true] at hm ⊢
  unfold Sparse.put
  split
  · exact ⟨sortedFrom_erase a hm.1, all_erase a hm.2⟩
  · exact ⟨sortedFrom_insert v (Nat.zero_le a) hm.1, all_insert (by simpa using ‹_›) hm.2⟩

/-- Taking keys off the list keeps the canonical form. -/
theorem wf_filter {α : Type} [DecidableEq α] {d : α} {m : Sparse α} (hm : Sparse.wf d m = true) (q : Nat × α → Bool) :
    Sparse.wf d (m.filter q) = true := by
  simp only [Sparse.wf, Bool.and_eq_true] at hm ⊢
  refine ⟨sortedFrom_filter q hm.1, List.all_eq_true.2 fun p hp => ?_⟩
  exact List.all_eq_true.1 hm.2 p (List.mem_filter.1 hp).1

/-- Lists in canonical form that read alike are equal. -/
theorem ext_of_wf {α : Type} [DecidableEq α] {d : α} {m n : Sparse α} (hm : Sparse.wf d m = true) (hn : Sparse.wf d n = true)
    (h : ∀ a, Sparse.get d m a = Sparse.get d n a) : m = n := by
  have go : ∀ (m n : Sparse α) (lo lo' : Nat), Sparse.sortedFrom lo m = true → Sparse.sortedFrom lo' n = true →
      (∀ p ∈ m, p.2 ≠ d) → (∀ p ∈ n, p.2 ≠ d) → (∀ a, Sparse.get d m a = Sparse.get d n a) → m = n := by
    intro m
    induction m with
    | nil =>
      intro n lo lo' _ _ _ hb hx
      cases n with
      | nil => rfl
      | cons q n =>
        have := hx q.1
        simp only [Sparse.get, ↓reduceIte] at this
        exact absurd this.symm (hb q List.mem_cons_self)
    | cons p m ih =>
      intro n lo lo' hs ht ha hb hx
      obtain ⟨k, v⟩ := p
      simp only [Sparse.sortedFrom, Bool.and_eq_true, decide_eq_true_eq] at hs
      have hv := ha (k, v) List.mem_cons_self
      cases n with
      | nil =>
        have := hx k
        simp only [Sparse.get, ↓reduceIte] at this
        exact absurd this hv
      | cons q n =>
        obtain ⟨j, w⟩ := q
        simp only [Sparse.sortedFrom, Bool.and_eq_true, decide_eq_true_eq] at ht
        have hw := hb (j, w) List.mem_cons_self
        have hkj : k = j := by
          have h1 := hx k
          have h2 := hx j
          simp only [Sparse.get, ↓reduceIte] at h1 h2
          by_contra hne
          by_cases hlt : k < j
          · rw [if_neg (fun h => hne h.symm), if_pos hlt] at h1
            exact hv h1
          · rw [if_neg hne, if_pos (by omega)] at h2
            exact hw h2.symm
        subst j
        have hvw : v = w := by
          have h1 := hx k
          simpa [Sparse.get] using h1
        subst w
        have : m = n := by
          refine ih n (k + 1) (k + 1) hs.2 ht.2 (fun p hp => ha p (List.mem_cons_of_mem _ hp)) (fun p hp => hb p (List.mem_cons_of_mem _ hp)) ?_
          intro a
          have h1 := hx a
          simp only [Sparse.get] at h1
          by_cases e : k = a
          · subst a
            rw [get_of_sortedFrom d (Nat.lt_succ_self _) hs.2, get_of_sortedFrom d (Nat.lt_succ_self _) ht.2]
          · rw [if_neg e, if_neg e] at h1
            by_cases l : a < k
            · rw [get_of_sortedFrom d (by omega) hs.2, get_of_sortedFrom d (by omega) ht.2]
            · rwa [if_neg l, if_neg l] at h1
        rw [this]
  simp only [Sparse.wf, Bool.and_eq_true, List.all_eq_true, decide_eq_true_eq] at hm hn
  exact go m n 0 0 hm.1 hn.1 hm.2 hn.2 h

/-! ### Memory -/

theorem wf_write {m : Memory} (hm : m.wf = true) (a : Nat) (b : Byte) : (m.write a b).wf = true := wf_put hm a b

theorem read_write {m : Memory} (hm : m.wf = true) (a a' : Nat) (b : Byte) : (m.write a b).read a' = if a' = a then b else m.read a' :=
  get_put 0 hm a a' b

/-- A byte string written keeps the canonical form. -/
theorem wf_writeBytes {m : Memory} (hm : m.wf = true) (a : Nat) (bs : Bytes) : (m.writeBytes a bs).wf = true := by
  induction bs generalizing m a with
  | nil => exact hm
  | cons b bs ih => exact ih (wf_write hm a b) (a + 1)

/-- What a byte reads as after a byte string is written. -/
theorem read_writeBytes {m : Memory} (hm : m.wf = true) (a : Nat) (bs : Bytes) (a' : Nat) :
    (m.writeBytes a bs).read a' = if a ≤ a' ∧ a' < a + bs.length then bs.getD (a' - a) 0 else m.read a' := by
  induction bs generalizing m a with
  | nil => simp [Memory.writeBytes]
  | cons b bs ih =>
    simp only [Memory.writeBytes, ih (wf_write hm a b), read_write hm, List.length_cons]
    by_cases h1 : a' = a
    · subst a'
      simp
    · by_cases h2 : a ≤ a' ∧ a' < a + (bs.length + 1)
      · rw [if_pos (by omega), if_pos h2, show a' - a = (a' - (a + 1)) + 1 by omega, List.getD_cons_succ]
      · rw [if_neg (by omega), if_neg h1, if_neg h2]

/-- A byte outside what is written reads as before. -/
theorem read_writeBytes_of_outside {m : Memory} (hm : m.wf = true) {a : Nat} {bs : Bytes} {a' : Nat} (h : a' < a ∨ a + bs.length ≤ a') :
    (m.writeBytes a bs).read a' = m.read a' := by
  rw [read_writeBytes hm, if_neg (by omega)]

/-- What is written is read back. -/
theorem readBytes_writeBytes {m : Memory} (hm : m.wf = true) (a : Nat) (bs : Bytes) :
    (m.writeBytes a bs).readBytes a bs.length = bs := by
  have go : ∀ (n : Nat) (m : Memory) (a : Nat), Memory.readBytes m a n = (List.range n).map fun k => m.read (a + k) := by
    intro n
    induction n with
    | zero => intro m a; rfl
    | succ n ih =>
      intro m a
      rw [List.range_succ_eq_map, List.map_cons, List.map_map, Memory.readBytes, ih]
      refine congrArg _ (List.map_congr_left fun k _ => ?_)
      simp only [Function.comp_apply, Nat.succ_eq_add_one]
      congr 1
      omega
  rw [go]
  refine List.ext_getElem (by simp) fun k h1 h2 => ?_
  simp only [List.getElem_map, List.getElem_range]
  rw [read_writeBytes hm, if_pos (by omega), show a + k - a = k by omega, List.getD_eq_getElem _ _ h2]

theorem length_natLe (n v : Nat) : (natLe n v).length = n := by
  induction n generalizing v with
  | zero => rfl
  | succ n ih => simp [natLe, ih]

/-- Little-endian bytes give the number back, modulo their width (R7). -/
theorem leNat_natLe (n v : Nat) : leNat (natLe n v) = v % 256 ^ n := by
  induction n generalizing v with
  | zero => simp [natLe, leNat, Nat.mod_one]
  | succ n ih =>
    rw [natLe, leNat, ih, BitVec.toNat_ofNat, show (256 : Nat) ^ (n + 1) = 256 * 256 ^ n from Nat.pow_succ', Nat.mod_mul]

/-! ### Registers of a block -/

theorem read_set {r : RegFile} (hr : Sparse.wf (α := DWord) 0 r = true) (off off' : Nat) (v : DWord) :
    (r.set off v).read off' = if off' = off then v else r.read off' := get_put 0 hr off off' v

theorem wf_set {r : RegFile} (hr : Sparse.wf (α := DWord) 0 r = true) (off : Nat) (v : DWord) : Sparse.wf (α := DWord) 0 (r.set off v) = true :=
  wf_put hr off v

/-! ### Writes in the state -/

/-- What a fold of changes that leave a part of the state alone leaves alone. -/
theorem foldl_keeps {β γ : Type} (get : State → γ) (f : State → β → State) (h : ∀ s b, get (f s b) = get s) (bs : List β) (s : State) :
    get (bs.foldl f s) = get s := by
  induction bs generalizing s with
  | nil => rfl
  | cons b bs ih => rw [List.foldl_cons, ih, h]

theorem noteDirty_mem (s : State) (line : Nat) : (noteDirty s line).mem = s.mem := by unfold noteDirty; split <;> rfl
theorem noteDirty_vault (s : State) (line : Nat) : (noteDirty s line).vault = s.vault := by unfold noteDirty; split <;> rfl
theorem setPoison_mem (s : State) (g : Granule) (src : Nat) : (setPoison s g src).mem = s.mem := by unfold setPoison; split <;> rfl
theorem setPoison_vault (s : State) (g : Granule) (src : Nat) : (setPoison s g src).vault = s.vault := by unfold setPoison; split <;> rfl

/-- A write of root memory writes its bytes, no other byte, and no vault memory. -/
theorem rootWrite_parts (s : State) (agent : Option Nat) (cached : Bool) (pa : Nat) (bs : Bytes) :
    ((rootWrite s agent cached pa bs).mem, (rootWrite s agent cached pa bs).vault) = (s.mem.writeBytes pa bs, s.vault) := by
  let parts : State → Memory × Sparse Byte := fun u => (u.mem, u.vault)
  unfold rootWrite
  refine (foldl_keeps parts (fun s l => noteWrite s agent 0 none l) (fun _ _ => rfl) _ _).trans ?_
  have hc : ∀ u : State, parts (if u.poison.isEmpty then u else (wholeGranules pa bs.length).foldl (fun s g => clearPoison s (.phys g)) u)
      = parts u := by
    intro u
    split
    · rfl
    · exact foldl_keeps parts (fun s g => clearPoison s (.phys g)) (fun _ _ => rfl) _ _
  refine (hc _).trans ?_
  have hd : parts ((linesOf pa bs.length).foldl noteDirty s) = parts s :=
    foldl_keeps parts noteDirty (fun u l => by simp only [parts, noteDirty_mem, noteDirty_vault]) _ _
  cases cached with
  | false => rfl
  | true => exact congrArg (fun q : Memory × Sparse Byte => (q.1.writeBytes pa bs, q.2)) hd

theorem rootWrite_mem (s : State) (agent : Option Nat) (cached : Bool) (pa : Nat) (bs : Bytes) :
    (rootWrite s agent cached pa bs).mem = s.mem.writeBytes pa bs := congrArg Prod.fst (rootWrite_parts s agent cached pa bs)

theorem rootWrite_vault (s : State) (agent : Option Nat) (cached : Bool) (pa : Nat) (bs : Bytes) :
    (rootWrite s agent cached pa bs).vault = s.vault := congrArg Prod.snd (rootWrite_parts s agent cached pa bs)

theorem wf_rootWrite {s : State} (hm : s.mem.wf = true) (agent : Option Nat) (cached : Bool) (pa : Nat) (bs : Bytes) :
    (rootWrite s agent cached pa bs).mem.wf = true := by
  rw [rootWrite_mem]
  exact wf_writeBytes hm pa bs

theorem makeVersion_parts (s : State) (h p line : Nat) :
    ((makeVersion s h p line).mem, (makeVersion s h p line).vault) = (s.mem, s.vault) := by
  unfold makeVersion
  split
  · rfl
  · exact foldl_keeps (fun u => (u.mem, u.vault)) (fun s (m : Nat × Nat) => setPoison s (.version h p m.1) m.2)
      (fun u m => by simp only [setPoison_mem, setPoison_vault]) _ _

/-- A write of a version writes no byte of root memory and no vault memory (R295). -/
theorem versionWrite_parts (s : State) (agent : Option Nat) (cached : Bool) (h p pa : Nat) (bs : Bytes) :
    ((versionWrite s agent cached h p pa bs).mem, (versionWrite s agent cached h p pa bs).vault) = (s.mem, s.vault) := by
  unfold versionWrite
  simp only [noteWrite]
  split
  · exact makeVersion_parts s h p _
  · exact (foldl_keeps (fun u => (u.mem, u.vault)) (fun s g => clearPoison s (.version h p g)) (fun _ _ => rfl) _ _).trans
      (makeVersion_parts s h p _)

theorem versionWrite_mem (s : State) (agent : Option Nat) (cached : Bool) (h p pa : Nat) (bs : Bytes) :
    (versionWrite s agent cached h p pa bs).mem = s.mem := congrArg Prod.fst (versionWrite_parts s agent cached h p pa bs)

theorem versionWrite_vault (s : State) (agent : Option Nat) (cached : Bool) (h p pa : Nat) (bs : Bytes) :
    (versionWrite s agent cached h p pa bs).vault = s.vault := congrArg Prod.snd (versionWrite_parts s agent cached h p pa bs)

/-- A write in a ply: root memory in the root, a version elsewhere (R163, R295). -/
theorem plyWrite_mem (s : State) (agent : Option Nat) (cached : Bool) (h p pa : Nat) (bs : Bytes) :
    (plyWrite s agent cached h p pa bs).mem = if p = 0 then s.mem.writeBytes pa bs else s.mem := by
  unfold plyWrite
  split
  · exact rootWrite_mem s agent cached pa bs
  · exact versionWrite_mem s agent cached h p pa bs

theorem plyWrite_vault (s : State) (agent : Option Nat) (cached : Bool) (h p pa : Nat) (bs : Bytes) :
    (plyWrite s agent cached h p pa bs).vault = s.vault := by
  unfold plyWrite
  split
  · exact rootWrite_vault s agent cached pa bs
  · exact versionWrite_vault s agent cached h p pa bs

theorem wf_plyWrite {s : State} (hm : s.mem.wf = true) (agent : Option Nat) (cached : Bool) (h p pa : Nat) (bs : Bytes) :
    (plyWrite s agent cached h p pa bs).mem.wf = true := by
  rw [plyWrite_mem]
  split
  · exact wf_writeBytes hm pa bs
  · exact hm

/-- Writes of vault memory keep its canonical form and write no byte of memory. -/
theorem vaultWrite_spec {s : State} (h core off : Nat) (bs : Bytes) :
    (vaultWrite s h core off bs).mem = s.mem
      ∧ (Sparse.wf (α := Byte) 0 s.vault = true → Sparse.wf (α := Byte) 0 (vaultWrite s h core off bs).vault = true) := by
  induction bs generalizing s off with
  | nil => exact ⟨rfl, fun h => h⟩
  | cons b bs ih =>
    refine ⟨(ih (off := off + 1)).1, fun hv => ?_⟩
    exact (ih (off := off + 1)).2 (wf_put hv _ b)

end Sys2Proof.Laws
end

