-- ==== Sys2Proof/Laws/Settle.lean ====
section
/-! SUPPORT. What follows a word, said once: what `settle` and its parts may change (02 R48, 08 R192-R198, 11 R272), and what marking,
rotating and counting leave alone. -/

namespace Sys2Proof.Laws

open Sys2Proof Sys2Proof.Machine

/-- A pair that is over is not settled again. -/
theorem settlePair_of_inactive {s : State} (h : ∀ p ∈ s.pairs, p.active = false) (k : Nat) : settlePair s k = s := by
  unfold settlePair
  cases hp : s.pairs[k]? with
  | none => rfl
  | some p => simp [h p (List.mem_of_getElem? hp)]

/-- Without a keep that waits there is none to settle. -/
theorem settleKeeps_of_none {s : State} (h : ∀ k ∈ s.hanks.toList, k.keeper = none) : settleKeeps s = s := by
  have : (s.hanks.toList.all fun k => k.keeper.isNone) = true := List.all_eq_true.2 fun k hk => by rw [h k hk]; rfl
  simp only [settleKeeps, this, ↓reduceIte]

/-- Where no pair and no keep waits, settling them changes nothing. -/
theorem settlePairs_of_nothing {s : State} (h : nothingWaits s) : settlePairs s = s := by
  have go : ∀ ks : List Nat, ks.foldl settlePair s = s := fun ks => by
    induction ks with
    | nil => rfl
    | cons k ks ih => rw [List.foldl_cons, settlePair_of_inactive h.1, ih]
  unfold settlePairs
  simp only [settleKeeps_of_none h.2, go, ite_self]

/-- A wave of a state whose wave `w` was changed. -/
theorem getElem?_modWave (s : State) (w : Nat) (f : Wave → Wave) (k : Nat) :
    (modWave s w f).waves[k]? = if w = k then (s.waves[k]?).map f else s.waves[k]? := by
  simp only [modWave, List.getElem?_modify]
  split <;> simp

/-- Changing a wave keeps the number of waves. -/
theorem length_modWave (s : State) (w : Nat) (f : Wave → Wave) : (modWave s w f).waves.length = s.waves.length := by
  simp [modWave]

/-- Flags change one wave's flags and tokens. -/
theorem settleFlags_wave (s : State) (w : Nat) :
    ∃ f : Wave → Wave, settleFlags s w = modWave s w f ∧ ∀ v, { f v with flags := v.flags, tokens := v.tokens } = v :=
  ⟨_, rfl, fun _ => rfl⟩

/-- Barriers let strands go on, those that a trap set aside too. -/
theorem settleBarriers_waves (s : State) (n : Nat) :
    ∃ f : Wave → Wave, (settleBarriers s n).waves = s.waves.map f ∧ ∀ v, { f v with strands := v.strands, trap := v.trap } = v := by
  refine ⟨_, rfl, fun v => ?_⟩
  dsimp only [Wave.modAll]
  split <;> rfl

/-- Barriers change the barriers and the waves. -/
theorem settleBarriers_units (s : State) (n : Nat) : { settleBarriers s n with barriers := s.barriers, waves := s.waves } = s := rfl

/-- What a pending trap lets go on is noted in the wave and changes nothing else. -/
theorem noteFinish_parts (v : Wave) : { v.noteFinish with finish := v.finish } = v := rfl

/-- JOINs change strands. -/
theorem settleJoins_strands (v : Wave) : { settleJoins v with strands := v.strands } = v := rfl

/-- The end of a trap changes strands and the trap; a wave with a strand keeps one. -/
theorem endTrap_parts (v : Wave) :
    { v.endTrap with strands := v.strands, trap := v.trap } = v ∧ (v.strands ≠ [] → v.endTrap.strands ≠ []) := by
  unfold Wave.endTrap
  split
  · exact ⟨rfl, id⟩
  · split
    · exact ⟨rfl, fun h => by simp [h]⟩
    · exact ⟨rfl, id⟩

/-- A write of registers changes the marks of poison and nothing else. -/
theorem markReg_units (s t : State) (c : Ctx) (code : Nat → Option Nat) (r q : Nat) (h : { t with poison := s.poison } = s) :
    { markReg t c code r q with poison := s.poison } = s := by
  unfold markReg
  dsimp only
  split
  · unfold setPoison
    split <;> exact h
  · split <;> exact h

/-- Writes of registers change the marks of poison and nothing else; without poison they change nothing. -/
theorem markRegs_units (s : State) (c : Ctx) (code : Nat → Option Nat) (rs : List Nat) :
    { markRegs s c code rs with poison := s.poison } = s ∧ (s.poison = [] → markRegs s c code rs = s) := by
  unfold markRegs
  refine ⟨?_, fun h => by simp [h]⟩
  split
  · rfl
  · have : ∀ (rs : List Nat) (t : State), { t with poison := s.poison } = s →
        { rs.foldl (fun s r => markReg (markReg s c code r 0) c code r 1) t with poison := s.poison } = s := by
      intro rs
      induction rs with
      | nil => exact fun t h => h
      | cons r rs ih => exact fun t h => ih _ (markReg_units _ _ _ _ _ _ (markReg_units _ _ _ _ _ _ h))
    exact this rs s rfl

/-- What a word does to the poison of its destinations changes the marks of poison and nothing else. -/
theorem clearRegPoison_units (s : State) (c : Ctx) (i : Instr) :
    { clearRegPoison s c i with poison := s.poison } = s ∧ (s.poison = [] → clearRegPoison s c i = s) := by
  unfold clearRegPoison
  split
  · exact ⟨rfl, fun _ => rfl⟩
  · exact ⟨rfl, fun _ => rfl⟩
  · exact markRegs_units s c _ _

/-- A wave without what follows a word of it. -/
def strip (v : Wave) : Wave := { v with strands := [], flags := Vector.replicate 12 0, tokens := [], trap := none, finish := none }

/-- Waves that differ only in what follows a word. -/
theorem of_strip {u v : Wave} (h : strip u = strip v) :
    { u with strands := v.strands, flags := v.flags, tokens := v.tokens, trap := v.trap, finish := v.finish } = v :=
  congrArg (fun x : Wave => { x with strands := v.strands, flags := v.flags, tokens := v.tokens, trap := v.trap, finish := v.finish }) h

/-- What follows a word of a live wave that keeps a strand, where no pair and no keep waits: the flags, then trap and strands of its wave, the
strands that barriers let go on, and the schedule. -/
theorem settle_frame {s : State} {w : Nat} {v : Wave} (hv : s.waves[w]? = some v) (hl : v.phase = .live) (hs : v.strands ≠ [])
    (hp : nothingWaits s) :
    sameUnits s (settle s w) ∧ (settle s w).poison = s.poison ∧ sameOthers s (settle s w) w
      ∧ ∃ v', (settle s w).waves[w]? = some v'
        ∧ { v' with strands := v.strands, flags := v.flags, tokens := v.tokens, trap := v.trap, finish := v.finish } = v := by
  obtain ⟨he, hne⟩ := endTrap_parts v
  have h1 : (modWave s w fun v => if v.phase = .live then v.endTrap else v).waves[w]? = some v.endTrap := by
    rw [getElem?_modWave]
    simp [hv, hl]
  have hpl : v.endTrap.phase = .live := by have := congrArg Wave.phase he; simpa using this.trans hl
  have hem : v.endTrap.empty = false := by
    simp only [Wave.empty]
    cases hq : v.endTrap.strands with
    | nil => exact absurd hq (hne hs)
    | cons _ _ => rfl
  unfold settle
  simp only [h1, hpl, ne_eq, not_true_eq_false, ↓reduceIte, hem, Bool.false_and, Bool.false_eq_true]
  set s1 := modWave s w fun v => if v.phase = .live then v.endTrap else v with hs1
  obtain ⟨b, hb, hbv⟩ := settleBarriers_waves s1 v.endTrap.launch
  have hbu := settleBarriers_units s1 v.endTrap.launch
  set s2 := settleBarriers s1 v.endTrap.launch with hs2
  set s3 := modWave s2 w fun v => if v.phase = .live then (settleJoins v).noteFinish else v with hs3
  obtain ⟨f, hf, hfv⟩ := settleFlags_wave s3 w
  have h2 : { s2 with barriers := s.barriers, waves := s.waves } = s := by
    exact (congrArg (fun x : State => { x with barriers := s.barriers, waves := s.waves }) hbu).trans rfl
  have h3 : { settleFlags s3 w with barriers := s.barriers, waves := s.waves } = s := by
    rw [hf, hs3]
    exact h2
  have h3p : (settleFlags s3 w).pairs = s.pairs := by
    have := congrArg State.pairs h3
    simpa using this
  have h3h : (settleFlags s3 w).hanks = s.hanks := by
    have := congrArg State.hanks h3
    simpa using this
  rw [settlePairs_of_nothing (by simpa only [nothingWaits, h3p, h3h] using hp)]
  refine ⟨?_, ?_, ⟨?_, ?_⟩, ?_⟩
  · simp only [sameUnits, pruneRunning]
    exact congrArg (fun x : State => { x with running := s.running, progress := s.progress, poison := s.poison }) h3
  · have := congrArg State.poison h3
    simpa [pruneRunning] using this
  · change (settleFlags s3 w).waves.length = _
    rw [hf, length_modWave, hs3, length_modWave, hb, List.length_map, hs1, length_modWave]
  · intro k u hk hu
    have hw : ¬ w = k := fun h => hk h.symm
    refine ⟨b u, ?_, hbv u⟩
    change (settleFlags s3 w).waves[k]? = _
    rw [hf, getElem?_modWave, if_neg hw, hs3, getElem?_modWave, if_neg hw, hb, List.getElem?_map, hs1, getElem?_modWave, if_neg hw, hu]
    rfl
  · refine ⟨f (if (b v.endTrap).phase = .live then (settleJoins (b v.endTrap)).noteFinish else b v.endTrap), ?_, ?_⟩
    · change (settleFlags s3 w).waves[w]? = _
      rw [hf, getElem?_modWave, if_pos rfl, hs3, getElem?_modWave, if_pos rfl, hb, List.getElem?_map, h1]
      rfl
    · have e1 : ∀ u, strip (f u) = strip u := fun u => by have := congrArg strip (hfv u); exact this
      have e2 : strip v.endTrap = strip v := by have := congrArg strip he; exact this
      have e3 : strip (b v.endTrap) = strip v.endTrap := by have := congrArg strip (hbv v.endTrap); exact this
      have e4 : ∀ u : Wave, strip (if u.phase = .live then (settleJoins u).noteFinish else u) = strip u := by
        intro u
        split <;> rfl
      exact of_strip ((e1 _).trans ((e4 _).trans (e3.trans e2)))

end Sys2Proof.Laws
end

