-- ==== Sys2Proof/Laws/State.lean ====
section
/-! SUPPORT. The fields of the state after each named update, one lemma per field per update, and what a hank, a wave and a control register
read as after their own update: later proofs need not unfold a record update. -/

namespace Sys2Proof.Laws

open Sys2Proof Sys2Proof.Machine

/-! ### modWave -/

@[simp] theorem modWave_inbox (s : State) (w : Nat) (f : Wave → Wave) : (modWave s w f).inbox = s.inbox := rfl
@[simp] theorem modWave_running (s : State) (w : Nat) (f : Wave → Wave) : (modWave s w f).running = s.running := rfl
@[simp] theorem modWave_progress (s : State) (w : Nat) (f : Wave → Wave) : (modWave s w f).progress = s.progress := rfl
@[simp] theorem modWave_turn (s : State) (w : Nat) (f : Wave → Wave) : (modWave s w f).turn = s.turn := rfl
@[simp] theorem modWave_timedTurn (s : State) (w : Nat) (f : Wave → Wave) : (modWave s w f).timedTurn = s.timedTurn := rfl
@[simp] theorem modWave_fresh (s : State) (w : Nat) (f : Wave → Wave) : (modWave s w f).fresh = s.fresh := rfl
@[simp] theorem modWave_clock (s : State) (w : Nat) (f : Wave → Wave) : (modWave s w f).clock = s.clock := rfl
@[simp] theorem modWave_mem (s : State) (w : Nat) (f : Wave → Wave) : (modWave s w f).mem = s.mem := rfl
@[simp] theorem modWave_stale (s : State) (w : Nat) (f : Wave → Wave) : (modWave s w f).stale = s.stale := rfl
@[simp] theorem modWave_vault (s : State) (w : Nat) (f : Wave → Wave) : (modWave s w f).vault = s.vault := rfl
@[simp] theorem modWave_versions (s : State) (w : Nat) (f : Wave → Wave) : (modWave s w f).versions = s.versions := rfl
@[simp] theorem modWave_partials (s : State) (w : Nat) (f : Wave → Wave) : (modWave s w f).partials = s.partials := rfl
@[simp] theorem modWave_poison (s : State) (w : Nat) (f : Wave → Wave) : (modWave s w f).poison = s.poison := rfl
@[simp] theorem modWave_poisonTable (s : State) (w : Nat) (f : Wave → Wave) : (modWave s w f).poisonTable = s.poisonTable := rfl
@[simp] theorem modWave_corrupt (s : State) (w : Nat) (f : Wave → Wave) : (modWave s w f).corrupt = s.corrupt := rfl
@[simp] theorem modWave_l1 (s : State) (w : Nat) (f : Wave → Wave) : (modWave s w f).l1 = s.l1 := rfl
@[simp] theorem modWave_l2 (s : State) (w : Nat) (f : Wave → Wave) : (modWave s w f).l2 = s.l2 := rfl
@[simp] theorem modWave_skein (s : State) (w : Nat) (f : Wave → Wave) : (modWave s w f).skein = s.skein := rfl
@[simp] theorem modWave_waves (s : State) (w : Nat) (f : Wave → Wave) : (modWave s w f).waves = s.waves.modify w f := rfl
@[simp] theorem modWave_bays (s : State) (w : Nat) (f : Wave → Wave) : (modWave s w f).bays = s.bays := rfl
@[simp] theorem modWave_markers (s : State) (w : Nat) (f : Wave → Wave) : (modWave s w f).markers = s.markers := rfl
@[simp] theorem modWave_flights (s : State) (w : Nat) (f : Wave → Wave) : (modWave s w f).flights = s.flights := rfl
@[simp] theorem modWave_nextFlight (s : State) (w : Nat) (f : Wave → Wave) : (modWave s w f).nextFlight = s.nextFlight := rfl
@[simp] theorem modWave_perf (s : State) (w : Nat) (f : Wave → Wave) : (modWave s w f).perf = s.perf := rfl
@[simp] theorem modWave_teams (s : State) (w : Nat) (f : Wave → Wave) : (modWave s w f).teams = s.teams := rfl
@[simp] theorem modWave_barriers (s : State) (w : Nat) (f : Wave → Wave) : (modWave s w f).barriers = s.barriers := rfl
@[simp] theorem modWave_launches (s : State) (w : Nat) (f : Wave → Wave) : (modWave s w f).launches = s.launches := rfl
@[simp] theorem modWave_dones (s : State) (w : Nat) (f : Wave → Wave) : (modWave s w f).dones = s.dones := rfl
@[simp] theorem modWave_pairs (s : State) (w : Nat) (f : Wave → Wave) : (modWave s w f).pairs = s.pairs := rfl
@[simp] theorem modWave_hanks (s : State) (w : Nat) (f : Wave → Wave) : (modWave s w f).hanks = s.hanks := rfl
@[simp] theorem modWave_heads (s : State) (w : Nat) (f : Wave → Wave) : (modWave s w f).heads = s.heads := rfl
@[simp] theorem modWave_media (s : State) (w : Nat) (f : Wave → Wave) : (modWave s w f).media = s.media := rfl
@[simp] theorem modWave_rel (s : State) (w : Nat) (f : Wave → Wave) : (modWave s w f).rel = s.rel := rfl
@[simp] theorem modWave_err (s : State) (w : Nat) (f : Wave → Wave) : (modWave s w f).err = s.err := rfl
@[simp] theorem modWave_sysc (s : State) (w : Nat) (f : Wave → Wave) : (modWave s w f).sysc = s.sysc := rfl
@[simp] theorem modWave_board (s : State) (w : Nat) (f : Wave → Wave) : (modWave s w f).board = s.board := rfl
@[simp] theorem modWave_gated (s : State) (w : Nat) (f : Wave → Wave) : (modWave s w f).gated = s.gated := rfl
@[simp] theorem modWave_host (s : State) (w : Nat) (f : Wave → Wave) : (modWave s w f).host = s.host := rfl

/-! ### modHank -/

@[simp] theorem modHank_inbox (s : State) (h : Nat) (f : Hank → Hank) : (modHank s h f).inbox = s.inbox := rfl
@[simp] theorem modHank_running (s : State) (h : Nat) (f : Hank → Hank) : (modHank s h f).running = s.running := rfl
@[simp] theorem modHank_progress (s : State) (h : Nat) (f : Hank → Hank) : (modHank s h f).progress = s.progress := rfl
@[simp] theorem modHank_turn (s : State) (h : Nat) (f : Hank → Hank) : (modHank s h f).turn = s.turn := rfl
@[simp] theorem modHank_timedTurn (s : State) (h : Nat) (f : Hank → Hank) : (modHank s h f).timedTurn = s.timedTurn := rfl
@[simp] theorem modHank_fresh (s : State) (h : Nat) (f : Hank → Hank) : (modHank s h f).fresh = s.fresh := rfl
@[simp] theorem modHank_clock (s : State) (h : Nat) (f : Hank → Hank) : (modHank s h f).clock = s.clock := rfl
@[simp] theorem modHank_mem (s : State) (h : Nat) (f : Hank → Hank) : (modHank s h f).mem = s.mem := rfl
@[simp] theorem modHank_stale (s : State) (h : Nat) (f : Hank → Hank) : (modHank s h f).stale = s.stale := rfl
@[simp] theorem modHank_vault (s : State) (h : Nat) (f : Hank → Hank) : (modHank s h f).vault = s.vault := rfl
@[simp] theorem modHank_versions (s : State) (h : Nat) (f : Hank → Hank) : (modHank s h f).versions = s.versions := rfl
@[simp] theorem modHank_partials (s : State) (h : Nat) (f : Hank → Hank) : (modHank s h f).partials = s.partials := rfl
@[simp] theorem modHank_poison (s : State) (h : Nat) (f : Hank → Hank) : (modHank s h f).poison = s.poison := rfl
@[simp] theorem modHank_poisonTable (s : State) (h : Nat) (f : Hank → Hank) : (modHank s h f).poisonTable = s.poisonTable := rfl
@[simp] theorem modHank_corrupt (s : State) (h : Nat) (f : Hank → Hank) : (modHank s h f).corrupt = s.corrupt := rfl
@[simp] theorem modHank_l1 (s : State) (h : Nat) (f : Hank → Hank) : (modHank s h f).l1 = s.l1 := rfl
@[simp] theorem modHank_l2 (s : State) (h : Nat) (f : Hank → Hank) : (modHank s h f).l2 = s.l2 := rfl
@[simp] theorem modHank_skein (s : State) (h : Nat) (f : Hank → Hank) : (modHank s h f).skein = s.skein := rfl
@[simp] theorem modHank_waves (s : State) (h : Nat) (f : Hank → Hank) : (modHank s h f).waves = s.waves := rfl
@[simp] theorem modHank_bays (s : State) (h : Nat) (f : Hank → Hank) : (modHank s h f).bays = s.bays := rfl
@[simp] theorem modHank_markers (s : State) (h : Nat) (f : Hank → Hank) : (modHank s h f).markers = s.markers := rfl
@[simp] theorem modHank_flights (s : State) (h : Nat) (f : Hank → Hank) : (modHank s h f).flights = s.flights := rfl
@[simp] theorem modHank_nextFlight (s : State) (h : Nat) (f : Hank → Hank) : (modHank s h f).nextFlight = s.nextFlight := rfl
@[simp] theorem modHank_perf (s : State) (h : Nat) (f : Hank → Hank) : (modHank s h f).perf = s.perf := rfl
@[simp] theorem modHank_teams (s : State) (h : Nat) (f : Hank → Hank) : (modHank s h f).teams = s.teams := rfl
@[simp] theorem modHank_barriers (s : State) (h : Nat) (f : Hank → Hank) : (modHank s h f).barriers = s.barriers := rfl
@[simp] theorem modHank_launches (s : State) (h : Nat) (f : Hank → Hank) : (modHank s h f).launches = s.launches := rfl
@[simp] theorem modHank_dones (s : State) (h : Nat) (f : Hank → Hank) : (modHank s h f).dones = s.dones := rfl
@[simp] theorem modHank_pairs (s : State) (h : Nat) (f : Hank → Hank) : (modHank s h f).pairs = s.pairs := rfl
@[simp] theorem modHank_hanks (s : State) (h : Nat) (f : Hank → Hank) : (modHank s h f).hanks = s.hanks.setIfInBounds h (f (hankOf s h)) := rfl
@[simp] theorem modHank_heads (s : State) (h : Nat) (f : Hank → Hank) : (modHank s h f).heads = s.heads := rfl
@[simp] theorem modHank_media (s : State) (h : Nat) (f : Hank → Hank) : (modHank s h f).media = s.media := rfl
@[simp] theorem modHank_rel (s : State) (h : Nat) (f : Hank → Hank) : (modHank s h f).rel = s.rel := rfl
@[simp] theorem modHank_err (s : State) (h : Nat) (f : Hank → Hank) : (modHank s h f).err = s.err := rfl
@[simp] theorem modHank_sysc (s : State) (h : Nat) (f : Hank → Hank) : (modHank s h f).sysc = s.sysc := rfl
@[simp] theorem modHank_board (s : State) (h : Nat) (f : Hank → Hank) : (modHank s h f).board = s.board := rfl
@[simp] theorem modHank_gated (s : State) (h : Nat) (f : Hank → Hank) : (modHank s h f).gated = s.gated := rfl
@[simp] theorem modHank_host (s : State) (h : Nat) (f : Hank → Hank) : (modHank s h f).host = s.host := rfl

/-! ### setHreg -/

@[simp] theorem setHreg_inbox (s : State) (h off : Nat) (x : DWord) : (setHreg s h off x).inbox = s.inbox := rfl
@[simp] theorem setHreg_running (s : State) (h off : Nat) (x : DWord) : (setHreg s h off x).running = s.running := rfl
@[simp] theorem setHreg_progress (s : State) (h off : Nat) (x : DWord) : (setHreg s h off x).progress = s.progress := rfl
@[simp] theorem setHreg_turn (s : State) (h off : Nat) (x : DWord) : (setHreg s h off x).turn = s.turn := rfl
@[simp] theorem setHreg_timedTurn (s : State) (h off : Nat) (x : DWord) : (setHreg s h off x).timedTurn = s.timedTurn := rfl
@[simp] theorem setHreg_fresh (s : State) (h off : Nat) (x : DWord) : (setHreg s h off x).fresh = s.fresh := rfl
@[simp] theorem setHreg_clock (s : State) (h off : Nat) (x : DWord) : (setHreg s h off x).clock = s.clock := rfl
@[simp] theorem setHreg_mem (s : State) (h off : Nat) (x : DWord) : (setHreg s h off x).mem = s.mem := rfl
@[simp] theorem setHreg_stale (s : State) (h off : Nat) (x : DWord) : (setHreg s h off x).stale = s.stale := rfl
@[simp] theorem setHreg_vault (s : State) (h off : Nat) (x : DWord) : (setHreg s h off x).vault = s.vault := rfl
@[simp] theorem setHreg_versions (s : State) (h off : Nat) (x : DWord) : (setHreg s h off x).versions = s.versions := rfl
@[simp] theorem setHreg_partials (s : State) (h off : Nat) (x : DWord) : (setHreg s h off x).partials = s.partials := rfl
@[simp] theorem setHreg_poison (s : State) (h off : Nat) (x : DWord) : (setHreg s h off x).poison = s.poison := rfl
@[simp] theorem setHreg_poisonTable (s : State) (h off : Nat) (x : DWord) : (setHreg s h off x).poisonTable = s.poisonTable := rfl
@[simp] theorem setHreg_corrupt (s : State) (h off : Nat) (x : DWord) : (setHreg s h off x).corrupt = s.corrupt := rfl
@[simp] theorem setHreg_l1 (s : State) (h off : Nat) (x : DWord) : (setHreg s h off x).l1 = s.l1 := rfl
@[simp] theorem setHreg_l2 (s : State) (h off : Nat) (x : DWord) : (setHreg s h off x).l2 = s.l2 := rfl
@[simp] theorem setHreg_skein (s : State) (h off : Nat) (x : DWord) : (setHreg s h off x).skein = s.skein := rfl
@[simp] theorem setHreg_waves (s : State) (h off : Nat) (x : DWord) : (setHreg s h off x).waves = s.waves := rfl
@[simp] theorem setHreg_bays (s : State) (h off : Nat) (x : DWord) : (setHreg s h off x).bays = s.bays := rfl
@[simp] theorem setHreg_markers (s : State) (h off : Nat) (x : DWord) : (setHreg s h off x).markers = s.markers := rfl
@[simp] theorem setHreg_flights (s : State) (h off : Nat) (x : DWord) : (setHreg s h off x).flights = s.flights := rfl
@[simp] theorem setHreg_nextFlight (s : State) (h off : Nat) (x : DWord) : (setHreg s h off x).nextFlight = s.nextFlight := rfl
@[simp] theorem setHreg_perf (s : State) (h off : Nat) (x : DWord) : (setHreg s h off x).perf = s.perf := rfl
@[simp] theorem setHreg_teams (s : State) (h off : Nat) (x : DWord) : (setHreg s h off x).teams = s.teams := rfl
@[simp] theorem setHreg_barriers (s : State) (h off : Nat) (x : DWord) : (setHreg s h off x).barriers = s.barriers := rfl
@[simp] theorem setHreg_launches (s : State) (h off : Nat) (x : DWord) : (setHreg s h off x).launches = s.launches := rfl
@[simp] theorem setHreg_dones (s : State) (h off : Nat) (x : DWord) : (setHreg s h off x).dones = s.dones := rfl
@[simp] theorem setHreg_pairs (s : State) (h off : Nat) (x : DWord) : (setHreg s h off x).pairs = s.pairs := rfl
@[simp] theorem setHreg_hanks (s : State) (h off : Nat) (x : DWord) : (setHreg s h off x).hanks = s.hanks.setIfInBounds h { hankOf s h with ctl := (hankOf s h).ctl.set off x } := rfl
@[simp] theorem setHreg_heads (s : State) (h off : Nat) (x : DWord) : (setHreg s h off x).heads = s.heads := rfl
@[simp] theorem setHreg_media (s : State) (h off : Nat) (x : DWord) : (setHreg s h off x).media = s.media := rfl
@[simp] theorem setHreg_rel (s : State) (h off : Nat) (x : DWord) : (setHreg s h off x).rel = s.rel := rfl
@[simp] theorem setHreg_err (s : State) (h off : Nat) (x : DWord) : (setHreg s h off x).err = s.err := rfl
@[simp] theorem setHreg_sysc (s : State) (h off : Nat) (x : DWord) : (setHreg s h off x).sysc = s.sysc := rfl
@[simp] theorem setHreg_board (s : State) (h off : Nat) (x : DWord) : (setHreg s h off x).board = s.board := rfl
@[simp] theorem setHreg_gated (s : State) (h off : Nat) (x : DWord) : (setHreg s h off x).gated = s.gated := rfl
@[simp] theorem setHreg_host (s : State) (h off : Nat) (x : DWord) : (setHreg s h off x).host = s.host := rfl

/-! ### modTeam -/

@[simp] theorem modTeam_inbox (s : State) (t : Nat) (f : Team → Team) : (modTeam s t f).inbox = s.inbox := rfl
@[simp] theorem modTeam_running (s : State) (t : Nat) (f : Team → Team) : (modTeam s t f).running = s.running := rfl
@[simp] theorem modTeam_progress (s : State) (t : Nat) (f : Team → Team) : (modTeam s t f).progress = s.progress := rfl
@[simp] theorem modTeam_turn (s : State) (t : Nat) (f : Team → Team) : (modTeam s t f).turn = s.turn := rfl
@[simp] theorem modTeam_timedTurn (s : State) (t : Nat) (f : Team → Team) : (modTeam s t f).timedTurn = s.timedTurn := rfl
@[simp] theorem modTeam_fresh (s : State) (t : Nat) (f : Team → Team) : (modTeam s t f).fresh = s.fresh := rfl
@[simp] theorem modTeam_clock (s : State) (t : Nat) (f : Team → Team) : (modTeam s t f).clock = s.clock := rfl
@[simp] theorem modTeam_mem (s : State) (t : Nat) (f : Team → Team) : (modTeam s t f).mem = s.mem := rfl
@[simp] theorem modTeam_stale (s : State) (t : Nat) (f : Team → Team) : (modTeam s t f).stale = s.stale := rfl
@[simp] theorem modTeam_vault (s : State) (t : Nat) (f : Team → Team) : (modTeam s t f).vault = s.vault := rfl
@[simp] theorem modTeam_versions (s : State) (t : Nat) (f : Team → Team) : (modTeam s t f).versions = s.versions := rfl
@[simp] theorem modTeam_partials (s : State) (t : Nat) (f : Team → Team) : (modTeam s t f).partials = s.partials := rfl
@[simp] theorem modTeam_poison (s : State) (t : Nat) (f : Team → Team) : (modTeam s t f).poison = s.poison := rfl
@[simp] theorem modTeam_poisonTable (s : State) (t : Nat) (f : Team → Team) : (modTeam s t f).poisonTable = s.poisonTable := rfl
@[simp] theorem modTeam_corrupt (s : State) (t : Nat) (f : Team → Team) : (modTeam s t f).corrupt = s.corrupt := rfl
@[simp] theorem modTeam_l1 (s : State) (t : Nat) (f : Team → Team) : (modTeam s t f).l1 = s.l1 := rfl
@[simp] theorem modTeam_l2 (s : State) (t : Nat) (f : Team → Team) : (modTeam s t f).l2 = s.l2 := rfl
@[simp] theorem modTeam_skein (s : State) (t : Nat) (f : Team → Team) : (modTeam s t f).skein = s.skein := rfl
@[simp] theorem modTeam_waves (s : State) (t : Nat) (f : Team → Team) : (modTeam s t f).waves = s.waves := rfl
@[simp] theorem modTeam_bays (s : State) (t : Nat) (f : Team → Team) : (modTeam s t f).bays = s.bays := rfl
@[simp] theorem modTeam_markers (s : State) (t : Nat) (f : Team → Team) : (modTeam s t f).markers = s.markers := rfl
@[simp] theorem modTeam_flights (s : State) (t : Nat) (f : Team → Team) : (modTeam s t f).flights = s.flights := rfl
@[simp] theorem modTeam_nextFlight (s : State) (t : Nat) (f : Team → Team) : (modTeam s t f).nextFlight = s.nextFlight := rfl
@[simp] theorem modTeam_perf (s : State) (t : Nat) (f : Team → Team) : (modTeam s t f).perf = s.perf := rfl
@[simp] theorem modTeam_teams (s : State) (t : Nat) (f : Team → Team) : (modTeam s t f).teams = s.teams.modify t f := rfl
@[simp] theorem modTeam_barriers (s : State) (t : Nat) (f : Team → Team) : (modTeam s t f).barriers = s.barriers := rfl
@[simp] theorem modTeam_launches (s : State) (t : Nat) (f : Team → Team) : (modTeam s t f).launches = s.launches := rfl
@[simp] theorem modTeam_dones (s : State) (t : Nat) (f : Team → Team) : (modTeam s t f).dones = s.dones := rfl
@[simp] theorem modTeam_pairs (s : State) (t : Nat) (f : Team → Team) : (modTeam s t f).pairs = s.pairs := rfl
@[simp] theorem modTeam_hanks (s : State) (t : Nat) (f : Team → Team) : (modTeam s t f).hanks = s.hanks := rfl
@[simp] theorem modTeam_heads (s : State) (t : Nat) (f : Team → Team) : (modTeam s t f).heads = s.heads := rfl
@[simp] theorem modTeam_media (s : State) (t : Nat) (f : Team → Team) : (modTeam s t f).media = s.media := rfl
@[simp] theorem modTeam_rel (s : State) (t : Nat) (f : Team → Team) : (modTeam s t f).rel = s.rel := rfl
@[simp] theorem modTeam_err (s : State) (t : Nat) (f : Team → Team) : (modTeam s t f).err = s.err := rfl
@[simp] theorem modTeam_sysc (s : State) (t : Nat) (f : Team → Team) : (modTeam s t f).sysc = s.sysc := rfl
@[simp] theorem modTeam_board (s : State) (t : Nat) (f : Team → Team) : (modTeam s t f).board = s.board := rfl
@[simp] theorem modTeam_gated (s : State) (t : Nat) (f : Team → Team) : (modTeam s t f).gated = s.gated := rfl
@[simp] theorem modTeam_host (s : State) (t : Nat) (f : Team → Team) : (modTeam s t f).host = s.host := rfl

/-! ### modBay -/

@[simp] theorem modBay_inbox (s : State) (core bay : Nat) (f : Bay → Bay) : (modBay s core bay f).inbox = s.inbox := rfl
@[simp] theorem modBay_running (s : State) (core bay : Nat) (f : Bay → Bay) : (modBay s core bay f).running = s.running := rfl
@[simp] theorem modBay_progress (s : State) (core bay : Nat) (f : Bay → Bay) : (modBay s core bay f).progress = s.progress := rfl
@[simp] theorem modBay_turn (s : State) (core bay : Nat) (f : Bay → Bay) : (modBay s core bay f).turn = s.turn := rfl
@[simp] theorem modBay_timedTurn (s : State) (core bay : Nat) (f : Bay → Bay) : (modBay s core bay f).timedTurn = s.timedTurn := rfl
@[simp] theorem modBay_fresh (s : State) (core bay : Nat) (f : Bay → Bay) : (modBay s core bay f).fresh = s.fresh := rfl
@[simp] theorem modBay_clock (s : State) (core bay : Nat) (f : Bay → Bay) : (modBay s core bay f).clock = s.clock := rfl
@[simp] theorem modBay_mem (s : State) (core bay : Nat) (f : Bay → Bay) : (modBay s core bay f).mem = s.mem := rfl
@[simp] theorem modBay_stale (s : State) (core bay : Nat) (f : Bay → Bay) : (modBay s core bay f).stale = s.stale := rfl
@[simp] theorem modBay_vault (s : State) (core bay : Nat) (f : Bay → Bay) : (modBay s core bay f).vault = s.vault := rfl
@[simp] theorem modBay_versions (s : State) (core bay : Nat) (f : Bay → Bay) : (modBay s core bay f).versions = s.versions := rfl
@[simp] theorem modBay_partials (s : State) (core bay : Nat) (f : Bay → Bay) : (modBay s core bay f).partials = s.partials := rfl
@[simp] theorem modBay_poison (s : State) (core bay : Nat) (f : Bay → Bay) : (modBay s core bay f).poison = s.poison := rfl
@[simp] theorem modBay_poisonTable (s : State) (core bay : Nat) (f : Bay → Bay) : (modBay s core bay f).poisonTable = s.poisonTable := rfl
@[simp] theorem modBay_corrupt (s : State) (core bay : Nat) (f : Bay → Bay) : (modBay s core bay f).corrupt = s.corrupt := rfl
@[simp] theorem modBay_l1 (s : State) (core bay : Nat) (f : Bay → Bay) : (modBay s core bay f).l1 = s.l1 := rfl
@[simp] theorem modBay_l2 (s : State) (core bay : Nat) (f : Bay → Bay) : (modBay s core bay f).l2 = s.l2 := rfl
@[simp] theorem modBay_skein (s : State) (core bay : Nat) (f : Bay → Bay) : (modBay s core bay f).skein = s.skein := rfl
@[simp] theorem modBay_waves (s : State) (core bay : Nat) (f : Bay → Bay) : (modBay s core bay f).waves = s.waves := rfl
@[simp] theorem modBay_bays (s : State) (core bay : Nat) (f : Bay → Bay) : (modBay s core bay f).bays = f (bayOf s core bay) :: s.bays.filter fun b => !(b.core == core && b.bay == bay) := rfl
@[simp] theorem modBay_markers (s : State) (core bay : Nat) (f : Bay → Bay) : (modBay s core bay f).markers = s.markers := rfl
@[simp] theorem modBay_flights (s : State) (core bay : Nat) (f : Bay → Bay) : (modBay s core bay f).flights = s.flights := rfl
@[simp] theorem modBay_nextFlight (s : State) (core bay : Nat) (f : Bay → Bay) : (modBay s core bay f).nextFlight = s.nextFlight := rfl
@[simp] theorem modBay_perf (s : State) (core bay : Nat) (f : Bay → Bay) : (modBay s core bay f).perf = s.perf := rfl
@[simp] theorem modBay_teams (s : State) (core bay : Nat) (f : Bay → Bay) : (modBay s core bay f).teams = s.teams := rfl
@[simp] theorem modBay_barriers (s : State) (core bay : Nat) (f : Bay → Bay) : (modBay s core bay f).barriers = s.barriers := rfl
@[simp] theorem modBay_launches (s : State) (core bay : Nat) (f : Bay → Bay) : (modBay s core bay f).launches = s.launches := rfl
@[simp] theorem modBay_dones (s : State) (core bay : Nat) (f : Bay → Bay) : (modBay s core bay f).dones = s.dones := rfl
@[simp] theorem modBay_pairs (s : State) (core bay : Nat) (f : Bay → Bay) : (modBay s core bay f).pairs = s.pairs := rfl
@[simp] theorem modBay_hanks (s : State) (core bay : Nat) (f : Bay → Bay) : (modBay s core bay f).hanks = s.hanks := rfl
@[simp] theorem modBay_heads (s : State) (core bay : Nat) (f : Bay → Bay) : (modBay s core bay f).heads = s.heads := rfl
@[simp] theorem modBay_media (s : State) (core bay : Nat) (f : Bay → Bay) : (modBay s core bay f).media = s.media := rfl
@[simp] theorem modBay_rel (s : State) (core bay : Nat) (f : Bay → Bay) : (modBay s core bay f).rel = s.rel := rfl
@[simp] theorem modBay_err (s : State) (core bay : Nat) (f : Bay → Bay) : (modBay s core bay f).err = s.err := rfl
@[simp] theorem modBay_sysc (s : State) (core bay : Nat) (f : Bay → Bay) : (modBay s core bay f).sysc = s.sysc := rfl
@[simp] theorem modBay_board (s : State) (core bay : Nat) (f : Bay → Bay) : (modBay s core bay f).board = s.board := rfl
@[simp] theorem modBay_gated (s : State) (core bay : Nat) (f : Bay → Bay) : (modBay s core bay f).gated = s.gated := rfl
@[simp] theorem modBay_host (s : State) (core bay : Nat) (f : Bay → Bay) : (modBay s core bay f).host = s.host := rfl

/-! ### modFlight -/

@[simp] theorem modFlight_inbox (s : State) (n : Nat) (f : Flight → Flight) : (modFlight s n f).inbox = s.inbox := rfl
@[simp] theorem modFlight_running (s : State) (n : Nat) (f : Flight → Flight) : (modFlight s n f).running = s.running := rfl
@[simp] theorem modFlight_progress (s : State) (n : Nat) (f : Flight → Flight) : (modFlight s n f).progress = s.progress := rfl
@[simp] theorem modFlight_turn (s : State) (n : Nat) (f : Flight → Flight) : (modFlight s n f).turn = s.turn := rfl
@[simp] theorem modFlight_timedTurn (s : State) (n : Nat) (f : Flight → Flight) : (modFlight s n f).timedTurn = s.timedTurn := rfl
@[simp] theorem modFlight_fresh (s : State) (n : Nat) (f : Flight → Flight) : (modFlight s n f).fresh = s.fresh := rfl
@[simp] theorem modFlight_clock (s : State) (n : Nat) (f : Flight → Flight) : (modFlight s n f).clock = s.clock := rfl
@[simp] theorem modFlight_mem (s : State) (n : Nat) (f : Flight → Flight) : (modFlight s n f).mem = s.mem := rfl
@[simp] theorem modFlight_stale (s : State) (n : Nat) (f : Flight → Flight) : (modFlight s n f).stale = s.stale := rfl
@[simp] theorem modFlight_vault (s : State) (n : Nat) (f : Flight → Flight) : (modFlight s n f).vault = s.vault := rfl
@[simp] theorem modFlight_versions (s : State) (n : Nat) (f : Flight → Flight) : (modFlight s n f).versions = s.versions := rfl
@[simp] theorem modFlight_partials (s : State) (n : Nat) (f : Flight → Flight) : (modFlight s n f).partials = s.partials := rfl
@[simp] theorem modFlight_poison (s : State) (n : Nat) (f : Flight → Flight) : (modFlight s n f).poison = s.poison := rfl
@[simp] theorem modFlight_poisonTable (s : State) (n : Nat) (f : Flight → Flight) : (modFlight s n f).poisonTable = s.poisonTable := rfl
@[simp] theorem modFlight_corrupt (s : State) (n : Nat) (f : Flight → Flight) : (modFlight s n f).corrupt = s.corrupt := rfl
@[simp] theorem modFlight_l1 (s : State) (n : Nat) (f : Flight → Flight) : (modFlight s n f).l1 = s.l1 := rfl
@[simp] theorem modFlight_l2 (s : State) (n : Nat) (f : Flight → Flight) : (modFlight s n f).l2 = s.l2 := rfl
@[simp] theorem modFlight_skein (s : State) (n : Nat) (f : Flight → Flight) : (modFlight s n f).skein = s.skein := rfl
@[simp] theorem modFlight_waves (s : State) (n : Nat) (f : Flight → Flight) : (modFlight s n f).waves = s.waves := rfl
@[simp] theorem modFlight_bays (s : State) (n : Nat) (f : Flight → Flight) : (modFlight s n f).bays = s.bays := rfl
@[simp] theorem modFlight_markers (s : State) (n : Nat) (f : Flight → Flight) : (modFlight s n f).markers = s.markers := rfl
@[simp] theorem modFlight_flights (s : State) (n : Nat) (f : Flight → Flight) : (modFlight s n f).flights = s.flights.map fun x => if x.id = n then f x else x := rfl
@[simp] theorem modFlight_nextFlight (s : State) (n : Nat) (f : Flight → Flight) : (modFlight s n f).nextFlight = s.nextFlight := rfl
@[simp] theorem modFlight_perf (s : State) (n : Nat) (f : Flight → Flight) : (modFlight s n f).perf = s.perf := rfl
@[simp] theorem modFlight_teams (s : State) (n : Nat) (f : Flight → Flight) : (modFlight s n f).teams = s.teams := rfl
@[simp] theorem modFlight_barriers (s : State) (n : Nat) (f : Flight → Flight) : (modFlight s n f).barriers = s.barriers := rfl
@[simp] theorem modFlight_launches (s : State) (n : Nat) (f : Flight → Flight) : (modFlight s n f).launches = s.launches := rfl
@[simp] theorem modFlight_dones (s : State) (n : Nat) (f : Flight → Flight) : (modFlight s n f).dones = s.dones := rfl
@[simp] theorem modFlight_pairs (s : State) (n : Nat) (f : Flight → Flight) : (modFlight s n f).pairs = s.pairs := rfl
@[simp] theorem modFlight_hanks (s : State) (n : Nat) (f : Flight → Flight) : (modFlight s n f).hanks = s.hanks := rfl
@[simp] theorem modFlight_heads (s : State) (n : Nat) (f : Flight → Flight) : (modFlight s n f).heads = s.heads := rfl
@[simp] theorem modFlight_media (s : State) (n : Nat) (f : Flight → Flight) : (modFlight s n f).media = s.media := rfl
@[simp] theorem modFlight_rel (s : State) (n : Nat) (f : Flight → Flight) : (modFlight s n f).rel = s.rel := rfl
@[simp] theorem modFlight_err (s : State) (n : Nat) (f : Flight → Flight) : (modFlight s n f).err = s.err := rfl
@[simp] theorem modFlight_sysc (s : State) (n : Nat) (f : Flight → Flight) : (modFlight s n f).sysc = s.sysc := rfl
@[simp] theorem modFlight_board (s : State) (n : Nat) (f : Flight → Flight) : (modFlight s n f).board = s.board := rfl
@[simp] theorem modFlight_gated (s : State) (n : Nat) (f : Flight → Flight) : (modFlight s n f).gated = s.gated := rfl
@[simp] theorem modFlight_host (s : State) (n : Nat) (f : Flight → Flight) : (modFlight s n f).host = s.host := rfl

/-! ### addFlight -/

@[simp] theorem addFlight_inbox (s : State) (f : Flight) : (addFlight s f).inbox = s.inbox := rfl
@[simp] theorem addFlight_running (s : State) (f : Flight) : (addFlight s f).running = s.running := rfl
@[simp] theorem addFlight_progress (s : State) (f : Flight) : (addFlight s f).progress = s.progress := rfl
@[simp] theorem addFlight_turn (s : State) (f : Flight) : (addFlight s f).turn = s.turn := rfl
@[simp] theorem addFlight_timedTurn (s : State) (f : Flight) : (addFlight s f).timedTurn = s.timedTurn := rfl
@[simp] theorem addFlight_fresh (s : State) (f : Flight) : (addFlight s f).fresh = s.fresh := rfl
@[simp] theorem addFlight_clock (s : State) (f : Flight) : (addFlight s f).clock = s.clock := rfl
@[simp] theorem addFlight_mem (s : State) (f : Flight) : (addFlight s f).mem = s.mem := rfl
@[simp] theorem addFlight_stale (s : State) (f : Flight) : (addFlight s f).stale = s.stale := rfl
@[simp] theorem addFlight_vault (s : State) (f : Flight) : (addFlight s f).vault = s.vault := rfl
@[simp] theorem addFlight_versions (s : State) (f : Flight) : (addFlight s f).versions = s.versions := rfl
@[simp] theorem addFlight_partials (s : State) (f : Flight) : (addFlight s f).partials = s.partials := rfl
@[simp] theorem addFlight_poison (s : State) (f : Flight) : (addFlight s f).poison = s.poison := rfl
@[simp] theorem addFlight_poisonTable (s : State) (f : Flight) : (addFlight s f).poisonTable = s.poisonTable := rfl
@[simp] theorem addFlight_corrupt (s : State) (f : Flight) : (addFlight s f).corrupt = s.corrupt := rfl
@[simp] theorem addFlight_l1 (s : State) (f : Flight) : (addFlight s f).l1 = s.l1 := rfl
@[simp] theorem addFlight_l2 (s : State) (f : Flight) : (addFlight s f).l2 = s.l2 := rfl
@[simp] theorem addFlight_skein (s : State) (f : Flight) : (addFlight s f).skein = s.skein := rfl
@[simp] theorem addFlight_waves (s : State) (f : Flight) : (addFlight s f).waves = s.waves := rfl
@[simp] theorem addFlight_bays (s : State) (f : Flight) : (addFlight s f).bays = s.bays := rfl
@[simp] theorem addFlight_markers (s : State) (f : Flight) : (addFlight s f).markers = s.markers := rfl
@[simp] theorem addFlight_flights (s : State) (f : Flight) : (addFlight s f).flights = s.flights ++ [{ f with id := s.nextFlight }] := rfl
@[simp] theorem addFlight_nextFlight (s : State) (f : Flight) : (addFlight s f).nextFlight = s.nextFlight + 1 := rfl
@[simp] theorem addFlight_perf (s : State) (f : Flight) : (addFlight s f).perf = s.perf := rfl
@[simp] theorem addFlight_teams (s : State) (f : Flight) : (addFlight s f).teams = s.teams := rfl
@[simp] theorem addFlight_barriers (s : State) (f : Flight) : (addFlight s f).barriers = s.barriers := rfl
@[simp] theorem addFlight_launches (s : State) (f : Flight) : (addFlight s f).launches = s.launches := rfl
@[simp] theorem addFlight_dones (s : State) (f : Flight) : (addFlight s f).dones = s.dones := rfl
@[simp] theorem addFlight_pairs (s : State) (f : Flight) : (addFlight s f).pairs = s.pairs := rfl
@[simp] theorem addFlight_hanks (s : State) (f : Flight) : (addFlight s f).hanks = s.hanks := rfl
@[simp] theorem addFlight_heads (s : State) (f : Flight) : (addFlight s f).heads = s.heads := rfl
@[simp] theorem addFlight_media (s : State) (f : Flight) : (addFlight s f).media = s.media := rfl
@[simp] theorem addFlight_rel (s : State) (f : Flight) : (addFlight s f).rel = s.rel := rfl
@[simp] theorem addFlight_err (s : State) (f : Flight) : (addFlight s f).err = s.err := rfl
@[simp] theorem addFlight_sysc (s : State) (f : Flight) : (addFlight s f).sysc = s.sysc := rfl
@[simp] theorem addFlight_board (s : State) (f : Flight) : (addFlight s f).board = s.board := rfl
@[simp] theorem addFlight_gated (s : State) (f : Flight) : (addFlight s f).gated = s.gated := rfl
@[simp] theorem addFlight_host (s : State) (f : Flight) : (addFlight s f).host = s.host := rfl

/-! ### stopRunning -/

@[simp] theorem stopRunning_inbox (s : State) (w n : Nat) : (stopRunning s w n).inbox = s.inbox := rfl
@[simp] theorem stopRunning_running (s : State) (w n : Nat) : (stopRunning s w n).running = s.running.filter fun r => r != ⟨w, n⟩ := rfl
@[simp] theorem stopRunning_progress (s : State) (w n : Nat) : (stopRunning s w n).progress = s.progress := rfl
@[simp] theorem stopRunning_turn (s : State) (w n : Nat) : (stopRunning s w n).turn = s.turn := rfl
@[simp] theorem stopRunning_timedTurn (s : State) (w n : Nat) : (stopRunning s w n).timedTurn = s.timedTurn := rfl
@[simp] theorem stopRunning_fresh (s : State) (w n : Nat) : (stopRunning s w n).fresh = s.fresh := rfl
@[simp] theorem stopRunning_clock (s : State) (w n : Nat) : (stopRunning s w n).clock = s.clock := rfl
@[simp] theorem stopRunning_mem (s : State) (w n : Nat) : (stopRunning s w n).mem = s.mem := rfl
@[simp] theorem stopRunning_stale (s : State) (w n : Nat) : (stopRunning s w n).stale = s.stale := rfl
@[simp] theorem stopRunning_vault (s : State) (w n : Nat) : (stopRunning s w n).vault = s.vault := rfl
@[simp] theorem stopRunning_versions (s : State) (w n : Nat) : (stopRunning s w n).versions = s.versions := rfl
@[simp] theorem stopRunning_partials (s : State) (w n : Nat) : (stopRunning s w n).partials = s.partials := rfl
@[simp] theorem stopRunning_poison (s : State) (w n : Nat) : (stopRunning s w n).poison = s.poison := rfl
@[simp] theorem stopRunning_poisonTable (s : State) (w n : Nat) : (stopRunning s w n).poisonTable = s.poisonTable := rfl
@[simp] theorem stopRunning_corrupt (s : State) (w n : Nat) : (stopRunning s w n).corrupt = s.corrupt := rfl
@[simp] theorem stopRunning_l1 (s : State) (w n : Nat) : (stopRunning s w n).l1 = s.l1 := rfl
@[simp] theorem stopRunning_l2 (s : State) (w n : Nat) : (stopRunning s w n).l2 = s.l2 := rfl
@[simp] theorem stopRunning_skein (s : State) (w n : Nat) : (stopRunning s w n).skein = s.skein := rfl
@[simp] theorem stopRunning_waves (s : State) (w n : Nat) : (stopRunning s w n).waves = s.waves := rfl
@[simp] theorem stopRunning_bays (s : State) (w n : Nat) : (stopRunning s w n).bays = s.bays := rfl
@[simp] theorem stopRunning_markers (s : State) (w n : Nat) : (stopRunning s w n).markers = s.markers := rfl
@[simp] theorem stopRunning_flights (s : State) (w n : Nat) : (stopRunning s w n).flights = s.flights := rfl
@[simp] theorem stopRunning_nextFlight (s : State) (w n : Nat) : (stopRunning s w n).nextFlight = s.nextFlight := rfl
@[simp] theorem stopRunning_perf (s : State) (w n : Nat) : (stopRunning s w n).perf = s.perf := rfl
@[simp] theorem stopRunning_teams (s : State) (w n : Nat) : (stopRunning s w n).teams = s.teams := rfl
@[simp] theorem stopRunning_barriers (s : State) (w n : Nat) : (stopRunning s w n).barriers = s.barriers := rfl
@[simp] theorem stopRunning_launches (s : State) (w n : Nat) : (stopRunning s w n).launches = s.launches := rfl
@[simp] theorem stopRunning_dones (s : State) (w n : Nat) : (stopRunning s w n).dones = s.dones := rfl
@[simp] theorem stopRunning_pairs (s : State) (w n : Nat) : (stopRunning s w n).pairs = s.pairs := rfl
@[simp] theorem stopRunning_hanks (s : State) (w n : Nat) : (stopRunning s w n).hanks = s.hanks := rfl
@[simp] theorem stopRunning_heads (s : State) (w n : Nat) : (stopRunning s w n).heads = s.heads := rfl
@[simp] theorem stopRunning_media (s : State) (w n : Nat) : (stopRunning s w n).media = s.media := rfl
@[simp] theorem stopRunning_rel (s : State) (w n : Nat) : (stopRunning s w n).rel = s.rel := rfl
@[simp] theorem stopRunning_err (s : State) (w n : Nat) : (stopRunning s w n).err = s.err := rfl
@[simp] theorem stopRunning_sysc (s : State) (w n : Nat) : (stopRunning s w n).sysc = s.sysc := rfl
@[simp] theorem stopRunning_board (s : State) (w n : Nat) : (stopRunning s w n).board = s.board := rfl
@[simp] theorem stopRunning_gated (s : State) (w n : Nat) : (stopRunning s w n).gated = s.gated := rfl
@[simp] theorem stopRunning_host (s : State) (w n : Nat) : (stopRunning s w n).host = s.host := rfl

/-! ### stopWave -/

@[simp] theorem stopWave_inbox (s : State) (w : Nat) : (stopWave s w).inbox = s.inbox := rfl
@[simp] theorem stopWave_running (s : State) (w : Nat) : (stopWave s w).running = s.running.filter fun r => r.w != w := rfl
@[simp] theorem stopWave_progress (s : State) (w : Nat) : (stopWave s w).progress = s.progress := rfl
@[simp] theorem stopWave_turn (s : State) (w : Nat) : (stopWave s w).turn = s.turn := rfl
@[simp] theorem stopWave_timedTurn (s : State) (w : Nat) : (stopWave s w).timedTurn = s.timedTurn := rfl
@[simp] theorem stopWave_fresh (s : State) (w : Nat) : (stopWave s w).fresh = s.fresh := rfl
@[simp] theorem stopWave_clock (s : State) (w : Nat) : (stopWave s w).clock = s.clock := rfl
@[simp] theorem stopWave_mem (s : State) (w : Nat) : (stopWave s w).mem = s.mem := rfl
@[simp] theorem stopWave_stale (s : State) (w : Nat) : (stopWave s w).stale = s.stale := rfl
@[simp] theorem stopWave_vault (s : State) (w : Nat) : (stopWave s w).vault = s.vault := rfl
@[simp] theorem stopWave_versions (s : State) (w : Nat) : (stopWave s w).versions = s.versions := rfl
@[simp] theorem stopWave_partials (s : State) (w : Nat) : (stopWave s w).partials = s.partials := rfl
@[simp] theorem stopWave_poison (s : State) (w : Nat) : (stopWave s w).poison = s.poison := rfl
@[simp] theorem stopWave_poisonTable (s : State) (w : Nat) : (stopWave s w).poisonTable = s.poisonTable := rfl
@[simp] theorem stopWave_corrupt (s : State) (w : Nat) : (stopWave s w).corrupt = s.corrupt := rfl
@[simp] theorem stopWave_l1 (s : State) (w : Nat) : (stopWave s w).l1 = s.l1 := rfl
@[simp] theorem stopWave_l2 (s : State) (w : Nat) : (stopWave s w).l2 = s.l2 := rfl
@[simp] theorem stopWave_skein (s : State) (w : Nat) : (stopWave s w).skein = s.skein := rfl
@[simp] theorem stopWave_waves (s : State) (w : Nat) : (stopWave s w).waves = s.waves := rfl
@[simp] theorem stopWave_bays (s : State) (w : Nat) : (stopWave s w).bays = s.bays := rfl
@[simp] theorem stopWave_markers (s : State) (w : Nat) : (stopWave s w).markers = s.markers := rfl
@[simp] theorem stopWave_flights (s : State) (w : Nat) : (stopWave s w).flights = s.flights := rfl
@[simp] theorem stopWave_nextFlight (s : State) (w : Nat) : (stopWave s w).nextFlight = s.nextFlight := rfl
@[simp] theorem stopWave_perf (s : State) (w : Nat) : (stopWave s w).perf = s.perf := rfl
@[simp] theorem stopWave_teams (s : State) (w : Nat) : (stopWave s w).teams = s.teams := rfl
@[simp] theorem stopWave_barriers (s : State) (w : Nat) : (stopWave s w).barriers = s.barriers := rfl
@[simp] theorem stopWave_launches (s : State) (w : Nat) : (stopWave s w).launches = s.launches := rfl
@[simp] theorem stopWave_dones (s : State) (w : Nat) : (stopWave s w).dones = s.dones := rfl
@[simp] theorem stopWave_pairs (s : State) (w : Nat) : (stopWave s w).pairs = s.pairs := rfl
@[simp] theorem stopWave_hanks (s : State) (w : Nat) : (stopWave s w).hanks = s.hanks := rfl
@[simp] theorem stopWave_heads (s : State) (w : Nat) : (stopWave s w).heads = s.heads := rfl
@[simp] theorem stopWave_media (s : State) (w : Nat) : (stopWave s w).media = s.media := rfl
@[simp] theorem stopWave_rel (s : State) (w : Nat) : (stopWave s w).rel = s.rel := rfl
@[simp] theorem stopWave_err (s : State) (w : Nat) : (stopWave s w).err = s.err := rfl
@[simp] theorem stopWave_sysc (s : State) (w : Nat) : (stopWave s w).sysc = s.sysc := rfl
@[simp] theorem stopWave_board (s : State) (w : Nat) : (stopWave s w).board = s.board := rfl
@[simp] theorem stopWave_gated (s : State) (w : Nat) : (stopWave s w).gated = s.gated := rfl
@[simp] theorem stopWave_host (s : State) (w : Nat) : (stopWave s w).host = s.host := rfl

/-! ### retireMarkers -/

@[simp] theorem retireMarkers_inbox (s : State) (n : Nat) : (retireMarkers s n).inbox = s.inbox := rfl
@[simp] theorem retireMarkers_running (s : State) (n : Nat) : (retireMarkers s n).running = s.running := rfl
@[simp] theorem retireMarkers_progress (s : State) (n : Nat) : (retireMarkers s n).progress = s.progress := rfl
@[simp] theorem retireMarkers_turn (s : State) (n : Nat) : (retireMarkers s n).turn = s.turn := rfl
@[simp] theorem retireMarkers_timedTurn (s : State) (n : Nat) : (retireMarkers s n).timedTurn = s.timedTurn := rfl
@[simp] theorem retireMarkers_fresh (s : State) (n : Nat) : (retireMarkers s n).fresh = s.fresh := rfl
@[simp] theorem retireMarkers_clock (s : State) (n : Nat) : (retireMarkers s n).clock = s.clock := rfl
@[simp] theorem retireMarkers_mem (s : State) (n : Nat) : (retireMarkers s n).mem = s.mem := rfl
@[simp] theorem retireMarkers_stale (s : State) (n : Nat) : (retireMarkers s n).stale = s.stale := rfl
@[simp] theorem retireMarkers_vault (s : State) (n : Nat) : (retireMarkers s n).vault = s.vault := rfl
@[simp] theorem retireMarkers_versions (s : State) (n : Nat) : (retireMarkers s n).versions = s.versions := rfl
@[simp] theorem retireMarkers_partials (s : State) (n : Nat) : (retireMarkers s n).partials = s.partials := rfl
@[simp] theorem retireMarkers_poison (s : State) (n : Nat) : (retireMarkers s n).poison = s.poison := rfl
@[simp] theorem retireMarkers_poisonTable (s : State) (n : Nat) : (retireMarkers s n).poisonTable = s.poisonTable := rfl
@[simp] theorem retireMarkers_corrupt (s : State) (n : Nat) : (retireMarkers s n).corrupt = s.corrupt := rfl
@[simp] theorem retireMarkers_l1 (s : State) (n : Nat) : (retireMarkers s n).l1 = s.l1 := rfl
@[simp] theorem retireMarkers_l2 (s : State) (n : Nat) : (retireMarkers s n).l2 = s.l2 := rfl
@[simp] theorem retireMarkers_skein (s : State) (n : Nat) : (retireMarkers s n).skein = s.skein := rfl
@[simp] theorem retireMarkers_waves (s : State) (n : Nat) : (retireMarkers s n).waves = s.waves := rfl
@[simp] theorem retireMarkers_bays (s : State) (n : Nat) : (retireMarkers s n).bays = s.bays := rfl
@[simp] theorem retireMarkers_markers (s : State) (n : Nat) : (retireMarkers s n).markers = s.markers.filter fun m => m.flight != n := rfl
@[simp] theorem retireMarkers_flights (s : State) (n : Nat) : (retireMarkers s n).flights = s.flights := rfl
@[simp] theorem retireMarkers_nextFlight (s : State) (n : Nat) : (retireMarkers s n).nextFlight = s.nextFlight := rfl
@[simp] theorem retireMarkers_perf (s : State) (n : Nat) : (retireMarkers s n).perf = s.perf := rfl
@[simp] theorem retireMarkers_teams (s : State) (n : Nat) : (retireMarkers s n).teams = s.teams := rfl
@[simp] theorem retireMarkers_barriers (s : State) (n : Nat) : (retireMarkers s n).barriers = s.barriers := rfl
@[simp] theorem retireMarkers_launches (s : State) (n : Nat) : (retireMarkers s n).launches = s.launches := rfl
@[simp] theorem retireMarkers_dones (s : State) (n : Nat) : (retireMarkers s n).dones = s.dones := rfl
@[simp] theorem retireMarkers_pairs (s : State) (n : Nat) : (retireMarkers s n).pairs = s.pairs := rfl
@[simp] theorem retireMarkers_hanks (s : State) (n : Nat) : (retireMarkers s n).hanks = s.hanks := rfl
@[simp] theorem retireMarkers_heads (s : State) (n : Nat) : (retireMarkers s n).heads = s.heads := rfl
@[simp] theorem retireMarkers_media (s : State) (n : Nat) : (retireMarkers s n).media = s.media := rfl
@[simp] theorem retireMarkers_rel (s : State) (n : Nat) : (retireMarkers s n).rel = s.rel := rfl
@[simp] theorem retireMarkers_err (s : State) (n : Nat) : (retireMarkers s n).err = s.err := rfl
@[simp] theorem retireMarkers_sysc (s : State) (n : Nat) : (retireMarkers s n).sysc = s.sysc := rfl
@[simp] theorem retireMarkers_board (s : State) (n : Nat) : (retireMarkers s n).board = s.board := rfl
@[simp] theorem retireMarkers_gated (s : State) (n : Nat) : (retireMarkers s n).gated = s.gated := rfl
@[simp] theorem retireMarkers_host (s : State) (n : Nat) : (retireMarkers s n).host = s.host := rfl

/-! ### clearPoison -/

@[simp] theorem clearPoison_inbox (s : State) (g : Granule) : (clearPoison s g).inbox = s.inbox := rfl
@[simp] theorem clearPoison_running (s : State) (g : Granule) : (clearPoison s g).running = s.running := rfl
@[simp] theorem clearPoison_progress (s : State) (g : Granule) : (clearPoison s g).progress = s.progress := rfl
@[simp] theorem clearPoison_turn (s : State) (g : Granule) : (clearPoison s g).turn = s.turn := rfl
@[simp] theorem clearPoison_timedTurn (s : State) (g : Granule) : (clearPoison s g).timedTurn = s.timedTurn := rfl
@[simp] theorem clearPoison_fresh (s : State) (g : Granule) : (clearPoison s g).fresh = s.fresh := rfl
@[simp] theorem clearPoison_clock (s : State) (g : Granule) : (clearPoison s g).clock = s.clock := rfl
@[simp] theorem clearPoison_mem (s : State) (g : Granule) : (clearPoison s g).mem = s.mem := rfl
@[simp] theorem clearPoison_stale (s : State) (g : Granule) : (clearPoison s g).stale = s.stale := rfl
@[simp] theorem clearPoison_vault (s : State) (g : Granule) : (clearPoison s g).vault = s.vault := rfl
@[simp] theorem clearPoison_versions (s : State) (g : Granule) : (clearPoison s g).versions = s.versions := rfl
@[simp] theorem clearPoison_partials (s : State) (g : Granule) : (clearPoison s g).partials = s.partials := rfl
@[simp] theorem clearPoison_poison (s : State) (g : Granule) : (clearPoison s g).poison = s.poison.filter fun q => q.1 != g := rfl
@[simp] theorem clearPoison_poisonTable (s : State) (g : Granule) : (clearPoison s g).poisonTable = s.poisonTable := rfl
@[simp] theorem clearPoison_corrupt (s : State) (g : Granule) : (clearPoison s g).corrupt = s.corrupt := rfl
@[simp] theorem clearPoison_l1 (s : State) (g : Granule) : (clearPoison s g).l1 = s.l1 := rfl
@[simp] theorem clearPoison_l2 (s : State) (g : Granule) : (clearPoison s g).l2 = s.l2 := rfl
@[simp] theorem clearPoison_skein (s : State) (g : Granule) : (clearPoison s g).skein = s.skein := rfl
@[simp] theorem clearPoison_waves (s : State) (g : Granule) : (clearPoison s g).waves = s.waves := rfl
@[simp] theorem clearPoison_bays (s : State) (g : Granule) : (clearPoison s g).bays = s.bays := rfl
@[simp] theorem clearPoison_markers (s : State) (g : Granule) : (clearPoison s g).markers = s.markers := rfl
@[simp] theorem clearPoison_flights (s : State) (g : Granule) : (clearPoison s g).flights = s.flights := rfl
@[simp] theorem clearPoison_nextFlight (s : State) (g : Granule) : (clearPoison s g).nextFlight = s.nextFlight := rfl
@[simp] theorem clearPoison_perf (s : State) (g : Granule) : (clearPoison s g).perf = s.perf := rfl
@[simp] theorem clearPoison_teams (s : State) (g : Granule) : (clearPoison s g).teams = s.teams := rfl
@[simp] theorem clearPoison_barriers (s : State) (g : Granule) : (clearPoison s g).barriers = s.barriers := rfl
@[simp] theorem clearPoison_launches (s : State) (g : Granule) : (clearPoison s g).launches = s.launches := rfl
@[simp] theorem clearPoison_dones (s : State) (g : Granule) : (clearPoison s g).dones = s.dones := rfl
@[simp] theorem clearPoison_pairs (s : State) (g : Granule) : (clearPoison s g).pairs = s.pairs := rfl
@[simp] theorem clearPoison_hanks (s : State) (g : Granule) : (clearPoison s g).hanks = s.hanks := rfl
@[simp] theorem clearPoison_heads (s : State) (g : Granule) : (clearPoison s g).heads = s.heads := rfl
@[simp] theorem clearPoison_media (s : State) (g : Granule) : (clearPoison s g).media = s.media := rfl
@[simp] theorem clearPoison_rel (s : State) (g : Granule) : (clearPoison s g).rel = s.rel := rfl
@[simp] theorem clearPoison_err (s : State) (g : Granule) : (clearPoison s g).err = s.err := rfl
@[simp] theorem clearPoison_sysc (s : State) (g : Granule) : (clearPoison s g).sysc = s.sysc := rfl
@[simp] theorem clearPoison_board (s : State) (g : Granule) : (clearPoison s g).board = s.board := rfl
@[simp] theorem clearPoison_gated (s : State) (g : Granule) : (clearPoison s g).gated = s.gated := rfl
@[simp] theorem clearPoison_host (s : State) (g : Granule) : (clearPoison s g).host = s.host := rfl

/-! ### bump -/

@[simp] theorem bump_inbox (s : State) : (bump s).inbox = s.inbox := rfl
@[simp] theorem bump_running (s : State) : (bump s).running = s.running := rfl
@[simp] theorem bump_progress (s : State) : (bump s).progress = s.progress + 1 := rfl
@[simp] theorem bump_turn (s : State) : (bump s).turn = s.turn := rfl
@[simp] theorem bump_timedTurn (s : State) : (bump s).timedTurn = s.timedTurn := rfl
@[simp] theorem bump_fresh (s : State) : (bump s).fresh = s.fresh := rfl
@[simp] theorem bump_clock (s : State) : (bump s).clock = s.clock := rfl
@[simp] theorem bump_mem (s : State) : (bump s).mem = s.mem := rfl
@[simp] theorem bump_stale (s : State) : (bump s).stale = s.stale := rfl
@[simp] theorem bump_vault (s : State) : (bump s).vault = s.vault := rfl
@[simp] theorem bump_versions (s : State) : (bump s).versions = s.versions := rfl
@[simp] theorem bump_partials (s : State) : (bump s).partials = s.partials := rfl
@[simp] theorem bump_poison (s : State) : (bump s).poison = s.poison := rfl
@[simp] theorem bump_poisonTable (s : State) : (bump s).poisonTable = s.poisonTable := rfl
@[simp] theorem bump_corrupt (s : State) : (bump s).corrupt = s.corrupt := rfl
@[simp] theorem bump_l1 (s : State) : (bump s).l1 = s.l1 := rfl
@[simp] theorem bump_l2 (s : State) : (bump s).l2 = s.l2 := rfl
@[simp] theorem bump_skein (s : State) : (bump s).skein = s.skein := rfl
@[simp] theorem bump_waves (s : State) : (bump s).waves = s.waves := rfl
@[simp] theorem bump_bays (s : State) : (bump s).bays = s.bays := rfl
@[simp] theorem bump_markers (s : State) : (bump s).markers = s.markers := rfl
@[simp] theorem bump_flights (s : State) : (bump s).flights = s.flights := rfl
@[simp] theorem bump_nextFlight (s : State) : (bump s).nextFlight = s.nextFlight := rfl
@[simp] theorem bump_perf (s : State) : (bump s).perf = s.perf := rfl
@[simp] theorem bump_teams (s : State) : (bump s).teams = s.teams := rfl
@[simp] theorem bump_barriers (s : State) : (bump s).barriers = s.barriers := rfl
@[simp] theorem bump_launches (s : State) : (bump s).launches = s.launches := rfl
@[simp] theorem bump_dones (s : State) : (bump s).dones = s.dones := rfl
@[simp] theorem bump_pairs (s : State) : (bump s).pairs = s.pairs := rfl
@[simp] theorem bump_hanks (s : State) : (bump s).hanks = s.hanks := rfl
@[simp] theorem bump_heads (s : State) : (bump s).heads = s.heads := rfl
@[simp] theorem bump_media (s : State) : (bump s).media = s.media := rfl
@[simp] theorem bump_rel (s : State) : (bump s).rel = s.rel := rfl
@[simp] theorem bump_err (s : State) : (bump s).err = s.err := rfl
@[simp] theorem bump_sysc (s : State) : (bump s).sysc = s.sysc := rfl
@[simp] theorem bump_board (s : State) : (bump s).board = s.board := rfl
@[simp] theorem bump_gated (s : State) : (bump s).gated = s.gated := rfl
@[simp] theorem bump_host (s : State) : (bump s).host = s.host := rfl

/-! ### A register of a wave -/

@[simp] theorem setReg_phase (v : Wave) (r : Nat) (x : Row) : (v.setReg r x).phase = v.phase := rfl
@[simp] theorem setReg_launch (v : Wave) (r : Nat) (x : Row) : (v.setReg r x).launch = v.launch := rfl
@[simp] theorem setReg_team (v : Wave) (r : Nat) (x : Row) : (v.setReg r x).team = v.team := rfl
@[simp] theorem setReg_hank (v : Wave) (r : Nat) (x : Row) : (v.setReg r x).hank = v.hank := rfl
@[simp] theorem setReg_core (v : Wave) (r : Nat) (x : Row) : (v.setReg r x).core = v.core := rfl
@[simp] theorem setReg_bay (v : Wave) (r : Nat) (x : Row) : (v.setReg r x).bay = v.bay := rfl
@[simp] theorem setReg_slot (v : Wave) (r : Nat) (x : Row) : (v.setReg r x).slot = v.slot := rfl
@[simp] theorem setReg_waveid (v : Wave) (r : Nat) (x : Row) : (v.setReg r x).waveid = v.waveid := rfl
@[simp] theorem setReg_lvl (v : Wave) (r : Nat) (x : Row) : (v.setReg r x).lvl = v.lvl := rfl
@[simp] theorem setReg_ext (v : Wave) (r : Nat) (x : Row) : (v.setReg r x).ext = v.ext := rfl
@[simp] theorem setReg_kptr (v : Wave) (r : Nat) (x : Row) : (v.setReg r x).kptr = v.kptr := rfl
@[simp] theorem setReg_nregs (v : Wave) (r : Nat) (x : Row) : (v.setReg r x).nregs = v.nregs := rfl
@[simp] theorem setReg_regs (v : Wave) (r : Nat) (x : Row) : (v.setReg r x).regs = v.regs.setIfInBounds r x := rfl
@[simp] theorem setReg_affine (v : Wave) (r : Nat) (x : Row) : (v.setReg r x).affine = v.affine.filter (· != pairBase r) := rfl
@[simp] theorem setReg_drowsy (v : Wave) (r : Nat) (x : Row) : (v.setReg r x).drowsy = v.drowsy.filter (· != r / 32) := rfl
@[simp] theorem setReg_strands (v : Wave) (r : Nat) (x : Row) : (v.setReg r x).strands = v.strands := rfl
@[simp] theorem setReg_exited (v : Wave) (r : Nat) (x : Row) : (v.setReg r x).exited = v.exited := rfl
@[simp] theorem setReg_flags (v : Wave) (r : Nat) (x : Row) : (v.setReg r x).flags = v.flags := rfl
@[simp] theorem setReg_tokens (v : Wave) (r : Nat) (x : Row) : (v.setReg r x).tokens = v.tokens := rfl
@[simp] theorem setReg_nextTok (v : Wave) (r : Nat) (x : Row) : (v.setReg r x).nextTok = v.nextTok := rfl
@[simp] theorem setReg_ply (v : Wave) (r : Nat) (x : Row) : (v.setReg r x).ply = v.ply := rfl
@[simp] theorem setReg_fcr (v : Wave) (r : Nat) (x : Row) : (v.setReg r x).fcr = v.fcr := rfl
@[simp] theorem setReg_ars (v : Wave) (r : Nat) (x : Row) : (v.setReg r x).ars = v.ars := rfl
@[simp] theorem setReg_rpstat (v : Wave) (r : Nat) (x : Row) : (v.setReg r x).rpstat = v.rpstat := rfl
@[simp] theorem setReg_gst (v : Wave) (r : Nat) (x : Row) : (v.setReg r x).gst = v.gst := rfl
@[simp] theorem setReg_clkLatch (v : Wave) (r : Nat) (x : Row) : (v.setReg r x).clkLatch = v.clkLatch := rfl
@[simp] theorem setReg_trapRegs (v : Wave) (r : Nat) (x : Row) : (v.setReg r x).trapRegs = v.trapRegs := rfl
@[simp] theorem setReg_trap (v : Wave) (r : Nat) (x : Row) : (v.setReg r x).trap = v.trap := rfl
@[simp] theorem setReg_more (v : Wave) (r : Nat) (x : Row) : (v.setReg r x).more = v.more := rfl
@[simp] theorem setReg_finish (v : Wave) (r : Nat) (x : Row) : (v.setReg r x).finish = v.finish := rfl
@[simp] theorem setReg_monitor (v : Wave) (r : Nat) (x : Row) : (v.setReg r x).monitor = v.monitor := rfl
@[simp] theorem setReg_yarns (v : Wave) (r : Nat) (x : Row) : (v.setReg r x).yarns = v.yarns := rfl
@[simp] theorem setReg_access (v : Wave) (r : Nat) (x : Row) : (v.setReg r x).access = v.access := rfl
@[simp] theorem setReg_rays (v : Wave) (r : Nat) (x : Row) : (v.setReg r x).rays = v.rays := rfl
@[simp] theorem setReg_region (v : Wave) (r : Nat) (x : Row) : (v.setReg r x).region = v.region := rfl
@[simp] theorem setReg_idem (v : Wave) (r : Nat) (x : Row) : (v.setReg r x).idem = v.idem := rfl
@[simp] theorem setReg_arrivals (v : Wave) (r : Nat) (x : Row) : (v.setReg r x).arrivals = v.arrivals := rfl
@[simp] theorem setReg_pair (v : Wave) (r : Nat) (x : Row) : (v.setReg r x).pair = v.pair := rfl
@[simp] theorem setReg_preempt (v : Wave) (r : Nat) (x : Row) : (v.setReg r x).preempt = v.preempt := rfl
@[simp] theorem setReg_clauseCount (v : Wave) (r : Nat) (x : Row) : (v.setReg r x).clauseCount = v.clauseCount := rfl
@[simp] theorem setReg_image (v : Wave) (r : Nat) (x : Row) : (v.setReg r x).image = v.image := rfl
@[simp] theorem setReg_ctx (v : Wave) (r : Nat) (x : Row) : (v.setReg r x).ctx = v.ctx := rfl
@[simp] theorem setReg_latch (v : Wave) (r : Nat) (x : Row) : (v.setReg r x).latch = v.latch := rfl

/-- A register reads back what was written to it; the others read as before (R27). -/
theorem reg_setReg (v : Wave) (r r' : Nat) (x : Row) (h : r < 256) : (v.setReg r x).reg r' = if r' = r then x else v.reg r' := by
  simp only [Wave.reg, setReg_regs, Vector.getElem?_setIfInBounds]
  split
  · simp [‹r = r'›.symm]
  · rw [if_neg fun e => ‹¬r = r'› e.symm]

/-! ### What the updated part reads as -/

/-- A hank after its own update and after another's. -/
theorem hankOf_modHank (s : State) (h h' : Nat) (f : Hank → Hank) (hh : h < 8) :
    hankOf (modHank s h f) h' = if h' = h then f (hankOf s h) else hankOf s h' := by
  unfold hankOf
  rw [modHank_hanks, Vector.getElem?_setIfInBounds]
  split
  · simp [‹h = h'›.symm, hh, hankOf]
  · rw [if_neg fun e => ‹¬h = h'› e.symm]

/-- A team after its own update and after another's. -/
theorem teams_modTeam (s : State) (t t' : Nat) (f : Team → Team) :
    (modTeam s t f).teams[t']? = if t = t' then (s.teams[t']?).map f else s.teams[t']? := by
  rw [modTeam_teams, List.getElem?_modify]
  split <;> simp

/-- Updates of hanks leave waves alone, and updates of waves leave hanks alone. -/
@[simp] theorem hankOf_modWave (s : State) (w : Nat) (f : Wave → Wave) (h : Nat) : hankOf (modWave s w f) h = hankOf s h := rfl
@[simp] theorem hreg_modWave (s : State) (w : Nat) (f : Wave → Wave) (h off : Nat) : hreg (modWave s w f) h off = hreg s h off := rfl
@[simp] theorem hankOf_modTeam (s : State) (t : Nat) (f : Team → Team) (h : Nat) : hankOf (modTeam s t f) h = hankOf s h := rfl
@[simp] theorem hankOf_bump (s : State) (h : Nat) : hankOf (bump s) h = hankOf s h := rfl
@[simp] theorem hankOf_addFlight (s : State) (x : Flight) (h : Nat) : hankOf (addFlight s x) h = hankOf s h := rfl

end Sys2Proof.Laws
end

