-- ==== Sys2Proof/Tests/Slice0.lean ====
section
/-! SUPPORT. The model's own tests: ill-formed terms that are refused, words written out from the spec's encodings, single steps on small
states, and a witness for the hypotheses of each statement. -/

set_option Elab.async false

namespace Sys2Proof.Tests

open Sys2Proof Sys2Proof.Machine

/-! ### Ill-formed terms -/

/-- PM 11, and PREG that is not 0 under PM 00 (R55). -/
theorem test_wf_predicate : (WellFormed (.iadd ⟨3, 0, 3, 4, 0, 5, 0, 0, 0, 0⟩) || WellFormed (.movi ⟨0, 9, 3, 1, 0⟩)
    || WellFormed (.ld ⟨0, 1, 8, 6, 0, 0, 2, 0, 0, 0⟩) || WellFormed (.azero ⟨3, 0, 0, 0, 0, 0, 0, 0, 0, 0, 0, 0, 0, 0, 0⟩)
    || WellFormed (.kwait ⟨0, 1, 0, 6, 0, 0, 0, 0⟩) || WellFormed (.sysrd ⟨3, 0, 3, 0, 0, 1⟩) || WellFormed (.bra ⟨3, 0, 0, 4, 0⟩)
    || WellFormed (.aldi ⟨0, 1, 4, 1, 0, 0⟩)) = false := by decide

/-- Sources, permutations and latches of V3 words that read fewer than three (R57, R113): INEG has no B, IADD no C. -/
theorem test_wf_sources : (WellFormed (.ineg ⟨0, 0, 3, 4, 0, 5, 0, 0, 0, 0⟩) || WellFormed (.ineg ⟨0, 0, 3, 4, 0, 0, 1, 0, 0, 0⟩)
    || WellFormed (.ineg ⟨0, 0, 3, 4, 0, 0, 0, 0, 0, 2⟩) || WellFormed (.iadd ⟨0, 0, 3, 4, 0, 5, 0, 0, 1, 0⟩)
    || WellFormed (.iadd ⟨0, 0, 3, 4, 0, 5, 0, 0, 0, 4⟩) || WellFormed (.mread ⟨0, 0, 3, 4, 0, 0, 0, 0, 0, 0⟩)) = false := by decide

/-- MOD bits that an integer word does not have (R113), and the condition codes 6 and 7 (R124). -/
theorem test_wf_modifiers : (WellFormed (.iadd ⟨0, 0, 3, 4, 0, 5, 0, 1, 0, 0⟩) || WellFormed (.imin ⟨0, 0, 3, 4, 0, 5, 0, 2, 0, 0⟩)
    || WellFormed (.icmp ⟨0, 0, 3, 4, 0, 5, 0, 6, 0, 0⟩) || WellFormed (.icmp ⟨0, 0, 3, 4, 0, 5, 0, 16, 0, 0⟩)
    || WellFormed (.movi ⟨0, 0, 3, 1, 5⟩) || WellFormed (.vote ⟨0, 0, 3, 4, 0, 0, 0, 3, 0, 0⟩)) = false := by decide

/-- The float words' RND and MOD (R136), conversions' types and pairs (R147, R148), and the element class of narrow words (R149). -/
theorem test_wf_float : (WellFormed (.fadd ⟨0, 0, 3, 4, 0, 5, 0, 0, 6, 0⟩) || WellFormed (.fmin ⟨0, 0, 3, 4, 0, 5, 0, 0, 1, 0⟩)
    || WellFormed (.fcmp ⟨0, 0, 3, 4, 0, 5, 0, 8, 0, 0⟩) || WellFormed (.cvti ⟨0, 0, 3, 5, 0, 0, 0, 6, 0, 0⟩)
    || WellFormed (.cvti ⟨0, 0, 4, 4, 0, 0, 0, 12, 0, 0⟩) || WellFormed (.cvtf ⟨0, 0, 5, 4, 0, 0, 0, 8, 0, 0⟩)
    || WellFormed (.cvtff ⟨0, 0, 4, 5, 0, 0, 0, 5, 0, 0⟩) || WellFormed (.pkn ⟨0, 0, 2, 4, 0, 6, 0, 0x20, 0, 0⟩)
    || WellFormed (.ndot ⟨0, 0, 3, 5, 0, 5, 0, 0x80, 0, 0⟩) || WellFormed (.upkn ⟨0, 0, 3, 3, 0, 6, 0, 0x61, 0, 0⟩)) = false := by decide

/-- Pairs of the affine words (R128), SHFLI's immediate, ASHLI's count (R130), and LRED's operations (R132). -/
theorem test_wf_lanes : (WellFormed (.amov ⟨0, 0, 3, 4, 0, 5, 0, 0, 0, 0⟩) || WellFormed (.amov ⟨0, 0, 2, 4, 1, 5, 0, 0, 0, 0⟩)
    || WellFormed (.acmp ⟨0, 0, 3, 4, 0, 5, 0, 0, 0, 0⟩) || WellFormed (.shfli ⟨0, 0, 3, 4, 0, 32⟩)
    || WellFormed (.ashli ⟨0, 0, 8, 10, 0, 64⟩) || WellFormed (.lred ⟨0, 0, 3, 4, 0, 0, 0, 9, 0, 0⟩)
    || WellFormed (.mwrite ⟨0, 0, 1, 4, 0, 0, 0, 0, 0, 0⟩)) = false := by decide

/-- SIZE, SCOPE, ORD and RC (R58, R159), the widths of data registers, the vault fields, and the operations of ATOM (R171). -/
theorem test_wf_memory : (WellFormed (.ld ⟨0, 0, 8, 6, 0, 0, 7, 0, 0, 0⟩) || WellFormed (.ld ⟨0, 0, 8, 6, 0, 0, 2, 6, 0, 0⟩)
    || WellFormed (.ld ⟨0, 0, 8, 6, 0, 0, 2, 0, 2, 0⟩) || WellFormed (.ld ⟨0, 0, 9, 6, 0, 0, 3, 0, 0, 0⟩)
    || WellFormed (.ld ⟨0, 0, 8, 7, 0, 0, 2, 0, 0, 0⟩) || WellFormed (.st ⟨0, 0, 8, 6, 0, 0, 5, 0, 0, 0⟩)
    || WellFormed (.st ⟨0, 0, 8, 6, 0, 0, 2, 0, 0, 1⟩) || WellFormed (.ldv ⟨0, 0, 8, 6, 0, 15 * 1024 + 64, 2, 0, 0, 0⟩)
    || WellFormed (.ldv ⟨0, 0, 8, 6, 0, 8 * 1024, 2, 0, 0, 0⟩) || WellFormed (.atom ⟨0, 0, 8, 6, 7, 0, 2, 0, 0, 2⟩)
    || WellFormed (.atom ⟨0, 0, 8, 6, 0, 0, 1, 0, 0, 0⟩) || WellFormed (.acas ⟨0, 0, 8, 6, 0, 65, 2, 0, 0, 0⟩)
    || WellFormed (.cadd ⟨0, 0, 0, 6, 0, 0, 2, 0, 0, 0⟩) || WellFormed (.fenceMem ⟨0, 0, 0, 0, 0, 0, 0, 0, 0, 0⟩)
    || WellFormed (.fenceVault ⟨0, 0, 0, 0, 0, 0, 0, 0, 0, 0⟩) || WellFormed (.mon ⟨0, 0, 0, 6, 0, 0, 0, 0, 0, 1⟩)) = false := by decide

/-- X words with a field of another form, or D that is not 0 (R59, R224). -/
theorem test_wf_matrix : (WellFormed (.azero ⟨0, 0, 1, 0, 0, 0, 0, 0, 0, 0, 0, 0, 0, 0, 0⟩)
    || WellFormed (.mma ⟨0, 0, 0, 0, 0, 0, 0, 0, 0, 7, 0, 0, 0, 0, 0⟩) || WellFormed (.mma ⟨0, 0, 0, 0, 0, 0, 0, 0, 0, 0, 0, 1, 0, 0, 0⟩)
    || WellFormed (.mma ⟨0, 0, 0, 0, 0, 0, 0, 0, 0, 0, 0, 0, 0, 0, 1⟩) || WellFormed (.ntake ⟨0, 0, 0, 1, 0, 0, 0, 0, 0, 0, 0, 0, 0, 0, 0⟩)
    || WellFormed (.mstat ⟨0, 0, 0, 0, 0, 0, 0, 0, 0, 0, 0, 0, 0, 0, 1⟩)) = false := by decide

/-- K words (R60, R209, R216): registers of another form, odd pairs, immediates out of range. -/
theorem test_wf_engines : (WellFormed (.yopen ⟨0, 0, 0, 7, 0, 0, 0, 0⟩) || WellFormed (.yclose ⟨0, 0, 1, 0, 0, 0, 0, 0⟩)
    || WellFormed (.ydrop ⟨0, 0, 0, 0, 0, 0, 0, 0⟩) || WellFormed (.cpy ⟨0, 0, 0, 6, 8, 9, 0, 10⟩)
    || WellFormed (.cpy ⟨0, 0, 0, 6, 8, 9, 0, 3⟩) || WellFormed (.gath ⟨0, 0, 0, 6, 8, 11, 0, 0⟩)
    || WellFormed (.kwait ⟨0, 0, 0, 6, 0, 0, 0, 5⟩) || WellFormed (.trace ⟨0, 0, 0, 4, 6, 12, 0, 0⟩)
    || WellFormed (.tres ⟨0, 0, 2, 0, 0, 0, 0, 0⟩)) = false := by decide

/-- C words (R60, R185): D where none is named, odd pairs, SUB of another form, and fields of words that are never predicated. -/
theorem test_wf_control : (WellFormed (.bra ⟨0, 0, 1, 4, 0⟩) || WellFormed (.bra ⟨0, 0, 0, 4, 1⟩) || WellFormed (.brx ⟨0, 0, 7, 0, 0⟩)
    || WellFormed (.call ⟨0, 0, 7, 4, 0⟩) || WellFormed (.join ⟨1, 9, 7, 0, 0⟩) || WellFormed (.bar ⟨0, 0, 0, 0x80, 0⟩)
    || WellFormed (.nop ⟨0, 0, 0, 1, 0⟩) || WellFormed (.eret ⟨0, 0, 1, 0, 0⟩)) = false := by decide

/-- S words (R60, R263): an index above 8 bits, a register that is not writable, and immediates of another form. -/
theorem test_wf_system : (WellFormed (.sysrd ⟨0, 0, 3, 0, 0, 256⟩) || WellFormed (.syswr ⟨0, 0, 0, 4, 0, 1⟩)
    || WellFormed (.idemEnd ⟨0, 0, 0, 0, 0, 1025⟩) || WellFormed (.gset ⟨0, 0, 0, 7, 8, 0⟩) || WellFormed (.pfork ⟨0, 0, 6, 0, 0, 0⟩)
    || WellFormed (.pqry ⟨0, 0, 3, 4, 0, 1⟩) || WellFormed (.arabt ⟨0, 0, 0, 0, 0, 256⟩) || WellFormed (.launch ⟨0, 0, 0, 5, 0, 0⟩)
    || WellFormed (.qpush ⟨0, 0, 0, 4, 6, 5⟩) || WellFormed (.qtokTake ⟨0, 0, 6, 4, 0, 0⟩)) = false := by decide

/-- Steps of the machine whose operands name no hank, queue, bin, context, head, injector, bank or lane. -/
theorem test_wf_steps : (WellFormed (.queueDispatch 8) || WellFormed (.hostDoorbell 0 4 0 false ⟨0, .full, false⟩)
    || WellFormed (.binLaunch 0 64) || WellFormed (.traversalLoadComplete 0 8) || WellFormed (.vblank 4) || WellFormed (.inject 32 (.other 0 1 false 0))
    || WellFormed (.bankDrowsy 0 8) || WellFormed (.debuggerAccess 0 0 8 none) || WellFormed (.clauseStart 0 9)
    || WellFormed (.opportunisticFusion 0 1 1) || WellFormed (.fetchadd 0 2 0 .coherent) || WellFormed (.mediaCommand 2)
    || WellFormed (.gaugecWrite 0 16 ⟨0, .full, false⟩) || WellFormed (.traversalContextFault 8 0 0)) = false := by decide +kernel

/-- Words of class V, written out field by field from the tables of R55 to R60 and R81, R82, decode to what they stand for. -/
theorem test_decode_v1 :
  decodeNat 0x00109030420A8001 = .ok (.iadd ⟨1, 9, 3, 4, 1, 5, 2, 0, 0, 1⟩)
  ∧ decodeNat 0x10000080A0000005 = .ok (.iaddVi ⟨0, 0, 8, 10, 0, 5⟩)
  ∧ decodeNat 0x00400030400A0000 = .ok (.isub ⟨0, 0, 3, 4, 0, 5, 0, 0, 0, 0⟩)
  ∧ decodeNat 0x10400080A0000005 = .ok (.isubVi ⟨0, 0, 8, 10, 0, 5⟩)
  ∧ decodeNat 0x00800030400A0180 = .ok (.iaddx ⟨0, 0, 3, 4, 0, 5, 0, 6, 0, 0⟩)
  ∧ decodeNat 0x00C00030400A0180 = .ok (.icry ⟨0, 0, 3, 4, 0, 5, 0, 6, 0, 0⟩)
  ∧ decodeNat 0x01000030400A0000 = .ok (.imul ⟨0, 0, 3, 4, 0, 5, 0, 0, 0, 0⟩)
  ∧ decodeNat 0x11000080A0000005 = .ok (.imulVi ⟨0, 0, 8, 10, 0, 5⟩)
  ∧ decodeNat 0x01400030400A0040 = .ok (.imulh ⟨0, 0, 3, 4, 0, 5, 0, 1, 0, 0⟩)
  ∧ decodeNat 0x11400080A0000005 = .ok (.imulhVi ⟨0, 0, 8, 10, 0, 5⟩)
  ∧ decodeNat 0x01800030400A01B8 = .ok (.imad ⟨0, 0, 3, 4, 0, 5, 0, 6, 7, 0⟩)
  ∧ decodeNat 0x01C00030400A0040 = .ok (.imin ⟨0, 0, 3, 4, 0, 5, 0, 1, 0, 0⟩)
  ∧ decodeNat 0x11C00080A0000005 = .ok (.iminVi ⟨0, 0, 8, 10, 0, 5⟩)
  ∧ decodeNat 0x02000030400A0000 = .ok (.imax ⟨0, 0, 3, 4, 0, 5, 0, 0, 0, 0⟩)
  ∧ decodeNat 0x12000080A0000005 = .ok (.imaxVi ⟨0, 0, 8, 10, 0, 5⟩)
  ∧ decodeNat 0x0240003040000040 = .ok (.iabs ⟨0, 0, 3, 4, 0, 0, 0, 1, 0, 0⟩)
  ∧ decodeNat 0x0280003040000000 = .ok (.ineg ⟨0, 0, 3, 4, 0, 0, 0, 0, 0, 0⟩)
  ∧ decodeNat 0x02C00030400A0000 = .ok (.and ⟨0, 0, 3, 4, 0, 5, 0, 0, 0, 0⟩)
  ∧ decodeNat 0x12C00080A0000005 = .ok (.andVi ⟨0, 0, 8, 10, 0, 5⟩)
  ∧ decodeNat 0x03000030400A0000 = .ok (.or ⟨0, 0, 3, 4, 0, 5, 0, 0, 0, 0⟩)
  ∧ decodeNat 0x13000080A0000005 = .ok (.orVi ⟨0, 0, 8, 10, 0, 5⟩)
  ∧ decodeNat 0x03400030400A0000 = .ok (.xor ⟨0, 0, 3, 4, 0, 5, 0, 0, 0, 0⟩)
  ∧ decodeNat 0x13400080A0000005 = .ok (.xorVi ⟨0, 0, 8, 10, 0, 5⟩)
  ∧ decodeNat 0x03800030400A0000 = .ok (.andn ⟨0, 0, 3, 4, 0, 5, 0, 0, 0, 0⟩)
  ∧ decodeNat 0x13800080A0000005 = .ok (.andnVi ⟨0, 0, 8, 10, 0, 5⟩) :=
  ⟨rfl, rfl, rfl, rfl, rfl, rfl, rfl, rfl, rfl, rfl, rfl, rfl, rfl, rfl, rfl, rfl, rfl, rfl, rfl, rfl, rfl, rfl, rfl, rfl, rfl⟩

/-- Words of class V, written out field by field from the tables of R55 to R60 and R81, R82, decode to what they stand for. -/
theorem test_decode_v2 :
  decodeNat 0x03C0003040000000 = .ok (.not ⟨0, 0, 3, 4, 0, 0, 0, 0, 0, 0⟩)
  ∧ decodeNat 0x04000030400A3A00 = .ok (.blut ⟨0, 0, 3, 4, 0, 5, 0, 232, 0, 0⟩)
  ∧ decodeNat 0x04400030400A0000 = .ok (.shl ⟨0, 0, 3, 4, 0, 5, 0, 0, 0, 0⟩)
  ∧ decodeNat 0x14400080A0000005 = .ok (.shlVi ⟨0, 0, 8, 10, 0, 5⟩)
  ∧ decodeNat 0x04800030400A0000 = .ok (.shr ⟨0, 0, 3, 4, 0, 5, 0, 0, 0, 0⟩)
  ∧ decodeNat 0x14800080A0000005 = .ok (.shrVi ⟨0, 0, 8, 10, 0, 5⟩)
  ∧ decodeNat 0x04C00030400A0000 = .ok (.sar ⟨0, 0, 3, 4, 0, 5, 0, 0, 0, 0⟩)
  ∧ decodeNat 0x14C00080A0000005 = .ok (.sarVi ⟨0, 0, 8, 10, 0, 5⟩)
  ∧ decodeNat 0x05000030400A0000 = .ok (.rotl ⟨0, 0, 3, 4, 0, 5, 0, 0, 0, 0⟩)
  ∧ decodeNat 0x15000080A0000005 = .ok (.rotlVi ⟨0, 0, 8, 10, 0, 5⟩)
  ∧ decodeNat 0x05400030400A0040 = .ok (.bfx ⟨0, 0, 3, 4, 0, 5, 0, 1, 0, 0⟩)
  ∧ decodeNat 0x05800030400A0180 = .ok (.bfi ⟨0, 0, 3, 4, 0, 5, 0, 6, 0, 0⟩)
  ∧ decodeNat 0x05C0003040000000 = .ok (.brev ⟨0, 0, 3, 4, 0, 0, 0, 0, 0, 0⟩)
  ∧ decodeNat 0x0600003040000000 = .ok (.popc ⟨0, 0, 3, 4, 0, 0, 0, 0, 0, 0⟩)
  ∧ decodeNat 0x0640003040000000 = .ok (.clz ⟨0, 0, 3, 4, 0, 0, 0, 0, 0, 0⟩)
  ∧ decodeNat 0x0680003040000000 = .ok (.ctz ⟨0, 0, 3, 4, 0, 0, 0, 0, 0, 0⟩)
  ∧ decodeNat 0x06C0003040000040 = .ok (.bitlv ⟨0, 0, 3, 4, 0, 0, 0, 1, 0, 0⟩)
  ∧ decodeNat 0x0700003040000000 = .ok (.bdlv ⟨0, 0, 3, 4, 0, 0, 0, 0, 0, 0⟩)
  ∧ decodeNat 0x07400030400A0280 = .ok (.icmp ⟨0, 0, 3, 4, 0, 5, 0, 10, 0, 0⟩)
  ∧ decodeNat 0x07800030400A0180 = .ok (.sel ⟨0, 0, 3, 4, 0, 5, 0, 6, 0, 0⟩)
  ∧ decodeNat 0x07C00030400A0180 = .ok (.iclamp ⟨0, 0, 3, 4, 0, 5, 0, 6, 0, 0⟩)
  ∧ decodeNat 0x080000304A000000 = .ok (.mov ⟨0, 0, 3, 4, 5, 0, 0, 0, 0, 0⟩)
  ∧ decodeNat 0x0840003DEADBEEF2 = .ok (.movi ⟨0, 0, 3, 3735928559, 2⟩)
  ∧ decodeNat 0x08800030400A01C0 = .ok (.idp4 ⟨0, 0, 3, 4, 0, 5, 0, 7, 0, 0⟩) :=
  ⟨rfl, rfl, rfl, rfl, rfl, rfl, rfl, rfl, rfl, rfl, rfl, rfl, rfl, rfl, rfl, rfl, rfl, rfl, rfl, rfl, rfl, rfl, rfl, rfl⟩

/-- Words of class F, written out field by field from the tables of R55 to R60 and R81, R82, decode to what they stand for. -/
theorem test_decode_f1 :
  decodeNat 0x20000030400A0008 = .ok (.fadd ⟨0, 0, 3, 4, 0, 5, 0, 0, 1, 0⟩)
  ∧ decodeNat 0x20400030400A0000 = .ok (.fsub ⟨0, 0, 3, 4, 0, 5, 0, 0, 0, 0⟩)
  ∧ decodeNat 0x20800030400A0000 = .ok (.fmul ⟨0, 0, 3, 4, 0, 5, 0, 0, 0, 0⟩)
  ∧ decodeNat 0x20D09030400A0180 = .ok (.ffma ⟨1, 9, 3, 4, 0, 5, 0, 6, 0, 0⟩)
  ∧ decodeNat 0x21000030400A0000 = .ok (.fmin ⟨0, 0, 3, 4, 0, 5, 0, 0, 0, 0⟩)
  ∧ decodeNat 0x21400030400A0000 = .ok (.fmax ⟨0, 0, 3, 4, 0, 5, 0, 0, 0, 0⟩)
  ∧ decodeNat 0x21800030400A0100 = .ok (.fcmp ⟨0, 0, 3, 4, 0, 5, 0, 4, 0, 0⟩)
  ∧ decodeNat 0x21C0003040000000 = .ok (.fclass ⟨0, 0, 3, 4, 0, 0, 0, 0, 0, 0⟩)
  ∧ decodeNat 0x2200003040000020 = .ok (.frnd ⟨0, 0, 3, 4, 0, 0, 0, 0, 4, 0⟩)
  ∧ decodeNat 0x2240003040000000 = .ok (.frcp ⟨0, 0, 3, 4, 0, 0, 0, 0, 0, 0⟩)
  ∧ decodeNat 0x2280003040000000 = .ok (.frsq ⟨0, 0, 3, 4, 0, 0, 0, 0, 0, 0⟩)
  ∧ decodeNat 0x22C0003040000010 = .ok (.fsqrt ⟨0, 0, 3, 4, 0, 0, 0, 0, 2, 0⟩)
  ∧ decodeNat 0x2300003040000000 = .ok (.fexp2 ⟨0, 0, 3, 4, 0, 0, 0, 0, 0, 0⟩)
  ∧ decodeNat 0x2340003040000000 = .ok (.flog2 ⟨0, 0, 3, 4, 0, 0, 0, 0, 0, 0⟩)
  ∧ decodeNat 0x2380003040000000 = .ok (.fsin ⟨0, 0, 3, 4, 0, 0, 0, 0, 0, 0⟩)
  ∧ decodeNat 0x23C0003040000000 = .ok (.fcos ⟨0, 0, 3, 4, 0, 0, 0, 0, 0, 0⟩)
  ∧ decodeNat 0x2400003040000000 = .ok (.ftanh ⟨0, 0, 3, 4, 0, 0, 0, 0, 0, 0⟩)
  ∧ decodeNat 0x24400030400A0000 = .ok (.fscl ⟨0, 0, 3, 4, 0, 5, 0, 0, 0, 0⟩)
  ∧ decodeNat 0x34400080A0000005 = .ok (.fsclVi ⟨0, 0, 8, 10, 0, 5⟩)
  ∧ decodeNat 0x24800030400A0040 = .ok (.hpadd ⟨0, 0, 3, 4, 0, 5, 0, 1, 0, 0⟩)
  ∧ decodeNat 0x24C00030400A0000 = .ok (.hpmul ⟨0, 0, 3, 4, 0, 5, 0, 0, 0, 0⟩)
  ∧ decodeNat 0x25000030400A0000 = .ok (.hpfma ⟨0, 0, 3, 4, 0, 5, 0, 0, 0, 0⟩)
  ∧ decodeNat 0x2540003040000180 = .ok (.cvti ⟨0, 0, 3, 4, 0, 0, 0, 6, 0, 0⟩)
  ∧ decodeNat 0x2580004050000200 = .ok (.cvtf ⟨0, 0, 4, 5, 0, 0, 0, 8, 0, 0⟩)
  ∧ decodeNat 0x25C0004050000130 = .ok (.cvtff ⟨0, 0, 4, 5, 0, 0, 0, 4, 6, 0⟩) :=
  ⟨rfl, rfl, rfl, rfl, rfl, rfl, rfl, rfl, rfl, rfl, rfl, rfl, rfl, rfl, rfl, rfl, rfl, rfl, rfl, rfl, rfl, rfl, rfl, rfl, rfl⟩

/-- Words of class F, written out field by field from the tables of R55 to R60 and R81, R82, decode to what they stand for. -/
theorem test_decode_f2 :
  decodeNat 0x26000020400C1030 = .ok (.pkn ⟨0, 0, 2, 4, 0, 6, 0, 64, 6, 0⟩)
  ∧ decodeNat 0x26400040300C1840 = .ok (.upkn ⟨0, 0, 4, 3, 0, 6, 0, 97, 0, 0⟩)
  ∧ decodeNat 0x26800030400A2000 = .ok (.ndot ⟨0, 0, 3, 4, 0, 5, 0, 128, 0, 0⟩) :=
  ⟨rfl, rfl, rfl⟩

/-- Words of class A, written out field by field from the tables of R55 to R60 and R81, R82, decode to what they stand for. -/
theorem test_decode_a :
  decodeNat 0x40000020400A0000 = .ok (.amov ⟨0, 0, 2, 4, 0, 5, 0, 0, 0, 0⟩)
  ∧ decodeNat 0x5040002FC0000064 = .ok (.aldi ⟨0, 0, 2, 252, 0, 100⟩)
  ∧ decodeNat 0x40800020400A0000 = .ok (.aadd ⟨0, 0, 2, 4, 0, 5, 0, 0, 0, 0⟩)
  ∧ decodeNat 0x50800080A0000005 = .ok (.aaddVi ⟨0, 0, 8, 10, 0, 5⟩)
  ∧ decodeNat 0x40C00020400A0000 = .ok (.asub ⟨0, 0, 2, 4, 0, 5, 0, 0, 0, 0⟩)
  ∧ decodeNat 0x50C00080A0000005 = .ok (.asubVi ⟨0, 0, 8, 10, 0, 5⟩)
  ∧ decodeNat 0x51000080A0000003 = .ok (.amuli ⟨0, 0, 8, 10, 0, 3⟩)
  ∧ decodeNat 0x51400080A000003F = .ok (.ashli ⟨0, 0, 8, 10, 0, 63⟩)
  ∧ decodeNat 0x41800030400C0340 = .ok (.acmp ⟨0, 0, 3, 4, 0, 6, 0, 13, 0, 0⟩)
  ∧ decodeNat 0x41C00030460A0000 = .ok (.shfl ⟨0, 0, 3, 4, 3, 5, 0, 0, 0, 0⟩)
  ∧ decodeNat 0x5200003040000019 = .ok (.shfli ⟨0, 0, 3, 4, 0, 25⟩)
  ∧ decodeNat 0x4240003040000080 = .ok (.vote ⟨0, 0, 3, 4, 0, 0, 0, 2, 0, 0⟩)
  ∧ decodeNat 0x4280003040000440 = .ok (.lred ⟨0, 0, 3, 4, 0, 0, 0, 17, 0, 0⟩)
  ∧ decodeNat 0x42C0003040000980 = .ok (.lscan ⟨0, 0, 3, 4, 0, 0, 0, 38, 0, 0⟩)
  ∧ decodeNat 0x4300003000000040 = .ok (.mread ⟨0, 0, 3, 0, 0, 0, 0, 1, 0, 0⟩)
  ∧ decodeNat 0x4340000046000000 = .ok (.mwrite ⟨0, 0, 0, 4, 3, 0, 0, 0, 0, 0⟩) :=
  ⟨rfl, rfl, rfl, rfl, rfl, rfl, rfl, rfl, rfl, rfl, rfl, rfl, rfl, rfl, rfl, rfl⟩

/-- Words of class M, written out field by field from the tables of R55 to R60 and R81, R82, decode to what they stand for. -/
theorem test_decode_m :
  decodeNat 0x6010908061FFFCAF = .ok (.ld ⟨1, 9, 8, 6, 0, 16383, 4, 5, 1, 7⟩)
  ∧ decodeNat 0x6040008060000B10 = .ok (.st ⟨0, 0, 8, 6, 0, 1, 3, 0, 2, 0⟩)
  ∧ decodeNat 0x6080009070001520 = .ok (.lds ⟨0, 0, 9, 7, 0, 2, 5, 1, 0, 0⟩)
  ∧ decodeNat 0x60C0009070000100 = .ok (.sts ⟨0, 0, 9, 7, 0, 0, 1, 0, 0, 0⟩)
  ∧ decodeNat 0x6100009071FFFA00 = .ok (.ldv ⟨0, 0, 9, 7, 0, 16383, 2, 0, 0, 0⟩)
  ∧ decodeNat 0x6140009070FA0A00 = .ok (.stv ⟨0, 0, 9, 7, 0, 8001, 2, 0, 0, 0⟩)
  ∧ decodeNat 0x6180009070001A00 = .ok (.ldk ⟨0, 0, 9, 7, 0, 3, 2, 0, 0, 0⟩)
  ∧ decodeNat 0x61C000906C160A98 = .ok (.atom ⟨0, 0, 9, 6, 6, 705, 2, 4, 3, 0⟩)
  ∧ decodeNat 0x6200008060180300 = .ok (.acas ⟨0, 0, 8, 6, 0, 768, 3, 0, 0, 0⟩)
  ∧ decodeNat 0x6240009070160220 = .ok (.atoms ⟨0, 0, 9, 7, 0, 704, 2, 1, 0, 0⟩)
  ∧ decodeNat 0x6280000060160281 = .ok (.cadd ⟨0, 0, 0, 6, 0, 704, 2, 4, 0, 1⟩)
  ∧ decodeNat 0x62C00000000000B8 = .ok (.fenceMem ⟨0, 0, 0, 0, 0, 0, 0, 5, 3, 0⟩)
  ∧ decodeNat 0x62C0000000000800 = .ok (.fenceVault ⟨0, 0, 0, 0, 0, 1, 0, 0, 0, 0⟩)
  ∧ decodeNat 0x6300000060000800 = .ok (.mon ⟨0, 0, 0, 6, 0, 1, 0, 0, 0, 0⟩)
  ∧ decodeNat 0x6340000000008000 = .ok (.mwait ⟨0, 0, 0, 0, 0, 16, 0, 0, 0, 0⟩)
  ∧ decodeNat 0x6380000060000003 = .ok (.pref ⟨0, 0, 0, 6, 0, 0, 0, 0, 0, 3⟩)
  ∧ decodeNat 0x63C0000060000000 = .ok (.cinv ⟨0, 0, 0, 6, 0, 0, 0, 0, 0, 0⟩)
  ∧ decodeNat 0x6400000060000000 = .ok (.cwb ⟨0, 0, 0, 6, 0, 0, 0, 0, 0, 0⟩) :=
  ⟨rfl, rfl, rfl, rfl, rfl, rfl, rfl, rfl, rfl, rfl, rfl, rfl, rfl, rfl, rfl, rfl, rfl, rfl⟩

/-- Words of class X, written out field by field from the tables of R55 to R60 and R81, R82, decode to what they stand for. -/
theorem test_decode_x :
  decodeNat 0x8000000000000000 = .ok (.ntake ⟨0, 0, 0, 0, 0, 0, 0, 0, 0, 0, 0, 0, 0, 0, 0⟩)
  ∧ decodeNat 0x8040000082000000 = .ok (.npass ⟨0, 0, 0, 0, 1, 0, 1, 0, 0, 0, 0, 0, 0, 0, 0⟩)
  ∧ decodeNat 0x80909008A0000400 = .ok (.mma ⟨1, 9, 0, 2, 1, 2, 0, 0, 0, 0, 0, 0, 1, 0, 0⟩)
  ∧ decodeNat 0x80C00008A0280800 = .ok (.mmas ⟨0, 0, 0, 2, 1, 2, 0, 0, 5, 0, 0, 1, 0, 0, 0⟩)
  ∧ decodeNat 0x8100000C00000000 = .ok (.azero ⟨0, 0, 0, 3, 0, 0, 0, 0, 0, 0, 0, 0, 0, 0, 0⟩)
  ∧ decodeNat 0x8140000400000000 = .ok (.afill ⟨0, 0, 0, 1, 0, 0, 0, 0, 0, 0, 0, 0, 0, 0, 0⟩)
  ∧ decodeNat 0x8190900400000000 = .ok (.adrain ⟨1, 9, 0, 1, 0, 0, 0, 0, 0, 0, 0, 0, 0, 0, 0⟩)
  ∧ decodeNat 0x81C0000400000000 = .ok (.mepi ⟨0, 0, 0, 1, 0, 0, 0, 0, 0, 0, 0, 0, 0, 0, 0⟩)
  ∧ decodeNat 0x8200000000000000 = .ok (.mstat ⟨0, 0, 0, 0, 0, 0, 0, 0, 0, 0, 0, 0, 0, 0, 0⟩) :=
  ⟨rfl, rfl, rfl, rfl, rfl, rfl, rfl, rfl, rfl⟩

/-- Words of class K, written out field by field from the tables of R55 to R60 and R81, R82, decode to what they stand for. -/
theorem test_decode_k :
  decodeNat 0xA000000060000600 = .ok (.yopen ⟨0, 0, 0, 6, 0, 0, 3, 0⟩)
  ∧ decodeNat 0xA040000000000600 = .ok (.yclose ⟨0, 0, 0, 0, 0, 0, 3, 0⟩)
  ∧ decodeNat 0xA090900060700600 = .ok (.ypush ⟨1, 9, 0, 6, 7, 0, 3, 0⟩)
  ∧ decodeNat 0xA0C0000000000608 = .ok (.ydrop ⟨0, 0, 0, 0, 0, 0, 3, 8⟩)
  ∧ decodeNat 0xA100000060809001 = .ok (.cpy ⟨0, 0, 0, 6, 8, 9, 0, 1⟩)
  ∧ decodeNat 0xA140000060809000 = .ok (.cpyd ⟨0, 0, 0, 6, 8, 9, 0, 0⟩)
  ∧ decodeNat 0xA18000006080A000 = .ok (.gath ⟨0, 0, 0, 6, 8, 10, 0, 0⟩)
  ∧ decodeNat 0xA1C000006080A000 = .ok (.scat ⟨0, 0, 0, 6, 8, 10, 0, 0⟩)
  ∧ decodeNat 0xA200000060000004 = .ok (.kwait ⟨0, 0, 0, 6, 0, 0, 0, 4⟩)
  ∧ decodeNat 0xA24000008060C400 = .ok (.trace ⟨0, 0, 0, 8, 6, 12, 2, 0⟩)
  ∧ decodeNat 0xA28000C000000400 = .ok (.tres ⟨0, 0, 12, 0, 0, 0, 2, 0⟩)
  ∧ decodeNat 0xA2C0000060700000 = .ok (.msub ⟨0, 0, 0, 6, 7, 0, 0, 0⟩)
  ∧ decodeNat 0xA300006000809001 = .ok (.smap ⟨0, 0, 6, 0, 8, 9, 0, 1⟩)
  ∧ decodeNat 0xA340000060000000 = .ok (.sunmap ⟨0, 0, 0, 6, 0, 0, 0, 0⟩) :=
  ⟨rfl, rfl, rfl, rfl, rfl, rfl, rfl, rfl, rfl, rfl, rfl, rfl, rfl, rfl⟩

/-- Words of class C, written out field by field from the tables of R55 to R60 and R81, R82, decode to what they stand for. -/
theorem test_decode_c :
  decodeNat 0xC020900FFFFFFFE0 = .ok (.bra ⟨2, 9, 0, 4294967294, 0⟩)
  ∧ decodeNat 0xC040000000000051 = .ok (.bru ⟨0, 0, 0, 5, 1⟩)
  ∧ decodeNat 0xC080006000000000 = .ok (.brx ⟨0, 0, 6, 0, 0⟩)
  ∧ decodeNat 0xC0C0006000000090 = .ok (.call ⟨0, 0, 6, 9, 0⟩)
  ∧ decodeNat 0xC100006000000000 = .ok (.ret ⟨0, 0, 6, 0, 0⟩)
  ∧ decodeNat 0xC140007000000000 = .ok (.join ⟨0, 0, 7, 0, 0⟩)
  ∧ decodeNat 0xC1800000000002B1 = .ok (.bar ⟨0, 0, 0, 43, 1⟩)
  ∧ decodeNat 0xC1C00000000002B0 = .ok (.bara ⟨0, 0, 0, 43, 0⟩)
  ∧ decodeNat 0xC2000000000002B0 = .ok (.barw ⟨0, 0, 0, 43, 0⟩)
  ∧ decodeNat 0xC250900000000000 = .ok (.exit ⟨1, 9, 0, 0, 0⟩)
  ∧ decodeNat 0xC280000000000000 = .ok (.yield ⟨0, 0, 0, 0, 0⟩)
  ∧ decodeNat 0xC2C0000123456780 = .ok (.trap ⟨0, 0, 0, 305419896, 0⟩)
  ∧ decodeNat 0xC300000000000010 = .ok (.bpt ⟨0, 0, 0, 1, 0⟩)
  ∧ decodeNat 0xC340000000000000 = .ok (.nop ⟨0, 0, 0, 0, 0⟩)
  ∧ decodeNat 0xC380000000000000 = .ok (.eret ⟨0, 0, 0, 0, 0⟩) :=
  ⟨rfl, rfl, rfl, rfl, rfl, rfl, rfl, rfl, rfl, rfl, rfl, rfl, rfl, rfl, rfl⟩

/-- Words of class S, written out field by field from the tables of R55 to R60 and R81, R82, decode to what they stand for. -/
theorem test_decode_s1 :
  decodeNat 0xE000003000000025 = .ok (.sysrd ⟨0, 0, 3, 0, 0, 37⟩)
  ∧ decodeNat 0xE040000040000022 = .ok (.syswr ⟨0, 0, 0, 4, 0, 34⟩)
  ∧ decodeNat 0xE080000000000005 = .ok (.phint ⟨0, 0, 0, 0, 0, 5⟩)
  ∧ decodeNat 0xE0C0000000000007 = .ok (.idem ⟨0, 0, 0, 0, 0, 7⟩)
  ∧ decodeNat 0xE0C0000000000400 = .ok (.idemEnd ⟨0, 0, 0, 0, 0, 1024⟩)
  ∧ decodeNat 0xE11090006070000F = .ok (.gset ⟨1, 9, 0, 6, 7, 15⟩)
  ∧ decodeNat 0xE140006000000002 = .ok (.pfork ⟨0, 0, 6, 0, 0, 2⟩)
  ∧ decodeNat 0xE180003040000000 = .ok (.penter ⟨0, 0, 3, 4, 0, 0⟩)
  ∧ decodeNat 0xE1C0003040000001 = .ok (.pkeep ⟨0, 0, 3, 4, 0, 1⟩)
  ∧ decodeNat 0xE200000040000000 = .ok (.pfrog ⟨0, 0, 0, 4, 0, 0⟩)
  ∧ decodeNat 0xE240003040000000 = .ok (.pqry ⟨0, 0, 3, 4, 0, 0⟩)
  ∧ decodeNat 0xE280003040600000 = .ok (.lline ⟨0, 0, 3, 4, 6, 0⟩)
  ∧ decodeNat 0xE2C00000000FFFFF = .ok (.arbeg ⟨0, 0, 0, 0, 0, 1048575⟩)
  ∧ decodeNat 0xE300003000000000 = .ok (.arend ⟨0, 0, 3, 0, 0, 0⟩)
  ∧ decodeNat 0xE3400000000000FF = .ok (.arabt ⟨0, 0, 0, 0, 0, 255⟩)
  ∧ decodeNat 0xE380003040000000 = .ok (.rpair ⟨0, 0, 3, 4, 0, 0⟩)
  ∧ decodeNat 0xE3C0000000000003 = .ok (.rchk ⟨0, 0, 0, 0, 0, 3⟩)
  ∧ decodeNat 0xE400000000000000 = .ok (.rend ⟨0, 0, 0, 0, 0, 0⟩)
  ∧ decodeNat 0xE440003040500000 = .ok (.fmap ⟨0, 0, 3, 4, 5, 0⟩)
  ∧ decodeNat 0xE480000040000000 = .ok (.invpg ⟨0, 0, 0, 4, 0, 0⟩)
  ∧ decodeNat 0xE4C000004000003F = .ok (.launch ⟨0, 0, 0, 4, 0, 63⟩)
  ∧ decodeNat 0xE500000050600000 = .ok (.emit ⟨0, 0, 0, 5, 6, 0⟩)
  ∧ decodeNat 0xE540003040000000 = .ok (.recv ⟨0, 0, 3, 4, 0, 0⟩)
  ∧ decodeNat 0xE580000040601001 = .ok (.qpush ⟨0, 0, 0, 4, 6, 4097⟩)
  ∧ decodeNat 0xE5C0006040000000 = .ok (.qpop ⟨0, 0, 6, 4, 0, 0⟩) :=
  ⟨rfl, rfl, rfl, rfl, rfl, rfl, rfl, rfl, rfl, rfl, rfl, rfl, rfl, rfl, rfl, rfl, rfl, rfl, rfl, rfl, rfl, rfl, rfl, rfl, rfl⟩

/-- Words of class S, written out field by field from the tables of R55 to R60 and R81, R82, decode to what they stand for. -/
theorem test_decode_s2 :
  decodeNat 0xE600003040600000 = .ok (.qtokPut ⟨0, 0, 3, 4, 6, 0⟩)
  ∧ decodeNat 0xE600006040000001 = .ok (.qtokTake ⟨0, 0, 6, 4, 0, 1⟩)
  ∧ decodeNat 0xE640000040500000 = .ok (.flip ⟨0, 0, 0, 4, 5, 0⟩) :=
  ⟨rfl, rfl, rfl⟩

/-! ### Small states -/

/-- A lone wave whose next word is `w`, with registers set in every lane (`withFetchWord`, log 9). -/
def ready (w : Nat) (rs : List (Nat × Word)) : State :=
  modWave (State.reset.withFetchWord 64 w) 0 fun v => rs.foldl (fun v p => v.setReg p.1 (Word.splat p.2)) v

/-- The same with other values in the lanes. -/
def readyRow (w : Nat) (rs : List (Nat × List Word)) : State :=
  modWave (State.reset.withFetchWord 64 w) 0 fun v => rs.foldl (fun v p => v.setReg p.1 (rowOf fun l => p.2.getD l 0)) v

/-- Bytes of memory set. -/
def poke (s : State) (pa : Nat) (bs : Bytes) : State := { s with mem := s.mem.writeBytes pa bs }

/-- Lane l of register r of the wave after one step. -/
def laneAfter (s : State) (r l : Nat) : Option Word :=
  match step s with
  | .next t => t.waves[0]?.map fun v => Row.lane (v.reg r) l
  | _ => none

/-- A test of the state after one step. -/
def stepGives (s : State) (p : State → Bool) : Bool :=
  match step s with
  | .next t => p t
  | _ => false

/-- A test of the wave after one step. -/
def waveGives (s : State) (p : Wave → Bool) : Bool := stepGives s fun t => (t.waves[0]?.map p).getD false

/-! ### One step each; the expected values are the spec's examples or worked by hand from its tables -/

/-- R118: a sum wraps modulo 2^32. -/
theorem test_step_iadd : laneAfter (ready 0x00000030400A0000 [(4, 0xFFFFFFFF), (5, 2)]) 3 7 = some 1 := by decide +kernel

/-- R118: IMULH of -1 and 2 is -1 signed and 1 unsigned (MOD bit 0). -/
theorem test_step_imulh : laneAfter (ready 0x01400030400A0000 [(4, 0xFFFFFFFF), (5, 2)]) 3 0 = some 0xFFFFFFFF
    ∧ laneAfter (ready 0x01400030400A0040 [(4, 0xFFFFFFFF), (5, 2)]) 3 0 = some 1 := by decide +kernel

/-- The example of R124: ICMP.lt.i32. -/
theorem test_step_icmp : laneAfter (ready 0x07400030400A0080 [(4, 0xFFFFFFFF), (5, 1)]) 3 0 = some 1
    ∧ laneAfter (ready 0x07400030400A0080 [(4, 1), (5, 0xFFFFFFFF)]) 3 0 = some 0 := by decide +kernel

/-- R120: SAR by 32 or more fills with the sign, SHR gives 0. -/
theorem test_step_shift : laneAfter (ready 0x04C00030400A0000 [(4, 0x80000000), (5, 32)]) 3 0 = some 0xFFFFFFFF
    ∧ laneAfter (ready 0x04800030400A0000 [(4, 0x80000000), (5, 32)]) 3 0 = some 0 := by decide +kernel

/-- The example of R121: a and (b or c) with LUT 0xE0. -/
theorem test_step_blut : laneAfter (ready 0x04000030400A3800 [(3, 0b1010), (4, 0b1100), (5, 0b0110)]) 3 0 = some 0b1100 := by decide +kernel

/-- The example of R122: BFX.i32 of 0xABC12345 with b = 0x0C14. -/
theorem test_step_bfx : laneAfter (ready 0x05400030400A0040 [(4, 0xABC12345), (5, 0x0C14)]) 3 0 = some 0xFFFFFABC := by decide +kernel

/-- The example of R123: BITLV.3 of 0x3FF; CLZ of 0 is 32. -/
theorem test_step_bits : laneAfter (ready 0x06C0003040000040 [(4, 0x3FF)]) 3 0 = some 0x09249249
    ∧ laneAfter (ready 0x0640003040000000 [(4, 0)]) 3 0 = some 32 := by decide +kernel

/-- R13, R63: under a predicate only the lanes whose PREG is not 0 are written. -/
theorem test_step_predicate :
    let s := readyRow 0x08109030A0000000 [(9, [1, 0]), (10, [7, 7])]
    laneAfter s 3 0 = some 7 ∧ laneAfter s 3 1 = some 0 := by decide +kernel

/-- The example of R94: CVTFF to BF16 under RND 6 with seed 1: the result, and the third value of the seed's step. -/
theorem test_step_stochastic : laneAfter (ready 0x25C0004060000230 [(6, 0x3F804000), (5, 1)]) 4 0 = some 0x3F81
    ∧ laneAfter (ready 0x25C0004060000230 [(6, 0x3F804000), (5, 1)]) 5 0 = some 0x42021 := by decide +kernel

/-- R137, R90: 1 + 2^-24 is a tie that goes to the even 1, and sets NX. -/
theorem test_step_fadd : laneAfter (ready 0x20000030400A0000 [(4, 0x3F800000), (5, 0x33800000)]) 3 0 = some 0x3F800000
    ∧ waveGives (ready 0x20000030400A0000 [(4, 0x3F800000), (5, 0x33800000)]) (fun v => v.fcr.toNat % 32 == 16) = true := by decide +kernel

/-- R93, R140: an infinity less an infinity is the canonical NaN and sets NV. -/
theorem test_step_fsub : laneAfter (ready 0x20400030400A0000 [(4, 0x7F800000), (5, 0x7F800000)]) 3 0 = some 0x7FC00000 := by decide +kernel

/-- The example of R150: PKN.mf8 of 1.0, 3.0, -0.75 and 500.0 with scale 0.5. -/
theorem test_step_pkn :
    laneAfter (readyRow 0x260000C080081000 [(8, [0x3F800000]), (9, [0x40400000]), (10, [0xBF400000]), (11, [0x43FA0000]),
      (4, [0x28F34]), (5, [0x30])]) 12 0 = some 0x7EBC4C40 := by decide +kernel

/-- The example of R128: ALDI v4, 0, 1 gives lane l the value l. -/
theorem test_step_aldi : laneAfter (ready 0x5040004010000000 []) 4 5 = some 5 ∧ laneAfter (ready 0x5040004010000000 [(5, 9)]) 5 5 = some 0 := by
  decide +kernel

/-- The example of R131: the ballot of 1, 0, 1, 1, 0, 0, 1, 1 is 0xCD. -/
theorem test_step_vote : laneAfter (readyRow 0x4240003020000080 [(2, [1, 0, 1, 1, 0, 0, 1, 1])]) 3 4 = some 0xCD := by decide +kernel

/-- R130: SHFLI.up by 2 leaves lanes 0 and 1 their own values. -/
theorem test_step_shfli : laneAfter (readyRow 0x520000304000000A [(4, [10, 11, 12, 13, 14, 15, 16, 17])]) 3 5 = some 13
    ∧ laneAfter (readyRow 0x520000304000000A [(4, [10, 11, 12, 13, 14, 15, 16, 17])]) 3 1 = some 11 := by decide +kernel

/-- R132: an exclusive sum scan, lane 0 of which is the identity. -/
theorem test_step_lscan : laneAfter (readyRow 0x42C0003040000800 [(4, [1, 2, 3, 4, 5, 6, 7, 8])]) 3 0 = some 0
    ∧ laneAfter (readyRow 0x42C0003040000800 [(4, [1, 2, 3, 4, 5, 6, 7, 8])]) 3 7 = some 28 := by decide +kernel

/-- R134: MWRITE of 0x0F leaves the strand four lanes. -/
theorem test_step_mwrite : waveGives (ready 0x4340000040000000 [(4, 0x0F)]) (fun v => v.strands.map (·.mask) == [0x0F]) = true := by
  decide +kernel

/-- R161, R163, R390: ST.b32 writes four bytes, lowest first, at [v6] + 4, and the page's entry is marked dirty. -/
theorem test_step_st :
    stepGives (ready 0x6040008060000A00 [(6, 0x10100), (8, 0x04030201)]) (fun t =>
      t.mem.readBytes 0x140104 4 == [1, 2, 3, 4] && (readQ t 0x130008).getLsbD 17) = true := by decide +kernel

/-- R159: an address that is not a multiple of the size raises MISALIGN in its lane, which parks at the word. -/
theorem test_step_misalign :
    waveGives (ready 0x6000008060000200 [(6, 0x10102)]) (fun v => v.strands.map (fun t => (t.faults.2.head?).map (·.cause))
      == [some .misalign]) = true := by decide +kernel

/-- R161, R66: LD.b32 puts the four bytes at [v6] in flight to its destination, and leaves the register as it was. -/
theorem test_step_ld :
    stepGives (poke (ready 0x6000008060000200 [(6, 0x10100), (8, 77)]) 0x140100 [1, 2, 3, 4]) (fun t =>
      ((t.flights.head?).map fun f => (f.res.head?).map (·.val)) == some (some 0x04030201)
        && (t.waves.head?).map (fun v => Row.lane (v.reg 8) 0) == some 77) = true := by decide +kernel

/-- The example of R172: all eight lanes add v4 = 3 to the word 1000 one after another. -/
theorem test_step_atom :
    stepGives (poke (ready 0x61C0003060080200 [(6, 0x10100), (4, 3)]) 0x140100 [0xE8, 3]) (fun t =>
      t.mem.readBytes 0x140100 4 == [0x00, 4, 0, 0] && ((t.flights.head?).map fun f => f.res.map (·.val)) ==
        some [1000, 1003, 1006, 1009, 1012, 1015, 1018, 1021]) = true := by decide +kernel

/-- R52, R187: BRA with every lane taken goes to its own address plus 8 times the offset. -/
theorem test_step_bra : waveGives (ready 0xC000000000000050 []) (fun v => v.strands.map (·.pc) == [0x10030]) = true := by decide +kernel

/-- R188: BRA with some lanes taken makes a second strand under the lowest free number. -/
theorem test_step_split :
    waveGives (readyRow 0xC010900000000050 [(9, [1, 1])]) (fun v => v.strands.map (fun t => (t.num, t.mask, t.pc))
      == [(0, 0xFC, 0x10010), (1, 0x03, 0x10030)]) = true := by decide +kernel

/-- R200: EXIT of all lanes retires the wave. -/
theorem test_step_exit : waveGives (ready 0xC240000000000000 []) (fun v => v.phase == .retired) = true := by decide +kernel

/-- R202: TRAP parks its lanes with CODE, to resume at the next header. -/
theorem test_step_trap :
    waveGives (ready 0xC2C0000000000070 []) (fun v => v.strands.map (fun t => (t.pc, (t.faults.2.head?).map fun f => (f.cause, f.detail)))
      == [(0x10010, some (Cause.trapInsn, 7))]) = true := by decide +kernel

/-- R53: NOP ends its clause: the strand is at the next header. -/
theorem test_step_nop : waveGives (ready 0xC340000000000000 []) (fun v => v.strands.map (fun t => (t.pc, t.clause.isNone))
    == [(0x10010, true)]) = true := by decide +kernel

/-- R33: SYSRD of the lane number. -/
theorem test_step_sysrd : laneAfter (ready 0xE000001000000000 [(1, 9)]) 1 5 = some 5 := by decide +kernel

/-- R225: NTAKE of a free needle takes it. -/
theorem test_step_ntake : stepGives (ready 0x8000000000000000 []) (fun t => (bayOf t 0 0).holder == some 0) = true := by decide +kernel

/-- R223: AZERO without the needle raises NEEDLE. -/
theorem test_step_needle :
    waveGives (ready 0x8100000000000000 []) (fun v => v.strands.map (fun t => (t.faults.2.head?).map (·.cause)) == [some .needle]) = true := by
  decide +kernel

/-- R242: PFORK of 3 children in a fresh hank makes plies 1, 2 and 3 of the root. -/
theorem test_step_pfork :
    stepGives (ready 0xE140004000000003 []) (fun t => (hankOf t 0).plies.map (fun y => (y.num, y.parent, y.depth))
      == [(0, 0, 0), (1, 0, 1), (2, 0, 1), (3, 0, 1)]) = true := by decide +kernel

/-- R84: a reserved sub-opcode raises ILLEGAL_OP in every lane, and is no no-operation. -/
theorem test_step_illegal :
    waveGives (ready 0x0940000000000000 []) (fun v => v.strands.map (fun t => (t.faults.2.map (·.cause)).dedup) == [[.illegalOp]]) = true := by
  decide +kernel

/-! ### Witnesses: every word runs somewhere -/

/-- The checks of a word as a whole, beside its context (`runs`). -/
def passes (s : State) (c : Ctx) (i : Instr) : Bool :=
  (!c.acc || accessOk i) && (!handlerWord i || c.st.handler) && WellFormed i && !stateIllegal s c i
    && !divergent c i && c.act != 0 && c.region.isNone && !holdsNow s c i && (poisonFaults s c i).isEmpty

/-- Whether `i` runs to its end in `s`, in a context that meets `p`. -/
def runsHere (s : State) (i : Instr) (p : State → Ctx → Bool) : Bool :=
  match ctxOf s i with
  | some c => passes s c i && p (wakeBanks s c i) c
  | none => false

/-- What `runsHere` says. -/
theorem runs_of_runsHere {s : State} {i : Instr} {p : State → Ctx → Bool} (h : runsHere s i p = true) :
    ∃ c, runs s c i = true ∧ p (wakeBanks s c i) c = true := by
  unfold runsHere at h
  split at h
  · rename_i c hc
    rw [Bool.and_eq_true] at h
    refine ⟨c, ?_, h.2⟩
    unfold passes at h
    simp only [runs, hc, BEq.rfl, Bool.true_and]
    exact h.1
  · exact absurd h (by simp)

/-- The same where no more is asked of the context. -/
theorem exists_runs {s : State} {i : Instr} (h : runsHere s i (fun _ _ => true) = true) : ∃ c, runs s c i = true :=
  (runs_of_runsHere h).imp fun _ hc => hc.1

/-- A launch record with COOP and seven levels, and the wave's team of one slice of 64 KiB. -/
def inLaunch (s : State) : State :=
  { s with
    launches := [{ hank := 0, queue := none, bin := none, record := (Vector.replicate 16 0).set 3 (BitVec.ofNat 64 (7 * 2 ^ 23 + 2 ^ 16)),
                   phase := .running, nextTeam := 1, nabort := 0, reason := 0, recs := [] }]
    teams := [{ launch := 0, index := 0, hank := 0, role := .single, phase := .placed, wide := false, cores := [0], sliceKib := 64,
                scratch := [], zeroed := true, recs := [], recLen := 0, order := 0, ctx := none }] }

/-- Whether the instruction of a word runs as the next word of a lone wave of a launch. -/
def wordRuns (w : Nat) : Bool :=
  match decodeNat w with
  | .ok i => runsHere (inLaunch (ready w [(9, 1)])) i fun _ _ => true
  | .error _ => false

/-- A wave whose strand is a handler's. -/
def asHandler (s : State) : State := modWave s 0 fun v => { v with strands := v.strands.map fun t => { t with handler := true } }

/-- The same in a handler. -/
def handlerRuns (w : Nat) : Bool :=
  match decodeNat w with
  | .ok i => runsHere (asHandler (ready w [])) i fun _ _ => true
  | .error _ => false

/-- Every word of class V runs somewhere: the words of the decode tests of this class, which cover its instructions. -/
theorem test_runs_v : ([0x00109030420A8001, 0x10000080A0000005, 0x00400030400A0000, 0x10400080A0000005, 0x00800030400A0180,
    0x00C00030400A0180, 0x01000030400A0000, 0x11000080A0000005, 0x01400030400A0040, 0x11400080A0000005, 0x01800030400A01B8,
    0x01C00030400A0040, 0x11C00080A0000005, 0x02000030400A0000, 0x12000080A0000005, 0x0240003040000040, 0x0280003040000000,
    0x02C00030400A0000, 0x12C00080A0000005, 0x03000030400A0000, 0x13000080A0000005, 0x03400030400A0000, 0x13400080A0000005,
    0x03800030400A0000, 0x13800080A0000005, 0x03C0003040000000, 0x04000030400A3A00, 0x04400030400A0000, 0x14400080A0000005,
    0x04800030400A0000, 0x14800080A0000005, 0x04C00030400A0000, 0x14C00080A0000005, 0x05000030400A0000, 0x15000080A0000005,
    0x05400030400A0040, 0x05800030400A0180, 0x05C0003040000000, 0x0600003040000000, 0x0640003040000000, 0x0680003040000000,
    0x06C0003040000040, 0x0700003040000000, 0x07400030400A0280, 0x07800030400A0180, 0x07C00030400A0180, 0x080000304A000000,
    0x0840003DEADBEEF2, 0x08800030400A01C0] : List Nat).all wordRuns = true := by
  decide +kernel

/-- Every word of class F runs somewhere: the words of the decode tests of this class, which cover its instructions. -/
theorem test_runs_f : ([0x20000030400A0008, 0x20400030400A0000, 0x20800030400A0000, 0x20D09030400A0180, 0x21000030400A0000,
    0x21400030400A0000, 0x21800030400A0100, 0x21C0003040000000, 0x2200003040000020, 0x2240003040000000, 0x2280003040000000,
    0x22C0003040000010, 0x2300003040000000, 0x2340003040000000, 0x2380003040000000, 0x23C0003040000000, 0x2400003040000000,
    0x24400030400A0000, 0x34400080A0000005, 0x24800030400A0040, 0x24C00030400A0000, 0x25000030400A0000, 0x2540003040000180,
    0x2580004050000200, 0x25C0004050000130, 0x26000020400C1030, 0x26400040300C1840, 0x26800030400A2000] : List Nat).all wordRuns =
    true := by
  decide +kernel

/-- Every word of class A runs somewhere: the words of the decode tests of this class, which cover its instructions. -/
theorem test_runs_a : ([0x40000020400A0000, 0x5040002FC0000064, 0x40800020400A0000, 0x50800080A0000005, 0x40C00020400A0000,
    0x50C00080A0000005, 0x51000080A0000003, 0x51400080A000003F, 0x41800030400C0340, 0x41C00030460A0000, 0x5200003040000019,
    0x4240003040000080, 0x4280003040000440, 0x42C0003040000980, 0x4300003000000040, 0x4340000046000000] : List Nat).all wordRuns =
    true := by
  decide +kernel

/-- Every word of class M runs somewhere: the words of the decode tests of this class, which cover its instructions. -/
theorem test_runs_m : ([0x6010908061FFFCAF, 0x6040008060000B10, 0x6080009070001520, 0x60C0009070000100, 0x6100009071FFFA00,
    0x6140009070FA0A00, 0x6180009070001A00, 0x61C000906C160A98, 0x6200008060180300, 0x6240009070160220, 0x6280000060160281,
    0x62C00000000000B8, 0x62C0000000000800, 0x6300000060000800, 0x6340000000008000, 0x6380000060000003, 0x63C0000060000000,
    0x6400000060000000] : List Nat).all wordRuns = true := by
  decide +kernel

/-- Every word of class X runs somewhere: the words of the decode tests of this class, which cover its instructions. -/
theorem test_runs_x : ([0x8000000000000000, 0x8040000082000000, 0x80909008A0000400, 0x80C00008A0280800, 0x8100000C00000000,
    0x8140000400000000, 0x8190900400000000, 0x81C0000400000000, 0x8200000000000000] : List Nat).all wordRuns = true := by
  decide +kernel

/-- Every word of class K runs somewhere: the words of the decode tests of this class, which cover its instructions. -/
theorem test_runs_k : ([0xA000000060000600, 0xA040000000000600, 0xA090900060700600, 0xA0C0000000000608, 0xA100000060809001,
    0xA140000060809000, 0xA18000006080A000, 0xA1C000006080A000, 0xA200000060000004, 0xA24000008060C400, 0xA28000C000000400,
    0xA2C0000060700000, 0xA300006000809001, 0xA340000060000000] : List Nat).all wordRuns = true := by
  decide +kernel

/-- Every word of class C runs somewhere: the words of the decode tests of this class, which cover its instructions. -/
theorem test_runs_c : ([0xC020900FFFFFFFE0, 0xC040000000000051, 0xC080006000000000, 0xC0C0006000000090, 0xC100006000000000,
    0xC140007000000000, 0xC1800000000002B1, 0xC1C00000000002B0, 0xC2000000000002B0, 0xC250900000000000, 0xC280000000000000,
    0xC2C0000123456780, 0xC300000000000010, 0xC340000000000000] : List Nat).all wordRuns = true := by
  decide +kernel

/-- Every word of class S runs somewhere: the words of the decode tests of this class, which cover its instructions. -/
theorem test_runs_s : ([0xE00000300000000B, 0xE040000040000009, 0xE080000000000005, 0xE0C0000000000007, 0xE0C0000000000400,
    0xE11090006070000F, 0xE140006000000002, 0xE180003040000000, 0xE1C0003040000001, 0xE200000040000000, 0xE240003040000000,
    0xE280003040600000, 0xE2C00000000FFFFF, 0xE300003000000000, 0xE3400000000000FF, 0xE380003040000000, 0xE3C0000000000003,
    0xE400000000000000, 0xE4C000004000003F, 0xE500000050600000, 0xE540003040000000, 0xE580000040601001, 0xE5C0006040000000,
    0xE600003040600000, 0xE600006040000001, 0xE640000040500000] : List Nat).all wordRuns = true := by
  decide +kernel

/-- ERET, FMAP and INVPG run in a handler. -/
theorem test_runs_handler : ([0xC380000000000000, 0xE440003040500000, 0xE480000040000000] : List Nat).all handlerRuns = true := by
    decide +kernel

/-! ### Witnesses: states and operands that meet the hypotheses of the statements

Each is named for its statement; `runs_of_runsHere` turns a check into a context in which the word runs. The statements whose only
hypothesis is that a word runs have their witnesses in the tests above. -/

/-- A wave of a launch with registers set, about to issue. -/
def base (rs : List (Nat × Word)) : State := inLaunch (ready 0 rs)

/-- The access thread of that wave, its register 4 set. -/
def inAccess (v4 : Word) : State :=
  { modWave (base []) 0 (fun v => { v with
      access := some { strand := { loneStrand .v with num := 8 }, regs := (Vector.replicate 32 (Word.splat 0)).set 4 (Word.splat v4)
                       affine := [], ended := false } }) with
    running := [⟨0, 8⟩] }

/-- The same with other values in the lanes. -/
def inAccessRow (v4 : List Word) : State :=
  modWave (inAccess 0) 0 fun v => { v with access := v.access.map fun t => { t with regs := t.regs.set 4 (rowOf fun l => v4.getD l 0) } }

/-- The entry of the page at 0x10000 set. -/
def withLeaf (s : State) (e : Nat) : State := poke s 0x130008 (natLe 8 e)

/-- Its entry as `ready` gives it, with bits added (VER is bit 3) or taken. -/
def leafBits : Nat := 0x140000 / 2 ^ 16 * 2 ^ 22 + 0x71007

/-- Cluster 0 enabled and hank 0's, with one way of vault memory. -/
def withVault (s : State) : State :=
  setHreg (setHreg { s with sysc := { s.sysc with enmask := 1 } } 0 0x008 1) 0 0x100 (BitVec.ofNat 64 (2 ^ 32))

/-- Ply 1, a child of the root, lives, and the wave is in it. -/
def inPly (s : State) : State :=
  modWave (modHank s 0 fun k => { k with plies := [Ply.root, { num := 1, parent := 0, depth := 1, life := none, log := [] }] }) 0
    fun v => { v with ply := 1 }

/-- Whether an address is behind a leaf that the hank may access. -/
def mappedAt (s : State) (h va : Nat) (wr : Bool) : Bool :=
  match walkFor s h va wr with
  | .leaf lf => (windowAt va).isNone && pteHank lf.pte == h && pteOwn lf.pte && (!wr || pteW lf.pte) && decide (lf.pa < Config.physBytes)
  | _ => false

/-- What `mappedAt` says. -/
theorem mapped_of_mappedAt {s : State} {h va : Nat} {wr : Bool} (m : mappedAt s h va wr = true) : ∃ lf, Mapped s h va wr lf := by
  unfold mappedAt at m
  split at m
  · rename_i lf hl
    refine ⟨lf, ?_⟩
    simp only [Bool.and_eq_true, Option.isNone_iff_eq_none, beq_iff_eq, Bool.or_eq_true, Bool.not_eq_true', decide_eq_true_eq] at m
    obtain ⟨⟨⟨⟨a, b⟩, c⟩, d⟩, e⟩ := m
    refine ⟨a, hl, b, c, fun hw => ?_, e⟩
    rcases d with d | d
    · simp [hw] at d
    · exact d
  · exact absurd m (by simp)

/-- Whether a lane stops with a cause. -/
def stopsWith {α : Type} (r : LaneStep α) (c : Cause) : Bool :=
  match r with
  | .stop f => f.cause == c
  | _ => false

/-- Checks that all hold. -/
def allOf (checks : List Bool) : Bool := checks.all id

/-- Registers 254 and 255 for a pair, in the execute slice; MWRITE in each slice. -/
theorem witness_AffineAndMaskWordResults :
    runsHere (base []) (.amov ⟨0, 0, 254, 4, 0, 6, 0, 0, 0, 0⟩) (fun u c => (u.waves[c.w]?).isSome && !c.acc) = true
    ∧ runsHere (base [(4, 0x0F)]) (.mwrite ⟨0, 0, 0, 4, 0, 0, 0, 0, 0, 0⟩) (fun _ c => !c.acc) = true
    ∧ runsHere (inAccess 0xFF) (.mwrite ⟨0, 0, 0, 4, 0, 0, 0, 0, 0, 0⟩) (fun _ c => c.acc && c.perm 4 0 c.lo == 0xFF) = true
    ∧ runsHere (inAccess 0) (.mwrite ⟨0, 0, 0, 4, 0, 0, 0, 0, 0, 0⟩) (fun _ c => c.acc && c.perm 4 0 c.lo != 0xFF) = true := by
  decide +kernel

/-- The lowest active lane is 7 of 0x80 and 0 of 0xFF. -/
theorem witness_LaneMovementResults :
    ((0x80 : Mask).getLsbD 7 = true ∧ ∀ j, j < 7 → (0x80 : Mask).getLsbD j = false) ∧ (0xFF : Mask).getLsbD 0 = true := by decide

/-- Eight lanes, and the last of the integer operations. -/
theorem witness_ReductionAndScanResults : 5 < 6 ∧ ([1, 2, 3, 4, 5, 6, 7, 8] : List Word).length = 8 := by decide

/-- The format register of R150's example stops no word; an ill-formed one stops each with DESC. -/
theorem witness_NarrowWordResults :
    (let s := base [(4, 0x28F34), (5, 0x30), (6, 0x28F34), (7, 0x30)]
     let p : V3 := ⟨0, 0, 12, 8, 0, 4, 0, 0x40, 0, 0⟩
     let d : V3 := ⟨0, 0, 3, 4, 0, 6, 0, 0x40, 0, 0⟩
     runsHere s (.pkn p) (fun _ c => narrowStop c p [scaleByte c p 5] == none) = true
     ∧ runsHere s (.upkn p) (fun _ c => narrowStop c p [scaleByte c p 5] == none) = true
     ∧ runsHere s (.ndot d) (fun _ c => narrowStop c d [scaleByte c d 6, scaleByte c d 7] == none) = true)
    ∧ (let s := base [(4, 0xFFFFFFFF), (5, 0x30), (6, 0xFFFFFFFF), (7, 0x30)]
       let p : V3 := ⟨0, 0, 12, 8, 0, 4, 0, 0x40, 0, 0⟩
       let d : V3 := ⟨0, 0, 3, 4, 0, 6, 0, 0x40, 0, 0⟩
       runsHere s (.pkn p) (fun _ c => narrowStop c p [scaleByte c p 5] == some .desc) = true
       ∧ runsHere s (.upkn p) (fun _ c => narrowStop c p [scaleByte c p 5] == some .desc) = true
       ∧ runsHere s (.ndot d) (fun _ c => narrowStop c d [scaleByte c d 6, scaleByte c d 7] == some .desc) = true) := by
  decide +kernel

/-- A context and its wave. -/
theorem witness_StickyBitsAccumulate :
    runsHere (base []) (.fadd ⟨0, 0, 3, 4, 0, 5, 0, 0, 0, 0⟩) (fun u c => (u.waves[c.w]?).isSome) = true := by decide +kernel

/-- The smallest NaN code, in each place. -/
theorem witness_NanSourcesGiveTheirResult : 0x7F800000 < (0x7F800001 : Word).toNat % 2 ^ 31 ∧ 0x7F800000 < (0xFF800001 : Word).toNat % 2 ^ 31 := by
  decide

/-- 2^24 + 1 is a tie of FP32 between the codes 0x4B800000 and 0x4B800001; neither overflows. -/
theorem witness_RoundingIsCorrect :
    (roundMag .rtz false (2 ^ 24 + 1) 0 fp32.mb fp32.emin).1 = 0x4B800000 ∧ (roundMag .rne false (2 ^ 24 + 1) 0 fp32.mb fp32.emin).1 = 0x4B800000
    ∧ 0x4B800000 < fp32.infCode ∧ fp32.read 0x4B800000 = .fin false 0x800000 1 ∧ fp32.read 0x4B800001 = .fin false 0x800001 1 := by
  decide +kernel

/-- Loads and stores of all eight lanes that complete: of the mapped page, of the last bytes of the team's scratch and of the vault's window. -/
theorem witness_LoadAndStoreWordsComplete : allOf (
    (let x : MWord := ⟨0, 0, 8, 6, 0, 0, 2, 5, 0, 0⟩
     [runsHere (base [(6, 0x10100)]) (.ld x) (fun u c => !c.pathFull u .g
       && (lanesDone u c fun u l => loadLane u c l (accessA c x l) (sizeBytes x.size) .global 0).isSome),
      runsHere (base [(6, 0x1FFFC)]) (.st x) (fun u c => !c.pathFull u .w && sigRoom u c.w c.v (laneCount c.act)
       && (lanesDone u c fun u l => storeLane u c l (accessA c x l) (regBytes c 8 4 l)).isSome)])
    ++ (let x : MWord := ⟨0, 0, 8, 6, 0, 0, 2, 0, 0, 0⟩
       [runsHere (base [(6, 0x10100)]) (.ldk x) (fun u c => !c.pathFull u .g
         && (lanesDone u c fun u l => loadLane u c l (c.v.kptr + BitVec.ofNat 64 (sAddr c x l 0 x.f 4)).toNat 4 .param 0).isSome),
       runsHere (base [(6, 0xFFFC)]) (.lds x) (fun u c => (lanesOf c.act).all fun l =>
           (match scratchCheck u c l (sAddr c x l x.pa x.f 4) 4 false with | .ok false => true | _ => false)
             && scratchPoison u c.v.team (sAddr c x l x.pa x.f 4) 4 == none),
       runsHere (base [(6, 0xFFFC)]) (.sts x) (fun u c => (lanesOf c.act).all fun l =>
           match scratchCheck u c l (sAddr c x l x.pa x.f 4) 4 true with | .ok false => true | _ => false)])
    ++ (let x : MWord := ⟨0, 0, 8, 6, 0, 15 * 1024 + 15 * 64, 2, 0, 0, 0⟩
       [runsHere (withVault (base [(6, 0x3FFFFC)])) (.ldv x) (fun u c => !c.pathFull u .v && (lanesOf c.act).all fun l =>
         sAddr c x l x.pa x.off6 4 % 4 == 0 && vaultFault u 0 (vaultCore c x) (sAddr c x l x.pa x.off6 4) 4 == none
           && vaultPoison u (vaultCore c x) (sAddr c x l x.pa x.off6 4) 4 == none),
       runsHere (withVault (base [(6, 0x3FFFFC)])) (.stv x) (fun u c => !c.pathFull u .v && c.v.ply == 0 && (lanesOf c.act).all fun l =>
           sAddr c x l x.pa x.off6 4 % 4 == 0 && vaultFault u 0 (vaultCore c x) (sAddr c x l x.pa x.off6 4) 4 == none)])) = true := by
  decide +kernel

/-- Atomics of all eight lanes on the mapped page and on scratch; ATOM and ACAS of device scope in a ply that has room in its log. -/
theorem witness_AtomicWordsComplete : allOf (
    (let x : MWord := ⟨0, 0, 3, 6, 0, 4 * 64, 2, 0, 0, 0⟩
     let room := fun (u : State) (c : Ctx) => !c.pathFull u .w && sigRoom u c.w c.v (laneCount c.act)
     [runsHere (base [(6, 0x10100)]) (.atom x) (fun u c => room u c
       && (lanesDone u c fun u l => rmwLane u c l (atomA c x l) 4 fun old => some (atomOp 0 0 4 old (leNat (regBytes c x.b.toNat 4 l)))).isSome),
      runsHere (base [(6, 0x10100)]) (.acas x) (fun u c => room u c
         && (lanesDone u c fun u l => rmwLane u c l (casA c x l) 4 fun _ => none).isSome),
      runsHere (base [(6, 0x100)]) (.atoms x) (fun u c => (lanesOf c.act).all fun l =>
         (match scratchCheck u c l (sAddr c x l 0 x.off6 4) 4 true with | .ok false => true | _ => false)
           && scratchPoison u c.v.team (sAddr c x l 0 x.off6 4) 4 == none)])
    ++ (let x : MWord := ⟨0, 0, 0, 6, 0, 4 * 64, 2, 0, 0, 1⟩
       [runsHere (withLeaf (base [(6, 0x10100)]) (leafBits + 0x100)) (.cadd x) (fun u c => !c.pathFull u .w
         && sigRoom u c.w c.v (laneCount c.act) && (lanesDone u c fun u l => caddLane u c x l).isSome)])
    ++ (let x : MWord := ⟨0, 0, 3, 6, 0, 4 * 64, 2, 5, 0, 0⟩
       let ok := fun (addr : Ctx → Nat → Nat) (u : State) (c : Ctx) => c.v.ply != 0 && !c.pathFull u .w
         && sigRoom u c.w c.v (laneCount c.act) && logRoom u c.v.hank c.v.ply
         && (lanesDone u c fun u l => deferLane u c l (addr c l) 4).isSome
       [runsHere (inPly (base [(6, 0x10100)])) (.atom x) (ok fun c => atomA c x),
        runsHere (inPly (base [(6, 0x10100)])) (.acas x) (ok fun c => casA c x)])) = true := by
  decide +kernel

/-- MON on the mapped page; MWAIT without a monitor, with one that is triggered and with one that is not; CINV and CWB. -/
theorem witness_FenceMonitorCacheWordsComplete : allOf (
    (let x : MWord := ⟨0, 0, 0, 6, 0, 0, 0, 0, 0, 0⟩
     [runsHere (base [(6, 0x10100)]) (.mon x) (fun u c => mappedAt u c.v.hank (lineA c x c.lo) false),
      runsHere (base [(6, 0x10100)]) (.cinv x) (fun u c => !c.pathFull u .w
         && (lanesDone u c fun u l => maintLane u c l (lineA c x l) invalidateLine).isSome),
      runsHere (base [(6, 0x10100)]) (.cwb x) (fun u c => !c.pathFull u .w
         && (lanesDone u c fun u l => maintLane u c l (lineA c x l) writeBack).isSome)])
    ++ (let w : Instr := .mwait ⟨0, 0, 0, 0, 0, 0, 0, 0, 0, 0⟩
       let on := fun t => modWave (base []) 0 fun v => { v with monitor := some { line := 0x2802, triggered := t } }
       [runsHere (base []) w (fun _ c => c.v.monitor == none),
        runsHere (on true) w (fun _ c => (c.v.monitor.map (·.triggered)) == some true),
        runsHere (on false) w (fun _ c => (c.v.monitor.map (·.triggered)) == some false)])) = true := by
  decide +kernel

/-- One lane's accesses: misaligned, unmapped, another hank's, host-owned, mapped; without W, of a ply without VER, and taken. -/
theorem witness_LaneAccessRules : allOf [
    0x10001 % 4 != 0, 0x10100 % 4 == 0, windowAt 0x10100 == none,
    walk (base []) 0 0x20000 == .fault,
    (match walk (withLeaf (base []) (leafBits + 2 ^ 19)) 0 0x10100 with | .leaf lf => pteHank lf.pte != 0 | _ => false),
    (match walk (withLeaf (base []) (leafBits - 2 ^ 12)) 0 0x10100 with | .leaf lf => pteHank lf.pte == 0 && !pteOwn lf.pte | _ => false),
    mappedAt (base []) 0 0x10100 false, (base []).partials.isEmpty, (base []).poison.isEmpty, (base []).corrupt.isEmpty,
    (match walk (withLeaf (base []) (leafBits - 2)) 0 0x10100 with | .leaf lf => !pteW lf.pte | _ => false),
    mappedAt (withLeaf (base []) (leafBits - 2)) 0 0x10100 false,
    mappedAt (inPly (base [])) 0 0x10100 true, storePly (hankOf (inPly (base [])) 0) 1 0x10100 == 1,
    (match walk (inPly (base [])) 0 0x10100 with | .leaf lf => !pteVer lf.pte && !pteWp lf.pte | _ => false),
    slotFor (setHreg (inPly (withLeaf (base []) (leafBits + 8))) 0 0x110 1) 0 1 (lineOf 0x140100),
    storePly (hankOf (base []) 0) 0 0x10100 == 0, slotFor (base []) 0 0 (lineOf 0x140100),
    (gaugeOf (base []) 0 0).mode == 0] = true := by
  decide +kernel

/-- The largest operands of each width. -/
theorem witness_AtomicOperationTable : 4 ∈ [4, 8] ∧ 2 ^ 32 - 1 < 2 ^ (8 * 4) ∧ 2 ^ 64 - 1 < 2 ^ (8 * 8) := by decide

/-- The wave's bay with the needle held by wave `w`, or free. -/
def withHolder (s : State) (w : Option Nat) : State := modBay s 0 0 fun b => { b with holder := w }

/-- NTAKE of a needle held by the wave, free, and held by another; words without the needle; words of the holder with an idle ME. -/
theorem witness_NeedleAndAccumulatorWordsComplete : allOf (
    (let take : Instr := .ntake ⟨0, 0, 0, 0, 0, 0, 0, 0, 0, 0, 0, 0, 0, 0, 0⟩
     [runsHere (withHolder (base []) (some 0)) take (fun u c => (bayOf u c.v.core c.v.bay).holder == some c.w),
      runsHere (base []) take (fun u c => (bayOf u c.v.core c.v.bay).holder == none && (bayOf u c.v.core c.v.bay).fifo.isEmpty),
      runsHere (withHolder (base []) (some 5)) take (fun u c => (bayOf u c.v.core c.v.bay).holder != some c.w
        && (bayOf u c.v.core c.v.bay).holder != none)])
    ++ (let x : XWord := ⟨0, 0, 0, 3, 0, 0, 0, 0, 0, 0, 0, 0, 0, 0, 0⟩
        let y : XWord := ⟨0, 0, 0, 0, 0, 0, 0, 0, 0, 0, 0, 0, 0, 0, 0⟩
        let m : XWord := ⟨0, 0, 0, 2, 1, 2, 0, 0, 0, 0, 0, 0, 1, 0, 0⟩
        let n : XWord := ⟨0, 0, 0, 2, 1, 2, 0, 0, 5, 0, 0, 1, 0, 0, 0⟩
        let free := fun (i : Instr) => runsHere (base []) i fun u c => !holdsNeedle u c
        let held := fun (i : Instr) => runsHere (withHolder (base []) (some 0)) i fun u c => holdsNeedle u c && meBusy u c.v.core c.v.bay == 0
        [free (.npass y), free (.azero x), free (.afill x), free (.adrain x), free (.mstat y), free (.mma m), free (.mmas n),
         runsHere (base []) (.mepi x) (fun u c => !holdsNeedle u c && x.vreg % 2 == 0 && decide (x.vreg + 1 < c.regCount)),
         held (.npass y), held (.azero x), held (.afill x), held (.adrain x), held (.mstat y)])) = true := by
  decide +kernel

/-- A yarn with the second word of its descriptor and a filled head stage. -/
def filledYarn (w1 w5 : Nat) (bs : Bytes) : Yarn :=
  { Yarn.closed with
    isOpen := true, desc := ((Vector.replicate 8 (0 : DWord)).set 1 (BitVec.ofNat 64 w1)).set 5 (BitVec.ofNat 64 w5), pushed := 1
    stages := [{ seq := 0, st := .filled, data := bs, marks := [] }] }

/-- The needle held, with A, B and metadata yarns 1, 2 and 5: FP16, and INT8 with four of twelve. -/
def withYarns (k : Nat) : State :=
  modWave (withHolder (base []) (some 0)) 0 fun v =>
    let a := filledYarn (2 ^ 32 + k * 0x100) 0 []
    let b := filledYarn (2 ^ 32 + k * 0x100 + 0x10) (if k = 0 then 0 else 0x10000) []
    let m := filledYarn (2 ^ 32 + 0x740) 0 ((List.range 128).flatMap fun _ => [0x0F, 0xF0, 0x00])
    { v with yarns := ((v.yarns.set 1 a).set 2 b).set 5 m }

/-- MMA and MMAS that pass every check; MEPI to scratch and to the mapped page. -/
theorem witness_MatrixWordsComplete : allOf (
    (let ready := fun (x : XWord) (u : State) (c : Ctx) =>
       holdsNeedle u c && !mmaDesc c.v x && !mmaDesync c.v x && meBusy u c.v.core c.v.bay == 0
         && ((consulted c.v x).all fun p => ((c.v.yarn p.1).stages.head?).map Stage.st != some .filling)
         && !mmaSparse c.v x && !mmaScaleTrap c x && mmaPoison u c x == none
     let m : XWord := ⟨0, 0, 0, 2, 1, 2, 0, 0, 0, 0, 0, 0, 1, 0, 0⟩
     let n : XWord := ⟨0, 0, 0, 2, 1, 2, 0, 0, 5, 5, 5, 1, 0, 0, 0⟩
     [runsHere (withYarns 0) (.mma m) (ready m), runsHere (withYarns 5) (.mmas n) (ready n)])
    ++ (let x : XWord := ⟨0, 0, 0, 1, 0, 1, 4, 0, 4, 0, 0, 0, 0, 0, 0⟩
        let at_ := fun (rs : List (Nat × Word)) => withHolder (base rs) (some 0)
        [runsHere (at_ [(6, 0xFF80), (8, 0x80)]) (.mepi x) (fun u c =>
           let w := c.u x.ereg
           holdsNeedle u c && meBusy u c.v.core c.v.bay == 0 && !mepiDesc w (c.u (x.ereg + 1)) && mepiScratch w && !mepiCs w && !mepiCb w
             && ((lanesOf c.act).all fun l => scratchRowFault u c l (Row.lane (c.reg x.vreg) l).toNat (32 * mepiWidth w) == none)
             && !markersWait u c.v.team (rowSpan ((lanesOf c.act).map fun l => (Row.lane (c.reg x.vreg) l).toNat) (32 * mepiWidth w))
             && !c.pathFull u .s),
         runsHere (at_ [(6, 0x10100)]) (.mepi x) (fun u c =>
           let w := c.u x.ereg
           holdsNeedle u c && meBusy u c.v.core c.v.bay == 0 && !mepiDesc w (c.u (x.ereg + 1)) && !mepiScratch w && x.vreg % 2 == 0
             && !c.pathFull u .w && sigRoom u c.w c.v (laneCount c.act)
             && (lanesDone u c fun t l => storeLane t c l (c.perm64 (BitVec.ofNat 8 x.vreg) 0 l).toNat (List.replicate 128 0)).isSome)]))
      = true := by
  decide +kernel

/-- Yarn 3 of the wave. -/
def withYarn3 (s : State) (y : Yarn) : State := modWave s 0 fun v => { v with yarns := v.yarns.set 3 y }

/-- A command in flight. -/
def someFlight : Flight :=
  { id := 0, wave := 0, isAccess := false, tok := none, kind := .access, path := some (kwaitPath 4), regs := [], res := [], wb := false
    perf := true, ply := 0, lines := [], reads := [], homeMiss := [], aged := false, route := [], miss := [], rejected := none }

/-- An open yarn without stages. -/
def emptyYarn : Yarn :=
  { filledYarn (2 ^ 32) 0 [] with
    stages := [] }

/-- A descriptor of an A yarn of one stage at the record address; an open yarn with room; KWAIT below and above its threshold. -/
theorem witness_YarnWordsComplete : allOf [
    runsHere (poke (base [(6, 0x10040)]) 0x140040 (natLe 8 0 ++ natLe 8 (2 ^ 32))) (.yopen ⟨0, 0, 0, 6, 0, 0, 3, 0⟩) (fun u c =>
      match readGlobal u c.v.hank c.v.ply 0 0x10040 64 with
      | .ok t bs =>
        let q : Yarn := { Yarn.closed with isOpen := true, desc := Vector.ofFn fun k => dwordAt bs k.val }
        q.valid && decide (q.buffer ≤ 2 ^ 16) && decide (bayBuffer t c.v.core c.v.bay c.w 3 + q.buffer ≤ 2 ^ 16)
      | _ => false),
    runsHere (withYarn3 (base [(6, 0x10100)]) emptyYarn) (.ypush ⟨0, 0, 0, 6, 10, 0, 3, 0⟩) (fun u c =>
        let y := c.v.yarn 3
        let rs := y.rowStarts (c.u64 6)
        y.isOpen && (c.u 10).setWidth 16 == y.seq && y.total == 0 && decide (y.stages.length < y.depth) && (rs.all fun a => a % 4 == 0)
          && (match readRows c.v y rs u [] none with | .ok _ => true | _ => false) && !markersWait u c.v.team (y.wants rs)
          && decide (inFlight u c.w .y < 63)),
    runsHere (withYarn3 (base []) (filledYarn (2 ^ 32) 0 [])) (.ydrop ⟨0, 0, 0, 0, 0, 0, 3, 8⟩) (fun _ c => (c.v.yarn 3).isOpen),
    runsHere (base [(6, 0)]) (.kwait ⟨0, 0, 0, 6, 0, 0, 0, 4⟩) (fun u c => decide (inFlight u c.w (kwaitPath 4) ≤ (c.u 6).toNat)),
    runsHere (addFlight (base [(6, 0)]) someFlight) (.kwait ⟨0, 0, 0, 6, 0, 0, 0, 4⟩)
      (fun u c => decide ((c.u 6).toNat < inFlight u c.w (kwaitPath 4)))] = true := by
  decide +kernel

/-- CPY of 16 bytes from the mapped page to scratch and to the vault, CPYD of an empty code, GATH and SCAT of one row. -/
theorem witness_EngineCommandsComplete : allOf (
    (let x : KWord := ⟨0, 0, 0, 6, 8, 10, 0, 1⟩
     let y : KWord := ⟨0, 0, 0, 6, 8, 10, 0, 2⟩
     [runsHere (base [(6, 0xFFF0), (8, 0x10100), (10, 16)]) (.cpy x) (fun u c =>
        !badLen 16 && (match (cpyRead u c 0 0 (c.side 8 0) 16).bind (fun r => cpyWrite r.1 c 1 0 (c.side 6 1) r.2) with
          | .ok (_, sg) => !engineWait u c (cpyWants 1 0 (c.side 6 1) (c.side 8 0) 16) sg.length
          | _ => false)),
      runsHere (withVault (base [(6, 0x3FFFF0), (8, 0x10100), (10, 16)])) (.cpy y) (fun u c =>
        !badVaultSide 0 0 && vaultFault u c.v.hank (ctlVault c (c.u 10)) (c.side 6 2) 16 == none
          && (match (cpyRead u c 0 0 (c.side 8 0) 16).bind (fun r => cpyWrite r.1 c 2 0 (c.side 6 2) r.2) with
            | .ok (_, sg) => !engineWait u c [] sg.length
            | _ => false)),
      runsHere (base [(6, 0xFFF0), (8, 0x10100), (10, 16)]) (.cpyd ⟨0, 0, 0, 6, 8, 10, 0, 0⟩) (fun u c =>
        match readRange u c.v.hank c.v.ply (c.side 8 0) 16 with
        | .ok (t, hd) => !overFull (dwordAt hd.data 0).toNat && decide ((dwordAt hd.data 1).toNat < 2 ^ 32)
          && (match cpydRun t c (c.side 8 0) (c.side 6 1) 16 hd with
            | .ok (_, sg) => !engineWait u c [{ off := c.side 6 1, len := 16, wr := true }] sg.length
            | _ => false)
        | _ => false)])
    ++ (let s := base [(6, 0x10100), (8, 0xFFF0), (11, 0x1001)]
        let ws := fun (wr : Bool) => ([{ off := 0, len := 4, wr := false }, { off := 0xFFF0, len := 16, wr := wr }] : List Want)
        let ok := fun (scat : Bool) (u : State) (c : Ctx) =>
          scratchRangeOk u c.v.team 0 4 && (overRows (tableRow c 0xFFF0 16 scat) (tableRows u c.v.team (c.side 6 0) 0xFFF0 0 16 1) u []).isOk
            && !markersWait u c.v.team (ws !scat) && !engineWait u c (ws !scat) scat.toNat
        [runsHere s (.gath ⟨0, 0, 0, 6, 8, 10, 0, 0⟩) (ok false), runsHere s (.scat ⟨0, 0, 0, 6, 8, 10, 0, 0⟩) (ok true)])) = true := by
  decide +kernel

/-- Two codes of one bit fill the code space. -/
theorem witness_CodesArePrefixFree : 0x11 < 2 ^ 64 ∧ overFull 0x11 = false := by decide

/-- What a TRACE of the mapped page reads. -/
def someTrace : TraceArgs :=
  { ply := 0, mask := 0xFF, rays := Vector.replicate 8 (Vector.replicate 8 0), root := 0x10000, table := 0x10000, ctl := 0, count := 1 }

/-- TRACE with a loaded context and the largest count; TRES of a slot whose results are known. -/
theorem witness_RayWordsComplete : allOf [
    runsHere (modHank (base [(6, 0x10000), (12, 0x10000), (15, 0x1000000)]) 0 fun k =>
        { k with ctxs := k.ctxs.set 0 { TrContext.reset with loaded := true } }) (.trace ⟨0, 0, 0, 16, 6, 12, 2, 0⟩)
      (fun u c =>
        let a := c.traceArgs ⟨0, 0, 0, 16, 6, 12, 2, 0⟩
        !badTraceCtl a.ctl a.count && ctxLoaded u c.v.hank 0 && a.root.toNat % 128 == 0 && a.table.toNat % 8 == 0 && a.count == 2 ^ 24),
    runsHere (modWave (base []) 0 fun v => { v with rays := v.rays.set 2 { RaySlot.empty with args := some someTrace } })
      (.tres ⟨0, 0, 12, 0, 0, 0, 2, 0⟩)
      (fun u c => (raySlot c.v 2).args.isSome && (match knowSlot u c.w c.v 2 with
        | .ok t => (raySlot (c.wave t) 2).faults.isEmpty
        | _ => false))] = true := by
  decide +kernel

/-- The wave with registers set lane by lane. -/
def baseRow (rs : List (Nat × List Word)) : State := inLaunch (readyRow 0 rs)

/-- Branches with every lane taken, with none and with some, in each slice; BRX to one and to two aligned targets. -/
theorem witness_BranchWordsComplete : allOf (
    (let x : CWord := ⟨1, 9, 0, 4, 0⟩
     let y : CWord := ⟨1, 9, 6, 4, 0⟩
     let u0 : CWord := ⟨1, 9, 0, 4, 0⟩
     let u1 : CWord := ⟨1, 9, 0, 4, 1⟩
     let taken := fun (x : CWord) (c : Ctx) => c.ex &&& predLanes x.pm (c.reg x.preg.toNat)
     let one := List.replicate 8 (1 : Word)
     let whole := fun (i : Instr) (x : CWord) => runsHere (baseRow [(9, one)]) i fun _ c => taken x c == c.ex
     let some_ := fun (i : Instr) (x : CWord) => runsHere (baseRow [(9, [1])]) i fun _ c => taken x c != 0 && taken x c != c.ex && !c.acc
     let none_ := fun (i : Instr) (x : CWord) => runsHere (baseRow []) i fun _ c => taken x c == 0
     [whole (.bra x) x, some_ (.bra x) x, none_ (.bra x) x, whole (.call y) y, some_ (.call y) y, none_ (.call y) y,
      whole (.bru u0) u0, some_ (.bru u0) u0, some_ (.bru u1) u1, none_ (.bru u1) u1,
      runsHere (inAccessRow [1]) (.bra ⟨1, 4, 0, 4, 0⟩)
        (fun _ c => c.acc && taken ⟨1, 4, 0, 4, 0⟩ c != 0 && taken ⟨1, 4, 0, 4, 0⟩ c != c.ex)])
    ++ (let ok := fun (_ : State) (c : Ctx) => (lanesOf c.act).all fun l => (c.perm64 6 0 l).toNat % 8 == 0
        [runsHere (base [(6, 0x20000)]) (.brx ⟨0, 0, 6, 0, 0⟩) (fun u c => ok u c && c.act == c.ex && c.perm64 6 0 3 == 0x20000),
         runsHere (baseRow [(6, [8, 8, 16])]) (.brx ⟨0, 0, 6, 0, 0⟩) ok, runsHere (baseRow [(6, [8, 8, 16])]) (.ret ⟨0, 0, 6, 0, 0⟩) ok])) = true := by
  decide +kernel

/-- A group of two strands at a JOIN that misses no lane. -/
theorem witness_JoinReleaseRule :
    joinReleased [{ num := 0, mask := 0x0F, pc := 0, clause := none, park := .join 8 0xFF, handler := false },
      { num := 1, mask := 0xF0, pc := 0, clause := none, park := .join 8 0xFF, handler := true }] 8 = true := by decide +kernel

/-- A handler of the access thread's trap, and one of a strand's. -/
def inHandler (acc : Bool) : State :=
  asHandler (modWave (base [(4, 5)]) 0 fun v =>
    { v with trap := some { aside := [], isAccess := acc, mask := 0xFF, hi := 0, back := 0, served := false } })

/-- EXIT, TRAP and BPT with all lanes taken, some, and none; EXIT in both handlers and in the access slice. -/
theorem witness_ExitTrapAndHintWordsComplete : allOf (
    let x : CWord := ⟨1, 9, 0, 0, 0⟩
    let z : CWord := ⟨0, 0, 0, 0, 0⟩
    let taken := fun (c : Ctx) => c.ex &&& predLanes x.pm (c.reg x.preg.toNat)
    let whole := fun (i : Instr) => runsHere (baseRow [(9, List.replicate 8 1)]) i fun _ c => taken c == c.ex && !c.acc && !c.st.handler
    let some_ := fun (i : Instr) => runsHere (baseRow [(9, [1])]) i fun _ c => taken c != 0 && taken c != c.ex && !c.st.handler
    let none_ := fun (i : Instr) => runsHere (baseRow []) i fun _ c => taken c == 0
    [whole (.exit x), some_ (.exit x), none_ (.exit x), whole (.trap x), some_ (.trap x), none_ (.trap x), whole (.bpt x), some_ (.bpt x),
     none_ (.bpt x),
     runsHere (inHandler false) (.exit z) (fun _ c => c.st.handler && (c.v.trap.map (·.isAccess)) == some false),
     runsHere (inHandler true) (.exit z) (fun _ c => c.st.handler && (c.v.trap.map (·.isAccess)) == some true),
     runsHere (inAccess 0) (.exit z) (fun _ c => c.acc && c.ex == 0xFF), runsHere (inHandler false) (.eret z) (fun _ _ => true)]) = true := by
  decide +kernel

/-- The wave as leader (0) or trailer (1) of pair 0, with the values sent. -/
def inPair (s : State) (trailer rend : Bool) (vals : List (List (Nat × Word)) := [[(0, 3)]]) : State :=
  let p : Pair :=
    { hank := 0, leader := trailer.toNat, trailer := 1 - trailer.toNat, plyL := 0, plyT := 0, parent := 0, sigL := [], sigT := [], nchk := 0
      retry := 0, ckL := { regs := [], marks := [], lanes := 0, pc := 0 }, ckT := { regs := [], marks := [], lanes := 0, pc := 0 }, vals := vals, rendL := rend
      rendT := false, fork := none, active := true }
  modWave { s with pairs := [p] } 0 fun v => { v with pair := some 0 }

/-- SYSRD of a plain register and of the clock with and without a latched half; SYSWR of each writable register. -/
theorem witness_SpecialRegisterAccesses : allOf (
    let latched := modWave (base []) 0 fun v => { v with clkLatch := some 7 }
    let read := fun (k : BitVec 20) => (.sysrd ⟨0, 0, 3, 0, 0, k⟩ : Instr)
    let write := fun (k : BitVec 20) => (.syswr ⟨0, 0, 0, 4, 0, k⟩ : Instr)
    [runsHere (base []) (read 0x29) (fun _ _ => true), runsHere (base []) (read 0x09) (fun _ c => !c.arendOpen),
     runsHere (base []) (read 0xFF) (fun _ _ => true), runsHere (inPair (base []) false false) (read 0x0A) (fun u c => (pairOf u c.v).isSome),
     runsHere (base []) (read 0x0C) (fun _ _ => true), runsHere latched (read 0x0D) (fun _ c => c.v.clkLatch == some 7),
     runsHere (base []) (read 0x0D) (fun _ c => c.v.clkLatch == none), runsHere (inHandler false) (read 0x25) (fun _ _ => true),
     runsHere (base [(4, 0x0F)]) (write 0x02) (fun _ _ => true),
     runsHere (base [(4, 0x1FF)]) (write 0x08) (fun _ c => decide ((c.u 4).toNat < 2 ^ 9)),
     runsHere (base [(4, 0x200)]) (write 0x08) (fun _ c => decide (2 ^ 9 ≤ (c.u 4).toNat)),
     runsHere (base []) (write 0x09) (fun _ c => !c.arendOpen), runsHere (base []) (write 0x0B) (fun _ _ => true),
     runsHere (inHandler false) (write 0x22) (fun _ _ => true)]) = true := by
  decide +kernel

/-- A launch whose one liveness record, of no register, is at 0x10000; with PROMISE when `p`. -/
def withLiveness (p : Bool) : State :=
  let s := base []
  { s with
    launches := s.launches.map fun l =>
      { l with record := (l.record.set 15 (BitVec.ofNat 64 (0x10000 + 1))).set 3 (BitVec.ofNat 64 (2 ^ 16 + p.toNat * 2 ^ 26)) } }

/-- The liveness record of a word is one of the launch's and legal. -/
def liveHere (u : State) (c : Ctx) (n : Nat) (p : State → Bytes → Bool) : Bool :=
  decide (n < recNlive (recordOf u c.v))
    && (match readGlobal u c.v.hank 0 (clusterOf c.v.core) ((recLiveBase (recordOf u c.v) + 128 * n) % 2 ^ 64) 128 with
      | .ok t bs => !liveBad t c.v.team bs && p t bs
      | _ => false)

/-- PHINT of a promising wave that was asked, and of another; the region and pair words in each role. -/
theorem witness_LivenessAndPairWordsComplete : allOf (
    let asked := modWave (withLiveness true) 0 fun v => { v with preempt := .asked }
    let a : SWord := ⟨0, 0, 3, 4, 0, 0⟩
    let z : SWord := ⟨0, 0, 0, 0, 0, 0⟩
    [runsHere asked (.phint z) (fun u c => liveHere u c 0 (fun t _ => recPromise (recordOf t c.v)) && c.v.preempt == .asked && c.v.trap.isNone),
     runsHere (withLiveness false) (.phint z) (fun u c => liveHere u c 0 fun _ _ => true),
     runsHere (withLiveness false) (.idem z) (fun u c => liveHere u c 0 fun _ bs => liveRegsOnly bs),
     runsHere (withLiveness false) (.rchk z) (fun u c => liveHere u c 0 fun t bs => liveRegsOnly bs && (pairOf t c.v).isNone),
     runsHere (base []) (.rend z) (fun u c => (pairOf u c.v).isNone), runsHere (base []) (.rpair a) (fun u c => (pairOf u c.v).isNone),
     runsHere (inPair (base []) false false) (.rpair a) (fun u c => match pairOf u c.v with | some (_, p) => p.leader == c.w && !p.rendL | none => false),
     runsHere (inPair (base []) true false) (.rpair a) (fun u c => match pairOf u c.v with | some (_, p) => p.leader != c.w && !p.vals.isEmpty | none => false),
     runsHere (inPair (base []) false true) (.rpair a) (fun u c => match pairOf u c.v with | some (_, p) => p.leader == c.w && p.rendL | none => false),
     runsHere (inPair (base []) true true []) (.rpair a)
       (fun u c => match pairOf u c.v with | some (_, p) => p.leader != c.w && p.vals.isEmpty && p.noMoreValues u | none => false),
     runsHere (inPair (withLiveness false) false false) (.rchk z) (fun u c => liveHere u c 0 fun t bs => liveRegsOnly bs && (pairOf t c.v).isSome),
     runsHere (inPair (base []) false false) (.rend z) (fun u c => match pairOf u c.v with | some (_, p) => p.leader == c.w | none => false),
     runsHere (inPair (base []) true false) (.rend z) (fun u c => match pairOf u c.v with | some (_, p) => p.leader != c.w | none => false)]) = true := by
  decide +kernel

/-- GSET of the last gauge; FMAP of each outcome; SMAP of a free window and of none; SUNMAP of an aperture address and of another. -/
theorem witness_GaugePageAndWindowWordsComplete : allOf (
    let f : SWord := ⟨0, 0, 3, 4, 6, 0⟩
    let m : KWord := ⟨0, 0, 6, 0, 8, 9, 0, 0⟩
    let full := modHank (base [(9, 16)]) 0 fun k =>
      { k with windows := (List.range 64).map fun n => { num := n, team := 0, off := 0, len := 16, ro := false } }
    [runsHere (base [(7, 15)]) (.gset ⟨0, 0, 0, 4, 7, 15⟩) (fun _ c => decide ((c.u 7).toNat < 16) && gaugeBound ((c.u 7).toNat / 4) (c.u 4)
       && gaugeBound ((c.u 7).toNat / 4) (c.u 5)),
     runsHere (asHandler (base [(5, 0xFFFFFF00)])) (.fmap f) (fun _ c => (windowAt (c.u64 4).toNat).isSome && (c.u64 4).toNat % 2 ^ 16 == 0),
     runsHere (asHandler (base [(4, 0x10000)])) (.fmap f) (fun u c => (windowAt (c.u64 4).toNat).isNone
       && mapPath u (c.u64 4).toNat (hreg u 0 0x120).toNat walkLevels == .mapped),
     runsHere (asHandler (base [(4, 0x20000), (6, 0xE7FE)])) (.fmap f) (fun u c => (windowAt (c.u64 4).toNat).isNone
       && (c.u 6).toNat &&& 0xE7FE == (c.u 6).toNat
       && (match mapPath u (c.u64 4).toNat (hreg u 0 0x120).toNat walkLevels with | .missing _ _ => true | _ => false)),
     runsHere (base [(8, 0xFFF0), (9, 16)]) (.smap m) (fun u c => scratchSpan (teamOf u c.v.team) 0xFFF0 16
       && lowestFree 64 ((hankOf u c.v.hank).windows.map (·.num)) == some 0),
     runsHere full (.smap m) (fun u c => scratchSpan (teamOf u c.v.team) 0 16 && lowestFree 64 ((hankOf u c.v.hank).windows.map (·.num)) == none),
     runsHere (base [(7, 0xFFFFFF00), (6, 0x3FFFFFFF)]) (.sunmap ⟨0, 0, 0, 6, 0, 0, 0, 0⟩)
       (fun _ c => windowAt (c.u64 6).toNat == some (63, 0xFFFFFF)),
     runsHere (base [(7, 0xFFFFFF00), (6, 0x40000000)]) (.sunmap ⟨0, 0, 0, 6, 0, 0, 0, 0⟩) (fun _ c => windowAt (c.u64 6).toNat == none)]) = true := by
  decide +kernel

/-- The wave in the root, ply 1 its child with deferred effects. -/
def withChild (log : List LogEntry) : State :=
  modHank (base [(4, 1)]) 0 fun k => { k with plies := [Ply.root, { num := 1, parent := 0, depth := 1, life := none, log := log }] }

/-- The ply words with and without a status; a keep without deferred effects, with one, and with a store in flight in its target. -/
theorem witness_PlyWordsComplete : allOf (
    let keep : SWord := ⟨0, 0, 3, 4, 0, 0⟩
    let st := fun (u : State) (c : Ctx) => keepStatus (hankOf u c.v.hank) c.v.ply (c.u 4).toNat false
    let kept := fun (u : State) (c : Ctx) => applyKeep u c.v.hank 1 [] []
    let e : LogEntry := { kind := .flip 0 0, ply := 1, flight := 0 }
    [runsHere (base []) (.pfork ⟨0, 0, 6, 0, 0, 7⟩) (fun u c => !dirBusy u c && forkStatus (hankOf u 0) c.v.ply 7 == 0),
     runsHere (modWave (withChild []) 0 fun v => { v with ply := 5 }) (.pfork ⟨0, 0, 6, 0, 0, 7⟩)
       (fun u c => !dirBusy u c && forkStatus (hankOf u 0) c.v.ply 7 != 0),
     runsHere (withChild []) (.penter ⟨0, 0, 3, 4, 0, 0⟩) (fun u c => !dirBusy u c),
     runsHere (withChild []) (.pfrog ⟨0, 0, 0, 4, 0, 0⟩) (fun u c => !dirBusy u c),
     runsHere (base [(6, 128)]) (.lline ⟨0, 0, 3, 4, 6, 0⟩) (fun u c => !dirBusy u c),
     runsHere (modHank (withChild []) 0 fun k => { k with keeper := some { target := 1, wave := 0, strand := 3, sib := false, merged := false } })
       (.penter ⟨0, 0, 3, 4, 0, 0⟩) (fun u c => dirBusy u c),
     runsHere (base [(4, 1)]) (.pkeep keep) (fun u c => !dirBusy u c && st u c != 0),
     runsHere (withChild []) (.pkeep keep) (fun u c => !dirBusy u c && st u c == 0 && !keepWaits u 0 1 && (hankOf (kept u c) 0).draining.isEmpty),
     runsHere (withChild [e]) (.pkeep keep) (fun u c => !dirBusy u c && st u c == 0 && !keepWaits u 0 1 && !(hankOf (kept u c) 0).draining.isEmpty),
     runsHere (let s := withChild []
               addFlight { s with waves := s.waves ++ [{ loneWave s .v with ply := 1 }] } { someFlight with wave := s.waves.length, path := some .w, ply := 1 })
       (.pkeep keep)
       (fun u c => !dirBusy u c && st u c == 0 && keepWaits u 0 1)]) = true := by
  decide +kernel

/-- An open region of the wave's strand, register 4 tagged in every lane. -/
def someRegion : Region :=
  { strand := 0, handler := false, lanes := 0, fallback := 0x20000, lines := [], stores := [], tags := lanes.map fun l => { reg := 4, lane := l, slot := 0, c := 1 }
    slots := [[]], conds := [], nConds := 0, nSyms := 1, committing := false }

/-- The wave in that region. -/
def inRegion : State := modWave (base [(5, 2)]) 0 fun v => { v with region := some someRegion }

/-- The checks of a word of a region. -/
def regionHere (i : Instr) : Bool :=
  match ctxOf inRegion i with
  | some c =>
    WellFormed i && !stateIllegal inRegion c i && c.act != 0 && c.region == some someRegion && regionOk i
      && !(decide (32 ≤ someRegion.nConds) && !(c.constraint someRegion i).isEmpty) && (poisonFaults inRegion c i).isEmpty
  | none => false

/-- What `regionHere` says. -/
theorem runsInRegion_of_regionHere {i : Instr} (h : regionHere i = true) : ∃ c, runsInRegion inRegion c i someRegion = true := by
  unfold regionHere at h
  split at h
  · rename_i c hc
    refine ⟨c, ?_⟩
    simp only [runsInRegion, hc, BEq.rfl, Bool.true_and]
    exact h
  · exact absurd h (by simp)

/-- The region words outside a region, with one strand and with two, and inside; the arithmetic words of a region with a tagged source. -/
theorem witness_RegionWordsComplete : allOf (
    let two := modWave (base []) 0 fun v =>
      { v with strands := v.strands ++ [{ num := 1, mask := 0, pc := 0, clause := none, park := .wait .flags, handler := false }] }
    let x : V3 := ⟨0, 0, 3, 4, 0, 5, 0, 0, 0, 0⟩
    [runsHere (base []) (.arbeg ⟨0, 0, 0, 0, 0, 0xFFFFF⟩) (fun _ c => c.v.region.isNone && decide (c.v.strands.length ≤ 1)),
     runsHere two (.arbeg ⟨0, 0, 0, 0, 0, 4⟩) (fun _ c => c.v.region.isNone && decide (1 < c.v.strands.length)),
     runsHere (base []) (.arend ⟨0, 0, 3, 0, 0, 0⟩) (fun _ _ => true), runsHere (base []) (.arabt ⟨0, 0, 0, 0, 0, 255⟩) (fun _ _ => true),
     regionHere (.arend ⟨0, 0, 3, 0, 0, 0⟩), regionHere (.arabt ⟨0, 0, 0, 0, 0, 255⟩), regionHere (.iadd x), regionHere (.isub x),
     regionHere (.mov ⟨0, 0, 3, 4, 0, 0, 0, 0, 0, 0⟩), regionHere (.icmp x), (someRegion.tag 4 7).isSome, (someRegion.tag 5 7).isNone]) = true := by
  decide +kernel

/-- A queue descriptor at 0x10040: its ring at 0x10200, its second word, HEAD and TAIL. -/
def withDesc (s : State) (w1 head tail : Nat) : State := poke s 0x140040 (natLe 8 0x10200 ++ natLe 8 w1 ++ natLe 8 head ++ natLe 8 tail)

/-- The queue of a word's pair A, read with the right that the word needs and found legal. -/
def queueHere (u : State) (c : Ctx) (a : Nat) (may : QueueDesc → Bool) (p : QueueRead → Bool) : Bool :=
  match readQueue u c.v.hank c.v.ply (c.u64 a).toNat may with
  | .ok r => (c.u64 a).toNat % 64 == 0 && r.stops.isEmpty && p r
  | .error _ => false

/-- A bin that is on, of records of 16 bytes. -/
def withBin (s : State) (recs : List (Nat × Nat)) : State :=
  setHreg (modHank s 0 fun k => { k with bins := [{ num := 63, template := (Vector.replicate 16 0).set 14 1, recs := recs }] }) 0 (0x200 + 8 * 63) 1

/-- Head 3 enabled for hank 0, with flips queued. -/
def withHead (s : State) (flips : Nat) : State :=
  { s with heads := s.heads.set 3 { Head.reset with regs := RegFile.set [] 0 1, flips := List.replicate flips (0, false) } }

/-- LAUNCH into a ring that takes device records and has one place; EMIT, RECV, FLIP and MSUB with room, in the root and in a ply. -/
theorem witness_DispatchAndQueueWordsComplete : allOf (
    let ring := setHreg (base [(4, 0x10080)]) 0 (queueOff 3 15) (BitVec.ofNat 64 (0x10100 + 0x60 + 1))
    let msub : Instr := .msub ⟨0, 0, 0, 6, 7, 0, 0, 0⟩
    let push : Instr := .qpush ⟨0, 0, 0, 4, 6, 0⟩
    let pop : Instr := .qpop ⟨0, 0, 6, 4, 0, 0⟩
    let cell := fun (u : State) (c : Ctx) (full : Bool) =>
      match translate u c.v.hank (c.u64 4).toNat 16 true with
      | .ok (.mem lf) => (match placeBytes (releaseLines u [lineOf lf.pa]) c.v.hank c.v.ply 16 (.mem lf),
          writePly (releaseLines u [lineOf lf.pa]) c.v.hank c.v.ply 0x10040 lf with
        | (_, .ok bs), .to _ => cellFull bs == full
        | _, _ => false)
      | .ok (.win t off) => storePly (hankOf u c.v.hank) c.v.ply (c.u64 4).toNat == 0 && !markerBlocks u t off 16 true
        && scratchPoison u t off 16 == none
      | _ => false
    let window := modHank (base [(4, 0), (5, 0xFFFFFF00)]) 0 fun k => { k with windows := [{ num := 0, team := 0, off := 0, len := 16, ro := false }] }
    [runsHere ring (.launch ⟨0, 0, 0, 4, 0, 63⟩) (fun u c =>
       match readGlobal u c.v.hank c.v.ply (clusterOf c.v.core) 0x10080 128 with
       | .ok t bs =>
         let r := (hreg u c.v.hank (queueOff 3 15)).toNat
         ringSrc r && ringEn r && decide (0 < ringSize r) && (match storePlace u 0 (ringEntry r 0) 128 .global with
           | .ok l => (placeWrite t (some c.w) 0 0 (ringEntry r 0) bs l).isOk
           | _ => false)
       | _ => false),
     runsHere (withBin (base [(5, 63), (6, 0x10010)]) []) (.emit ⟨0, 0, 0, 5, 6, 0⟩) (fun u c =>
       binOn u 0 63 && (match binOf u 0 63 with
         | some b => decide (b.recs.length < 65536 / b.len) && (match readRange u 0 c.v.ply 0x10010 b.len .record with
           | .ok (_, d) => d.code.isNone
           | _ => false)
         | none => false)),
     runsHere (base [(4, 0xFFF0)]) (.recv ⟨0, 0, 3, 4, 0, 0⟩) (fun u c => (teamOf u c.v.team).recs.isEmpty),
     runsHere (modTeam (base [(4, 0xFFF0)]) 0 fun t => { t with recs := [List.replicate 16 7] }) (.recv ⟨0, 0, 3, 4, 0, 0⟩) (fun u c =>
       !(teamOf u c.v.team).recs.isEmpty && scratchRangeOk u c.v.team 0xFFF0 16
         && !markersWait u c.v.team [{ off := 0xFFF0, len := 16, wr := true }]),
     runsHere (withHead (base [(6, 7), (4, 0x100)]) 15) (.flip ⟨0, 0, 0, 4, 6, 0⟩) (fun u c => headOn u 0 3 && c.v.ply == 0
       && decide ((headOf u 3).flips.length < 16)),
     runsHere (inPly (withHead (base [(6, 3)]) 0)) (.flip ⟨0, 0, 0, 4, 6, 0⟩) (fun u c => headOn u 0 3 && c.v.ply != 0
       && sigRoom u c.w c.v (laneCount c.act) && logRoom u 0 c.v.ply),
     runsHere (base [(7, 0), (6, 0x100)]) msub (fun u c => c.v.ply == 0 && decide ((mediaOf u 0).queue.length < 32)),
     runsHere (inPly (base [(7, 0), (6, 0x100)])) msub (fun u c => c.v.ply != 0 && sigRoom u c.w c.v (laneCount c.act) && logRoom u 0 c.v.ply),
     runsHere (withDesc (base [(4, 0x10040)]) 1 0 1) push (fun u c => queueHere u c 4 (fun d => d.mayPush 0) fun r =>
       r.desc.kind == 0 && decide (r.desc.used < r.desc.size) && (match queuePlace r.s 0 (r.desc.entry r.desc.tail) 16 (r.desc.allows 0) with
         | .ok l => (r.desc.escapes r.s 0 c.v.ply (r.desc.entry r.desc.tail) (.ok l)).isEmpty
           && (pushEntry (releaseLines r.s (r.desc.place.lines ++ l.lines)) (some c.w) 0 c.v.ply r.desc l (c.u64 6) 0).isOk
         | _ => false)),
     runsHere (withDesc (base [(4, 0x10040)]) 1 0 1) pop (fun u c => queueHere u c 4 (fun d => d.mayPop 0) fun r =>
       r.desc.kind == 0 && r.desc.used != 0
         && (match queuePlace r.s 0 (r.desc.entry r.desc.head) 16 (r.desc.allows 0) with
         | .ok l =>
           let free := releaseLines r.s (r.desc.place.lines ++ l.lines)
           (r.desc.escapes r.s 0 c.v.ply (r.desc.entry r.desc.head) (.ok l)).isEmpty && (popEntry free c.w 0 c.v.ply r.desc).isOk
             && (match placeBytes free 0 c.v.ply 16 l with
               | (t, .ok _) => (popEntry t c.w 0 c.v.ply r.desc).isOk
               | _ => false)
         | _ => false)),
     runsHere (withDesc (base [(4, 0x10040)]) 1 1 1) pop (fun u c => queueHere u c 4 (fun d => d.mayPop 0) fun r =>
       r.desc.used == 0 && (queuePlace r.s 0 (r.desc.entry r.desc.head) 16 (r.desc.allows 0)).isOk),
     (let u := base [(4, 0x10040)]
      mappedAt u 0 0x10040 true && (match walk u 0 0x10040 with
        | .leaf lf => !queueBad (readBytes (withDesc u 1 0 1) 0 0 lf.pa 64)
        | _ => false)),
     runsHere window (.qtokPut ⟨0, 0, 3, 4, 6, 0⟩) (fun u c => (windowAt (c.u64 4).toNat).isSome && cell u c false),
     runsHere window (.qtokTake ⟨0, 0, 6, 4, 0, 1⟩) (fun u c => (windowAt (c.u64 4).toNat).isSome && cell u c false),
     runsHere (base [(4, 0x10040)]) (.qtokPut ⟨0, 0, 3, 4, 6, 0⟩) (fun u c => cell u c false),
     runsHere (withDesc (base [(4, 0x10040)]) 1 0 0) (.qtokPut ⟨0, 0, 3, 4, 6, 0⟩) (fun u c => cell u c true),
     runsHere (base [(4, 0x10040)]) (.qtokTake ⟨0, 0, 6, 4, 0, 1⟩) (fun u c => cell u c false),
     runsHere (withDesc (base [(4, 0x10040)]) 1 0 0) (.qtokTake ⟨0, 0, 6, 4, 0, 1⟩) (fun u c => cell u c true)]) = true := by
  decide +kernel

/-- Whether a step occurs: its next state is another. -/
def goes (i : Instr) (s : State) : Bool :=
  match exec i s with
  | .next t => t.progress != s.progress || t.running != s.running || t != s
  | _ => false

/-- A strand of the wave, changed, none under way. -/
def parked (s : State) (f : Strand → Strand) : State := { modThread s 0 0 f with running := [], progress := 1 }

/-- A one-word clause of port V at the strand's header, with a WAIT mask. -/
def header (wait : Nat) : Bytes := natLe 8 (10 * 2 ^ 60 + 2 ^ 53 + wait * 2 ^ 41 + 15 * 2 ^ 37 + 15 * 2 ^ 33)

/-- The strand between clauses, at a header. -/
def atHeader (s : State) (p : Park) : State := parked (poke s 0x140000 (header 1)) fun t => { t with clause := none, park := p }

/-- A clause that starts and one that waits for a flag; a strand inside its clause; words that held and waited; a wait that is over; two
strands at one header; a retired wave. -/
theorem witness_ClauseStepsComplete : allOf (
    let wave := fun (s : State) => (s.waves[0]?).getD (loneWave s .v)
    let strand := fun (s : State) => ((wave s).thread 0).getD (loneStrand .v)
    let may := fun (s : State) => mayIssue s (wave s) 0 (strand s) && (wave s).phase == .live
    let start := fun (s : State) (w : Wait) => may s && (strand s).free && (strand s).clause.isNone && (strand s).pc.toNat % 8 == 0
      && (match fetchWord s (wave s) 0x10000 with
        | .ok u x => (match headerOf x with
          | .ok h => (match fetchWords (wave s) (clauseAddrs 0x10000 h.count) u with
            | (u', ws, none) => clauseError (wave s) false 0xFF h ws == none && headerWait u' 0 (wave s) false 0xFF h (ws.filterMap instrOf) == w
              && !portBusy u 0 0 (wave s) h.port
            | _ => false)
          | _ => false)
        | _ => false)
    let inside := fun (s : State) => may s && (strand s).clause.isSome && !pendingHit s 0 (wave s) false 0xFF (remaining s (wave s) (strand s))
      && !portBusy s 0 0 (wave s) .v
    let raise := fun (s : State) => modWave s 0 fun v => { v with flags := v.flags.set 0 1 }
    let two := modWave (parked (base []) id) 0 fun v => { v with strands := [{ loneStrand .v with mask := 0x0F, clause := none },
      { loneStrand .v with num := 1, mask := 0xF0, clause := none, handler := true }] }
    let waits := atHeader (base []) (.wait .flags)
    let changes := raise (atHeader (base []) (.wait .pending))
    [start (atHeader (base []) .none) .no, start (raise (atHeader (base []) .none)) .flags, inside (parked (base []) id),
     inside (parked (base []) fun t => { t with park := .hold 0 }), inside (parked (base []) fun t => { t with park := .block 0 false }),
     waitNow waits 0 0 (wave waits) (strand waits) == .no, waitNow changes 0 0 (wave changes) (strand changes) == .flags,
     goes (.clauseStart 0 0) (atHeader (base []) .none), goes (.clauseStart 0 0) (raise (atHeader (base []) .none)),
     goes (.clauseStart 0 0) (parked (base []) id),
     goes (.heldWordIssue 0 0) (parked (base []) fun t => { t with park := .hold 0 }),
     goes (.strandWake 0 0) (parked (base []) fun t => { t with park := .block 0 false }), goes (.strandWake 0 0) waits,
     goes (.strandWake 0 0) changes, (wave two).strands.all fusible, goes (.opportunisticFusion 0 0 1) two,
     !unperformed (modWave (base []) 0 Wave.retired) 0, goes (.slotFree 0) (modWave (base []) 0 Wave.retired)]) = true := by
  decide +kernel

/-- The largest fields of a header. -/
theorem witness_HeaderFieldsRead : headerOf (10 * 2 ^ 60 + 4 * 2 ^ 57 + 0xFFF * 2 ^ 41 + 11 * 2 ^ 37 + 15 * 2 ^ 33)
    = .ok { port := .s, count := 16, wait := 0xFFF, seta := some 11, setb := none } := by decide +kernel

/-- An operation of a kind in flight, with a result to write or to be performed. -/
def flying (k : FlightKind) (wb perf : Bool) : State :=
  addFlight (base []) { someFlight with kind := k, wb := wb, perf := perf, regs := if wb then [3] else [] }

/-- One of each kind, which meets the statement's conditions and ends. -/
theorem witness_FlightStepsComplete : allOf (
    let slot := fun (known : Bool) => modWave (flying (.trace 2) false true) 0 fun v =>
      { v with rays := v.rays.set 2 { RaySlot.empty with args := some { someTrace with mask := 0 }, known := known } }
    let held := { base [] with err := { (base []).err with delayed := [(31, none)] } }
    let turned := fun (k : Nat) (ms : List (Nat × Nat)) =>
      addFlight (base []) { someFlight with rejected := some k, miss := ms, lines := ms.map (·.1) }
    let crowd := fun (s : State) => addFlight s { someFlight with miss := (List.range 184).map fun n => (n, 1) }
    [(flightOf (flying .access true false) 0).map (·.wb) == some true, !tresWaits (flying .access true false) someFlight,
     goes (.resultWriteback 0) (flying .access true false), goes (.accessPerformed 0) (flying .access false true),
     goes (.engineCommandComplete 0) (flying .engine false true), goes (.yarnFillComplete 0) (flying (.fill 3 0 none) false true),
     goes (.meOperationComplete 0) (flying .me false true), goes (.traversalComplete 0) (slot true), goes (.traversalComplete 0) (slot false),
     goes (.accessRejectRetry 0) (turned 1 []), goes (.accessRejectRetry 0) (crowd (turned 1 [(200, 1)])),
     !missRoom (crowd (turned 1 [(200, 1)])) false [(200, 1)] [], missRoom (turned 64 [(200, 1)]) true [(200, 1)] [],
     goes (.agedReservation 0) (turned 64 [(200, 1)]), (match exec (.walkStarvation 0) (base []) with | .next t => t == base [] | _ => false), goes (.injectorDelayExpiry 31) held]) = true := by
  decide +kernel

/-- A wave with a monitor, a faulted strand, a powered bank, a region at the darners, an MWAIT with a timeout, a strand at a barrier; a
ply to reconcile, a partial line, a deferred effect. -/
theorem witness_WaveEventStepsComplete : allOf (
    let wave := fun (s : State) => (s.waves[0]?).getD (loneWave s .v)
    let monitored := modWave (base []) 0 fun v => { v with monitor := some { line := 1, triggered := false } }
    let faulted := parked (base []) fun t => { t with park := .fault 0 [laneFault 0 .desc] }
    let cached := setHreg (base []) 0 0x100 1
    let committing := modWave (base []) 0 fun v => { v with region := some { someRegion with tags := [], committing := true } }
    let mwait := parked (poke (base []) 0x140008 (natLe 8 0x6340000000008000)) fun t => { t with park := .mwait }
    let late := fun (h : Bool) => setHreg (parked (base []) fun t => { t with park := .bar 0 0 0, handler := h }) 0 0x028 1
    let loose := modHank (base []) 0 fun k => { k with recon := [(1, 0)] }
    let part := { base [] with partials := [{ cluster := 0, line := 0x2802, fmt := 1, gidx := 0, hank := 0, cached := true, data := List.replicate 128 0 }] }
    let draining := modHank (base []) 0 fun k => { k with draining := [{ kind := .msub 0 0, ply := 1, flight := 0 }] }
    [(wave monitored).monitor.isSome, goes (.monitorSpuriousTrigger 0) monitored,
     trapReady faulted 0 (wave faulted), goes (.trapTaken 0) faulted,
     bankHeld (wave cached) 7 && !(wave cached).drowsy.contains 7 && bitsN (hreg cached 0 0x100).toNat 11 0 != 0, goes (.bankDrowsy 0 7) cached,
     goes (.darnerCommit 0) committing,
     (match ((wave mwait).thread 0).bind (parkedAt mwait (wave mwait)) with | some (.mwait x) => x.f != 0 | _ => false), goes (.mwaitTimeout 0 0) mwait,
     watched (late false) (wave (late false)) (((wave (late false)).thread 0).getD (loneStrand .v)) && hreg (late false) 0 0x028 != 0,
     goes (.watchdog 0 0) (late false), goes (.watchdog 0 0) (late true),
     goes (.debuggerAccess 0 255 7 none) (base []), goes (.debuggerAccess 0 255 7 (some 1)) (base []),
     (let small := modWave (base []) 0 fun v => { v with nregs := 255 }
      goes (.debuggerAccess 0 255 7 none) small && goes (.debuggerAccess 1 0 7 (some 1)) small),
     goes (.plyReconcile 0 1) loose, goes (.partialEviction 0 0x2802) part,
     (match issueEntry draining 0 { kind := .msub 0 0, ply := 1, flight := 0 } with | .done _ => true | _ => false), goes (.deferredEntryIssue 0) draining]) = true := by
  decide +kernel

/-- A launch of hank 0 that waits for its first team. -/
def someLaunch (r : Vector DWord 16) (phase : LaunchPhase) : Launch :=
  { hank := 0, queue := some (0, 0), bin := none, record := r, phase := phase, nextTeam := 0, nabort := 0, reason := 0, recs := [] }

/-- A record of one level: the priority, the ply, and 512 KiB of scratch when the wave is a team of a core. -/
def someRecord (prio ply : Nat) (team promise : Bool) : Vector DWord 16 :=
  (((Vector.replicate 16 0).set 3 (BitVec.ofNat 64 (2 ^ 23 + ply * 2 ^ 17 + prio * 2 ^ 13 + (if team then 512 * 4 else 0) + promise.toNat * 2 ^ 26))).set 4
    8).set 5 (BitVec.ofNat 64 (1 + (if team then 3 else 1) * 2 ^ 32 + 2 ^ 36))

/-- Hank 0 with cluster 0 and no QUIESCE. -/
def open_ (s : State) : State := setHreg (withVault s) 0 0 0

/-- Hank 0 open, with launches. -/
def withLaunches (ls : List Launch) : State := { open_ (ready 0 []) with launches := ls }

/-- A team of 512 KiB on one core. -/
def someTeam (core : Nat) (phase : TeamPhase) : Team :=
  { launch := 1, index := 0, hank := 0, role := .single, phase := phase, wide := false, cores := [core], sliceKib := 512, scratch := [],
    zeroed := true, recs := [], recLen := 0, order := 0, ctx := none }

/-- Teams that hold the scratch of all four cores, a launch of higher priority waiting, and a context pool. -/
def crowded : State :=
  { setHreg (withLaunches [someLaunch (someRecord 1 0 true false) .pending,
      { someLaunch (someRecord 0 0 true false) .running with nextTeam := 1 }]) 0 0x190 0x100 with
    teams := [0, 1, 14, 15].map fun c => someTeam c .placed }

/-- A place in the context pool is found wherever the lowest one is free, whatever place the machine prefers. -/
theorem findBlock_isSome {s : State} {h n : Nat}
    (f : (((0 :: (poolBlocks s h).map fun c => c.1 + c.2).map fun a => (a, n)).find? (blockFree s h)).isSome = true) :
    (findBlock s h n).isSome = true := by
  simp only [findBlock]
  split
  · rfl
  · exact f

/-- So is a request of one team. -/
theorem askTeams_isSome {s : State} {h ti : Nat} {t : Team} (ht : s.teams[ti]? = some t) (f : (findBlock s h (victimRoom s ti t)).isSome = true) :
    (askTeams h [ti] s).isSome = true := by
  obtain ⟨b, hb⟩ := Option.isSome_iff_exists.mp f
  simp [askTeams, ht, hb]

/-- Dispatch of a record and of an unreadable one; placement and its refusal; a bin that is full and one that is old; a completion value;
a wave that broke its promise and one to save; a saved team. -/
theorem witness_SchedulerStepsComplete : allOf (
    let queued := fun (ring : Nat) => setHreg (setHreg (open_ (base [])) 0 (queueOff 0 0) (BitVec.ofNat 64 (ring + 0x21))) 0 (queueOff 0 0 + 8) 1
    let dead := withLaunches [someLaunch (someRecord 0 5 false false) .pending]
    let fresh := withLaunches [someLaunch (someRecord 0 0 false false) .pending]
    let d : Done := { hank := 0, queue := (0, 0), launch := 0, value := 0, cell := 0x10040, held := false }
    let full := withBin (base []) [(0, 0)]
    let old := modHank (withBin (base []) [(0, 0)]) 0 fun k => { k with bins := k.bins.map fun b => { b with template := b.template.set 14 (2 ^ 48 + 2 ^ 33 + 1) } }
    let asked := fun (p : Preempt) => { modWave (inLaunch (ready 0 [])) 0 (fun v =>
      { v with preempt := p, clauseCount := v.clauseCount.set 7 4096, strands := v.strands.map fun t => { t with clause := none } }) with
        running := [], launches := [someLaunch (someRecord 0 0 false true) .running] }
    let saved := { withLaunches [{ someLaunch (someRecord 0 0 true false) .running with nextTeam := 1 }] with
      teams := [{ someTeam 0 .saved with launch := 0 }] }
    [nextQueue (queued 0x10000) 0 == some (0, 0), !quiesced (queued 0x10000) 0,
     (match headRec (queued 0x10000) 0 0 0 with | .record _ none => true | _ => false),
     (match headRec (queued 0x20000) 0 0 0 with | .unreadable => true | _ => false), nextQueue (queued 0x20000) 0 == some (0, 0),
     goes (.queueDispatch 0) (queued 0x10000), goes (.queueDispatch 0) (queued 0x20000),
     headPending dead 0 == some (.next 0), !isLive (hankOf dead 0) 5, goes (.teamPlacement 0) dead,
     headPending fresh 0 == some (.next 0), (seatsFor fresh (someLaunch (someRecord 0 0 false false) .pending) (roomOf fresh 0)).isSome,
     goes (.teamPlacement 0) fresh, binOn full 0 63, goes (.binLaunch 0 63) full, goes (.binTimerExpiry 0 63) old,
     (match cellOf (base []) 0 0x10040 with | .ok _ c => !cellFull c | _ => false),
     !earlierDone { base [] with dones := [d] } d, !launchBusy { base [] with dones := [d] } 0,
     goes (.doneTokenPut 0) { base [] with dones := [d] }, goes (.doneTokenRetry 0) { base [] with dones := [{ d with held := true }] },
     goes (.promiseBroken 0) (asked .asked),
     (match (asked .full).waves[0]? with
       | some v => v.phase == .live && saveReady (asked .full) 0 v && (partnerOf (asked .full) 0 v).isNone
         && decide (ctxBase (asked .full) v.hank + v.ctx + waveRoom v.nregs ≤ Config.physBytes)
       | none => false),
     headPending saved 0 == some (.saved 0),
     (restoreSeats saved 0 (teamRecord saved 0) saved.teams.length (teamUnit saved 0) (roomOf saved 0) []).isSome, goes (.teamRestore 0) saved]) = true := by
  decide +kernel

/-- A launch for which one victim makes room: the request finds its place. -/
theorem witness_SchedulerStepsComplete_victims :
    headPending crowded 0 = some (.next 0) ∧ fits crowded 0 (.next 0) (roomWithout crowded 0 []) = false
    ∧ (gather crowded (fun ts => fits crowded 0 (.next 0) (roomWithout crowded 0 ts)) (victims crowded 0 1) []).isSome = true
    ∧ (askTeams 0 [0] crowded).isSome = true :=
  ⟨by decide +kernel, by decide +kernel, by decide +kernel, askTeams_isSome (t := someTeam 0 .placed) (by decide +kernel) (findBlock_isSome (by decide +kernel))⟩

/-- The device in RUN, nothing resident, every feature acknowledged, hank 0's table set. -/
def device : State :=
  { setHreg { State.reset with mem := (ready 0 []).mem } 0 0x120 0x100000 with
    sysc := { Sysc.reset with stage := 6, featack := 0x1F, enmask := 1 } }

/-- A 64-bit write by the physical function. -/
def wr (v : DWord) : RegWrite := { val := v, half := .full, vf := false }

/-- A doorbell of a full ring and one past it; QRING, QSTAT and BINCFG writes that are accepted and one that is not. -/
theorem witness_QueueRegisterWritesComplete : allOf (
    let ringed := setHreg device 0 (queueOff 3 15) 0x10021
    [reaches ringed 0 (wr 2) && feature ringed 1 && !ringSrc 0x10021 && ringEn 0x10021 && decide (2 ≤ ringSize 0x10021), goes (.hostDoorbell 0 3 15 true (wr 2)) ringed,
     decide (ringSize 0x10021 < 3), goes (.hostDoorbell 0 3 15 false (wr 3)) ringed,
     reaches device 0 (wr 0x1002C), goes (.qringWrite 0 3 15 (wr 0x1002C)) device, goes (.qringWrite 0 3 15 (wr 13)) device,
     goes (.qstatWrite 0 3 15 (wr 3)) device,
     fitsMask (0x10081 : DWord) 0xFFFFFFFFFFFFFF81 && !binBusy device 0 63, goes (.bincfgWrite 0 63 (wr 0x10081)) device,
     !fitsMask (0x40 : DWord) 0xFFFFFFFFFFFFFF81, goes (.bincfgWrite 0 63 (wr 0x40)) device]) = true := by
  decide +kernel

/-- Accepted writes of each register of a control block; a way change, a migration request and an invalidation under way. -/
theorem witness_HankRegisterWritesComplete : allOf (
    let busy := modHank device 0 fun k => { k with wayBusy := true, inv := [none], migr := [{ page := 7, sh := 16, wr := false, seq := 0, written := false }] }
    let pool := setHreg (setHreg device 0 0x128 0x200000) 0 0x130 2
    [reaches device 0 (wr 0x79) && !(hankOf device 0).wayBusy && fitsMask (0x79 : DWord) 0x7F, goes (.hankctlWrite 0 (wr 0x79)) device,
     formOk device 0 (wr 0x10001) && waysOk device 0 0x10001, goes (.waysWrite 0 (wr 0x10001)) device,
     quiescent device 0 && fitsMask (0xFFFF00000FFF : DWord) 0xFFFF00000FFF && bitsN 0xFFFF00000FFF 47 32 &&& cacheWays device == 0,
     goes (.memcfgWrite 0 (wr 0xFFFF00000FFF)) device,
     regionWriteOk device 0 0x108 0x200000, goes (.shadowPoolWrite 0 false (wr 0x200000)) device,
     regionWriteOk device 0 0x110 1, goes (.shadowPoolWrite 0 true (wr 1)) device,
     (hreg pool 0 0x128).toNat + 2 ^ 16 == 0x210000 && decide (1 < (hreg pool 0 0x130).toNat), goes (.poolfreeWrite 0 (wr 0x210000)) pool,
     goes (.migheadWrite 0 (wr 0xFF)) device, goes (.gaugecWrite 0 15 (wr 0)) device,
     plainReg 0x1A0 == some (0xFF, false), goes (.registerWrite 0x8001A0 (.write (wr 0xFF))) device,
     (hankOf busy 0).wayBusy, goes (.wayChangeComplete 0) busy, goes (.invalidationComplete 0) busy, goes (.invreqPage 0 0x70000) device,
     goes (.invreqAll 0) device, askedPage busy 0 0x70000 == some (7, 16), goes (.migackDone 0 0x70000) busy, goes (.migackRefused 0 0x70000) busy]) = true := by
  decide +kernel

/-- A context loaded, reset, busy and faulty; a head enabled and scanned; a media command with a bad block and its full cell. -/
theorem witness_ContextDisplayMediaStepsComplete : allOf (
    let busy := fun (l : Bool) => modContext device 0 7 fun k => { k with busy := true, loading := l }
    let loaded := modContext (open_ (base [])) 0 0 fun k => { k with loaded := true }
    let headed := { device with heads := device.heads.set 3 { Head.reset with
      regs := RegFile.set (RegFile.set (RegFile.set [] 0x08 (BitVec.ofNat 64 (2 ^ 16 + 1))) 0x30 25000) 0x38 (BitVec.ofNat 64 (6 * 2 ^ 8 + 1)) } }
    let shown := { device with heads := device.heads.set 3 { Head.reset with regs := RegFile.set [] 0 1 } }
    let submitted := fun (cell : Nat) => { poke device 0x140148 (natLe 8 cell) with
      media := device.media.set 1 { queue := [{ hank := 0, blk := 0x10100 }], done := none, lost := false } }
    let unread := fun (va : DWord) => { device with media := device.media.set 1 { queue := [{ hank := 0, blk := va }], done := none, lost := false } }
    let poisoned := fun (s : State) => { s with poison := [(.phys (0x140100 / 16), 1)] }
    let waiting := { device with media := device.media.set 1 { queue := [], done := some (0, 0x10040, 5), lost := false } }
    [trctlOk device 0 7 (wr 1), goes (.trctlLoad 0 7 (wr 1)) device, trctlOk device 0 7 (wr 2), goes (.trctlReset 0 7 (wr 2)) device,
     goes (.traversalLoadComplete 0 7) (busy true), goes (.traversalResetComplete 0 7) (busy false),
     ((List.range 8).find? fun h => coreInHank loaded h 0) == some 0, goes (.traversalContextFault 0 0 0) loaded,
     fitsMask (0 : DWord) 0x3FD, goes (.headctlWrite 3 (wr 0)) headed, goes (.headctlWrite 3 (wr 1)) headed,
     ((headOf shown 3).regs.read 0).getLsbD 0, goes (.vblank 3) shown,
     (match mediaRead 0 (pagePieces 0x10100 256) (submitted 0x10040) [] with | (_, some b) => badBlock b && blkDone b == 0x10040 | _ => false),
     goes (.mediaCommand 1) (submitted 0x10040), goes (.mediaCommand 1) (submitted 0),
     (match mediaRead 0 (pagePieces 0x20100 256) (unread 0x20100) [] with | (u, none) => blockCell u 0 0x20100 == none | _ => false),
     goes (.mediaCommand 1) (unread 0x20100),
     (match mediaRead 0 (pagePieces 0x10100 256) (poisoned (submitted 0x10040)) [] with
       | (u, none) => (match blockCell u 0 0x10100 with
         | some c => c == 0x10040 && (match cellOf u 0 c.toNat with | .ok _ bs => !cellFull bs | _ => false)
         | none => false)
       | _ => false), goes (.mediaCommand 1) (poisoned (submitted 0x10040)),
     (match cellOf waiting 0 0x10040 with | .ok _ c => !cellFull c | _ => false), goes (.mediaDoneRetry 1) waiting]) = true := by
  decide +kernel

/-- Host accesses at the last bytes of GDDR 7, of a peer, and before RUN; AtomicOps; a window access of a virtual function. -/
theorem witness_HostAccessesComplete : allOf (
    let last := Config.physBytes - 16
    let window := setHreg (setHreg device 0 0 0x41) 0 0x030 0x10000
    [goes (.hostCoherentRead last 16 true) device, goes (.hostDirectRead last 16 true) device,
     goes (.hostCoherentWrite last (natLe 16 1) true) device, goes (.hostDirectWrite last (natLe 16 1) true false) device,
     goes (.hostCoherentRead 0 4 false) State.reset, goes (.hostCoherentWrite 0 [1] false) State.reset,
     last % 16 == 0, feature device 2, goes (.fetchadd (last + 8) 8 1 .coherent) device, goes (.swap (last + 12) 4 1 .coherent) device,
     goes (.cas last 16 0 1 .coherent) device, feature device 3, goes (.cas last 16 0 1 .peer) device, goes (.fetchadd last 8 1 .direct) device,
     (let alone := { device with sysc := { device.sysc with featack := 0x17 } }
      !feature alone 3 && goes (.swap last 8 1 .peer) alone),
     vfOn window 0, (match walk window 0 ((hreg window 0 0x030).toNat + 0xFFF0) with
       | .leaf l => pteHank l.pte == 0 && pteOwn l.pte && !pteWp l.pte && decide (l.pa + 16 ≤ Config.physBytes)
       | _ => false),
     goes (.vfWindowAccess 0 0xFFF0 16 none) window, goes (.vfWindowAccess 0 0xFFF0 0 (some (natLe 16 1))) window]) = true := by
  decide +kernel

/-- One occurrence of each; an injector that is met. -/
theorem witness_ReliabilityStepsComplete : allOf (
    let armed := fun (n : DWord) => setInj (setInj device 31 3 n) 31 0 0x103C70
    let hit : InjectHit := .other 111 110 false 0
    let last := Config.physBytes - 1
    [goes .correctedError device, granuleThere device (.phys (Config.physBytes / 16 - 1)), goes (.poison (.phys (Config.physBytes / 16 - 1)) 6) device,
     goes (.shared (.bay 7 13 11)) device, goes (.shared (.l1 7 13 127)) device, goes (.shared (.l2 1 1 511)) device,
     goes (.shared (.versionDir 7)) device, granuleThere device (.store 1), goes (.poison (.store 1) 6) device,
     flitMatches (armed 1) 31 hit, onLeg 0x103C70 111 110, injectors (armed 1) 31 hit == [31], !makesRetry 0x103C70, goes (.inject 31 hit) (armed 1),
     injectors (armed 2) 31 hit == [31], injCount (armed 2) 31 == 0, goes (.inject 31 hit) (armed 2),
     linkThere 1 && granuleThere device (transferGranule (.root last)) && linkCarries device 1 (.root last), goes (.linkfail 1 (.root last)) device,
     goes (.injselWrite 31 (wr 0x100000)) (armed 1), goes (.errbaseWrite (wr 0x8000)) device,
     goes (.cecountWrite (wr 0)) device]) = true := by
  decide +kernel

/-- Every stage of bring-up, the mailbox, the governor at its limits, and POWER. -/
theorem witness_BringUpStepsComplete : allOf (
    let at_ := fun (k : Nat) => { State.reset with sysc := { Sysc.reset with stage := k } }
    let asked := { device with sysc := { device.sysc with attstat := 1 } }
    [goes .powerOn device, goes .fundamentalReset device, goes .rom State.reset, (at_ 1).sysc.stage == 1, (at_ 2).sysc.stage == 2, goes (.memory true) (at_ 3),
     goes (.memory true) (at_ 4), goes (.memory false) (at_ 4), goes (.featackWrite (wr 0x1F)) (at_ 5), goes (.attctlGo (wr 0x1001)) device, goes (.quoteComplete true) asked,
     goes (.quoteComplete false) asked, goes (.governorEvaluation 2100 65535 104) device, goes (.governorEvaluation 800 0 114) device,
     goes .thermalTrip device, goes (.powerWrite (wr 0x10000000000)) device]) = true := by
  decide +kernel

/-- A well-formed instruction that is encoded, and its word, which decodes to it. -/
theorem witness_EncodingStatements : (match decodeNat 0xC020900FFFFFFFE0 with
    | .ok i => WellFormed i && encodeNat i == some 0xC020900FFFFFFFE0
    | _ => false) = true := by decide +kernel

/-- Memories in canonical form, and a state that steps on. -/
theorem witness_StepsKeepMemoryCanonical : allOf [(base [(6, 0x10100)]).mem.wf, Sparse.wf (α := Byte) 0 (base []).vault,
    stepGives (inLaunch (ready 0x6040008060000A00 [(6, 0x10100), (8, 1)])) fun t => t.mem.wf] = true := by decide +kernel

/-- A strand whose turn it is, its word fetched and decoded; a scheduled step; a state in HALT. -/
theorem witness_StepRunsTheFetchedWord : allOf (
    let s := ready 0xE000003000000001 []
    let step1 := { s with inbox := [.correctedError] }
    [s.inbox.isEmpty && s.sysc.stage != 15, (chooseStrand s).running == [⟨0, 0⟩],
     (match s.waves[0]? with
       | some v => (match v.thread 0 with
         | some t => (match fetchWord (chooseStrand s) v t.wordPc.toNat with
           | .ok _ x => (match decodeNat x with | .ok i => WellFormed i | _ => false)
           | _ => false)
         | none => false)
       | none => false),
     mayGoOn (chooseStrand s) ⟨0, 0⟩ && (firstStep s 0 (keptAtomics s)).isNone, mappedAt s 0 0x10008 false && s.partials.isEmpty,
     s.poison.isEmpty && s.corrupt.isEmpty && s.stale.all (·.dirty) && s.flights.all (fun f => f.kind != .engine || !f.perf),
     ({ State.reset with sysc := { Sysc.reset with stage := 15, attstat := 1 } } : State).inbox.isEmpty,
     step1.inbox.length == 1 && (encodeNat .correctedError).isNone && WellFormed .correctedError && step1.sysc.stage != 15]) = true := by
  decide +kernel

/-- Whether a word has a context that meets `p`. -/
def ctxHere (s : State) (i : Instr) (p : Ctx → Bool) : Bool :=
  match ctxOf s i with
  | some c => (encodeNat i).isSome && WellFormed i && p c
  | none => false

/-- A word that the slice or the mode forbids, an absent register, a divergent predicate, no active lane, a word that no region admits. -/
theorem witness_WordsAreCheckedInOrder : allOf (
    let add : V3 := ⟨0, 0, 3, 4, 0, 5, 0, 0, 0, 0⟩
    let lds : MWord := ⟨0, 0, 8, 6, 0, 0, 2, 0, 0, 0⟩
    let few := modWave (base []) 0 fun v => { v with nregs := 5 }
    let pred : Instr := .amov ⟨1, 4, 2, 0, 0, 6, 0, 0, 0, 0⟩
    let bad := fun (c : Ctx) (i : Instr) => (c.acc && !accessOk i) || (handlerWord i && !c.st.handler)
    [ctxHere (inAccess 0) (.iadd add) (fun c => bad c (.iadd add)), ctxHere (base []) (.eret ⟨0, 0, 0, 0, 0⟩) (fun c => bad c (.eret ⟨0, 0, 0, 0, 0⟩)),
     ctxHere few (.iadd add) (fun c => !bad c (.iadd add) && stateIllegal few c (.iadd add)),
     ctxHere (inAccessRow [1]) pred (fun c => !bad c pred && !stateIllegal (inAccessRow [1]) c pred && divergent c pred),
     ctxHere (base []) (.iadd ⟨1, 9, 3, 4, 0, 5, 0, 0, 0, 0⟩) (fun c => c.act == 0 && c.region.isNone),
     ctxHere inRegion (.lds lds) (fun c => c.act != 0 && c.region.isSome && !regionOk (.lds lds) && !isArbeg (.lds lds))]) = true := by
  decide +kernel

/-- A strand of all lanes in which lanes 0 and 7 fault. -/
theorem witness_FaultedLanesStayAtTheWord :
    ctxHere (base []) (.iadd ⟨0, 0, 3, 4, 0, 5, 0, 0, 0, 0⟩) (fun c => !c.acc && decide (c.n < 8)
      && c.v.strands.filter (fun t => t.num == c.n) == [c.st] && c.ex == c.st.mask && c.ex.getLsbD 0 && c.ex.getLsbD 7) = true := by
  decide +kernel

/-- A strand parked on faults of two causes, and a trap base. -/
theorem witness_TrapEntryDelivers : allOf (
    let fs := [laneFault 0 .desc, laneFault 7 .misalign 0x10102 true .global]
    let s := setHreg (parked (base []) fun t => { t with park := .fault 3 fs }) 0 0x020 0x30000
    let lanes := maskOf fun l => (0xFF : Mask).getLsbD l && fs.any fun g => g.lane == l && g.cause == .desc
    [(match s.waves[0]? with
       | some v => (match v.nextFault with | some t => decide (t.num < 8) && t.faults == (3, fs) && t.faulted | none => false)
       | none => false),
     topFault fs == some (laneFault 0 .desc), hreg s 0 0x020 != 0, lanes == 0x01,
     (fs.filter fun g => g.cause == .desc && lanes.getLsbD g.lane).head? == some (laneFault 0 .desc)]) = true := by decide +kernel

/-- A handler's strand with the strand it set aside. -/
theorem witness_TrapReturnResumes : allOf (
    let s := asHandler (modWave (base []) 0 fun v => { v with trap := some { aside := [loneStrand .v], isAccess := false, mask := 0xFF, hi := 0, back := 0, served := false } })
    [(match s.waves[0]? with
       | some v => (match v.trap with | some e => !e.isAccess && e.aside == [loneStrand .v] | none => false)
         && (match v.strands.filter (fun t => t.handler), v.strands.filter (fun t => t.num == 0) with
           | [h], [g] => h == g && h.num == 0
           | _, _ => false)
       | none => false), !(loneStrand .v).handler]) = true := by decide +kernel

/-- What `plainly` asks. -/
def plainHere (s : State) (c : Ctx) : Bool :=
  s.mem.wf && Sparse.wf (α := Byte) 0 s.vault && s.partials.isEmpty && s.poison.isEmpty && s.pairs.isEmpty && !s.sysc.featack.getLsbD 4
    && !c.st.handler && !c.v.strands.isEmpty
    && s.hanks.toList.all (·.keeper.isNone) && s.stale.all (·.dirty)

/-- A state with registers 6 and 8 set, a VER or CFMT page where asked, a vault and a live ply. -/
def plainBase (bits : Nat) : State := withVault (withLeaf (base [(6, 0x10100), (8, 0xDEADBEEF)]) (leafBits + bits))

/-- Whether a word runs in a plain state and goes on. -/
def plainGoes (s : State) (i : Instr) : Bool := runsHere s i fun _ c => plainHere s c && goes i s

/-- What every frame asks: a live wave with a strand, no pair, a word that runs and goes on. -/
theorem witness_NothingElseChangesAfterAWord : allOf [
    runsHere (base []) (.nop ⟨0, 0, 0, 0, 0⟩) (fun u c => (match u.waves[c.w]? with
      | some v => v.phase == .live && !v.strands.isEmpty
      | none => false) && u.pairs.isEmpty && u.poison.isEmpty && u.hanks.toList.all (·.keeper.isNone))] = true := by decide +kernel

/-- A word of each of the classes V, F and A. -/
theorem witness_RegisterWordsFrame : allOf [
    plainGoes (base [(4, 1)]) (.iadd ⟨0, 0, 3, 4, 0, 5, 0, 0, 0, 0⟩), plainGoes (base [(4, 1)]) (.fadd ⟨0, 0, 3, 4, 0, 5, 0, 0, 0, 0⟩),
    plainGoes (base [(4, 1)]) (.lred ⟨0, 0, 3, 4, 0, 0, 0, 0, 0, 0⟩), plainGoes (inAccess 7) (.amov ⟨0, 0, 2, 4, 0, 6, 0, 0, 0, 0⟩)] = true := by
  decide +kernel

/-- Cluster 0 alone, the L2 copy of line 3, and cluster 0's L1 copy of it with a count. -/
def withCopy (count : Nat) : State :=
  { State.reset with
    sysc := { Sysc.reset with enmask := 1 }, l2 := [{ hank := 0, ply := 0, line := 3 }]
    l1 := [{ cluster := 0, hank := 0, ply := 0, line := 3, count := count, owned := false }] }

/-- R354's example: a G96 whose clusters 0, 13, 14 and 27 are disabled, PA 0x123456780. -/
theorem test_line_maps :
    (let s := { State.reset with sysc := { Sysc.reset with enmask := 0x7FF9FFE } }
     (tiles s).length = 96 ∧ homeTile s 0x2468ACF = 11) ∧ sliceTile 5 0x2468ACF = 10 ∧ channelOf 0x2468ACF = 0 := by decide +kernel

/-- A line with an enabled tile, the last cluster, and copies that a load hits last, before last, without a count, and not at all. -/
theorem witness_LinesFollowTheirMaps : allOf (
    let held := fun (s : State) => s.l2.any fun e => sameLine 0 0 3 e.hank e.ply e.line
    let found := fun (s : State) => s.l1.find? fun e => e.cluster == 0 && sameLine 0 0 3 e.hank e.ply e.line
    [tiles (withCopy 0) == [0, 1, 14, 15], held (withCopy 0), byL1 0 0 (loadRc 0 6), byL2 0 0, (found (withCopy 0)).map (·.count) == some 0,
     (found (withCopy 1)).map (·.count) == some 1, (found (withCopy 6)).map (·.count) == some 6,
     (found { withCopy 0 with l1 := [] }).isNone]) = true := by decide +kernel

/-- Each access of lane 0 at a mapped address goes on. -/
theorem witness_LaneAccessesFrame : allOf (
    let go := fun {α : Type} (r : LaneStep α) => match r with | .go _ _ => true | _ => false
    let x : MWord := ⟨0, 0, 0, 6, 0, 4 * 64, 2, 0, 0, 1⟩
    [runsHere (plainBase 0x100) (.cadd x) (fun u c => plainHere u c && casA c x 0 == 0x10100
       && (match Machine.translate u c.v.hank 0x10100 4 true with | .ok (.mem _) => true | _ => false)
       && go (loadLane u c 0 0x10100 4 .global 0) && go (storeLane u c 0 0x10100 [1, 2, 3, 4])
       && go (rmwLane u c 0 0x10100 4 fun _ => some 1) && go (caddLane u c x 0))]) = true := by decide +kernel

/-- The loads. -/
theorem witness_LoadWordsFrame : allOf (
    let x : MWord := ⟨0, 0, 8, 6, 0, 0, 2, 5, 0, 0⟩
    let y : MWord := ⟨0, 0, 8, 6, 0, 0, 2, 0, 0, 0⟩
    [plainGoes (plainBase 0) (.ld x), plainGoes (plainBase 0) (.ldk y), plainGoes (withVault (base [(6, 0x100)])) (.lds y),
     plainGoes (plainBase 0) (.ldv y)]) = true := by decide +kernel

/-- The stores. -/
theorem witness_StoreWordsFrame : allOf (
    let x : MWord := ⟨0, 0, 8, 6, 0, 0, 2, 5, 0, 0⟩
    let y : MWord := ⟨0, 0, 8, 6, 0, 0, 2, 0, 0, 0⟩
    [plainGoes (plainBase 0) (.st x), plainGoes (withVault (base [(6, 0x100)])) (.sts y), plainGoes (plainBase 0) (.stv y)]) = true := by
  decide +kernel

/-- The atomics: performed, deferred, on scratch and partial. -/
theorem witness_AtomicWordsFrame : allOf (
    let x : MWord := ⟨0, 0, 3, 6, 0, 4 * 64, 2, 0, 0, 0⟩
    let y : MWord := ⟨0, 0, 3, 6, 0, 4 * 64, 2, 5, 0, 0⟩
    let z : MWord := ⟨0, 0, 0, 6, 0, 4 * 64, 2, 0, 0, 1⟩
    [plainGoes (plainBase 0) (.atom x), plainGoes (plainBase 0) (.acas x), plainGoes (inPly (plainBase 0)) (.atom y),
     plainGoes (inPly (plainBase 0)) (.acas y), plainGoes (withVault (base [(6, 0x100)])) (.atoms x), plainGoes (plainBase 0x100) (.cadd z)]) = true := by
  decide +kernel

end Sys2Proof.Tests
end

section
/-! SUPPORT. What a word that only writes registers leaves alone (01 R9, R13, 04 R91), said once: a relation between waves and one between
states that each part of such a word keeps, from its first write to what follows it. -/

namespace Sys2Proof.RegisterFrame

open Sys2Proof Sys2Proof.Machine Sys2Proof.Laws

/-! ### Rows and registers -/

/-- A lane of a row given by its lanes. -/
theorem lane_rowOf (f : Nat → Word) {l : Nat} (h : l < 8) : Row.lane (rowOf f) l = f l := by
  interval_cases l <;> rfl

/-- A lane that is not written keeps its value (R13). -/
theorem lane_mergeRow_of_inactive {m : Mask} {l : Nat} (old new : Row) (h : l < 8) (hm : m.getLsbD l = false) :
    Row.lane (mergeRow m old new) l = Row.lane old l := by
  simp [mergeRow, lane_rowOf _ h, hm]

/-- A place of a vector after a write: the value written, where that is the place and it exists. -/
theorem getD_setIfInBounds {α : Type} {n : Nat} (xs : Vector α n) (r k : Nat) (x d : α) :
    (xs.setIfInBounds r x)[k]?.getD d = if r = k ∧ k < n then x else xs[k]?.getD d := by
  rw [Vector.getElem?_setIfInBounds]
  by_cases hr : r = k
  · subst hr
    by_cases hn : r < n <;> simp [hn]
  · simp [hr]

/-- A masked write of a register keeps the other registers and the other lanes (R13), in the wave and in the access thread. -/
theorem lane_file_put (v : Wave) (acc : Bool) (m : Mask) (d : Nat) (row : Row) {r l : Nat} (hl : l < 8)
    (h : r ≠ d ∨ m.getLsbD l = false) : Row.lane ((v.put acc m d row).file acc r) l = Row.lane (v.file acc r) l := by
  have written (old : Row) : d = r → Row.lane (mergeRow m old row) l = Row.lane old l := fun hd =>
    lane_mergeRow_of_inactive _ _ hl (h.resolve_left fun hne => hne hd.symm)
  cases acc with
  | false =>
    simp only [Wave.put, Wave.file, Wave.reg, setReg_regs, Bool.false_eq_true, ↓reduceIte, getD_setIfInBounds]
    split
    · next hd => rw [written _ hd.1, hd.1]
    · rfl
  | true =>
    simp only [Wave.put, Wave.file, ↓reduceIte]
    cases v.access with
    | none => rfl
    | some t =>
      simp only [Option.map_some, AccessThread.setReg, AccessThread.reg, getD_setIfInBounds]
      split
      · next hd => rw [written _ hd.1, hd.1]
      · rfl

/-- A register of the access thread, or 0 where the wave has none (R22). -/
theorem file_access (v : Wave) (r : Nat) :
    v.file true r = ((v.access.map AccessThread.regs).bind (·[r]?)).getD (Word.splat 0) := by
  simp only [Wave.file, ↓reduceIte]
  cases v.access <;> rfl

@[simp] theorem put_fcr (v : Wave) (acc : Bool) (m : Mask) (r : Nat) (row : Row) : (v.put acc m r row).fcr = v.fcr := by
  cases acc <;> rfl

@[simp] theorem put_strands (v : Wave) (acc : Bool) (m : Mask) (r : Nat) (row : Row) : (v.put acc m r row).strands = v.strands := by
  cases acc <;> rfl

/-! ### The wave -/

/-- `u` with the parts of `v` that a word of registers and what follows it may change. -/
def wordPartsOf (v u : Wave) : Wave :=
  { u with strands := v.strands, flags := v.flags, tokens := v.tokens, trap := v.trap, access := v.access, regs := v.regs
           affine := v.affine, drowsy := v.drowsy, fcr := v.fcr, latch := v.latch, finish := v.finish }

/-- `v'` is `v` but for the registers `ds` in the active lanes of `c`, further sticky bits of `%fcr` where `P` allows them (R91), and the
parts that say how far its strands have come. -/
structure WaveFrame (c : Ctx) (ds : List Nat) (P : Prop) (v v' : Wave) : Prop where
  parts : wordPartsOf v v' = v
  lanes : ∀ r l, l < 8 → r ∉ ds ∨ c.act.getLsbD l = false → Row.lane (v'.file c.acc r) l = Row.lane (v.file c.acc r) l
  files : if c.acc then v'.regs = v.regs else v'.access = v.access
  sticky : v'.fcr &&& v.fcr = v.fcr
  clean : ¬P → v'.fcr = v.fcr

/-- The same until the word's strand moves on: a wave with a strand keeps one. -/
structure WordFrame (c : Ctx) (ds : List Nat) (P : Prop) (v v' : Wave) : Prop extends WaveFrame c ds P v v' where
  strands : v.strands ≠ [] → v'.strands ≠ []

section
variable {c : Ctx} {ds : List Nat} {P : Prop}

theorem WordFrame.refl (v : Wave) : WordFrame c ds P v v :=
  ⟨⟨rfl, fun _ _ _ _ => rfl, by split <;> rfl, BitVec.and_self, fun _ => rfl⟩, id⟩

theorem WaveFrame.trans {v v' v'' : Wave} (h : WaveFrame c ds P v v') (h' : WaveFrame c ds P v' v'') : WaveFrame c ds P v v'' where
  parts := (congrArg (wordPartsOf v) h'.parts).trans h.parts
  lanes r l hl hr := (h'.lanes r l hl hr).trans (h.lanes r l hl hr)
  files := by
    have h1 := h.files
    have h2 := h'.files
    split
    · next hc =>
      rw [if_pos hc] at h1 h2
      exact h2.trans h1
    · next hc =>
      rw [if_neg hc] at h1 h2
      exact h2.trans h1
  sticky := by
    calc v''.fcr &&& v.fcr = v''.fcr &&& (v'.fcr &&& v.fcr) := by rw [h.sticky]
      _ = v'.fcr &&& v.fcr := by rw [← BitVec.and_assoc, h'.sticky]
      _ = v.fcr := h.sticky
  clean hP := (h'.clean hP).trans (h.clean hP)

theorem WordFrame.trans {v v' v'' : Wave} (h : WordFrame c ds P v v') (h' : WordFrame c ds P v' v'') : WordFrame c ds P v v'' :=
  ⟨h.toWaveFrame.trans h'.toWaveFrame, h'.strands ∘ h.strands⟩

/-- A change of a wave that keeps its registers, the access thread's with them, and `%fcr`. -/
theorem WaveFrame.of_same {v v' : Wave} (hp : wordPartsOf v v' = v) (hr : v'.regs = v.regs)
    (ha : if c.acc then v'.access.map AccessThread.regs = v.access.map AccessThread.regs else v'.access = v.access)
    (hf : v'.fcr = v.fcr) : WaveFrame c ds P v v' where
  parts := hp
  lanes r l _ _ := by
    cases hc : c.acc with
    | false => simp only [Wave.file, Wave.reg, hr, Bool.false_eq_true, ↓reduceIte]
    | true =>
      rw [if_pos hc] at ha
      rw [file_access, file_access, ha]
  files := by
    split
    · exact hr
    · next hc => simpa [hc] using ha
  sticky := by rw [hf, BitVec.and_self]
  clean _ := hf

/-- A masked write of a destination register (R13). -/
theorem WordFrame.put (v : Wave) {d : Nat} (hd : d ∈ ds) (row : Row) : WordFrame c ds P v (v.put c.acc c.act d row) where
  parts := by cases c.acc <;> rfl
  lanes r l hl h := lane_file_put v c.acc c.act d row hl (h.imp_left fun hr e => hr (e ▸ hd))
  files := by cases c.acc <;> rfl
  sticky := by rw [put_fcr, BitVec.and_self]
  clean _ := put_fcr v c.acc c.act d row
  strands h := by rwa [put_strands]

/-- Setting sticky bits of `%fcr` keeps those that are set (R91). -/
theorem WordFrame.raise (v : Wave) {f : BitVec 9} (hf : P ∨ f = 0) : WordFrame c ds P v { v with fcr := v.fcr ||| f } where
  parts := rfl
  lanes _ _ _ _ := rfl
  files := by split <;> rfl
  sticky := by
    ext k hk
    simp only [BitVec.getElem_and, BitVec.getElem_or]
    cases v.fcr[k] <;> simp
  clean hP := by rw [hf.resolve_left hP]; exact BitVec.or_zero
  strands := id

/-- A change of a strand of a wave, or of its access thread's. -/
theorem WordFrame.modThread (v : Wave) {n : Nat} (hn : c.acc = (n == 8)) (f : Strand → Strand) :
    WordFrame c ds P v (v.modThread n f) := by
  unfold Wave.modThread
  split
  · next h8 =>
    have hc : c.acc = true := by simp [hn, h8]
    refine ⟨.of_same rfl rfl ?_ rfl, id⟩
    simp only [hc, ↓reduceIte, Option.map_map]
    rfl
  · refine ⟨.of_same rfl rfl (by split <;> rfl) rfl, fun h => ?_⟩
    simpa using h

/-- A change of the strands alone. -/
theorem WordFrame.of_strands (v : Wave) {ts : List Strand} (h : v.strands ≠ [] → ts ≠ []) : WordFrame c ds P v { v with strands := ts } :=
  ⟨.of_same rfl rfl (by split <;> rfl) rfl, h⟩

/-- Added strands. -/
theorem WordFrame.addStrands (v : Wave) (ts : List Strand) : WordFrame c ds P v (v.addStrands ts) := by
  unfold Wave.addStrands
  induction ts generalizing v with
  | nil => exact .refl v
  | cons t ts ih => exact (WordFrame.of_strands v (by simp)).trans (ih _)

/-- Lanes that go on and lanes that stop: strands alone change (R53). -/
theorem WordFrame.splitStops (v : Wave) (st : Stops) (stamp : Nat) (hn : c.acc = (c.n == 8)) :
    WordFrame c ds P v (splitStops v c st stamp) := by
  unfold Machine.splitStops
  split
  · next hc => exact .modThread v hc _
  · dsimp only
    split
    · exact (WordFrame.modThread v hn _).trans (.addStrands _ _)
    · split
      · exact .refl v
      · exact (WordFrame.modThread v hn _).trans (.addStrands _ _)

end

/-! ### The state -/

/-- `t` is `s` but for wave `w`, which changes as `R` says, the strands that a barrier lets go on in others, and the schedule, poison marks
and barriers. -/
structure StateFrame (w : Nat) (R : Wave → Wave → Prop) (s t : State) : Prop where
  units : sameUnits s t
  others : sameOthers s t w
  wave : ∀ v, s.waves[w]? = some v → ∃ v', t.waves[w]? = some v' ∧ R v v'

section
variable {w : Nat} {R R' R'' : Wave → Wave → Prop} {s t u : State}

/-- A change of the schedule, of poison marks and of barriers. -/
theorem StateFrame.of_units (hR : ∀ v, R v v) (hu : sameUnits s t) (hw : t.waves = s.waves) : StateFrame w R s t where
  units := hu
  others := ⟨by rw [hw], fun k v _ hv => ⟨v, by rw [hw, hv], rfl⟩⟩
  wave v hv := ⟨v, by rw [hw, hv], hR v⟩

theorem StateFrame.comp (h : StateFrame w R s t) (h' : StateFrame w R' t u) (hR : ∀ v v' v'', R v v' → R' v' v'' → R'' v v'') :
    StateFrame w R'' s u where
  units := by
    have e := congrArg (fun x : State => { x with running := s.running, progress := s.progress, poison := s.poison
                                                  barriers := s.barriers, waves := s.waves }) h'.units
    unfold sameUnits
    exact e.trans h.units
  others := by
    obtain ⟨hn, hk⟩ := h.others
    obtain ⟨hn', hk'⟩ := h'.others
    refine ⟨hn'.trans hn, fun k v hne hv => ?_⟩
    obtain ⟨v1, h1, e1⟩ := hk k v hne hv
    obtain ⟨v2, h2, e2⟩ := hk' k v1 hne h1
    have e := congrArg (fun x : Wave => { x with strands := v.strands, trap := v.trap }) e2
    exact ⟨v2, h2, e.trans e1⟩
  wave v hv := by
    obtain ⟨v1, h1, f1⟩ := h.wave v hv
    obtain ⟨v2, h2, f2⟩ := h'.wave v1 h1
    exact ⟨v2, h2, hR _ _ _ f1 f2⟩

/-- A change of one wave. -/
theorem StateFrame.modWave (s : State) {f : Wave → Wave} (h : ∀ v, R v (f v)) : StateFrame w R s (modWave s w f) where
  units := rfl
  others := ⟨length_modWave s w f, fun k v hk hv => ⟨v, by rw [getElem?_modWave, if_neg (Ne.symm hk), hv], rfl⟩⟩
  wave v hv := ⟨f v, by rw [getElem?_modWave, if_pos rfl, hv]; rfl, h v⟩

end

/-- What a word of registers has changed before its strand moves on. -/
abbrev Writes (c : Ctx) (ds : List Nat) (P : Prop) : State → State → Prop := StateFrame c.w (WordFrame c ds P)

section
variable {c : Ctx} {ds : List Nat} {P : Prop} {s t u : State}

theorem Writes.refl (s : State) : Writes c ds P s s := .of_units WordFrame.refl rfl rfl

theorem Writes.trans (h : Writes c ds P s t) (h' : Writes c ds P t u) : Writes c ds P s u := h.comp h' fun _ _ _ => .trans

/-- A masked write of a destination register. -/
theorem Writes.put (s : State) {d : Nat} (hd : d ∈ ds) (f : Nat → Word) : Writes c ds P s (c.put s d f) :=
  .modWave s fun v => .put v hd _

/-- A masked write of a destination pair. -/
theorem Writes.put64 (s : State) {d : Nat} (hd : d ∈ ds) (hd' : d + 1 ∈ ds) (f : Nat → DWord) : Writes c ds P s (c.put64 s d f) :=
  (Writes.put s hd _).trans (.put _ hd' _)

/-- Sticky bits set, or none to set. -/
theorem Writes.raiseFcr (s : State) {f : BitVec 9} (hf : P ∨ f = 0) : Writes c ds P s (raiseFcr s c.w f) :=
  .modWave s fun v => .raise v hf

/-- The results of a float word with their flags (R91). -/
theorem Writes.floatRow (s : State) {d : Nat} (hd : d ∈ ds) (hP : P) (f : Nat → Nat × BitVec 9) :
    Writes c ds P s (floatRow c s d f) :=
  (Writes.put s hd _).trans (.raiseFcr _ (.inl hP))

/-- The results of a conversion with their flags and seeds (R138). -/
theorem Writes.convRow (s : State) {x : V3} (hP : P) (f : Nat → (Nat × BitVec 9) × Word) :
    Writes c x.srDst P s (convRow c s x f) := by
  unfold Machine.convRow V3.srDst
  split
  · exact (Writes.floatRow s List.mem_cons_self hP _).trans (.put _ (by simp) _)
  · exact .floatRow s List.mem_cons_self hP _

/-- The mark of an affine pair (R30). -/
theorem Writes.markAffine (s : State) (r : Nat) (f : Nat → DWord) : Writes c ds P s (markAffine s c r f) := by
  unfold Machine.markAffine
  dsimp only
  split
  · exact .refl s
  · split
    · next hc =>
      refine .modWave s fun v => ⟨.of_same rfl rfl ?_ rfl, id⟩
      simp only [hc, ↓reduceIte, Option.map_map]
      rfl
    · exact .modWave s fun v => ⟨.of_same rfl rfl (by split <;> rfl) rfl, id⟩

/-- The results of an affine word (R128). -/
theorem Writes.affineRow (s : State) {d : Nat} (hd : d ∈ ds) (hd' : d + 1 ∈ ds) (f : Nat → DWord) :
    Writes c ds P s (affineRow c s d f) :=
  (Writes.put64 s hd hd' f).trans (.markAffine _ d f)

/-- Banks that a word reaches wake (R36). -/
theorem Writes.wakeBanks (s : State) (i : Instr) : Writes c ds P s (wakeBanks s c i) := by
  have wake (rs : List Nat) : Writes c ds P s (Machine.modWave s c.w fun v => v.wake rs) := by
    refine .modWave s fun v => ?_
    unfold Wave.wake
    split
    · exact .refl v
    · exact ⟨.of_same rfl rfl (by split <;> rfl) rfl, id⟩
  unfold Machine.wakeBanks wakePred
  split
  · split
    · exact .refl s
    · exact wake _
  · split
    · exact .refl s
    · exact wake _

/-- What a word does to the poison of its destinations (R421). -/
theorem Writes.clearRegPoison (s : State) (c' : Ctx) (i : Instr) : Writes c ds P s (clearRegPoison s c' i) := by
  have h := (clearRegPoison_units s c' i).1
  have hu := congrArg (fun x : State => { x with running := s.running, progress := s.progress, poison := s.poison
                                                 barriers := s.barriers, waves := s.waves }) h
  have hw := congrArg State.waves h
  exact .of_units WordFrame.refl hu hw

/-- The strand's turn passes, and the registers of before the word are latched (R117). -/
theorem Writes.rotate (s : State) : Writes c ds P s (rotate s c) := by
  have latched (s : State) (f : Wave → Option Latch) : Writes c ds P s (Machine.modWave s c.w fun v => { v with latch := f v }) :=
    .modWave s fun v => ⟨.of_same rfl rfl (by split <;> rfl) rfl, id⟩
  unfold Machine.rotate
  refine Writes.trans ?_ (latched _ _)
  split
  · exact .of_units WordFrame.refl rfl rfl
  · exact .refl s

/-- What follows a word of a live wave that keeps a strand, where no pair and no keep waits (R48, R193, R197). -/
theorem bump_settle_stateFrame {v : Wave} (hv : s.waves[c.w]? = some v) (hl : v.phase = .live) (hs : v.strands ≠ []) (hp : nothingWaits s) :
    StateFrame c.w (WaveFrame c ds P) s (bump (settle s c.w)) := by
  obtain ⟨hu, -, ho, v', hv', e⟩ := settle_frame hv hl hs hp
  refine ⟨hu, ho, fun u hu' => ⟨v', hv', ?_⟩⟩
  obtain rfl : v = u := Option.some.inj (hv.symm.trans hu')
  have hparts := congrArg (wordPartsOf v) e
  have hregs := congrArg Wave.regs e
  have haccess := congrArg Wave.access e
  have hfcr := congrArg Wave.fcr e
  refine .of_same hparts hregs ?_ hfcr
  split
  · exact congrArg (Option.map AccessThread.regs) haccess
  · exact haccess

/-! ### The word's answer -/

/-- A word's answer that writes registers, and in which no lane stops for poison it consumes, which would leave a record or restart a region
(R267, R422). -/
def Framed (c : Ctx) (ds : List Nat) (P : Prop) (s : State) (r : Res) : Prop :=
  ∃ t st, r = .done t st ∧ Writes c ds P s t ∧ ∀ f ∈ st.faults, f.cause ≠ .uncorrectable

/-- A word that is done in every lane. -/
theorem Framed.ok (h : Writes c ds P s t) : Framed c ds P s (.ok t) := ⟨t, Stops.none, rfl, h, by simp [Stops.none]⟩

/-- A word that faults in every lane, and not for poison. -/
theorem Framed.fault (s : State) {cause : Cause} (h : cause ≠ .uncorrectable) : Framed c ds P s (c.fault s cause) :=
  ⟨s, c.faultAll cause, rfl, .refl s, by simpa [Ctx.faultAll, laneFault, Stops.none] using fun _ _ => h⟩

/-- Faults for other causes than poison restart no lane. -/
theorem idemLanes_of_unpoisoned {fs : List LaneFault} (h : ∀ f ∈ fs, f.cause ≠ .uncorrectable) : idemLanes c fs = 0 := by
  have hf : (fs.filter fun f => f.cause == .uncorrectable) = [] := List.filter_eq_nil_iff.2 fun f hf => by simpa using h f hf
  unfold idemLanes
  simp only [hf, List.map_nil, maskOfList_nil]
  split
  · split
    · rfl
    · exact BitVec.and_zero
  · rfl

/-- Faults for other causes than poison leave no CONSUMED record. -/
theorem consumedRecords_of_unpoisoned {fs : List LaneFault} (h : ∀ f ∈ fs, f.cause ≠ .uncorrectable) (m : Mask) :
    consumedRecords s c m fs = s := by
  have hn (b : Bool) : (fs.find? fun f => f.cause == .uncorrectable && m.getLsbD f.lane == b) = none :=
    List.find?_eq_none.2 fun f hf => by simp [h f hf]
  simp only [consumedRecords, List.foldl_cons, List.foldl_nil, hn]

/-- What becomes of the lanes of a word that wrote registers: poison marks, the strands and their turn; then what follows every word. -/
theorem finishDone_writes {s0 : State} {i : Instr} {st : Stops} (hr : c.region = none) (hh : c.st.handler = false)
    (hn : c.acc = (c.n == 8)) (hf : ∀ f ∈ st.faults, f.cause ≠ .uncorrectable) :
    ∃ u, finishDone s0 s c i st = .next (bump (settle u c.w)) ∧ Writes c ds P s u := by
  have moved (st : Stops) (c' : Ctx) : Writes c ds P s
      (rotate (modWave (clearRegPoison s c' i) c.w fun v =>
        if v.phase = .live then splitStops v c st (clearRegPoison s c' i).progress else v) c) := by
    refine ((Writes.clearRegPoison s c' i).trans (.modWave _ fun v => ?_)).trans (.rotate _)
    split
    · exact .splitStops v st _ hn
    · exact .refl v
  simp only [finishDone, hr, hh, idemLanes_of_unpoisoned hf, consumedRecords_of_unpoisoned hf, Bool.false_and, Bool.false_eq_true,
    ↓reduceIte, conclude]
  cases c.v.idem with
  | none => exact ⟨_, rfl, moved _ _⟩
  | some r => exact ⟨_, rfl, moved _ _⟩

/-- The wave of a word that issues is live. -/
theorem live_of_ctxOf {i : Instr} {v : Wave} (h : ctxOf s i = some c) (hv : s.waves[c.w]? = some v) : v.phase = .live := by
  simp only [ctxOf] at h
  split at h
  · cases h
  · split at h
    · cases h
    · next hr =>
      split at h
      · cases h
      · split at h
        · next hl =>
          simp only [Option.some.injEq] at h
          subst h
          obtain rfl := Option.some.inj (hr.symm.trans hv)
          simp only [Bool.and_eq_true, beq_iff_eq] at hl
          exact hl.2
        · cases h

/-- Where no pair and no keep waits, none does in a state with the same units. -/
theorem nothingWaits_of_sameUnits (h : sameUnits s t) (hp : nothingWaits s) : nothingWaits t := by
  have hpairs := congrArg State.pairs h
  have hhanks := congrArg State.hanks h
  unfold nothingWaits
  rw [show t.pairs = s.pairs from hpairs, show t.hanks = s.hanks from hhanks]
  exact hp

/-- A word that runs and writes registers changes nothing else (R9, R13). -/
theorem issue_stateFrame {i : Instr} {body : State → Ctx → Res} {v : Wave} (hrun : runs s c i = true) (hv : s.waves[c.w]? = some v)
    (hh : c.st.handler = false) (hs : v.strands ≠ []) (hp : nothingWaits s) (hb : ∀ u, Framed c ds P u (body u c))
    (ht : issue s i body = .next t) : StateFrame c.w (WaveFrame c ds P) s t := by
  have hctx := ctxOf_of_runs hrun
  obtain ⟨u, st, hu, hw, hf⟩ := hb (wakeBanks s c i)
  obtain ⟨u', hd, hw'⟩ := finishDone_writes (s0 := wakeBanks s c i) (i := i) (s := u) (ds := ds) (P := P) (region_of_runs hrun) hh
    (num_of_ctxOf hctx).1 hf
  have hwrites : Writes c ds P s u' := ((Writes.wakeBanks s i).trans hw).trans hw'
  obtain ⟨v', hv', hframe⟩ := hwrites.wave v hv
  have hlive : v'.phase = .live := (congrArg Wave.phase hframe.parts).trans (live_of_ctxOf hctx hv)
  have hsettle := bump_settle_stateFrame (ds := ds) (P := P) hv' hlive (hframe.strands hs) (nothingWaits_of_sameUnits hwrites.units hp)
  obtain rfl : bump (settle u' c.w) = t := by
    rw [issue_finish hrun, hu] at ht
    exact Host.Outcome.next.inj (hd.symm.trans ht)
  exact hwrites.comp hsettle fun _ _ _ h h' => h.toWaveFrame.trans h'

end

/-! ### The words -/

/-- A word that writes its destination registers, with sticky bits where `P` allows them. -/
def RegisterWord (i : Instr) (P : Prop) : Prop :=
  ∃ body : State → Ctx → Res, (∀ s, exec i s = issue s i body) ∧ ∀ s c, Framed c (dsts i) P s (body s c)

section
variable {i : Instr} {P : Prop} {d : Nat}

/-- A word that writes one register. -/
theorem RegisterWord.of_put {f : Ctx → Nat → Word} (he : ∀ s, exec i s = issue s i fun s c => .ok (c.put s d (f c)))
    (hd : dsts i = [d]) : RegisterWord i P :=
  ⟨_, he, fun s _ => hd ▸ .ok (.put s List.mem_cons_self _)⟩

/-- A float word that writes one register and its flags (R91). -/
theorem RegisterWord.of_floatRow {f : Ctx → Nat → Nat × BitVec 9} (he : ∀ s, exec i s = issue s i fun s c => .ok (floatRow c s d (f c)))
    (hd : dsts i = [d]) (hP : P) : RegisterWord i P :=
  ⟨_, he, fun s _ => hd ▸ .ok (.floatRow s List.mem_cons_self hP _)⟩

/-- A conversion that may write its seed beside its result (R138). -/
theorem RegisterWord.of_convRow {x : V3} {f : Ctx → Nat → (Nat × BitVec 9) × Word}
    (he : ∀ s, exec i s = issue s i fun s c => .ok (convRow c s x (f c))) (hd : dsts i = x.srDst) (hP : P) : RegisterWord i P :=
  ⟨_, he, fun s _ => hd ▸ .ok (.convRow s hP _)⟩

/-- An affine word that writes a pair (R128). -/
theorem RegisterWord.of_affineRow {f : Ctx → Nat → DWord} (he : ∀ s, exec i s = issue s i fun s c => .ok (affineRow c s d (f c)))
    (hd : dsts i = [d, d + 1]) : RegisterWord i P :=
  ⟨_, he, fun s _ => hd ▸ .ok (.affineRow s (by simp) (by simp) _)⟩

end

section
variable {P : Prop} (x : V3)

/-- CVTF writes D, or D and D + 1 where the result has 64 bits (R148). -/
theorem registerWord_cvtf (hP : P) : RegisterWord (.cvtf x) P := by
  refine ⟨_, fun _ => rfl, fun s c => .ok ?_⟩
  change Writes c (if x.c.toNat / 4 < 2 then [x.d.toNat] else pairRegs x.d) P s _
  split
  · exact .floatRow s List.mem_cons_self hP _
  · exact (Writes.floatRow s List.mem_cons_self hP _).trans (.put _ (by simp) _)

/-- The stops that narrow words share are not for poison (R102, R149). -/
theorem narrowStop_ne_uncorrectable {c : Ctx} {scales : List Nat} {cause : Cause} (h : narrowStop c x scales = some cause) :
    cause ≠ .uncorrectable := by
  unfold narrowStop at h
  dsimp only at h
  split at h
  · cases h
    decide
  · split at h
    · cases h
      decide
    · cases h

/-- PKN writes D, and the seed under RND 6 (R150). -/
theorem registerWord_pkn (hP : P) : RegisterWord (.pkn x) P := by
  refine ⟨_, fun _ => rfl, fun s c => ?_⟩
  dsimp only
  split
  · next h => exact .fault s (narrowStop_ne_uncorrectable x h)
  · exact .ok (.convRow s hP _)

/-- UPKN writes the quad D (R151). -/
theorem registerWord_upkn (hP : P) : RegisterWord (.upkn x) P := by
  refine ⟨_, fun _ => rfl, fun s c => ?_⟩
  dsimp only
  split
  · next h => exact .fault s (narrowStop_ne_uncorrectable x h)
  · have slot (s : State) (k : Nat) (hk : x.d.toNat + k ∈ quadRegs x.d) (f : Nat → Nat × BitVec 9) :
        Writes c (quadRegs x.d) P s (floatRow c s (x.d.toNat + k) f) := .floatRow s hk hP f
    simp only [List.foldl_cons, List.foldl_nil]
    refine .ok (Writes.trans ?_ (.raiseFcr _ (.inl hP)))
    exact (((slot s 0 (by simp [quadRegs]) _).trans (slot _ 1 (by simp [quadRegs]) _)).trans (slot _ 2 (by simp [quadRegs]) _)).trans
      (slot _ 3 (by simp [quadRegs]) _)

/-- NDOT writes D (R152). -/
theorem registerWord_ndot (hP : P) : RegisterWord (.ndot x) P := by
  refine ⟨_, fun _ => rfl, fun s c => ?_⟩
  dsimp only
  split
  · next h => exact .fault s (narrowStop_ne_uncorrectable x h)
  · exact .ok ((Writes.floatRow s List.mem_cons_self hP _).trans (.raiseFcr _ (.inl hP)))

/-! ### Reductions -/

/-- The integer operations of LRED and LSCAN set no flags (R132). -/
theorem redOp_flags {op : Nat} (h : op < 6) (unsigned : Bool) (fcr : BitVec 9) (a b : Word) : (redOp op unsigned fcr a b).2 = 0 := by
  interval_cases op <;> rfl

/-- Or-ing flags that are all 0 adds none. -/
theorem foldl_or_zero {ps : List (Word × BitVec 9)} (h : ∀ p ∈ ps, p.2 = 0) (fl : BitVec 9) : ps.foldl (fun a p => a ||| p.2) fl = fl := by
  induction ps generalizing fl with
  | nil => rfl
  | cons p ps ih =>
    rw [List.foldl_cons, h p List.mem_cons_self, show fl ||| 0 = fl from BitVec.or_zero]
    exact ih (fun q hq => h q (List.mem_cons_of_mem _ hq)) fl

/-- A butterfly step of an operation without flags sets none (R109). -/
theorem redStep_flags {f : Word → Word → Word × BitVec 9} (h : ∀ a b, (f a b).2 = 0) (doScan : Bool) (r : RedState) (k : Nat) :
    (redStep f doScan r k).fl = r.fl := by
  refine foldl_or_zero (fun p hp => ?_) r.fl
  rcases List.mem_append.1 hp with hp | hp <;> obtain ⟨l, -, rfl⟩ := List.mem_map.1 hp
  · split <;> exact h _ _
  · split
    · exact h _ _
    · rfl

/-- A reduction by an operation without flags sets none. -/
theorem reduce_flags {f : Word → Word → Word × BitVec 9} (h : ∀ a b, (f a b).2 = 0) (doScan : Bool) (y scan : List Word) :
    (reduce f doScan y scan).fl = 0 := by
  simp only [reduce, List.foldl_cons, List.foldl_nil, redStep_flags h]

/-- A reduction or scan sets no flags, or its operation is a float one. -/
theorem reduce_redOp_flags (c : Ctx) (doScan : Bool) (y scan : List Word) :
    6 ≤ x.c.toNat % 16 ∨ (reduce (redOp (x.c.toNat % 16) (x.c.getLsbD 4) c.v.fcr) doScan y scan).fl = 0 :=
  (Nat.lt_or_ge (x.c.toNat % 16) 6).symm.imp_right fun h => reduce_flags (redOp_flags h _ _) doScan y scan

/-- LRED writes D, and flags where its operation is a float one (R132). -/
theorem registerWord_lred : RegisterWord (.lred x) (6 ≤ x.c.toNat % 16) :=
  ⟨_, fun _ => rfl, fun s c => .ok ((Writes.put s List.mem_cons_self _).trans (.raiseFcr _ (reduce_redOp_flags x c _ _ _)))⟩

/-- LSCAN writes D, and flags where its operation is a float one (R132). -/
theorem registerWord_lscan : RegisterWord (.lscan x) (6 ≤ x.c.toNat % 16) :=
  ⟨_, fun _ => rfl, fun s c => .ok ((Writes.put s List.mem_cons_self _).trans (.raiseFcr _ (reduce_redOp_flags x c _ _ _)))⟩

end

/-! ### The words of classes V, F and A -/

/-- CLASS is read back from a word (R55). -/
theorem class_of_word {cls op low x : Nat} (h : word cls op low = some x) (ho : op < 2 ^ 7) (hl : low < 2 ^ 54) : x / 2 ^ 61 = cls := by
  simp only [word, Option.some.injEq] at h
  omega

/-- The words that may set sticky bits of `%fcr` (R91): those of class F, and the float reductions. -/
def MaySetFcr (i : Instr) : Prop :=
  (∃ x, encodeNat i = some x ∧ x / 2 ^ 61 = 1) ∨ ∃ y : V3, (i = .lred y ∨ i = .lscan y) ∧ 6 ≤ y.c.toNat % 16

/-- A word of class F may set sticky bits. -/
theorem maySetFcr_of_float {i : Instr} {op low x : Nat} (h : encodeNat i = some x) (hw : word 1 op low = some x) (ho : op < 2 ^ 7)
    (hl : low < 2 ^ 54) : MaySetFcr i :=
  .inl ⟨x, h, class_of_word hw ho hl⟩

/-- A word of class V sets no sticky bits. -/
theorem not_maySetFcr_of_integer {i : Instr} {x : Nat} (h : encodeNat i = some x) (hx : x / 2 ^ 61 = 0) : ¬MaySetFcr i := by
  rintro (⟨x', h', hx'⟩ | ⟨y, rfl | rfl, -⟩)
  · obtain rfl := Option.some.inj (h.symm.trans h')
    omega
  · exact absurd (hx.symm.trans (class_of_word h (by decide) (V3.toNat_lt y))) (by decide)
  · exact absurd (hx.symm.trans (class_of_word h (by decide) (V3.toNat_lt y))) (by decide)

/-- A word of class A that is no float reduction sets no sticky bits. -/
theorem not_maySetFcr_of_affine {i : Instr} {x : Nat} (h : encodeNat i = some x) (hx : x / 2 ^ 61 = 2)
    (hred : ∀ y, i = .lred y ∨ i = .lscan y → y.c.toNat % 16 < 6) : ¬MaySetFcr i := by
  rintro (⟨x', h', hx'⟩ | ⟨y, hy, h6⟩)
  · obtain rfl := Option.some.inj (h.symm.trans h')
    omega
  · exact absurd (hred y hy) (Nat.not_lt.2 h6)

/-- The sticky bits a word may set, said more widely. -/
theorem RegisterWord.mono {i : Instr} {P Q : Prop} (h : RegisterWord i P) (hPQ : P → Q) : RegisterWord i Q := by
  obtain ⟨body, he, hb⟩ := h
  refine ⟨body, he, fun s c => ?_⟩
  obtain ⟨t, st, ht, hw, hf⟩ := hb s c
  refine ⟨t, st, ht, ⟨hw.units, hw.others, fun v hv => ?_⟩, hf⟩
  obtain ⟨v', hv', f⟩ := hw.wave v hv
  exact ⟨v', hv', ⟨f.parts, f.lanes, f.files, f.sticky, fun hQ => f.clean (hQ ∘ hPQ)⟩, f.strands⟩

/-- Every word of classes V, F and A but MWRITE writes its destination registers and `%fcr`'s sticky bits alone. -/
theorem registerWord_of_class {i : Instr} {x : Nat} (h : encodeNat i = some x) (hx : x / 2 ^ 61 ≤ 2) (hm : ∀ y, i ≠ .mwrite y) :
    RegisterWord i (MaySetFcr i) := by
  cases i with
  | iadd y | isub y | iaddx y | icry y | imul y | imulh y | imad y | imin y | imax y | iabs y | ineg y | and y | or y | xor y | andn y
  | not y | blut y | shl y | shr y | sar y | rotl y | bfx y | bfi y | brev y | popc y | clz y | ctz y | bitlv y | bdlv y | icmp y
  | sel y | iclamp y | mov y | idp4 y | movi y | iaddVi y | isubVi y | imulVi y | imulhVi y | iminVi y | imaxVi y | andVi y | orVi y
  | xorVi y | andnVi y | shlVi y | shrVi y | sarVi y | rotlVi y | acmp y | shfl y | shfli y | vote y | mread y =>
    exact .of_put (fun _ => rfl) rfl
  | amov y | aadd y | asub y | aldi y | aaddVi y | asubVi y | amuli y | ashli y => exact .of_affineRow (fun _ => rfl) rfl
  | fadd y | fsub y | fmul y | ffma y | fmin y | fmax y | fcmp y | fclass y | frnd y | frcp y | frsq y | fsqrt y | fexp2 y | flog2 y
  | fsin y | fcos y | ftanh y | fscl y | hpadd y | hpmul y | hpfma y =>
    exact .of_floatRow (fun _ => rfl) rfl (maySetFcr_of_float h h (by decide) (V3.toNat_lt y))
  | fsclVi y => exact .of_floatRow (fun _ => rfl) rfl (maySetFcr_of_float h h (by decide) (VI.toNat_lt y))
  | cvti y | cvtff y => exact .of_convRow (fun _ => rfl) rfl (maySetFcr_of_float h h (by decide) (V3.toNat_lt y))
  | cvtf y => exact registerWord_cvtf y (maySetFcr_of_float h h (by decide) (V3.toNat_lt y))
  | pkn y => exact registerWord_pkn y (maySetFcr_of_float h h (by decide) (V3.toNat_lt y))
  | upkn y => exact registerWord_upkn y (maySetFcr_of_float h h (by decide) (V3.toNat_lt y))
  | ndot y => exact registerWord_ndot y (maySetFcr_of_float h h (by decide) (V3.toNat_lt y))
  | lred y => exact (registerWord_lred y).mono fun h6 => .inr ⟨y, .inl rfl, h6⟩
  | lscan y => exact (registerWord_lscan y).mono fun h6 => .inr ⟨y, .inr rfl, h6⟩
  | mwrite y => exact absurd rfl (hm y)
  | _ =>
    -- no word, or a word of another class
    simp only [encodeNat, word, Option.some.injEq, reduceCtorEq] at h <;> omega

/-- Settles O55: the body of every such word writes its destinations in its active lanes, and what follows a word moves strands only. -/
theorem registerWordsFrame : Obligations.RegisterWordsFrame := by
  unfold Obligations.RegisterWordsFrame
  intro i x s t c v henc hclass hm hrun hv hh hs hp ht
  obtain ⟨body, he, hb⟩ := registerWord_of_class henc hclass hm
  obtain ⟨hunits, hothers, hwave⟩ := issue_stateFrame hrun hv hh hs hp (hb · c) (he s ▸ ht)
  obtain ⟨v', hv', f⟩ := hwave v hv
  exact ⟨hunits, hothers, v', hv', f.parts, fun r l _ hl hr => f.lanes r l hl hr, f.files, f.sticky,
    fun hV => f.clean (not_maySetFcr_of_integer henc hV), fun hA hred => f.clean (not_maySetFcr_of_affine henc hA hred)⟩

end Sys2Proof.RegisterFrame
end

section
/-! SUPPORT. Special registers (01 R33 to R35, 11 R263): what a read of each index answers, and what a write of each writable one does. -/

namespace Sys2Proof.SpecialRegisters

open Sys2Proof Sys2Proof.Machine Sys2Proof.Laws

/-! ### What the registers hold -/

section
variable (s : State) (c : Ctx) (l : Nat)

/-- `%rpstat` of a wave outside a pair (R270). -/
theorem special_rpstat_of_unpaired (h : c.v.pair = none) : special s c 0x0A l = c.v.rpstat := by
  simp [special, rpstatOf, h]

/-- `%rpstat` of a paired wave (R270). -/
theorem special_rpstat_of_paired {n : Nat} {p : Pair} (h : c.v.pair = some n) (hp : s.pairs[n]? = some p) :
    special s c 0x0A l = (c.v.rpstat &&& 3) ||| BitVec.ofNat 32
      ((if p.active then (p.sigL.length - p.sigT.length) * 2 ^ 16 else 0) + p.nchk * 2 ^ 8 + p.retry * 4) := by
  simp [special, rpstatOf, h, hp]

/-- `%lvl1` to `%lvl7` (R33). -/
theorem special_lvl {k : Nat} (hk : k < 7) : special s c (0x11 + k) l = c.v.lvl[k + 1]?.getD 0 := by
  interval_cases k <;> rfl

/-- `%ext0` to `%ext7` (R33). -/
theorem special_ext {k : Nat} (hk : k < 8) : special s c (0x18 + k) l = c.v.ext[k]?.getD 1 := by
  interval_cases k <;> rfl

/-- An index that R33 does not list reads 0. -/
theorem special_unlisted {k : Nat} (hk : (0x0D < k ∧ k < 0x10) ∨ (0x25 < k ∧ k < 0x28) ∨ 0x29 < k) : special s c k l = 0 := by
  simp (disch := omega) only [special, if_neg]

end

/-! ### SYSRD -/

section
variable (x : SWord)

/-- SYSRD of a register other than the clock; `%ars` is read where no AREND is open (R259). -/
theorem sysrd_gives_special :
    GivesIf (.sysrd x) (fun _ c => x.imm ≠ 0x0C ∧ x.imm ≠ 0x0D ∧ (x.imm = 0x09 → c.arendOpen = false))
      (fun u c => c.put u x.d.toNat (special u c x.imm.toNat)) := by
  refine givesIf_of (fun _ => rfl) fun u c ⟨hlo, hhi, hars⟩ => ?_
  dsimp only
  split
  case h_1 h => exact absurd (BitVec.eq_of_toNat_eq h) hlo
  case h_2 h => exact absurd (BitVec.eq_of_toNat_eq h) hhi
  case h_3 h => rw [h, hars (BitVec.eq_of_toNat_eq h), if_neg Bool.false_ne_true]
  case h_4 => rfl

/-- SYSRD of `%clklo` reads the clock and latches its high half (R35). -/
theorem sysrd_clklo :
    GivesIf (.sysrd x) (fun _ _ => x.imm = 0x0C) (fun u c =>
      clockFlight (modWave (readClock u).1 c.w fun v => { v with clkLatch := some (BitVec.ofNat 32 ((readClock u).2 / 2 ^ 32)) }) c x.d
        (BitVec.ofNat 32 (readClock u).2)) := by
  refine givesIf_of (fun _ => rfl) fun u c h => ?_
  simp [h]

/-- SYSRD of `%clkhi` answers the latched half (R35). -/
theorem sysrd_clkhi_of_latched (h : Word) :
    GivesIf (.sysrd x) (fun _ c => x.imm = 0x0D ∧ c.v.clkLatch = some h) (fun u c => clockFlight u c x.d h) := by
  refine givesIf_of (fun _ => rfl) fun u c ⟨hx, hh⟩ => ?_
  simp [hx, hh]

/-- SYSRD of `%clkhi` before any reading of `%clklo` takes a reading of its own (R35). -/
theorem sysrd_clkhi_of_unlatched :
    GivesIf (.sysrd x) (fun _ c => x.imm = 0x0D ∧ c.v.clkLatch = none)
      (fun u c => clockFlight (readClock u).1 c x.d (BitVec.ofNat 32 ((readClock u).2 / 2 ^ 32))) := by
  refine givesIf_of (fun _ => rfl) fun u c ⟨hx, hh⟩ => ?_
  simp [hx, hh]

/-! ### SYSWR -/

/-- SYSWR of `%exec` is an MWRITE (R12). -/
theorem syswr_exec : Moves (.syswr x) (fun _ _ => x.imm = 0x02) (fun u c => writeMask u c ((c.u x.a.toNat).setWidth 8)) := by
  refine moves_of (fun _ => rfl) fun u c _ h => ?_
  simp [h]

/-- SYSWR of `%fcr` with its reserved bits clear (R34). -/
theorem syswr_fcr : GivesIf (.syswr x) (fun _ c => x.imm = 0x08 ∧ (c.u x.a.toNat).toNat < 2 ^ 9)
    (fun u c => modWave u c.w fun v => { v with fcr := (c.u x.a.toNat).setWidth 9 }) := by
  refine givesIf_of (fun _ => rfl) fun u c ⟨hx, ha⟩ => ?_
  rw [hx]
  exact if_neg (Nat.not_le.2 ha)

/-- SYSWR of `%fcr` with a reserved bit set faults in the active lanes (log 24). -/
theorem syswr_fcr_reserved : RaisesIf (.syswr x) (fun _ c => x.imm = 0x08 ∧ 2 ^ 9 ≤ (c.u x.a.toNat).toNat)
    (fun c => c.faultAll .illegalField) := by
  refine raisesIf_of (fun _ => rfl) fun u c _ ⟨hx, ha⟩ => ?_
  rw [hx]
  exact if_pos ha

/-- SYSWR of `%ars` where no AREND is open clears all but its read-only bit (R259). -/
theorem syswr_ars : GivesIf (.syswr x) (fun _ c => x.imm = 0x09 ∧ c.arendOpen = false)
    (fun u c => modWave u c.w fun v => { v with ars := v.ars &&& 0x40 }) := by
  refine givesIf_of (fun _ => rfl) fun u c ⟨hx, ha⟩ => ?_
  simp [hx, ha]

/-- SYSWR of `%gst` clears the bits written as 1 (R269). -/
theorem syswr_gst : GivesIf (.syswr x) (fun _ _ => x.imm = 0x0B)
    (fun u c => modWave u c.w fun v => { v with gst := v.gst &&& ~~~((c.u x.a.toNat).setWidth 16) }) := by
  refine givesIf_of (fun _ => rfl) fun u c h => ?_
  simp [h]

/-- SYSWR of `%fpc` keeps the value (R263). -/
theorem syswr_fpc : GivesIf (.syswr x) (fun _ _ => x.imm = 0x22)
    (fun u c => modWave u c.w fun v => { v with trapRegs := { v.trapRegs with fpc := c.u x.a.toNat } }) := by
  refine givesIf_of (fun _ => rfl) fun u c h => ?_
  simp [h]

end

/-- Settles O26: each register's read and each writable register's write, one lemma a case of SYSRD and SYSWR. -/
theorem specialRegisterAccesses : Obligations.SpecialRegisterAccesses := by
  unfold Obligations.SpecialRegisterAccesses
  refine ⟨fun x => ⟨sysrd_gives_special x, sysrd_clklo x, sysrd_clkhi_of_latched x, sysrd_clkhi_of_unlatched x, fun u c l => ?_⟩,
    fun x => ⟨syswr_exec x, syswr_fcr x, syswr_fcr_reserved x, syswr_ars x, syswr_gst x, syswr_fpc x⟩⟩
  -- the registers that hold one field of the context are read by the table itself
  exact ⟨rfl, rfl, rfl, rfl, rfl, rfl, rfl, rfl, rfl, rfl, rfl, rfl, rfl, rfl, rfl, rfl, rfl, rfl, rfl, rfl,
    fun _ => special_lvl u c l, fun _ => special_ext u c l, special_rpstat_of_unpaired u c l, fun _ _ => special_rpstat_of_paired u c l,
    fun _ => special_unlisted u c l⟩

end Sys2Proof.SpecialRegisters
end

section
/-! SUPPORT. What befalls a wave between its words, and what the version directory and the home slices do by themselves (01 R36, 07 R179,
10 R241 to R257, 13 R314, R322): what each such step gives where it occurs. -/

namespace Sys2Proof.WaveEvents

open Sys2Proof Sys2Proof.Machine Sys2Proof.Laws

/-- A step that acts on a live wave acts on it. -/
theorem onLive_of_live {s : State} {w : Nat} {v : Wave} {f : Wave → Host.Outcome State Fault Refusal} (hv : s.waves[w]? = some v)
    (hl : v.phase = .live) : onLive s w f = f v := by
  simp [onLive, hv, hl]

/-- A word that is done in the lanes that did not stop always answers a next state. -/
theorem finishDone_next (s0 s : State) (c : Ctx) (i : Instr) (st : Stops) : ∃ t, finishDone s0 s c i st = .next t := by
  unfold finishDone
  split
  · unfold regionFault conclude
    split
    · exact ⟨_, rfl⟩
    · split
      · exact ⟨_, rfl⟩
      · split <;> exact ⟨_, rfl⟩
  · dsimp only
    split
    · split <;> exact ⟨_, rfl⟩
    · split <;> exact ⟨_, rfl⟩

/-- A strand is the last one of its wave that waits for the needle (R226). -/
theorem lastAtNeedle_iff (v : Wave) (n : Nat) (t : Strand) :
    (t.park = .needle && !(v.everyStrand.any fun u => u.num != n && u.park == .needle)) = true
      ↔ t.park = .needle ∧ ∀ u ∈ v.everyStrand, u.num ≠ n → u.park ≠ .needle := by
  simp

/-! ### Events of a live wave -/

section
variable {s : State} {w : Nat} {v : Wave} (hv : s.waves[w]? = some v) (hl : v.phase = .live)
include hv hl

/-- A monitor may trigger for no write (R179). -/
theorem exec_monitorSpuriousTrigger {m : Monitor} (hm : v.monitor = some m) : exec (.monitorSpuriousTrigger w) s
    = .next (waveStepped (modWave s w fun v => { v with monitor := some { m with triggered := true } }) w) := by
  change onLive s w _ = _
  rw [onLive_of_live hv hl, hm]
  rfl

/-- The trap of a parked strand is taken (R314). -/
theorem exec_trapTaken (hr : trapReady s w v = true) : exec (.trapTaken w) s = .next (waveStepped (takeTrap s w) w) := by
  change onLive s w _ = _
  rw [onLive_of_live hv hl]
  exact if_pos hr

/-- An idle bank enters retention where DROWSY is not 0 (R351). -/
theorem exec_bankDrowsy {bank : Nat} (hb : bankHeld v bank = true) (hd : bank ∉ v.drowsy) (hc : bitsN (hreg s v.hank 0x100).toNat 11 0 ≠ 0) :
    exec (.bankDrowsy w bank) s = .next (modWave s w fun v => { v with drowsy := v.drowsy ++ [bank] }) := by
  change onLive s w _ = _
  rw [onLive_of_live hv hl]
  exact if_neg (by simp [hb, hd, hc])

/-- The darners commit, repair or abort a region whose AREND waits (R257). -/
theorem exec_darnerCommit {r q : Region} {x : Wave} (hr : v.region = some r) (hc : r.committing = true) (ht : tagsPending s w r = false)
    (hx : (foldTracked s r).waves[w]? = some x) (hq : x.region = some q) (hd : darn (foldTracked s r) w x q ≠ s) :
    exec (.darnerCommit w) s = .next (waveStepped (darn (foldTracked s r) w x q) w) := by
  change onLive s w _ = _
  rw [onLive_of_live hv hl]
  simp only [hr, hc, ht, hx, hq, hd, Bool.not_true, Bool.or_self, Bool.false_eq_true, ↓reduceIte, Option.bind_some, Option.map_some]
  rfl

/-- An MWAIT with a timeout ends (R180). -/
theorem exec_mwaitTimeout {n : Nat} {t : Strand} {x : MWord} (hn : v.thread n = some t) (hp : t.park = .mwait)
    (hx : parkedAt s v t = some (.mwait x)) (hf : x.f ≠ 0) : exec (.mwaitTimeout w n) s = .next (waveStepped (endMwait s w) w) := by
  have hf' : mwaitTimeoutOf x ≠ 0 := fun h => hf (BitVec.eq_of_toNat_eq h)
  change onLive s w _ = _
  rw [onLive_of_live hv hl]
  simp only [hn, hp, hx, hf', decide_true, ↓reduceIte]
  rfl

/-- The watchdog of a strand parked for too long (R322): it double-faults in a handler (R314), and else raises WATCHDOG in the strand's
lanes. Where it was the last of its wave at the needle, the wave leaves the queue. -/
theorem exec_watchdog {n : Nat} {t : Strand} {x : Wave} (hn : v.thread n = some t) (hw : watched s v t = true)
    (hr : hreg s v.hank 0x028 ≠ 0) :
    let last := t.park = .needle ∧ ∀ u ∈ v.everyStrand, u.num ≠ n → u.park ≠ .needle
    let u := modThread (if last then leaveFifo s w v else s) w n fun t => { t with park := .none }
    u.waves[w]? = some x →
    exec (.watchdog w n) s = if t.handler = true then .next (waveStepped (doubleFault u w x) w)
      else fetchFault u x w n { t with park := .none } (opcAt u x t.wordPc) .watchdog 0 .none 0 := by
  intro last u hu
  change onLive s w _ = _
  rw [onLive_of_live hv hl]
  simp only [hn, hw, hr, Bool.not_true, Bool.false_eq_true, or_self, ↓reduceIte, lastAtNeedle_iff]
  change (match u.waves[w]?, t.handler with
    | some v, false => fetchFault u v w n { t with park := .none } (opcAt u v t.wordPc) .watchdog 0 .none 0
    | some v, true => afterWave (doubleFault u w v) w
    | none, _ => notNow u) = _
  rw [hu]
  cases t.handler <;> rfl

end

/-! ### The debugger -/

section
variable {s : State} {w reg lane : Nat} (hreg : reg < 256) (hlane : lane < 8)
include hreg hlane

/-- The debugger reads or writes a register of a live wave, whose bank wakes (R36, R37). -/
theorem exec_debuggerAccess_live {v : Wave} (hv : s.waves[w]? = some v) (hl : v.phase = .live) (hn : reg < v.nregs) :
    let t := modWave s w fun v => { v with drowsy := v.drowsy.filter (· != reg / 32) }
    exec (.debuggerAccess w reg lane none) s = .next { t with host := t.host ++ [.data (natLe 4 (Row.lane (v.reg reg) lane).toNat) false] }
    ∧ ∀ x, exec (.debuggerAccess w reg lane (some x)) s = .next (modWave s w fun v =>
        { (v.put false (maskOfList [lane]) reg (Word.splat x)) with drowsy := v.drowsy.filter (· != reg / 32) }) := by
  have hfound : (s.waves[w]?).filter (fun v => v.phase == .live && decide (reg < v.nregs)) = some v :=
    Option.filter_eq_some_iff.2 ⟨hv, by simp [hl, hn]⟩
  have hin : ¬(8 ≤ lane ∨ 256 ≤ reg) := by omega
  refine ⟨?_, fun x => ?_⟩
  · change execDebuggerAccess w reg lane none s = _
    simp only [execDebuggerAccess, if_neg hin, hfound]
  · change execDebuggerAccess w reg lane (some x) s = _
    simp only [execDebuggerAccess, if_neg hin, hfound]

/-- An access to a register that no live wave holds says GATED (R37): a read answers 0, a write is ignored. -/
theorem exec_debuggerAccess_gated (h : ∀ v, s.waves[w]? = some v → v.phase ≠ .live ∨ v.nregs ≤ reg) :
    exec (.debuggerAccess w reg lane none) s = .next { s with gated := true, host := s.host ++ [.data (natLe 4 0) false] }
    ∧ ∀ x, exec (.debuggerAccess w reg lane (some x)) s = .next { s with gated := true } := by
  have hnone : (s.waves[w]?).filter (fun v => v.phase == .live && decide (reg < v.nregs)) = none := by
    refine Option.filter_eq_none_iff.2 fun v hv hp => ?_
    simp only [Bool.and_eq_true, beq_iff_eq, decide_eq_true_eq] at hp
    exact (h v hv).elim (absurd hp.1) (Nat.not_le.2 hp.2)
  have hin : ¬(8 ≤ lane ∨ 256 ≤ reg) := by omega
  refine ⟨?_, fun x => ?_⟩
  · change execDebuggerAccess w reg lane none s = _
    simp only [execDebuggerAccess, if_neg hin, hnone]
  · change execDebuggerAccess w reg lane (some x) s = _
    simp only [execDebuggerAccess, if_neg hin, hnone]

end

/-! ### The version directory and the home slices -/

section
variable {s : State}

/-- A reconciled ply's number is free again (R236, R241). -/
theorem exec_plyReconcile {h p : Nat} (hp : ((hankOf s h).recon.any fun r => r.1 == p) = true) :
    exec (.plyReconcile h p) s = .next (deviceStepped (modHank s h fun k => { k with recon := k.recon.filter fun r => r.1 != p })) :=
  if_pos hp

/-- A partial line is folded into the home value (R304). -/
theorem exec_partialEviction {cl line : Nat} {p : Partial} (hp : (s.partials.find? fun p => p.cluster == cl && p.line == line) = some p) :
    exec (.partialEviction cl line) s = .next (deviceStepped
      (evictPartial { s with partials := s.partials.filter fun q => !(q.cluster == cl && q.line == line) } p)) := by
  change execPartialEviction cl line s = _
  simp only [execPartialEviction, hp]
  rfl

/-- The first deferred effect of a keep goes to its target, and the last one ends the keep (R248). -/
theorem exec_deferredEntryIssue {h : Nat} {e : LogEntry} {es : List LogEntry} {t : State} (hd : (hankOf s h).draining = e :: es)
    (hi : issueEntry s h e = .done t) :
    let u := endDeferred (modHank t h fun k => { k with draining := es }) [e]
    exec (.deferredEntryIssue h) s = .next (deviceStepped (settleAll (if es = [] then endKeep u h else u))) := by
  change execDeferredEntryIssue h s = _
  simp only [execDeferredEntryIssue, hd, hi]
  rfl

end

/-- Settles O35: one lemma an event, and for the watchdog outside a handler the fault of the strand's lanes at the word where it is parked. -/
theorem waveEventStepsComplete : Obligations.WaveEventStepsComplete := by
  unfold Obligations.WaveEventStepsComplete
  refine ⟨fun s w v hv hl => ⟨?_, ?_, ?_, ?_, ?_, ?_, ?_⟩, ?_, ?_, ?_, ?_⟩
  · exact fun m hm => exec_monitorSpuriousTrigger hv hl hm
  · exact exec_trapTaken hv hl
  · exact fun bank => exec_bankDrowsy hv hl
  · exact fun r x q => exec_darnerCommit hv hl
  · exact fun n t x => exec_mwaitTimeout hv hl
  · intro n t x hn hw hr last u hu
    have he := exec_watchdog hv hl hn hw hr hu
    refine ⟨fun hh => he.trans (if_pos hh), fun hh => ?_⟩
    obtain ⟨r, hf⟩ := finishDone_next u u (fetchCtx x w n { t with park := .none } (opcAt u x t.wordPc)) noWord
      { Stops.none with faults := (lanesOf t.mask).map fun l => laneFault l .watchdog }
    exact ⟨r, (he.trans (if_neg (by simp [hh]))).trans hf, hf⟩
  · exact fun reg lane hn hreg hlane => exec_debuggerAccess_live hreg hlane hv hl hn
  · exact fun s w reg lane hlane hreg => exec_debuggerAccess_gated hreg hlane
  · exact fun s h p => exec_plyReconcile
  · exact fun s cl line p => exec_partialEviction
  · exact fun s h e es t => exec_deferredEntryIssue

end Sys2Proof.WaveEvents
end

section
/-! SUPPORT. The decoder and the encoder (02 R55 to R60, 03 R77 to R86) undo one another: for each class, what the encoder writes of a form
that the decoder names, and for each format, what the decoder reads of a word that the encoder wrote. -/

namespace Sys2Proof.Encoding

open Sys2Proof Sys2Proof.Laws

/-! ### From the word to the instruction and back -/

/-- The encoder writes the sub-opcode of a class V form and its fields. -/
theorem encodeNat_of_formV {op n : Nat} {i : Instr} (h : formV op n = some i) : encodeNat i = word 0 op (n % 2 ^ 54) := by
  unfold formV at h
  split at h <;> cases h <;> simp only [encodeNat, V3.toNat_ofNat, VI.toNat_ofNat, K32.toNat_ofNat]

/-- The encoder writes the sub-opcode of a class F form and its fields. -/
theorem encodeNat_of_formF {op n : Nat} {i : Instr} (h : formF op n = some i) : encodeNat i = word 1 op (n % 2 ^ 54) := by
  unfold formF at h
  split at h <;> cases h <;> simp only [encodeNat, V3.toNat_ofNat, VI.toNat_ofNat]

/-- The encoder writes the sub-opcode of a class A form and its fields. -/
theorem encodeNat_of_formA {op n : Nat} {i : Instr} (h : formA op n = some i) : encodeNat i = word 2 op (n % 2 ^ 54) := by
  unfold formA at h
  split at h <;> cases h <;> simp only [encodeNat, V3.toNat_ofNat, VI.toNat_ofNat]

/-- The FENCE forms share their sub-opcode (R178). -/
theorem encodeNat_fence (p : Prop) [Decidable p] (x : MWord) : encodeNat (if p then .fenceVault x else .fenceMem x) = word 3 0x0b x.toNat := by
  split <;> rfl

/-- The IDEM forms share their sub-opcode (R261). -/
theorem encodeNat_idem (p : Prop) [Decidable p] (x : SWord) : encodeNat (if p then .idemEnd x else .idem x) = word 7 0x03 x.toNat := by
  split <;> rfl

/-- The QTOK forms share their sub-opcode (R261). -/
theorem encodeNat_qtok (p : Prop) [Decidable p] (x : SWord) : encodeNat (if p then .qtokTake x else .qtokPut x) = word 7 0x18 x.toNat := by
  split <;> rfl

/-- The encoder writes the sub-opcode of a class M form and its fields. -/
theorem encodeNat_of_formM {op n : Nat} {i : Instr} (h : formM op n = some i) : encodeNat i = word 3 op (n % 2 ^ 54) := by
  unfold formM at h
  split at h <;> cases h <;> simp only [↓encodeNat_fence, encodeNat, MWord.toNat_ofNat]

/-- The encoder writes the sub-opcode of a class X form and its fields. -/
theorem encodeNat_of_formX {op n : Nat} {i : Instr} (h : formX op n = some i) : encodeNat i = word 4 op (n % 2 ^ 54) := by
  unfold formX at h
  split at h <;> cases h <;> simp only [encodeNat, XWord.toNat_ofNat]

/-- The encoder writes the sub-opcode of a class K form and its fields. -/
theorem encodeNat_of_formK {op n : Nat} {i : Instr} (h : formK op n = some i) : encodeNat i = word 5 op (n % 2 ^ 54) := by
  unfold formK at h
  split at h <;> cases h <;> simp only [encodeNat, KWord.toNat_ofNat]

/-- The encoder writes the sub-opcode of a class C form and its fields. -/
theorem encodeNat_of_formC {op n : Nat} {i : Instr} (h : formC op n = some i) : encodeNat i = word 6 op (n % 2 ^ 54) := by
  unfold formC at h
  split at h <;> cases h <;> simp only [encodeNat, CWord.toNat_ofNat]

/-- The encoder writes the sub-opcode of a class S form and its fields. -/
theorem encodeNat_of_formS {op n : Nat} {i : Instr} (h : formS op n = some i) : encodeNat i = word 7 op (n % 2 ^ 54) := by
  unfold formS at h
  split at h <;> cases h <;> simp only [↓encodeNat_idem, ↓encodeNat_qtok, encodeNat, SWord.toNat_ofNat]

/-- The encoder writes the class and sub-opcode that name a form, and the fields below them. -/
theorem encodeNat_of_formOf {cls op n : Nat} {i : Instr} (h : formOf cls op n = some i) : encodeNat i = word cls op (n % 2 ^ 54) := by
  unfold formOf at h
  split at h
  · exact encodeNat_of_formV h
  · exact encodeNat_of_formF h
  · exact encodeNat_of_formA h
  · exact encodeNat_of_formM h
  · exact encodeNat_of_formX h
  · exact encodeNat_of_formK h
  · exact encodeNat_of_formC h
  · exact encodeNat_of_formS h
  · cases h

/-- What the decoder accepts: the form that CLASS and OP name, where it is well-formed. -/
theorem decodeNat_eq_ok_iff {n : Nat} {i : Instr} :
    decodeNat n = .ok i ↔ formOf (n / 2 ^ 61) (n / 2 ^ 54 % 128) n = some i ∧ WellFormed i = true := by
  unfold decodeNat
  cases formOf (n / 2 ^ 61) (n / 2 ^ 54 % 128) n with
  | none => simp
  | some j =>
    by_cases hj : WellFormed j = true
    · simp only [hj, ↓reduceIte, Except.ok.injEq, Option.some.injEq, iff_self_and]
      exact fun h => h ▸ hj
    · simp only [hj, Bool.false_eq_true, ↓reduceIte, reduceCtorEq, Option.some.injEq, false_iff, not_and]
      exact fun h => h ▸ hj

/-- CLASS, OP and the 54 bits below them are all of a word. -/
theorem word_of_parts {n : Nat} : word (n / 2 ^ 61) (n / 2 ^ 54 % 128) (n % 2 ^ 54) = some n := by
  simp only [word, Option.some.injEq]
  omega

/-- Settles O44: the form that a word names, by class, is encoded with the word's own class, sub-opcode and fields. -/
theorem encodingInvertsDecoding : Obligations.EncodingInvertsDecoding := by
  unfold Obligations.EncodingInvertsDecoding
  intro i w _ h
  obtain ⟨hf, hw⟩ := decodeNat_eq_ok_iff.1 h
  exact ⟨hw, (encodeNat_of_formOf hf).trans word_of_parts⟩

/-! ### From the instruction to the word and back -/

/-- A word of a class and sub-opcode whose fields `low` are read back as the form they are of decodes to it. -/
theorem decodeNat_word {cls op low w : Nat} {i : Instr} (hw : word cls op low = some w) (hi : WellFormed i = true) (hc : cls < 8)
    (ho : op < 128) (hl : low < 2 ^ 54) (hf : formOf cls op w = some i) : w < 2 ^ 64 ∧ decodeNat w = .ok i := by
  simp only [word, Option.some.injEq] at hw
  have hcls : w / 2 ^ 61 = cls := by omega
  have hop : w / 2 ^ 54 % 128 = op := by omega
  refine ⟨by omega, decodeNat_eq_ok_iff.2 ⟨?_, hi⟩⟩
  rw [hcls, hop, hf]

/-- The decoder reads back whatever word the encoder writes of an instruction. -/
def ReadsBack (i : Instr) : Prop := ∀ w, WellFormed i = true → encodeNat i = some w → w < 2 ^ 64 ∧ decodeNat w = .ok i

/-- An instruction of a format whose fields fit below OP and are read back, where its class's table has it under its sub-opcode. -/
theorem ReadsBack.of_format {α : Type} {toNat : α → Nat} {ofNat : Nat → α} {x : α} {i : Instr} {cls op : Nat}
    (he : encodeNat i = word cls op (toNat x)) (hl : toNat x < 2 ^ 54) (hb : ∀ k, ofNat (k * 2 ^ 54 + toNat x) = x)
    (hf : WellFormed i = true → ∀ n, ofNat n = x → formOf cls op n = some i) (hc : cls < 8) (ho : op < 128) : ReadsBack i := by
  intro w hi hw
  rw [he] at hw
  refine decodeNat_word hw hi hc ho hl (hf hi w ?_)
  have hk : w = (cls * 128 + op) * 2 ^ 54 + toNat x := by
    simp only [word, Option.some.injEq] at hw
    omega
  rw [hk]
  exact hb _

/-- An instruction that its class's table has under its sub-opcode with nothing but its fields. -/
theorem ReadsBack.of_table {α : Type} {mk : α → Instr} {toNat : α → Nat} {ofNat : Nat → α} {x : α} {cls op : Nat}
    (hl : ∀ x, toNat x < 2 ^ 54) (hb : ∀ x k, ofNat (k * 2 ^ 54 + toNat x) = x) (he : encodeNat (mk x) = word cls op (toNat x))
    (hf : ∀ n, formOf cls op n = some (mk (ofNat n))) (hc : cls < 8) (ho : op < 128) : ReadsBack (mk x) :=
  .of_format he (hl x) (hb x) (fun _ n h => h ▸ hf n) hc ho

/-- FENCE is the vault form where KIND is 1, and the memory form where its field is 0 (R178). -/
theorem readsBack_fence (x : MWord) : ReadsBack (.fenceMem x) ∧ ReadsBack (.fenceVault x) := by
  refine ⟨.of_format rfl (MWord.toNat_lt x) (MWord.ofNat_toNat x) (fun hi n h => ?_) (by decide) (by decide),
    .of_format rfl (MWord.toNat_lt x) (MWord.ofNat_toNat x) (fun hi n h => ?_) (by decide) (by decide)⟩
  · have hx : x.f = 0 := by simp only [WellFormed, Bool.and_eq_true, beq_iff_eq] at hi; exact hi.2
    simp [formOf, formM, h, MWord.kind, hx]
  · have hx : x.f = 1 := by simp only [WellFormed, Bool.and_eq_true, beq_iff_eq] at hi; exact hi.2
    simp [formOf, formM, h, MWord.kind, hx]

/-- IDEM.end is the form whose END bit is set; the index of an IDEM's record is below it (R261). -/
theorem readsBack_idem (x : SWord) : ReadsBack (.idem x) ∧ ReadsBack (.idemEnd x) := by
  refine ⟨.of_format rfl (SWord.toNat_lt x) (SWord.ofNat_toNat x) (fun hi n h => ?_) (by decide) (by decide),
    .of_format rfl (SWord.toNat_lt x) (SWord.ofNat_toNat x) (fun hi n h => ?_) (by decide) (by decide)⟩
  · have hx : x.imm.getLsbD 10 = false := by
      simp only [WellFormed, SWord.ok, Bool.and_eq_true, decide_eq_true_eq] at hi
      exact Nat.testBit_lt_two_pow (by omega)
    simp only [formOf, formS, h, hx, Bool.false_eq_true, ↓reduceIte]
  · have hx : x.imm = 1024 := by simp only [WellFormed, Bool.and_eq_true, beq_iff_eq] at hi; exact hi.2
    simp [formOf, formS, h, hx]

/-- QTOK.take is the form whose bit 0 is set (R261). -/
theorem readsBack_qtok (x : SWord) : ReadsBack (.qtokPut x) ∧ ReadsBack (.qtokTake x) := by
  refine ⟨.of_format rfl (SWord.toNat_lt x) (SWord.ofNat_toNat x) (fun hi n h => ?_) (by decide) (by decide),
    .of_format rfl (SWord.toNat_lt x) (SWord.ofNat_toNat x) (fun hi n h => ?_) (by decide) (by decide)⟩
  · have hx : x.imm = 0 := by
      simp only [WellFormed, SWord.ok, Bool.and_eq_true, decide_eq_true_eq] at hi
      exact BitVec.eq_of_toNat_eq (by simpa using hi.1.1.2)
    simp [formOf, formS, h, hx]
  · have hx : x.imm = 1 := by simp only [WellFormed, Bool.and_eq_true, beq_iff_eq] at hi; exact hi.1.1.2
    simp [formOf, formS, h, hx]

/-- Every instruction is read back, format by format; a step of the machine has no word. -/
theorem readsBack (i : Instr) : ReadsBack i := by
  cases i with
  | iadd x | isub x | iaddx x | icry x | imul x | imulh x | imad x | imin x | imax x | iabs x | ineg x | and x | or x | xor x | andn x | not x
  | blut x | shl x | shr x | sar x | rotl x | bfx x | bfi x | brev x | popc x | clz x | ctz x | bitlv x | bdlv x | icmp x | sel x | iclamp x | mov x
  | idp4 x | fadd x | fsub x | fmul x | ffma x | fmin x | fmax x | fcmp x | fclass x | frnd x | frcp x | frsq x | fsqrt x | fexp2 x | flog2 x
  | fsin x | fcos x | ftanh x | fscl x | hpadd x | hpmul x | hpfma x | cvti x | cvtf x | cvtff x | pkn x | upkn x | ndot x | amov x | aadd x
  | asub x | acmp x | shfl x | vote x | lred x | lscan x | mread x | mwrite x =>
    exact .of_table V3.toNat_lt V3.ofNat_toNat rfl (fun _ => rfl) (by decide) (by decide)
  | iaddVi x | isubVi x | imulVi x | imulhVi x | iminVi x | imaxVi x | andVi x | orVi x | xorVi x | andnVi x | shlVi x | shrVi x | sarVi x
  | rotlVi x | fsclVi x | aldi x | aaddVi x | asubVi x | amuli x | ashli x | shfli x =>
    exact .of_table VI.toNat_lt VI.ofNat_toNat rfl (fun _ => rfl) (by decide) (by decide)
  | movi x =>
    exact .of_table K32.toNat_lt K32.ofNat_toNat rfl (fun _ => rfl) (by decide) (by decide)
  | ld x | st x | lds x | sts x | ldv x | stv x | ldk x | atom x | acas x | atoms x | cadd x | mon x | mwait x | pref x | cinv x | cwb x =>
    exact .of_table MWord.toNat_lt MWord.ofNat_toNat rfl (fun _ => rfl) (by decide) (by decide)
  | ntake x | npass x | mma x | mmas x | azero x | afill x | adrain x | mepi x | mstat x =>
    exact .of_table XWord.toNat_lt XWord.ofNat_toNat rfl (fun _ => rfl) (by decide) (by decide)
  | yopen x | yclose x | ypush x | ydrop x | cpy x | cpyd x | gath x | scat x | kwait x | trace x | tres x | msub x | smap x | sunmap x =>
    exact .of_table KWord.toNat_lt KWord.ofNat_toNat rfl (fun _ => rfl) (by decide) (by decide)
  | bra x | bru x | brx x | call x | ret x | join x | bar x | bara x | barw x | exit x | yield x | trap x | bpt x | nop x | eret x =>
    exact .of_table CWord.toNat_lt CWord.ofNat_toNat rfl (fun _ => rfl) (by decide) (by decide)
  | sysrd x | syswr x | phint x | gset x | pfork x | penter x | pkeep x | pfrog x | pqry x | lline x | arbeg x | arend x | arabt x | rpair x
  | rchk x | rend x | fmap x | invpg x | launch x | emit x | recv x | qpush x | qpop x | flip x =>
    exact .of_table SWord.toNat_lt SWord.ofNat_toNat rfl (fun _ => rfl) (by decide) (by decide)
  | fenceMem x => exact (readsBack_fence x).1
  | fenceVault x => exact (readsBack_fence x).2
  | idem x => exact (readsBack_idem x).1
  | idemEnd x => exact (readsBack_idem x).2
  | qtokPut x => exact (readsBack_qtok x).1
  | qtokTake x => exact (readsBack_qtok x).2
  | _ => exact fun _ _ h => nomatch h

/-- Settles O43: every instruction is read back. -/
theorem decodingInvertsEncoding : Obligations.DecodingInvertsEncoding := by
  unfold Obligations.DecodingInvertsEncoding
  exact readsBack

/-! ### Words written out -/

/-- Settles O45: the decoder evaluated at each word. -/
theorem writtenWordsDecode : Obligations.WrittenWordsDecode := by
  unfold Obligations.WrittenWordsDecode
  decide

end Sys2Proof.Encoding
end

section
/-! SUPPORT. The words that name a liveness record (02 R71, 11 R261, R264, R266) and those of a redundant pair (R270 to R273): what each of
them gives in each role of its wave. -/

namespace Sys2Proof.LivenessAndPairs

open Sys2Proof Sys2Proof.Machine Sys2Proof.Laws

/-! ### Liveness records -/

/-- The record numbered `n` is one of the launch's, is read as `bs` in the state `t`, and is legal (R71, R261). -/
def LiveRecord (u : State) (c : Ctx) (n : Nat) (t : State) (bs : Bytes) : Prop :=
  n < recNlive (recordOf u c.v)
    ∧ readGlobal u c.v.hank 0 (clusterOf c.v.core) ((recLiveBase (recordOf u c.v) + 128 * n) % 2 ^ 64) 128 = .ok t bs
    ∧ liveBad t c.v.team bs = false

/-- A word that names such a record goes on with its bytes. -/
theorem withLive_of_liveRecord {u t : State} {c : Ctx} {n : Nat} {bs : Bytes} {k : State → Bytes → Res} (h : LiveRecord u c n t bs) :
    withLive u c n k = k t bs := by
  obtain ⟨hn, hr, hb⟩ := h
  simp only [withLive, if_neg (Nat.not_le.2 hn), withRecord, hr, hb, Bool.false_eq_true, ↓reduceIte]

/-- A word that runs to its end and parks its strand at something other than a class B wait. -/
theorem issue_parked {s t : State} {c : Ctx} {i : Instr} {p : Park} {body : State → Ctx → Res} (h : runs s c i = true)
    (hb : body (wakeBanks s c i) c = .park t p) (hp : ∀ k b, p ≠ .block k b) :
    issue s i body = .next (strandMoved c (modThread t c.w c.n fun u => { u with park := p })) := by
  rw [issue_finish h, hb]
  cases p with
  | block k b => exact absurd rfl (hp k b)
  | _ => rfl

section
variable {x : SWord} {s t : State} {c : Ctx} {bs : Bytes}

/-- PHINT takes the hint that a promising wave outside a handler was asked for, and else starts its lanes' clause counts again (R264, R325). -/
theorem exec_phint (h : runs s c (.phint x) = true) (hl : LiveRecord (wakeBanks s c (.phint x)) c x.imm.toNat t bs) :
    exec (.phint x) s = .next (wordDone c (.phint x)
      (if c.v.preempt = .asked ∧ recPromise (recordOf t c.v) = true ∧ c.v.trap = none then
        stopRunning (modWave t c.w fun v => { v with preempt := .hint x.imm.toNat bs }) c.w 8
      else resetCounts t c)) := by
  refine issue_runs h ((withLive_of_liveRecord hl).trans ?_)
  have hc : (c.v.preempt == .asked && recPromise (recordOf t c.v) && c.v.trap.isNone) = true
      ↔ c.v.preempt = .asked ∧ recPromise (recordOf t c.v) = true ∧ c.v.trap = none := by
    simp [and_assoc]
  simp only [hc]
  split <;> rfl

/-- IDEM opens an idempotent region with the named registers saved (R266). -/
theorem exec_idem (h : runs s c (.idem x) = true) (hl : LiveRecord (wakeBanks s c (.idem x)) c x.imm.toNat t bs) (hr : liveRegsOnly bs = true) :
    exec (.idem x) s = .next (wordDone c (.idem x) (modWave t c.w fun v =>
      let named := (List.range v.nregs).filter fun r => (liveMap bs).getLsbD r
      { v.wake named with
        idem := some
          { lanes := c.ex, copied := c.act, entry := c.st.nextPc, regmap := liveMap bs, restarts := 0
            saved := named.map fun r => (r, v.reg r), marks := regMarks t c.w named } })) := by
  refine issue_runs h ((withLive_of_liveRecord hl).trans ?_)
  simp only [hr, Bool.not_true, Bool.false_eq_true, ↓reduceIte, List.map_map, Function.comp_def, List.map_id']

/-- RCHK outside a pair does nothing (R272). -/
theorem exec_rchk_of_unpaired (h : runs s c (.rchk x) = true) (hl : LiveRecord (wakeBanks s c (.rchk x)) c x.imm.toNat t bs)
    (hr : liveRegsOnly bs = true) (hp : pairOf t c.v = none) : exec (.rchk x) s = .next (wordDone c (.rchk x) t) := by
  refine issue_runs h ((withLive_of_liveRecord hl).trans ?_)
  simp only [hr, hp, Bool.not_true, Bool.false_eq_true, ↓reduceIte]

/-- RCHK parks the trailer, and the leader until its REND (R272). -/
theorem exec_rchk_of_paired {k : Nat} {p : Pair} (h : runs s c (.rchk x) = true)
    (hl : LiveRecord (wakeBanks s c (.rchk x)) c x.imm.toNat t bs) (hr : liveRegsOnly bs = true) (hp : pairOf t c.v = some (k, p))
    (hw : p.leader ≠ c.w ∨ p.rendL = false) :
    exec (.rchk x) s = .next (strandMoved c (modThread t c.w c.n fun u => { u with park := .check (liveMap bs) })) := by
  have hw' : ¬(p.leader = c.w ∧ p.rendL = true) := fun ⟨h1, h2⟩ => hw.elim (absurd h1) (by simp [h2])
  refine issue_parked h ((withLive_of_liveRecord hl).trans ?_) (fun _ _ => Park.noConfusion)
  simp only [hr, hp, hw', Bool.not_true, Bool.false_eq_true, ↓reduceIte]

end

/-! ### Redundant pairs -/

section
variable (x : SWord)

/-- REND outside a pair does nothing (R273). -/
theorem rend_of_unpaired : GivesIf (.rend x) (fun u c => pairOf u c.v = none) (fun u _ => u) :=
  givesIf_of (fun _ => rfl) fun u c h => by simp only [h]

/-- The leader goes on at its REND (R273). -/
theorem rend_of_leader (k : Nat) (p : Pair) :
    GivesIf (.rend x) (fun u c => pairOf u c.v = some (k, p) ∧ p.leader = c.w) (fun u c => markRend u c.w k) :=
  givesIf_of (fun _ => rfl) fun u c ⟨h, hw⟩ => by simp only [h, hw, ↓reduceIte]

/-- The trailer waits at its REND for the final compare (R273). -/
theorem rend_of_trailer (k : Nat) (p : Pair) : Moves (.rend x) (fun u c => pairOf u c.v = some (k, p) ∧ p.leader ≠ c.w)
    (fun u c => modThread (markRend u c.w k) c.w c.n fun t => { t with park := .rend }) := by
  intro s c h ⟨hp, hw⟩
  exact issue_parked h (by simp only [hp, hw, ↓reduceIte]) fun _ _ => Park.noConfusion

/-- RPAIR outside a pair writes A (R271). -/
theorem rpair_of_unpaired : GivesIf (.rpair x) (fun u c => pairOf u c.v = none)
    (fun u c => c.put u x.d.toNat fun l => Row.lane (c.reg x.a.toNat) l) :=
  givesIf_of (fun _ => rfl) fun u c h => by simp only [h]

/-- The leader's RPAIR writes A, and sends it until the leader's REND (R271, R273). -/
theorem rpair_of_leader (k : Nat) (p : Pair) : GivesIf (.rpair x) (fun u c => pairOf u c.v = some (k, p) ∧ p.leader = c.w)
    (fun u c =>
      let t := c.put u x.d.toNat fun l => Row.lane (c.reg x.a.toNat) l
      if p.rendL then t
      else modPair t k fun p => { p with vals := p.vals ++ [(lanesOf c.act).map fun l => (l, Row.lane (c.reg x.a.toNat) l)] }) :=
  givesIf_of (fun _ => rfl) fun u c ⟨h, hw⟩ => by simp only [h, hw, ↓reduceIte]

/-- The trailer's RPAIR gives a free value where the leader sends no more (log 15). -/
theorem rpair_of_trailer_unsent (k : Nat) (p : Pair) :
    GivesIf (.rpair x) (fun u c => pairOf u c.v = some (k, p) ∧ p.leader ≠ c.w ∧ p.vals = [] ∧ p.noMoreValues u = true)
      (fun u c => { c.put u x.d.toNat (fun l => Config.rpairMissing (u.fresh + l)) with fresh := u.fresh + 8 }) :=
  givesIf_of (fun _ => rfl) fun u c ⟨h, hw, hv, hn⟩ => by
    simp only [h, hw, hv, hn, ↓reduceIte]
    rfl

/-- The trailer's RPAIR takes the oldest value sent (R271). -/
theorem rpair_of_trailer_sent (k : Nat) (p : Pair) (v : List (Nat × Word)) (vs : List (List (Nat × Word))) :
    GivesIf (.rpair x) (fun u c => pairOf u c.v = some (k, p) ∧ p.leader ≠ c.w ∧ p.vals = v :: vs)
      (fun u c =>
        let t := modPair (c.put u x.d.toNat (pairValue u v)) k fun p => { p with vals := vs }
        { t with fresh := t.fresh + 8 }) :=
  givesIf_of (fun _ => rfl) fun u c ⟨h, hw, hv⟩ => by simp only [h, hw, hv, ↓reduceIte]

end

/-- Settles O27: each word in each role of its wave. -/
theorem livenessAndPairWordsComplete : Obligations.LivenessAndPairWordsComplete := by
  unfold Obligations.LivenessAndPairWordsComplete
  refine ⟨fun x => ⟨?_, ?_, ?_, ?_, rend_of_unpaired x⟩, fun x => ⟨rpair_of_unpaired x, ?_, ?_, rpair_of_trailer_unsent x,
    rpair_of_trailer_sent x, ?_, rend_of_leader x, rend_of_trailer x⟩⟩
  · exact fun s c t bs ⟨h, hl⟩ => exec_phint h hl
  · exact fun s c t bs ⟨h, hl⟩ hr => exec_idem h hl hr
  · exact gives_of (fun _ => rfl) fun _ _ => rfl
  · exact fun s c t bs ⟨h, hl⟩ hr hp => exec_rchk_of_unpaired h hl hr hp
  · intro k p s c h ⟨hp, hw, hr⟩
    simpa only [hr, Bool.false_eq_true, ↓reduceIte] using rpair_of_leader x k p s c h ⟨hp, hw⟩
  · intro k p s c h ⟨hp, hw, hr⟩
    simpa only [hr, ↓reduceIte] using rpair_of_leader x k p s c h ⟨hp, hw⟩
  · exact fun k p s c t bs h hn hr hb hregs hp hw => exec_rchk_of_paired h ⟨hn, hr, hb⟩ hregs hp hw

end Sys2Proof.LivenessAndPairs
end

section
/-! SUPPORT. Clauses (02 R45 to R53), words that issue again (R79), waking (01 R40), fusion (08 R194, R195) and freed slots (R200): what each
such step gives where it occurs. -/

namespace Sys2Proof.ClauseSteps

open Sys2Proof Sys2Proof.Machine Sys2Proof.Laws Sys2Proof.WaveEvents

section
variable {s : State} {w n : Nat} {v : Wave} {t : Strand} (hv : s.waves[w]? = some v) (hl : v.phase = .live) (ht : v.thread n = some t)
include hv hl ht

/-! ### A ready strand -/

section
variable (hf : t.free = true) (hr : ¬ ⟨w, n⟩ ∈ s.running) (hm : mayIssue s v n t = true)
include hf hr hm

/-- A ready strand between clauses is at a header (R45). -/
theorem exec_clauseStart_at_header (hc : t.clause = none) : exec (.clauseStart w n) s = startHeader s w n v t := by
  change onLive s w _ = _
  rw [onLive_of_live hv hl]
  simp only [ht, hc]
  exact if_neg (by simp [hf, hr, hm])

/-- A ready strand inside its clause goes on in it (R53). -/
theorem exec_clauseStart_in_clause {c : Clause} (hc : t.clause = some c) : exec (.clauseStart w n) s = resumeClause s w n v t c := by
  change onLive s w _ = _
  rw [onLive_of_live hv hl]
  simp only [ht, hc]
  exact if_neg (by simp [hf, hr, hm])

end

/-! ### A parked strand -/

/-- A word that held is tried again once something has changed (R79). -/
theorem exec_heldWordIssue {k : Nat} (hp : t.park = .hold k) (hk : k < s.progress) : exec (.heldWordIssue w n) s = reissue s w n v t := by
  change onLive s w _ = _
  rw [onLive_of_live hv hl]
  simp only [ht, hp, hk, ↓reduceIte]

/-- A class B word is tried again once something has changed (R79). -/
theorem exec_strandWake_of_block {k : Nat} {b : Bool} (hp : t.park = .block k b) (hk : k < s.progress) :
    exec (.strandWake w n) s = reissue s w n v t := by
  change onLive s w _ = _
  rw [onLive_of_live hv hl]
  simp only [ht, hp, hk, ↓reduceIte]

/-- A strand whose wait is over becomes ready, and one that now waits for something else waits for that (R40, R67). -/
theorem exec_strandWake_of_wait {k : Wait} (hp : t.park = .wait k) (hs : n = 8 → stopping s v = false) (hk : waitNow s w n v t ≠ k) :
    exec (.strandWake w n) s = .next (bump (if waitNow s w n v t = .no then modThread s w n (fun t => { t with park := .none })
      else parkWait s v w n (waitNow s w n v t))) := by
  have hc : ¬(waitNow s w n v t = k || (n == 8 && stopping s v)) = true := by
    simpa [hk] using hs
  change onLive s w _ = _
  rw [onLive_of_live hv hl]
  simp only [ht, hp]
  refine (if_neg hc).trans ?_
  split <;> rfl

end

section
variable {s : State} {w n : Nat} {v : Wave} {t : Strand}

/-! ### Starting and going on -/

/-- What the start of a clause asks of a strand at a header: the header and the words of its clause are fetched and pass the checks (R45 to
R52); `s` is the state after the header's fetch, `u` that after the words'. -/
def HeaderPasses (s u : State) (n : Nat) (v : Wave) (t : Strand) (x : Nat) (h : Header) (ws : List (Option Nat)) : Prop :=
  headerOf x = .ok h ∧ fetchWords v (clauseAddrs t.pc h.count) s = (u, ws, none) ∧ clauseError v (n == 8) t.mask h ws = none

/-- An aligned header that is fetched starts its clause. -/
theorem startHeader_of_fetch {u : State} {x : Nat} (ha : t.pc.toNat % 8 = 0) (hx : fetchWord s v t.pc.toNat = .ok u x) :
    startHeader s w n v t = startClause s u w n v t x := by
  simp only [startHeader, ha, hx, ne_eq, not_true_eq_false, ↓reduceIte]

/-- A clause that waits for nothing and whose port is free starts (R31, R46, R48). -/
theorem startClause_of_ready {s0 u : State} {x : Nat} {h : Header} {ws : List (Option Nat)} (hp : HeaderPasses s u n v t x h ws)
    (hw : headerWait u w v (n == 8) t.mask h (ws.filterMap instrOf) = .no) (hb : n = 8 ∨ portBusy s w n v h.port = false) :
    startClause s0 s w n v t x = .next (bump (beginClause u w n t h)) := by
  obtain ⟨hx, hws, he⟩ := hp
  have hb' : ¬(n ≠ 8 ∧ portBusy s w n v h.port = true) := fun ⟨h8, hp⟩ => hb.elim h8 (by simp [hp])
  simp only [startClause, hx, hws, he, hw, hb', ↓reduceIte]

/-- A strand parks where the header of its clause waits (R40, R67). -/
theorem startClause_of_wait {s0 u : State} {x : Nat} {h : Header} {ws : List (Option Nat)} (hp : HeaderPasses s u n v t x h ws)
    (hw : headerWait u w v (n == 8) t.mask h (ws.filterMap instrOf) ≠ .no) :
    startClause s0 s w n v t x = .next (bump (parkWait u v w n (headerWait u w v (n == 8) t.mask h (ws.filterMap instrOf)))) := by
  obtain ⟨hx, hws, he⟩ := hp
  simp only [startClause, hx, hws, he]

section
variable {c : Clause} (hh : pendingHit s w v (n == 8) t.mask (remaining s v t) = false) (hb : n = 8 ∨ portBusy s w n v c.port = false)
include hh hb

/-- A clause whose words wait for no pending register goes on where its port is free (R46, R53). -/
theorem resumeClause_of_ready : resumeClause s w n v t c = .next (bump { s with running := s.running ++ [⟨w, n⟩] }) := by
  have hb' : ¬(n ≠ 8 ∧ portBusy s w n v c.port = true) := fun ⟨h8, hp⟩ => hb.elim h8 (by simp [hp])
  simp only [resumeClause, hh, hb', Bool.false_eq_true, ↓reduceIte]

/-- A strand parked at a word of such a clause issues the word next (R79). -/
theorem reissue_of_ready (hc : t.clause = some c) (hm : mayIssue s v n t = true) :
    let u := modThread s w n fun t => { t with park := .none }
    reissue s w n v t = .next { u with running := ⟨w, n⟩ :: u.running } := by
  have hb' : ¬(n ≠ 8 ∧ portBusy s w n v c.port = true) := fun ⟨h8, hp⟩ => hb.elim h8 (by simp [hp])
  simp only [reissue, hc, hm, hh, hb', Bool.not_true, Bool.false_eq_true, ↓reduceIte]

end

end

/-! ### Fusion and freed slots -/

/-- Two strands at one header may fuse under the lower number (R194, R195). -/
theorem exec_opportunisticFusion {s : State} {w n m : Nat} {v : Wave} {a b : Strand} (hv : s.waves[w]? = some v) (hl : v.phase = .live)
    (hn : n ≠ m) (ha : (v.strands.find? fun t => t.num == n) = some a) (hb : (v.strands.find? fun t => t.num == m) = some b)
    (hfa : fusible a = true) (hfb : fusible b = true) (hpc : a.pc = b.pc) :
    exec (.opportunisticFusion w n m) s = .next (waveStepped (modWave s w fun v =>
      { v with
        strands := { num := min n m, mask := a.mask ||| b.mask, pc := a.pc, clause := none, park := .none, handler := a.handler || b.handler }
          :: v.strands.filter fun u => u.num != n && u.num != m }) w) := by
  change onLive s w _ = _
  rw [onLive_of_live hv hl]
  simp only [ha, hb]
  exact if_neg (by simp [hn, hfa, hfb, hpc])

/-- The slot of a retired wave is free once its accesses are performed (R200). -/
theorem exec_slotFree {s : State} {w : Nat} {v : Wave} (hv : s.waves[w]? = some v) (hr : v.phase = .retired) (hu : unperformed s w = false) :
    exec (.slotFree w) s = .next (deviceStepped (modWave s w fun v => { v with phase := .gone })) := by
  change execSlotFree w s = _
  simp only [execSlotFree, hv]
  exact if_pos ⟨hr, by simp [hu]⟩

/-- Settles O32: a strand at a header, one inside its clause, a waiting one, two at one header, and a retired wave. -/
theorem clauseStepsComplete : Obligations.ClauseStepsComplete := by
  unfold Obligations.ClauseStepsComplete
  refine ⟨fun s w n v t hv hl ht => ⟨?_, ?_, ?_⟩, ?_, ?_⟩
  · intro u x h hf hr hm hc ha hx hh u' ws hws he wait
    have hp : HeaderPasses u u' n v t x h ws := ⟨hh, hws, he⟩
    have hs := (exec_clauseStart_at_header hv hl ht hf hr hm hc).trans (startHeader_of_fetch ha hx)
    exact ⟨fun hw hb => hs.trans (startClause_of_ready hp hw hb), fun hw => hs.trans (startClause_of_wait hp hw)⟩
  · intro c hc hm hh hb
    refine ⟨fun hf hr => (exec_clauseStart_in_clause hv hl ht hf hr hm hc).trans (resumeClause_of_ready hh hb), ?_⟩
    intro k b hk again
    refine ⟨fun hp => ?_, fun hp => ?_⟩
    · exact (exec_heldWordIssue hv hl ht hp hk).trans (reissue_of_ready hh hb hc hm)
    · exact (exec_strandWake_of_block hv hl ht hp hk).trans (reissue_of_ready hh hb hc hm)
  · intro k hp hs now
    refine ⟨fun hn hk => ?_, fun hn hk => ?_⟩
    · exact (exec_strandWake_of_wait hv hl ht hp hs fun h => hk (h.symm.trans hn)).trans (by rw [if_pos hn])
    · exact (exec_strandWake_of_wait hv hl ht hp hs hk).trans (by rw [if_neg hn])
  · exact fun s w n m v a b => exec_opportunisticFusion
  · exact fun s w v => exec_slotFree

end Sys2Proof.ClauseSteps
end

section
/-! SUPPORT. The fields of a clause header (02 R47) by their places. -/

namespace Sys2Proof.HeaderFields

open Sys2Proof Sys2Proof.Machine

/-- The code of a SETA or SETB field: 15 for none, the number of its flag else (R47). -/
def setCode (f : Fin 13) : Nat := if f.val = 12 then 15 else f.val

/-- The flag of a SETA or SETB field. -/
def setFlag (f : Fin 13) : Option Nat := if f.val = 12 then none else some f.val

/-- The header word of given fields (R47). -/
def headerWord (port count wait a b : Nat) : Nat :=
  0b1010 * 2 ^ 60 + port * 2 ^ 57 + count * 2 ^ 53 + wait * 2 ^ 41 + a * 2 ^ 37 + b * 2 ^ 33

/-- A PORT field names its port. -/
theorem portOf_eq (p : Fin 5) : portOf p.val = some ([Port.v, .m, .x, .k, .s].getD p.val .v) := by
  revert p
  decide

/-- A flag's code fits its field and is read back. -/
theorem setOf_setCode (f : Fin 13) : setCode f < 16 ∧ setOf (setCode f) = some (setFlag f) := by
  revert f
  decide

/-- The fields of a header word are where R47 puts them, and its bits 30:0 are zero. -/
theorem headerWord_fields {port count wait a b : Nat} (hp : port < 8) (hc : count < 16) (hw : wait < 4096) (ha : a < 16) (hb : b < 16) :
    let w := headerWord port count wait a b
    w / 2 ^ 60 % 16 = 0b1010 ∧ bitsN w 59 57 = port ∧ bitsN w 56 53 = count ∧ bitsN w 52 41 = wait ∧ bitsN w 40 37 = a ∧ bitsN w 36 33 = b
      ∧ w % 2 ^ 31 = 0 := by
  simp only [headerWord, bitsN]
  omega

/-- Settles O33: each field is read from its place, and says what its code stands for. -/
theorem headerFieldsRead : Obligations.HeaderFieldsRead := by
  unfold Obligations.HeaderFieldsRead
  intro port count wait a b code flag
  obtain ⟨ha, hsa⟩ := setOf_setCode a
  obtain ⟨hb, hsb⟩ := setOf_setCode b
  obtain ⟨htop, hport, hcount, hwait, hseta, hsetb, hlow⟩ := headerWord_fields (by omega : port.val < 8) count.isLt wait.isLt ha hb
  change headerOf (headerWord port.val count.val wait.toNat (setCode a) (setCode b)) = _
  simp only [headerOf, htop, hport, hcount, hwait, hseta, hsetb, hlow, portOf_eq, hsa, hsb, ne_eq, not_true_eq_false, ↓reduceIte]
  rfl

end Sys2Proof.HeaderFields
end

section
/-! SUPPORT. How operations in flight end (02 R48, R66, 09 R211, R216, R226, 12 R299, 19 R381, 20 R389, 21 R399, 23 R430): what each such
step gives where it occurs. -/

namespace Sys2Proof.FlightSteps

open Sys2Proof Sys2Proof.Machine Sys2Proof.Laws Sys2Proof.WaveEvents

/-- An operation found by its number has that number. -/
theorem id_of_flightOf {s : State} {id : Nat} {f : Flight} (hf : flightOf s id = some f) : f.id = id := by
  simpa using List.find?_some hf

/-- What finding an operation's entries, or rejecting it once more, leaves (R380, R381). -/
theorem entriesFound_eq {s : State} {id : Nat} {f : Flight} {v : Wave} (hf : flightOf s id = some f) (hv : s.waves[f.wave]? = some v)
    (n : Nat) (r : Option Nat) :
    entriesFound s f n r = raisePerf (modFlight s id fun f => { f with rejected := r, aged := r.isNone }) v.core v.bay n := by
  change (match s.waves[f.wave]? with
    | some v => raisePerf (modFlight s f.id fun f => { f with rejected := r, aged := r.isNone }) v.core v.bay n
    | none => _) = _
  rw [hv, id_of_flightOf hf]

/-- Two operations need no entry of a common slice (R381). -/
theorem any_common_slice_eq_false {xs ys : List (Nat × Nat)} (h : ∀ a ∈ xs, ∀ b ∈ ys, b.2 ≠ a.2) :
    (xs.any fun a => ys.any fun b => b.2 == a.2) = false := by
  refine List.any_eq_false.2 fun a ha => ?_
  rw [Bool.not_eq_true]
  exact List.any_eq_false.2 fun b hb => by simpa using h a ha b hb

/-- No older aged access waits for an entry of a common slice (R356, R381). -/
theorem agedBefore_eq_false {s : State} {id : Nat} {f : Flight} (hf : flightOf s id = some f)
    (ho : ∀ g ∈ s.flights, ∀ j, g.rejected = some j → g.id < id → 64 ≤ j →
      (∀ a ∈ f.miss, ∀ b ∈ g.miss, b.2 ≠ a.2) ∧ ∀ a ∈ f.homeMiss, ∀ b ∈ g.homeMiss, b.2 ≠ a.2) : agedBefore s f = false := by
  refine List.any_eq_false.2 fun g hg hq => ?_
  rw [id_of_flightOf hf] at hq
  cases hr : g.rejected with
  | none => simp [hr] at hq
  | some j =>
    simp only [hr, Bool.and_eq_true, decide_eq_true_eq] at hq
    obtain ⟨⟨hid, hj⟩, hs⟩ := hq
    obtain ⟨hmiss, hhome⟩ := ho g hg j hr hid hj
    simp [any_common_slice_eq_false hmiss, any_common_slice_eq_false hhome] at hs

section
variable {s : State} {id : Nat} {f : Flight} (hf : flightOf s id = some f)
include hf

/-- A result is written, and its registers are no longer pending (R66). -/
theorem exec_resultWriteback (hw : f.wb = true) (hk : f.kind ≠ .commit) (ht : tresWaits s f = false) (hr : f.rejected = none)
    (hb : f.behind s = false) (hd : ∀ d ∈ s.err.delayed, d.2 ≠ some id) :
    exec (.resultWriteback id) s = .next (waveStepped (updateFlight (modWave s f.wave fun v => returnResults v f) id fun f =>
      { f with wb := false, regs := [], res := [] }) f.wave) := by
  have hd' : (s.err.delayed.any fun d => d.2 == some id) = false := by simpa using hd
  change execResultWriteback id s = _
  simp only [execResultWriteback, hf]
  exact if_neg (by simp [hw, hk, ht, hr, hb, hd'])

section
variable (hp : f.perf = true)
include hp

/-- A store, atomic or command is performed at its scope (R48, R299). -/
theorem exec_accessPerformed (hk : f.kind = .access) (hr : f.rejected = none) (hb : f.behind s = false) :
    exec (.accessPerformed id) s = .next (waveStepped (performed s id) f.wave) := by
  change execAccessPerformed id s = _
  simp only [execAccessPerformed, hf]
  exact if_pos (by simp [hp, hk, hr, hb])

/-- An engine command is performed (R216). -/
theorem exec_engineCommandComplete (hk : f.kind = .engine) (hb : f.behind s = false) :
    exec (.engineCommandComplete id) s = .next (waveStepped (performed s id) f.wave) := by
  change execEngineCommandComplete id s = _
  simp only [execEngineCommandComplete, hf]
  exact if_pos (by simp [hp, hk, hb])

/-- A fill ends in its stage (R211). -/
theorem exec_yarnFillComplete {y : Nat} {seq : BitVec 16} {p : Option Nat} (hk : f.kind = .fill y seq p) (hb : f.behind s = false) :
    exec (.yarnFillComplete id) s
      = .next (waveStepped (performed (modYarn s f.wave y fun k => endFill k seq p) id) f.wave) := by
  change execYarnFillComplete id s = _
  simp only [execYarnFillComplete, hf, hk]
  exact if_pos (by simp [hp, hb])

/-- The bay's oldest X operation finishes (R226). -/
theorem exec_meOperationComplete (hk : f.kind = .me)
    (ho : ∀ g ∈ s.flights, g.id < id → g.kind = .me → g.perf = true → sameBay s g.wave f.wave = false) :
    exec (.meOperationComplete id) s = .next (waveStepped (performed s id) f.wave) := by
  have ho' : (s.flights.any fun g => decide (g.id < id) && g.kind == .me && g.perf && sameBay s g.wave f.wave) = false := by
    simpa [and_imp] using ho
  change execMeOperationComplete id s = _
  simp only [execMeOperationComplete, hf]
  exact if_pos (by simp [hp, hk, ho'])

/-- A traversal whose slot's results are known ends (R399). -/
theorem exec_traversalComplete_of_known {y : Nat} {v : Wave} (hk : f.kind = .trace y) (hv : s.waves[f.wave]? = some v)
    (hn : (raySlot v y).known = true) : exec (.traversalComplete id) s = .next (waveStepped (endTrace s f.wave y id) f.wave) := by
  change execTraversalComplete id s = _
  simp only [execTraversalComplete, hf, hk, hv, hp, hn, Bool.not_true, Bool.false_eq_true, ↓reduceIte]
  rfl

/-- A traversal whose results come to be known ends with them (R399). -/
theorem exec_traversalComplete_of_knowSlot {y : Nat} {v : Wave} {u : State} (hk : f.kind = .trace y) (hv : s.waves[f.wave]? = some v)
    (hn : (raySlot v y).known = false) (hu : knowSlot s f.wave v y = .ok u) :
    exec (.traversalComplete id) s = .next (waveStepped (endTrace u f.wave y id) f.wave) := by
  change execTraversalComplete id s = _
  simp only [execTraversalComplete, hf, hk, hv, hp, hn, hu, Bool.not_true, Bool.false_eq_true, ↓reduceIte]
  rfl

end

section
variable {k : Nat} {v : Wave} (hk : f.rejected = some k)
include hk

/-- A rejected access finds its entries free (R381). -/
theorem exec_accessRejectRetry_of_room (hm : missRoom s false f.miss f.homeMiss = true) :
    exec (.accessRejectRetry id) s = .next (deviceStepped (modFlight s id fun f => { f with rejected := none })) := by
  change execAccessRejectRetry id s = _
  simp only [execAccessRejectRetry, hf, hk, hm, ↓reduceIte]
  rfl

/-- A rejected access that finds no entry is rejected once more, and REJECT is set (R381). -/
theorem exec_accessRejectRetry_of_full (hv : s.waves[f.wave]? = some v) (hm : missRoom s false f.miss f.homeMiss = false) :
    exec (.accessRejectRetry id) s
      = .next (raisePerf (modFlight s id fun f => { f with rejected := some (k + 1), aged := false }) v.core v.bay 1) := by
  change execAccessRejectRetry id s = _
  simp only [execAccessRejectRetry, hf, hk, hm, entriesFound_eq hf hv, Bool.false_eq_true, ↓reduceIte, Option.isNone_some]

/-- An access rejected 64 times takes reserved entries before which no older aged access waits, and AGED is set (R381). -/
theorem exec_agedReservation (hv : s.waves[f.wave]? = some v) (ha : 64 ≤ k) (hm : missRoom s true f.miss f.homeMiss = true)
    (ho : agedBefore s f = false) :
    exec (.agedReservation id) s
      = .next (deviceStepped (raisePerf (modFlight s id fun f => { f with rejected := none, aged := true }) v.core v.bay 2)) := by
  have hc : agedAt ≤ k ∧ missRoom s true f.miss f.homeMiss = true ∧ (!agedBefore s f) = true := ⟨ha, hm, by simp [ho]⟩
  change execAgedReservation id s = _
  simp only [execAgedReservation, hf, hk, entriesFound_eq hf hv, if_pos hc, Option.isNone_none]
  rfl

end

end

/-- The order of walks changes timing only (R389). -/
theorem exec_walkStarvation {s : State} {w : Nat} {v : Wave} (hv : s.waves[w]? = some v) (hl : v.phase = .live) :
    exec (.walkStarvation w) s = .next s :=
  onLive_of_live hv hl

/-- An injector releases what it held (R430). -/
theorem exec_injectorDelayExpiry {s : State} {ix : Nat} {d : Nat × Option Nat} (hd : (s.err.delayed.find? fun d => d.1 == ix) = some d) :
    exec (.injectorDelayExpiry ix) s = .next (deviceStepped { s with err := { s.err with delayed := s.err.delayed.erase d } }) := by
  change execInjectorDelayExpiry ix s = _
  simp only [execInjectorDelayExpiry, hd]
  rfl

/-- Settles O34: one lemma an event. -/
theorem flightStepsComplete : Obligations.FlightStepsComplete := by
  unfold Obligations.FlightStepsComplete
  refine ⟨fun s id f hf => ⟨?_, fun hp => ⟨?_, ?_, ?_, ?_, ?_⟩, fun k v hk hv => ⟨?_, ?_, ?_⟩⟩, ?_, ?_⟩
  · exact exec_resultWriteback hf
  · exact exec_accessPerformed hf hp
  · exact exec_engineCommandComplete hf hp
  · exact fun y seq p => exec_yarnFillComplete hf hp
  · exact exec_meOperationComplete hf hp
  · exact fun y v hk hv => ⟨exec_traversalComplete_of_known hf hp hk hv, fun u => exec_traversalComplete_of_knowSlot hf hp hk hv⟩
  · exact exec_accessRejectRetry_of_room hf hk
  · exact exec_accessRejectRetry_of_full hf hk hv
  · exact fun ha hm ho => exec_agedReservation hf hk hv ha hm (agedBefore_eq_false hf ho)
  · exact fun s w v => exec_walkStarvation
  · exact fun s ix d => exec_injectorDelayExpiry

end Sys2Proof.FlightSteps
end

section
/-! SUPPORT. The checks that every instruction word passes before it acts, in their order (02 R63, 03 R84, 05 R116, 08 R203, 10 R254, 13 R313). -/

namespace Sys2Proof.WordChecks

open Sys2Proof Sys2Proof.Machine Sys2Proof.Laws

/-- The meaning of an instruction word is one issue; the steps of the machine, listed first, have no word. -/
theorem exec_eq_issue {i : Instr} (h : encodeNat i ≠ none) : ∃ body, ∀ s, exec i s = issue s i body := by
  cases i with
  | clauseStart | heldWordIssue | strandWake | opportunisticFusion | slotFree | resultWriteback | accessPerformed | yarnFillComplete
  | engineCommandComplete | meOperationComplete | traversalComplete | darnerCommit | deferredEntryIssue | plyReconcile | partialEviction
  | monitorSpuriousTrigger | mwaitTimeout | watchdog | trapTaken | walkStarvation | accessRejectRetry | agedReservation | bankDrowsy
  | queueDispatch | teamPlacement | binLaunch | binTimerExpiry | doneTokenPut | doneTokenRetry | preemptRequest | promiseBroken | fullSave
  | teamRestore | hostDoorbell | qringWrite | qstatWrite | bincfgWrite | hankctlWrite | waysWrite | wayChangeComplete | memcfgWrite
  | shadowPoolWrite | poolfreeWrite | invreqPage | invreqAll | migackDone | migackRefused | trctlLoad | trctlReset | traversalLoadComplete
  | traversalContextFault | headctlWrite | vblank | mediaCommand | mediaDoneRetry | hostCoherentRead | hostCoherentWrite | hostDirectRead
  | hostDirectWrite | fetchadd | swap | cas | vfWindowAccess | correctedError | poison | shared | linkfail | injselWrite | inject
  | injectorDelayExpiry | errbaseWrite | cecountWrite | gaugecWrite | featackWrite | attctlGo | quoteComplete | registerWrite | powerOn
  | fundamentalReset | rom | floorplan | firmware | memory | governorEvaluation | thermalTrip | powerWrite | debuggerAccess | migheadWrite
  | invalidationComplete | traversalResetComplete => exact absurd rfl h
  | _ => exact ⟨_, fun _ => rfl⟩

section
variable {s : State} {c : Ctx} {i : Instr} {body : State → Ctx → Res}

/-- The first check: the access slice and the strand's mode allow the word (R84, R203). -/
theorem issueIn_of_badOp (h : ((c.acc && !accessOk i) || (handlerWord i && !c.st.handler)) = true) :
    issueIn s c i body = wordFault s c i .illegalOp := if_pos h

section
variable (hop : ((c.acc && !accessOk i) || (handlerWord i && !c.st.handler)) = false) (hwf : WellFormed i = true)
include hop hwf

/-- The second check: the word's fields are ones that its wave may use (R62, R196). -/
theorem issueIn_of_stateIllegal (hst : stateIllegal s c i = true) : issueIn s c i body = wordFault s c i .illegalField := by
  simp only [issueIn, hop, hwf, hst, Bool.false_eq_true, ↓reduceIte, Bool.not_true, Bool.or_true]

variable (hst : stateIllegal s c i = false)
include hst

/-- The third check: in the access slice the predicate passes all lanes or none (R116). -/
theorem issueIn_of_divergent (hd : divergent c i = true) : issueIn s c i body = wordFault s c i .divergentAccess := by
  simp only [issueIn, hop, hwf, hst, hd, Bool.false_eq_true, ↓reduceIte, Bool.not_true, Bool.or_self]

variable (hd : divergent c i = false)
include hd

/-- A word without an active lane does nothing, and outside a region its strand goes on (R63). -/
theorem issueIn_of_inactive (ha : c.act = 0) (hr : c.region = none) : issueIn s c i body = .next (wordDone c i (wakeBanks s c i)) := by
  simp only [issueIn, hop, hwf, hst, hd, ha, concretePred_none s i hr, Bool.false_eq_true, ↓reduceIte, Bool.not_true, Bool.or_self]
  exact finishDone_ok hr

/-- In an open atomic region a word that is none of a region's aborts it with cause 5 (R254). -/
theorem issueIn_of_not_regionOk {r : Region} (ha : c.act ≠ 0) (hr : c.region = some r) (ho : regionOk i = false) (hb : isArbeg i = false) :
    issueIn s c i body = .next (strandMoved c (abortRegion (wakePred s c i) c.w 5 0 0)) := by
  simp only [issueIn, hop, hwf, hst, hd, ha, hr, ho, hb, Bool.false_eq_true, ↓reduceIte, Bool.not_true, Bool.not_false, Bool.or_self,
    Option.isSome_some, Bool.and_self]
  rfl

end

end

/-- Settles O50: every word issues, and its issue makes the checks in this order. -/
theorem wordsAreCheckedInOrder : Obligations.WordsAreCheckedInOrder := by
  unfold Obligations.WordsAreCheckedInOrder
  intro s c i hi hc hwf badOp
  obtain ⟨body, he⟩ := exec_eq_issue hi
  have hx : exec i s = issueIn s c i body := by rw [he]; simp only [issue, hc]
  rw [hx]
  exact ⟨issueIn_of_badOp, fun hop => issueIn_of_stateIllegal hop hwf, fun hop hst => issueIn_of_divergent hop hwf hst,
    fun hop hst hd => issueIn_of_inactive hop hwf hst hd, fun r hop hst hd => issueIn_of_not_regionOk hop hwf hst hd⟩

end Sys2Proof.WordChecks
end

section
/-! SUPPORT. The lanes that a word faults in part from their strand (02 R53, 08 R184, 13 R313): where they stay, where the others go, and
that none is lost. -/

namespace Sys2Proof.FaultedLanes

open Sys2Proof Sys2Proof.Machine Sys2Proof.Laws

/-! ### Masks -/

/-- The lanes of a mask given by a predicate. -/
theorem getLsbD_maskOf (p : Nat → Bool) {l : Nat} (h : l < 8) : (maskOf p).getLsbD l = p l := by
  unfold maskOf
  interval_cases l <;> generalize p 0 = b0, p 1 = b1, p 2 = b2, p 3 = b3, p 4 = b4, p 5 = b5, p 6 = b6, p 7 = b7 <;>
    revert b0 b1 b2 b3 b4 b5 b6 b7 <;> decide

/-- The mask of some of a mask's lanes is a part of it. -/
theorem maskOfList_and {ls : List Nat} {m : Mask} (h : ∀ l ∈ ls, l < 8 ∧ m.getLsbD l = true) : maskOfList ls &&& m = maskOfList ls := by
  refine BitVec.eq_of_getLsbD_eq fun l hl => ?_
  rw [BitVec.getLsbD_and, maskOfList, getLsbD_maskOf _ hl, Bool.and_eq_left_iff_imp]
  exact fun hc => (h l (List.contains_iff_mem.1 hc)).2

/-- The mask of a list with a lane in it is not empty. -/
theorem maskOfList_ne_zero {ls : List Nat} (hne : ls ≠ []) (h : ∀ l ∈ ls, l < 8) : maskOfList ls ≠ 0 := by
  obtain ⟨l, hl⟩ := List.exists_mem_of_ne_nil ls hne
  intro h0
  have hb := getLsbD_maskOf (fun k => ls.contains k) (h l hl)
  rw [← maskOfList, h0] at hb
  simp [hl] at hb

/-! ### Strands -/

/-- Going on keeps a strand's number and lanes. -/
theorem advance_parts (t : Strand) : t.advance.num = t.num ∧ t.advance.mask = t.mask := by
  unfold Strand.advance
  split
  · exact ⟨rfl, rfl⟩
  · split <;> exact ⟨rfl, rfl⟩

/-- What holds of some strand after the strands of one number have changed. -/
theorem any_update (ts : List Strand) (n : Nat) (f : Strand → Strand) (p : Strand → Bool) :
    ((ts.map fun t => if t.num = n then f t else t).any p)
      = ((ts.filter fun t => t.num != n).any p || (ts.filter fun t => t.num == n).any fun t => p (f t)) := by
  induction ts with
  | nil => rfl
  | cons t ts ih =>
    by_cases h : t.num = n
    · simp [h, ih, Bool.or_left_comm]
    · simp [h, ih, Bool.or_assoc]

/-- A lane is in a strand of the wave, or has returned to one set aside. -/
theorem getLsbD_inStrands (v : Wave) (l : Nat) :
    v.inStrands.getLsbD l = ((match v.trap with | some e => e.back | none => 0 : Mask).getLsbD l || v.strands.any fun t => t.mask.getLsbD l) := by
  have go (ts : List Strand) (m : Mask) : (ts.foldl (fun m t => m ||| t.mask) m).getLsbD l = (m.getLsbD l || ts.any fun t => t.mask.getLsbD l) := by
    induction ts generalizing m with
    | nil => simp
    | cons t ts ih => rw [List.foldl_cons, ih, BitVec.getLsbD_or, List.any_cons, Bool.or_assoc]
  exact go _ _

section
variable {v : Wave} {n : Nat} {st : Strand} (hn : n < 8) (hs : v.strands.filter (fun t => t.num == n) = [st])
include hs

/-- The strand of a number, where it is the only one. -/
theorem num_of_filter : st.num = n := by
  have : st ∈ v.strands.filter fun t => t.num == n := by rw [hs]; exact List.mem_singleton_self st
  simpa using (List.mem_filter.1 this).2

/-- Lanes kept by a change of the one strand of a number, `more` being strands beside it, are kept in the wave. -/
theorem inStrands_eq {u : Wave} {f : Strand → Strand} {more : List Strand} (ht : u.trap = v.trap)
    (hu : u.strands = (v.strands.map fun t => if t.num = n then f t else t) ++ more)
    (hm : ∀ l, l < 8 → ((f st).mask.getLsbD l || more.any fun t => t.mask.getLsbD l) = st.mask.getLsbD l) : u.inStrands = v.inStrands := by
  refine BitVec.eq_of_getLsbD_eq fun l hl => ?_
  have hv : (v.strands.any fun t => t.mask.getLsbD l)
      = ((v.strands.filter fun t => t.num != n).any (fun t => t.mask.getLsbD l) || st.mask.getLsbD l) := by
    simpa [hs] using any_update v.strands n id fun t => t.mask.getLsbD l
  have hm' := hm l hl
  rw [getLsbD_inStrands, getLsbD_inStrands, ht, hu, List.any_append, any_update, hs, hv, ← hm']
  simp [Bool.or_assoc]

include hn

/-- The strand of a number after a change that keeps its number, with strands added behind. -/
theorem thread_of_update {u : Wave} {f : Strand → Strand} {more : List Strand} (hf : ∀ t, (f t).num = t.num)
    (hu : u.strands = (v.strands.map fun t => if t.num = n then f t else t) ++ more) : u.thread n = some (f st) := by
  have hkeep : ((fun t : Strand => t.num == n) ∘ fun t => if t.num = n then f t else t) = fun t => t.num == n := by
    funext t
    by_cases h : t.num = n <;> simp [h, hf]
  have hfind : (v.strands.find? fun t => t.num == n) = some st := by rw [← List.head?_filter, hs]; rfl
  simp only [Wave.thread, Nat.ne_of_lt hn, ↓reduceIte, hu, List.find?_append, List.find?_map, hkeep, hfind, Option.map_some, num_of_filter hs,
    Option.some_or]

end

/-! ### The split -/

section
/-- The lanes that fault. -/
def faultMask (fs : List LaneFault) : Mask := maskOfList (fs.map (·.lane))

/-- The strand of the lanes that fault at a word: parked there with their faults. -/
def parkedPart (c : Ctx) (fs : List LaneFault) (t : Strand) : Strand :=
  { t with mask := faultMask fs, park := .fault c.opc fs }

/-- The strand of the lanes that do not: it goes on. -/
def goingPart (c : Ctx) (fs : List LaneFault) (t : Strand) : Strand :=
  { t with mask := c.ex &&& ~~~faultMask fs }.advance

/-- A change of a strand changes the wave's strands only. -/
theorem modThread_of_lt (v : Wave) {n : Nat} (hn : n < 8) (f : Strand → Strand) :
    v.modThread n f = { v with strands := v.strands.map fun t => if t.num = n then f t else t } := if_neg (Nat.ne_of_lt hn)

/-- Taking a part of a mask away and adding it again. -/
theorem getLsbD_without_or {m p : Mask} (hp : p &&& m = p) {l : Nat} (hl : l < 8) :
    ((m &&& ~~~p).getLsbD l || p.getLsbD l) = m.getLsbD l := by
  have hb : (p.getLsbD l && m.getLsbD l) = p.getLsbD l := by rw [← BitVec.getLsbD_and, hp]
  rw [BitVec.getLsbD_and, BitVec.getLsbD_not, ← hb]
  simp only [hl]
  cases p.getLsbD l <;> cases m.getLsbD l <;> rfl

variable {v : Wave} {c : Ctx} {fs : List LaneFault} (k : Nat)

/-- The parts of a strand at a word that faults in some of its lanes: those lanes, and the others where there are any. -/
theorem splitStops_faults (hacc : c.acc = false) (hfm : faultMask fs ≠ 0) :
    (c.ex &&& ~~~faultMask fs ≠ 0 →
      splitStops v c { Stops.none with faults := fs } k = (v.modThread c.n (goingPart c fs)).addStrands [parkedPart c fs c.st])
    ∧ (c.ex &&& ~~~faultMask fs = 0 → splitStops v c { Stops.none with faults := fs } k = v.modThread c.n (parkedPart c fs)) := by
  unfold faultMask at *
  have hz (m : Mask) : (0 : Mask) &&& m = 0 := BitVec.zero_and
  have hb : ((0 : Mask) != 0) = false := rfl
  have hb' : (maskOfList (fs.map (·.lane)) != 0) = true := bne_iff_ne.2 hfm
  simp only [splitStops, hacc, Stops.none, List.map_nil, maskOfList_nil, hz, mask_and_not_zero, List.filter_cons, hb, hb', List.filter_nil,
    Bool.false_eq_true, ↓reduceIte, List.cons_ne_nil, or_false, List.map_cons]
  exact ⟨fun h => if_pos h, fun h => if_neg (not_not.2 h)⟩

end

/-- Settles O51: where a lane goes on, the faulted ones take a strand of their own; else they keep theirs. -/
theorem faultedLanesStayAtTheWord : Obligations.FaultedLanesStayAtTheWord := by
  unfold Obligations.FaultedLanesStayAtTheWord
  intro v c fs k hacc hn hs hex hne hfs fm v'
  have hls : ∀ l ∈ fs.map (·.lane), l < 8 ∧ c.ex.getLsbD l = true := by simpa using hfs
  have hfm : fm ≠ 0 := maskOfList_ne_zero (by simpa using hne) fun l hl => (hls l hl).1
  have hsub : fm &&& c.ex = fm := maskOfList_and hls
  have hrest : (goingPart c fs c.st).mask = c.ex &&& ~~~fm := (advance_parts _).2
  have hst := num_of_filter hs
  obtain ⟨hsome, hall⟩ := splitStops_faults (v := v) k hacc hfm
  by_cases hgo : c.ex &&& ~~~fm ≠ 0
  · have hv' : v' = _ := hsome hgo
    rw [modThread_of_lt v hn] at hv'
    obtain ⟨m, hu⟩ : ∃ m, v'.strands
        = (v.strands.map fun t => if t.num = c.n then goingPart c fs t else t) ++ [{ parkedPart c fs c.st with num := m }] :=
      ⟨_, by rw [hv']; rfl⟩
    refine ⟨inStrands_eq hs (by rw [hv']; rfl) hu fun l hl => ?_, ⟨{ parkedPart c fs c.st with num := m }, ?_, rfl, rfl, rfl, rfl⟩, fun _ => ?_,
      by rw [hv']; rfl⟩
    · rw [hrest, ← hex, ← getLsbD_without_or hsub hl, List.any_cons, List.any_nil, Bool.or_false]
      rfl
    · rw [hu]
      exact List.mem_concat_self
    · exact thread_of_update (f := goingPart c fs) hn hs (fun t => (advance_parts _).1) hu
  · have hnone : c.ex &&& ~~~fm = 0 := not_not.1 hgo
    have hv' : v' = _ := hall hnone
    rw [modThread_of_lt v hn] at hv'
    have hu : v'.strands = (v.strands.map fun t => if t.num = c.n then parkedPart c fs t else t) ++ [] := by rw [hv', List.append_nil]
    have hmem : c.st ∈ v.strands := (List.mem_filter.1 (by rw [hs]; exact List.mem_singleton_self c.st)).1
    refine ⟨inStrands_eq hs (by rw [hv']) hu fun l hl => ?_, ⟨parkedPart c fs c.st, ?_, rfl, rfl, rfl, rfl⟩, fun h => absurd h hgo,
      by rw [hv']⟩
    · rw [← hex, ← getLsbD_without_or hsub hl, hnone]
      simp [parkedPart, faultMask, fm]
    · rw [hu, List.append_nil]
      exact List.mem_map.2 ⟨c.st, hmem, if_pos hst⟩

end Sys2Proof.FaultedLanes
end

section
/-! SUPPORT. What follows a word (02 R48, 08 R193, R197) as a frame: the step of the strand, its turn, and what is settled after it, each by
what it leaves alone. -/

namespace Sys2Proof.AfterAWord

open Sys2Proof Sys2Proof.Machine Sys2Proof.Laws Sys2Proof.RegisterFrame

/-- `u` with the parts of `v` that follow a word. -/
def trailingPartsOf (v u : Wave) : Wave :=
  { u with strands := v.strands, flags := v.flags, tokens := v.tokens, trap := v.trap, access := v.access, latch := v.latch, finish := v.finish }

/-- `v'` is `v` but for the parts that follow a word of `c`; the access thread keeps its registers, and moves at a word of its own only. -/
structure TrailFrame (c : Ctx) (v v' : Wave) : Prop where
  parts : trailingPartsOf v v' = v
  regs : v'.access.map (·.regs) = v.access.map (·.regs)
  access : c.acc = false → c.n ≠ 8 → v'.access = v.access

/-- The same until what follows is settled: a wave with a strand keeps one. -/
structure MoveFrame (c : Ctx) (v v' : Wave) : Prop extends TrailFrame c v v' where
  strands : v.strands ≠ [] → v'.strands ≠ []

section
variable {c : Ctx} {v v' v'' : Wave}

theorem MoveFrame.refl (v : Wave) : MoveFrame c v v := ⟨⟨rfl, rfl, fun _ _ => rfl⟩, id⟩

theorem TrailFrame.trans (h : TrailFrame c v v') (h' : TrailFrame c v' v'') : TrailFrame c v v'' where
  parts := (congrArg (trailingPartsOf v) h'.parts).trans h.parts
  regs := h'.regs.trans h.regs
  access ha hn := (h'.access ha hn).trans (h.access ha hn)

theorem MoveFrame.trans (h : MoveFrame c v v') (h' : MoveFrame c v' v'') : MoveFrame c v v'' :=
  ⟨h.toTrailFrame.trans h'.toTrailFrame, h'.strands ∘ h.strands⟩

/-- The strand, or the access thread, goes on (R53). -/
theorem MoveFrame.modThread (v : Wave) (f : Strand → Strand) {n : Nat} (hn : n = 8 → c.acc = true ∨ c.n = 8) :
    MoveFrame c v (v.modThread n f) := by
  unfold Wave.modThread
  split
  · next h8 =>
    refine ⟨⟨rfl, ?_, fun ha hc => ?_⟩, id⟩
    · simp only [Option.map_map, Function.comp_def]
    · exact absurd (hn h8) (by simp [ha, hc])
  · exact ⟨⟨rfl, rfl, fun _ _ => rfl⟩, fun h => by simpa using h⟩

/-- What the word's own wave makes of its strand (R53). -/
theorem MoveFrame.goesOn (v : Wave) : MoveFrame c v (c.goesOn v) := by
  unfold Ctx.goesOn
  split
  · split
    · next ha => exact .modThread v _ fun _ => .inl ha
    · exact .modThread v _ fun h => .inr h
  · exact .refl v

end

section
variable {c : Ctx} {s : State}

/-- What a word does to the poison of its destinations. -/
theorem clearRegPoison_frame (i : Instr) : StateFrame c.w (MoveFrame c) s (clearRegPoison s c i) := by
  have hu := (clearRegPoison_units s c i).1
  have hw := congrArg State.waves hu
  refine .of_units MoveFrame.refl ?_ hw
  exact congrArg (fun x : State => { x with running := s.running, progress := s.progress, barriers := s.barriers, waves := s.waves }) hu

/-- The turn of the word's strand, and what its wave latches. -/
theorem rotate_frame : StateFrame c.w (MoveFrame c) s (rotate s c) := by
  have latched (t : State) (f : Wave → Option Latch) : StateFrame c.w (MoveFrame c) t (modWave t c.w fun v => { v with latch := f v }) :=
    .modWave t fun _ => ⟨⟨rfl, rfl, fun _ _ => rfl⟩, id⟩
  unfold rotate
  refine StateFrame.comp ?_ (latched _ _) fun _ _ _ => .trans
  split
  · exact .of_units MoveFrame.refl rfl rfl
  · exact .of_units MoveFrame.refl rfl rfl

/-- The turn of a strand marks no poison. -/
theorem rotate_poison : (rotate s c).poison = s.poison := by
  unfold rotate
  dsimp only
  split <;> rfl

/-- What is settled after a word of a live wave with a strand, where no pair and no keep waits. -/
theorem settled_frame {v : Wave} (hv : s.waves[c.w]? = some v) (hl : v.phase = .live) (hs : v.strands ≠ []) (hp : nothingWaits s) :
    StateFrame c.w (TrailFrame c) s (bump (settle s c.w)) ∧ (bump (settle s c.w)).poison = s.poison := by
  obtain ⟨hu, hpois, ho, v', hv', e⟩ := settle_frame hv hl hs hp
  refine ⟨⟨hu, ho, fun u hu' => ⟨v', hv', ?_⟩⟩, hpois⟩
  obtain rfl : v = u := Option.some.inj (hv.symm.trans hu')
  have hparts := congrArg (trailingPartsOf v) e
  have haccess : v'.access = v.access := by simpa using congrArg Wave.access e
  exact ⟨hparts, by rw [haccess], fun _ _ => haccess⟩

end

/-- Settles O54: the strand's step, its turn and the settling, one frame after another. -/
theorem nothingElseChangesAfterAWord : Obligations.NothingElseChangesAfterAWord := by
  unfold Obligations.NothingElseChangesAfterAWord
  intro c i t v hv hl hs hp u
  let moved := rotate (modWave (clearRegPoison t c i) c.w c.goesOn) c
  have hmoved : StateFrame c.w (MoveFrame c) t moved :=
    ((clearRegPoison_frame i).comp (.modWave _ .goesOn) fun _ _ _ => .trans).comp rotate_frame fun _ _ _ => .trans
  have hpois : moved.poison = (clearRegPoison t c i).poison := rotate_poison
  obtain ⟨v1, hv1, h1⟩ := hmoved.wave v hv
  have hl1 : v1.phase = .live := (congrArg Wave.phase h1.parts).trans hl
  obtain ⟨hsettled, hpois'⟩ := settled_frame hv1 hl1 (h1.strands hs) (nothingWaits_of_sameUnits hmoved.units hp)
  have hu : StateFrame c.w (TrailFrame c) t u := hmoved.comp hsettled fun _ _ _ h h' => h.toTrailFrame.trans h'
  obtain ⟨v2, hv2, h2⟩ := hu.wave v hv
  refine ⟨hu.units, fun h0 => ?_, hu.others, v2, hv2, h2.parts, h2.regs, h2.access⟩
  calc u.poison = (clearRegPoison t c i).poison := hpois'.trans hpois
    _ = t.poison := by rw [(clearRegPoison_units t c i).2 h0]
    _ = [] := h0

end Sys2Proof.AfterAWord
end

section
/-! SUPPORT. What a step runs (02 R45, R53, 24 R432): the word of the strand whose turn it is, as it is fetched (20 R390) and decodes, or the
step that is scheduled. -/

namespace Sys2Proof.Steps

open Sys2Proof Sys2Proof.Machine Sys2Proof.Laws

/-! ### The fetch -/

section
variable {s : State}

/-- Without an engine command under way no line is owned (R357). -/
theorem ownersOf_of_no_command (h : ∀ f ∈ s.flights, f.kind ≠ .engine ∨ f.perf = false) (ls : List Nat) : ownersOf s ls = [] := by
  have go (fs : List Flight) (hfs : ∀ f ∈ fs, f.kind ≠ .engine ∨ f.perf = false) : fs.foldr (fun f a =>
      if f.kind == .engine && f.perf && f.lines.any a.2.contains then (f :: a.1, f.lines ++ f.reads ++ a.2) else a) ([], ls) = ([], ls) := by
    induction fs with
    | nil => rfl
    | cons f fs ih =>
      have hf : (f.kind == .engine && f.perf) = false := by simpa [or_iff_not_imp_left] using hfs f List.mem_cons_self
      rw [List.foldr_cons, ih fun g hg => hfs g (List.mem_cons_of_mem _ hg), hf]
      rfl
  exact congrArg Prod.fst (go s.flights h)

/-- Where no line is owned, no command is waited for (R357). -/
theorem releaseLines_of_no_command (h : ∀ f ∈ s.flights, f.kind ≠ .engine ∨ f.perf = false) (ls : List Nat) : releaseLines s ls = s := by
  simp only [releaseLines, ownersOf_of_no_command h, List.foldl_nil]

/-- Where no copy is corrupted and no home copy is behind GDDR 7, a ply's bytes are what a wave reads (R387). -/
theorem loadBytes_of_clean (hc : s.corrupt = []) (hd : ∀ t ∈ s.stale, t.dirty = true) (h ply cl : Nat) (l : Leaf) (n : Nat) :
    loadBytes s h ply cl l n = readBytes s h (readPly l ply) l.pa n := by
  have hstale (line : Nat) : (s.stale.find? fun t => t.line == line && !t.dirty) = none :=
    List.find?_eq_none.2 fun t ht => by simp [hd t ht]
  have hbyte (p pa : Nat) : uncachedByte s h p pa = readByte s h p pa := by
    simp only [uncachedByte, hstale, ite_self]
  simp only [loadBytes, hc, List.find?_nil, ite_self, homeBytes, hbyte]
  split <;> rfl

/-- A fetch from a page that the hank may execute, where nothing is folded, poisoned or waited for, reads the word of the strand's ply and marks the
page's entry (R45, R390). -/
theorem fetchWord_of_mapped {v : Wave} {va : Nat} {lf : Leaf} (hm : Mapped s v.hank va false lf) (hx : pteX lf.pte = true)
    (hpart : s.partials = []) (hpois : s.poison = []) (hc : s.corrupt = []) (hd : ∀ t ∈ s.stale, t.dirty = true)
    (hfl : ∀ f ∈ s.flights, f.kind ≠ .engine ∨ f.perf = false) :
    fetchWord s v va = .ok (markUsed s v.hank lf false) (leNat (readBytes s v.hank (readPly lf v.ply) lf.pa 8)) := by
  obtain ⟨hwin, hwalk, hhank, hown, -, hpa⟩ := hm
  have hfold : foldRange s lf.pa 8 = s := if_pos (by simp [hpart])
  have hread : poisonOfRead s v.hank (readPly lf v.ply) lf.pa 8 = none := if_pos (by simp [hpois])
  simp only [fetchWord, hwin, walk, hwalk, hhank, hown, hx, Nat.not_le.2 hpa, releaseLines_of_no_command hfl, hfold, hread,
    loadBytes_of_clean hc hd, Option.isSome_none, Bool.false_eq_true, ↓reduceIte, ne_eq, not_true_eq_false, Bool.not_true]

/-! ### The step -/

/-- Choosing the strand that issues changes the schedule only. -/
theorem chooseStrand_waves (s : State) : (chooseStrand s).waves = s.waves := by
  unfold chooseStrand
  split <;> rfl

section
variable (hi : s.inbox = [])
include hi

/-- With an empty inbox the machine goes on by itself, but in HALT (R432). -/
theorem step_of_empty_inbox (hs : s.sysc.stage ≠ 15) : step s = goOn s := by
  simp only [step, hi, hs, ↓reduceIte]

/-- In HALT only the mailbox answers (R432, R439). -/
theorem step_in_halt (hs : s.sysc.stage = 15) : step s = haltStep s := by
  simp only [step, hi, hs, ↓reduceIte]

end

/-- The word of the strand whose turn it is runs in the state that its fetch left (R45, R53). -/
theorem goOn_of_word {u : State} {r : IssueRef} {rs : List IssueRef} {v : Wave} {t : Strand} {x : Nat} {i : Instr}
    (hk : firstStep s 0 (keptAtomics s) = none) (hr : (chooseStrand s).running = r :: rs) (hm : mayGoOn (chooseStrand s) r = true)
    (hv : s.waves[r.w]? = some v) (ht : v.thread r.n = some t) (hx : fetchWord (chooseStrand s) v t.wordPc.toNat = .ok u x)
    (hd : decodeNat x = .ok i) : goOn s = exec i u := by
  have hw : nextWord (chooseStrand s) r.w r.n v t = .exec u i := by simp only [nextWord, hx, hd]
  have hn : nextIssue (chooseStrand s) = some (.exec u i) := by
    simp only [nextIssue, hr, hm, chooseStrand_waves, hv, ht, hw, Bool.not_true, Bool.false_eq_true, ↓reduceIte, Option.map_some]
  simp only [goOn, hk, hn]

/-- A deferred atomic that a keep is issuing comes first (R338). -/
theorem goOn_of_kept {k : Nat} {o : Host.Outcome State Fault Refusal} (hk : firstStep s 0 (keptAtomics s) = some (k, o)) : goOn s = o := by
  simp only [goOn, hk]

/-- A scheduled step that is legal runs (R41). -/
theorem step_of_scheduled {i : Instr} {is : List Instr} (hi : s.inbox = i :: is) (he : encodeNat i = none) (hw : WellFormed i = true)
    (hs : s.sysc.stage ≠ 15) : step s = exec i { s with inbox := is } := by
  simp only [step, hi]
  exact if_pos (by simp [isStep, he, hw, hs])

end

/-- Settles O49: the word of a strand, a keep's atomic, a fetch, a scheduled step, and HALT. -/
theorem stepRunsTheFetchedWord : Obligations.StepRunsTheFetchedWord := by
  unfold Obligations.StepRunsTheFetchedWord
  refine ⟨?_, ?_, ?_, ?_, ?_⟩
  · exact fun s u r rs v t x i hi hs hk hr hm hv ht hx hd => (step_of_empty_inbox hi hs).trans (goOn_of_word hk hr hm hv ht hx hd)
  · exact fun s k o hi hs hk => (step_of_empty_inbox hi hs).trans (goOn_of_kept hk)
  · exact fun s v va lf => fetchWord_of_mapped
  · exact fun s i is => step_of_scheduled
  · exact fun s hi hs => ⟨fun ha => (step_in_halt hi hs).trans (if_neg ha), fun ha => (step_in_halt hi hs).trans (if_pos ha)⟩

end Sys2Proof.Steps
end

section
/-! SUPPORT. Correct rounding (04 R87 to R89): the values of a format's codes as multiples of its smallest subnormal, and where among them
an exact magnitude lies; every rounding mode chooses between the two codes next to it. -/

namespace Sys2Proof.Rounding

open Sys2Proof Sys2Proof.Machine

/-! ### The values of codes -/

/-- The magnitude of a finite code with `mb` fraction bits in units of the smallest subnormal (R87), as if the exponent range had no top. -/
def codeUnits (mb code : Nat) : Nat := if code < 2 ^ mb then code else (2 ^ mb + code % 2 ^ mb) * 2 ^ (code / 2 ^ mb - 1)

/-- The magnitude of a code of a format (R87), as if the exponent range had no top. -/
def codeValue (f : Fmt) (code : Nat) : ℚ := codeUnits f.mb code * 2 ^ (f.emin - f.mb)

/-- The magnitude of a finite value; 0 for the others. -/
def magnitude : Val → ℚ
  | .fin _ m e => m * 2 ^ e
  | _ => 0

/-- The code of significand `sig` in the binade `j` above the lowest, a carry out of the significand included. -/
theorem codeUnits_of_significand {mb j sig : Nat} (hs : sig ≤ 2 ^ (mb + 1)) (hj : 2 ^ mb ≤ sig ∨ j = 0) :
    codeUnits mb (j * 2 ^ mb + sig) = sig * 2 ^ j := by
  have hpos : 0 < 2 ^ mb := Nat.two_pow_pos mb
  rcases Nat.lt_or_ge sig (2 ^ mb) with hlt | hge
  · obtain rfl : j = 0 := hj.resolve_left hlt.not_ge
    simp [codeUnits, hlt]
  · obtain ⟨r, rfl⟩ := Nat.exists_eq_add_of_le hge
    have hnot : ¬ j * 2 ^ mb + (2 ^ mb + r) < 2 ^ mb := by omega
    rw [codeUnits, if_neg hnot]
    rcases Nat.lt_or_ge r (2 ^ mb) with hr | hr
    · have hcode : j * 2 ^ mb + (2 ^ mb + r) = r + (j + 1) * 2 ^ mb := by ring
      rw [hcode, Nat.add_mul_mod_self_right, Nat.mod_eq_of_lt hr, Nat.add_mul_div_right _ _ hpos, Nat.div_eq_of_lt hr,
        Nat.zero_add, Nat.add_sub_cancel]
    · obtain rfl : r = 2 ^ mb := by omega
      have hcode : j * 2 ^ mb + (2 ^ mb + 2 ^ mb) = (j + 2) * 2 ^ mb := by ring
      rw [hcode, Nat.mul_mod_left, Nat.mul_div_cancel _ hpos, Nat.add_sub_assoc (by decide)]
      ring

/-- The next code is one unit in the last place further. -/
theorem codeUnits_succ (mb code : Nat) : codeUnits mb code < codeUnits mb (code + 1) := by
  have hpos : 0 < 2 ^ mb := Nat.two_pow_pos mb
  have next {j sig : Nat} (hs : sig < 2 ^ (mb + 1)) (hj : 2 ^ mb ≤ sig ∨ j = 0) :
      codeUnits mb (j * 2 ^ mb + sig) < codeUnits mb (j * 2 ^ mb + sig + 1) := by
    rw [Nat.add_assoc, codeUnits_of_significand hs.le hj, codeUnits_of_significand hs (hj.imp_left (·.trans (Nat.le_succ _)))]
    exact Nat.mul_lt_mul_of_pos_right (Nat.lt_succ_self _) (Nat.two_pow_pos j)
  rcases Nat.lt_or_ge code (2 ^ mb) with hlt | hge
  · simpa using next (j := 0) (hlt.trans (Nat.pow_lt_pow_right (by decide) (Nat.lt_succ_self mb))) (.inr rfl)
  · have hr := Nat.mod_lt code hpos
    have hcode : (code / 2 ^ mb - 1) * 2 ^ mb + (2 ^ mb + code % 2 ^ mb) = code := by
      have hq : 2 ^ mb ≤ code / 2 ^ mb * 2 ^ mb := Nat.le_mul_of_pos_left _ (Nat.div_pos hge hpos)
      have hdm := Nat.div_add_mod' code (2 ^ mb)
      rw [Nat.sub_one_mul]
      omega
    simpa only [hcode] using next (j := code / 2 ^ mb - 1) (sig := 2 ^ mb + code % 2 ^ mb) (by omega) (.inl (Nat.le_add_right _ _))

/-- Values ascend with their codes. -/
theorem codeValue_strictMono (f : Fmt) : StrictMono (codeValue f) :=
  strictMono_nat_of_lt_succ fun k =>
    mul_lt_mul_of_pos_right (Nat.cast_lt.2 (codeUnits_succ f.mb k)) (zpow_pos two_pos _)

/-- A finite code is read as its value (R87). -/
theorem magnitude_read {f : Fmt} {code : Nat} (h : code < f.infCode) : magnitude (f.read code) = codeValue f code := by
  have hpos : 0 < 2 ^ f.mb := Nat.two_pow_pos f.mb
  have hexp : code / 2 ^ f.mb < 2 ^ f.eb - 1 := (Nat.div_lt_iff_lt_mul hpos).2 h
  have hmod : code / 2 ^ f.mb % 2 ^ f.eb = code / 2 ^ f.mb := Nat.mod_eq_of_lt (hexp.trans_le (Nat.sub_le _ _))
  simp only [Fmt.read, hmod, hexp.ne, if_false, codeValue, codeUnits, Fmt.emin]
  rcases Nat.lt_or_ge code (2 ^ f.mb) with hlt | hge
  · simp [Nat.div_eq_of_lt hlt, Nat.mod_eq_of_lt hlt, hlt, magnitude]
  · have hone : 1 ≤ code / 2 ^ f.mb := Nat.div_pos hge hpos
    have hplace : ((code / 2 ^ f.mb : Nat) : Int) - f.bias - f.mb = (code / 2 ^ f.mb - 1 : Nat) + (1 - (f.bias : Int) - f.mb) := by omega
    rw [if_neg (by omega), if_neg hge.not_gt, hplace]
    simp only [magnitude, zpow_add₀ (two_ne_zero (α := ℚ)), zpow_natCast]
    push_cast
    ring

/-! ### Where an exact magnitude lies -/

/-- `x` lies `rem / unit` of the way from the value of `code` to that of the next code. -/
structure Between (f : Fmt) (x : ℚ) (code rem unit : Nat) : Prop where
  inside : rem < unit
  place : x = codeValue f code + rem / unit * (codeValue f (code + 1) - codeValue f code)

/-- Cutting at 2^q keeps the magnitude: the whole part and the fraction that rounds off. -/
theorem cutAt_exact (m : Nat) (e q : Int) :
    (cutAt m e q).2.1 < (cutAt m e q).2.2 ∧
      (m : ℚ) * 2 ^ e = ((cutAt m e q).1 + ((cutAt m e q).2.1 : ℚ) / (cutAt m e q).2.2) * 2 ^ q := by
  unfold cutAt
  split
  · next h =>
    have he : e = ((e - q).toNat : Int) + q := by omega
    refine ⟨Nat.one_pos, ?_⟩
    conv_lhs => rw [he, zpow_add₀ two_ne_zero, zpow_natCast]
    push_cast
    ring
  · next h =>
    have hq : q = ((q - e).toNat : Int) + e := by omega
    have hpos := Nat.two_pow_pos (q - e).toNat
    refine ⟨Nat.mod_lt _ hpos, ?_⟩
    generalize hn : (q - e).toNat = n at hq hpos
    have hdm : (m : ℚ) = (m / 2 ^ n : Nat) * 2 ^ n + (m % 2 ^ n : Nat) := by exact_mod_cast (Nat.div_add_mod' m (2 ^ n)).symm
    rw [hq, zpow_add₀ two_ne_zero, zpow_natCast]
    conv_lhs => rw [hdm]
    push_cast
    field_simp

/-- The whole part is the magnitude in units of 2^q, rounded down. -/
theorem cutAt_floor (m : Nat) (e q : Int) :
    ((cutAt m e q).1 : ℚ) * 2 ^ q ≤ m * 2 ^ e ∧ (m : ℚ) * 2 ^ e < ((cutAt m e q).1 + 1) * 2 ^ q := by
  obtain ⟨hr, hx⟩ := cutAt_exact m e q
  have hlt : ((cutAt m e q).2.1 : ℚ) / (cutAt m e q).2.2 < 1 :=
    (div_lt_one (by exact_mod_cast hr.trans_le' (Nat.zero_le _))).2 (by exact_mod_cast hr)
  have hle : (0 : ℚ) ≤ ((cutAt m e q).2.1 : ℚ) / (cutAt m e q).2.2 := by positivity
  rw [hx]
  constructor
  · gcongr
    exact le_add_of_nonneg_right hle
  · gcongr

/-- The bits of a number bound it. -/
theorem bitLen_bounds {m : Nat} (hm : 0 < m) : 2 ^ (bitLen m - 1) ≤ m ∧ m < 2 ^ bitLen m ∧ 0 < bitLen m := by
  simp only [bitLen, hm.ne', if_false, Nat.add_sub_cancel]
  exact ⟨Nat.log2_self_le hm.ne', Nat.lt_log2_self, Nat.succ_pos _⟩

/-- The whole part at the last place fits the significand. -/
theorem cutAt_lastPlace_lt {m : Nat} (hm : 0 < m) (e : Int) (mb : Nat) (emin : Int) :
    (cutAt m e (lastPlace m e mb emin)).1 < 2 ^ (mb + 1) := by
  obtain ⟨-, hhi, -⟩ := bitLen_bounds hm
  have hq : e + bitLen m - 1 - mb ≤ lastPlace m e mb emin := le_max_left _ _
  generalize lastPlace m e mb emin = q at hq
  have hlt : ((cutAt m e q).1 : ℚ) * 2 ^ q < 2 ^ (mb + 1) * 2 ^ q := by
    calc ((cutAt m e q).1 : ℚ) * 2 ^ q ≤ m * 2 ^ e := (cutAt_floor m e q).1
      _ < 2 ^ bitLen m * 2 ^ e := by gcongr; exact_mod_cast hhi
      _ = 2 ^ (bitLen m + e : Int) := by rw [zpow_add₀ two_ne_zero, zpow_natCast]
      _ ≤ 2 ^ ((mb + 1 : Nat) + q : Int) := zpow_le_zpow_right₀ one_le_two (by push_cast; omega)
      _ = 2 ^ (mb + 1) * 2 ^ q := by rw [zpow_add₀ two_ne_zero, zpow_natCast]
  exact_mod_cast lt_of_mul_lt_mul_right hlt (zpow_pos two_pos q).le

/-- Above the lowest binade the whole part at the last place fills the significand. -/
theorem le_cutAt_lastPlace {m : Nat} (hm : 0 < m) (e : Int) (mb : Nat) (emin : Int) :
    2 ^ mb ≤ (cutAt m e (lastPlace m e mb emin)).1 ∨ lastPlace m e mb emin = emin - mb := by
  obtain ⟨hlo, -, hlen⟩ := bitLen_bounds hm
  have hq : lastPlace m e mb emin = e + bitLen m - 1 - mb ∨ lastPlace m e mb emin = emin - mb := max_choice _ _
  refine hq.imp_left fun htop => ?_
  generalize lastPlace m e mb emin = q at htop
  have hlt : (2 : ℚ) ^ mb * 2 ^ q < ((cutAt m e q).1 + 1) * 2 ^ q := by
    calc (2 : ℚ) ^ mb * 2 ^ q = 2 ^ (bitLen m - 1) * 2 ^ e := by
          rw [← zpow_natCast, ← zpow_natCast, ← zpow_add₀ two_ne_zero, ← zpow_add₀ two_ne_zero]
          congr 1
          omega
      _ ≤ m * 2 ^ e := by gcongr; exact_mod_cast hlo
      _ < ((cutAt m e q).1 + 1) * 2 ^ q := (cutAt_floor m e q).2
  exact Nat.lt_succ_iff.1 (by exact_mod_cast lt_of_mul_lt_mul_right hlt (zpow_pos two_pos q).le)

/-- The code of a significand is its binade's first code and the significand. -/
theorem magCode_of_significand {sig mb : Nat} {q emin : Int} (h : 2 ^ mb ≤ sig ∨ q = emin - mb) :
    magCode sig q mb emin = (q - (emin - mb)).toNat * 2 ^ mb + sig := by
  unfold magCode
  split
  · next hlt => simp [h.resolve_left hlt.not_ge]
  · rfl

/-- The value of the code of a significand. -/
theorem codeValue_magCode {f : Fmt} {sig : Nat} {q : Int} (hs : sig ≤ 2 ^ (f.mb + 1)) (hq : f.emin - f.mb ≤ q)
    (h : 2 ^ f.mb ≤ sig ∨ q = f.emin - f.mb) : codeValue f (magCode sig q f.mb f.emin) = sig * 2 ^ q := by
  have hplace : q = ((q - (f.emin - f.mb)).toNat : Int) + (f.emin - f.mb) := by omega
  rw [magCode_of_significand h, codeValue, codeUnits_of_significand hs (h.imp_right fun e => by omega)]
  conv_rhs => rw [hplace, zpow_add₀ two_ne_zero, zpow_natCast]
  push_cast
  ring

/-- Rounding a magnitude chooses between the code at or below it and the next one, by the part that rounds off (R88, R89). -/
theorem roundMag_between {f : Fmt} (hf : 0 < f.mb) {m : Nat} (hm : 0 < m) (e : Int) :
    ∃ code rem unit, Between f (m * 2 ^ e) code rem unit ∧ ∀ rm neg,
      (roundMag rm neg m e f.mb f.emin).1 = if roundsUp rm neg (code % 2 == 1) rem unit then code + 1 else code := by
  have hq : f.emin - f.mb ≤ lastPlace m e f.mb f.emin := le_max_right _ _
  have hlt := cutAt_lastPlace_lt hm e f.mb f.emin
  have hfill := le_cutAt_lastPlace hm e f.mb f.emin
  obtain ⟨hr, hx⟩ := cutAt_exact m e (lastPlace m e f.mb f.emin)
  have hround rm neg : (roundMag rm neg m e f.mb f.emin).1 =
      let c := cutAt m e (lastPlace m e f.mb f.emin)
      magCode (if roundsUp rm neg (c.1 % 2 == 1) c.2.1 c.2.2 then c.1 + 1 else c.1) (lastPlace m e f.mb f.emin) f.mb f.emin := by
    simp only [roundMag, hm.ne', if_false]
  generalize lastPlace m e f.mb f.emin = q at *
  generalize cutAt m e q = c at *
  obtain ⟨sig, rem, unit⟩ := c
  dsimp only at hlt hfill hr hx hround
  have hfill' : 2 ^ f.mb ≤ sig + 1 ∨ q = f.emin - f.mb := hfill.imp_left (Nat.le_succ_of_le ·)
  have hnext : magCode (sig + 1) q f.mb f.emin = magCode sig q f.mb f.emin + 1 := by
    rw [magCode_of_significand hfill, magCode_of_significand hfill', Nat.add_assoc]
  have hodd : magCode sig q f.mb f.emin % 2 = sig % 2 := by
    have heven : 2 ∣ (q - (f.emin - f.mb)).toNat * 2 ^ f.mb := Dvd.dvd.mul_left (dvd_pow_self 2 hf.ne') _
    rw [magCode_of_significand hfill]
    omega
  refine ⟨magCode sig q f.mb f.emin, rem, unit, ⟨hr, ?_⟩, fun rm neg => ?_⟩
  · rw [← hnext, codeValue_magCode hlt.le hq hfill, codeValue_magCode hlt hq hfill', hx]
    push_cast
    ring
  · rw [hround, hodd]
    split
    · exact hnext
    · rfl

/-! ### The nearest codes -/

section
variable {f : Fmt} {x : ℚ} {code rem unit : Nat} (h : Between f x code rem unit)
include h

/-- The two codes next to a magnitude bracket it. -/
theorem Between.bracket : codeValue f code ≤ x ∧ x < codeValue f (code + 1) := by
  have hgap := codeValue_strictMono f (Nat.lt_succ_self code)
  have hunit : (0 : ℚ) < unit := by exact_mod_cast h.inside.trans_le' (Nat.zero_le _)
  have hlt : (rem : ℚ) / unit < 1 := (div_lt_one hunit).2 (by exact_mod_cast h.inside)
  have hle : (0 : ℚ) ≤ rem / unit := by positivity
  have hpart : (rem : ℚ) / unit * (codeValue f (code + 1) - codeValue f code) < codeValue f (code + 1) - codeValue f code :=
    mul_lt_of_lt_one_left (sub_pos.2 hgap) hlt
  rw [h.place]
  exact ⟨le_add_of_nonneg_right (mul_nonneg hle (sub_pos.2 hgap).le), lt_sub_iff_add_lt'.1 hpart⟩

/-- The code below is farther than the next one by how much the part that rounds off exceeds half a unit. -/
theorem Between.distances :
    |x - codeValue f code| - |x - codeValue f (code + 1)| =
      (2 * rem - unit) * ((codeValue f (code + 1) - codeValue f code) / unit) := by
  obtain ⟨hlo, hhi⟩ := h.bracket
  have hunit : (unit : ℚ) ≠ 0 := by exact_mod_cast (h.inside.trans_le' (Nat.zero_le _)).ne'
  rw [abs_of_nonneg (sub_nonneg.2 hlo), abs_of_neg (sub_neg.2 hhi)]
  conv_lhs => rw [h.place]
  field_simp
  ring

/-- The step to the next code, by the unit of the part that rounds off. -/
theorem Between.ulp_pos : 0 < (codeValue f (code + 1) - codeValue f code) / unit :=
  div_pos (sub_pos.2 (codeValue_strictMono f (Nat.lt_succ_self code))) (by exact_mod_cast h.inside.trans_le' (Nat.zero_le _))

/-- The code below is no farther than the next one when at most half a unit rounds off. -/
theorem Between.lower_le_upper : |x - codeValue f code| ≤ |x - codeValue f (code + 1)| ↔ 2 * rem ≤ unit := by
  rw [← sub_nonpos, h.distances, ← not_lt, mul_pos_iff_of_pos_right h.ulp_pos, not_lt, sub_nonpos]
  exact_mod_cast Iff.rfl

/-- The next code is no farther than the one below when at least half a unit rounds off. -/
theorem Between.upper_le_lower : |x - codeValue f (code + 1)| ≤ |x - codeValue f code| ↔ unit ≤ 2 * rem := by
  rw [← sub_nonneg, h.distances, mul_nonneg_iff_of_pos_right h.ulp_pos, sub_nonneg]
  exact_mod_cast Iff.rfl

/-- The two codes are equally near when just half a unit rounds off. -/
theorem Between.equally_near : |x - codeValue f code| = |x - codeValue f (code + 1)| ↔ 2 * rem = unit := by
  rw [le_antisymm_iff, h.lower_le_upper, h.upper_le_lower, ← le_antisymm_iff]

/-- Any other code is farther than the one of the two next to the magnitude that lies on its side. -/
theorem Between.farther (k : Nat) :
    (k = code ∨ |x - codeValue f code| < |x - codeValue f k|) ∨
      (k = code + 1 ∨ |x - codeValue f (code + 1)| < |x - codeValue f k|) := by
  obtain ⟨hlo, hhi⟩ := h.bracket
  rcases Nat.lt_or_ge code k with hk | hk
  · refine .inr ((Nat.eq_or_lt_of_le hk).imp Eq.symm fun hlt => ?_)
    have hv := codeValue_strictMono f hlt
    rw [abs_of_neg (sub_neg.2 hhi), abs_of_neg (sub_neg.2 (hhi.trans hv))]
    exact neg_lt_neg (sub_lt_sub_left hv x)
  · refine .inl ((Nat.eq_or_lt_of_le hk).imp_right fun hlt => ?_)
    have hv := codeValue_strictMono f hlt
    rw [abs_of_nonneg (sub_nonneg.2 hlo), abs_of_pos (sub_pos.2 (hv.trans_le hlo))]
    exact sub_lt_sub_left hv x

/-- Of the two codes next to the magnitude, one that is no farther than either is nearest of all, and another code is as near only where
just half a unit rounds off. -/
theorem Between.nearest {n : Nat} (hn : n = code ∨ n = code + 1) (hlo : |x - codeValue f n| ≤ |x - codeValue f code|)
    (hhi : |x - codeValue f n| ≤ |x - codeValue f (code + 1)|) (k : Nat) :
    |x - codeValue f n| ≤ |x - codeValue f k| ∧
      (k ≠ n → |x - codeValue f n| = |x - codeValue f k| → 2 * rem = unit) := by
  rw [← h.equally_near]
  obtain (rfl | hlt) | (rfl | hlt) := h.farther k
  · exact ⟨hlo, fun hne he => by rw [← he, hn.resolve_left hne.symm]⟩
  · exact ⟨(hlo.trans_lt hlt).le, fun _ he => absurd he (hlo.trans_lt hlt).ne⟩
  · exact ⟨hhi, fun hne he => by rw [← he, hn.resolve_right hne.symm]⟩
  · exact ⟨(hhi.trans_lt hlt).le, fun _ he => absurd he (hhi.trans_lt hlt).ne⟩

end

/-! ### The two roundings -/

/-- RTZ gives the nearest value not above the exact one (R88, R89). -/
theorem rtz_correct {f : Fmt} (hf : 0 < f.mb) {m : Nat} (hm : 0 < m) (e : Int)
    (hfin : (roundMag .rtz false m e f.mb f.emin).1 < f.infCode) :
    magnitude (f.read (roundMag .rtz false m e f.mb f.emin).1) ≤ m * 2 ^ e ∧
      ∀ k, k < f.infCode → magnitude (f.read k) ≤ m * 2 ^ e →
        magnitude (f.read k) ≤ magnitude (f.read (roundMag .rtz false m e f.mb f.emin).1) := by
  obtain ⟨code, rem, unit, hb, hround⟩ := roundMag_between hf hm e
  have hcode : (roundMag .rtz false m e f.mb f.emin).1 = code := hround .rtz false
  rw [hcode] at hfin ⊢
  obtain ⟨hlo, hhi⟩ := hb.bracket
  rw [magnitude_read hfin]
  refine ⟨hlo, fun k hk hle => ?_⟩
  rw [magnitude_read hk] at hle ⊢
  have hlt : k < code + 1 := (codeValue_strictMono f).lt_iff_lt.1 (hle.trans_lt hhi)
  exact (codeValue_strictMono f).monotone (Nat.le_of_lt_succ hlt)

/-- RNE gives a nearest value, and the even code of two that are equally near (R88, R89). -/
theorem rne_correct {f : Fmt} (hf : 0 < f.mb) {m : Nat} (hm : 0 < m) (e : Int)
    (hfin : (roundMag .rne false m e f.mb f.emin).1 < f.infCode) {k : Nat} (hk : k < f.infCode) :
    |(m : ℚ) * 2 ^ e - magnitude (f.read (roundMag .rne false m e f.mb f.emin).1)| ≤ |(m : ℚ) * 2 ^ e - magnitude (f.read k)| ∧
      (k ≠ (roundMag .rne false m e f.mb f.emin).1 →
        |(m : ℚ) * 2 ^ e - magnitude (f.read (roundMag .rne false m e f.mb f.emin).1)| = |(m : ℚ) * 2 ^ e - magnitude (f.read k)| →
        (roundMag .rne false m e f.mb f.emin).1 % 2 = 0) := by
  obtain ⟨code, rem, unit, hb, hround⟩ := roundMag_between hf hm e
  have hcode := hround .rne false
  have hup : roundsUp .rne false (code % 2 == 1) rem unit = true ↔ unit < 2 * rem ∨ 2 * rem = unit ∧ code % 2 = 1 := by
    simp [roundsUp]
  rw [magnitude_read hfin, magnitude_read hk, hcode]
  split
  · next h =>
    rw [hup] at h
    obtain ⟨hle, htie⟩ := hb.nearest (.inr rfl) (hb.upper_le_lower.2 (by omega)) le_rfl k
    refine ⟨hle, fun hne he => ?_⟩
    have := htie hne he
    omega
  · next h =>
    rw [hup] at h
    obtain ⟨hle, htie⟩ := hb.nearest (.inl rfl) le_rfl (hb.lower_le_upper.2 (by omega)) k
    refine ⟨hle, fun hne he => ?_⟩
    have := htie hne he
    omega

/-- Settles O10: each rounding chooses one of the two codes next to the exact magnitude. -/
theorem roundingIsCorrect : Obligations.RoundingIsCorrect := by
  unfold Obligations.RoundingIsCorrect
  intro f hf m e hm
  have hmb : 0 < f.mb := by
    simp only [List.mem_cons, List.not_mem_nil, or_false] at hf
    obtain rfl | rfl | rfl := hf <;> decide
  exact ⟨rtz_correct hmb hm e, fun hfin k hk => rne_correct hmb hm e hfin hk⟩

end Sys2Proof.Rounding
end

section
/-! SUPPORT. NaN sources (04 R93) on raw bits: which words read as NaNs, the NaN that each gives, and the result of a word that has one among
its sources. -/

namespace Sys2Proof.NanSources

open Sys2Proof Sys2Proof.Machine

/-! ### Words that are NaNs -/

/-- A word whose FP32 reading is a NaN (R87). -/
def isNanWord (w : Word) : Bool := decide (0x7F800000 < w.toNat % 2 ^ 31)

/-- A NaN that signals: the top fraction bit is clear (R87). -/
def signals (w : Word) : Bool := isNanWord w && !w.getLsbD 22

/-- The NaN that a NaN source gives (R93): quieted, or the canonical one. -/
def nanOf (dnan : Bool) (w : Word) : Word := if dnan then 0x7FC00000 else w ||| 0x00400000

theorem isNanWord_iff {w : Word} : isNanWord w = true ↔ w.toNat / 2 ^ 23 % 2 ^ 8 = 255 ∧ w.toNat % 2 ^ 23 ≠ 0 := by
  have hw := w.isLt
  rw [isNanWord, decide_eq_true_eq]
  omega

/-- Which codes read as NaNs (R87). -/
theorem isNan_read (f : Fmt) (code : Nat) :
    (f.read code).isNan = true ↔ code / 2 ^ f.mb % 2 ^ f.eb = 2 ^ f.eb - 1 ∧ code % 2 ^ f.mb ≠ 0 := by
  by_cases hexp : code / 2 ^ f.mb % 2 ^ f.eb = 2 ^ f.eb - 1
  · by_cases hfrac : code % 2 ^ f.mb = 0 <;> simp [Fmt.read, Val.isNan, hexp, hfrac]
  · simp only [Fmt.read, hexp, if_false, false_and, iff_false]
    split <;> exact Bool.false_ne_true

/-- A NaN is no subnormal, so FTZ leaves it (R92). -/
theorem flushIn_of_nan (ftz : Bool) {w : Word} (h : isNanWord w = true) : fp32.flushIn ftz w.toNat = w.toNat := by
  have hexp : ¬ (ftz && w.toNat / 2 ^ fp32.mb % 2 ^ fp32.eb == 0) = true := by
    have he : w.toNat / 2 ^ fp32.mb % 2 ^ fp32.eb = 255 := (isNanWord_iff.1 h).1
    simp [he]
  rw [Fmt.flushIn, if_neg hexp]
  exact Nat.mod_eq_of_lt w.isLt

/-- A NaN is read with its sign, its quiet bit and its fraction. -/
theorem readZ_of_nan (ftz : Bool) {w : Word} (h : isNanWord w = true) :
    fp32.readZ ftz w.toNat = .nan (bitN w.toNat 31) (!w.getLsbD 22) (w.toNat % 2 ^ 23) := by
  obtain ⟨hexp, hfrac⟩ := isNanWord_iff.1 h
  have hquiet : bitN (w.toNat % 2 ^ 23) 22 = w.getLsbD 22 := by
    have hbit : w.toNat % 2 ^ 23 / 2 ^ 22 % 2 = w.toNat / 2 ^ 22 % 2 := by omega
    rw [bitN, hbit, BitVec.getLsbD, Nat.testBit_eq_decide_div_mod_eq, beq_eq_decide]
  rw [Fmt.readZ, flushIn_of_nan ftz h, ← hquiet]
  exact (if_pos hexp).trans ((if_neg hfrac).trans (by simp [fp32]))

/-- The reading of a word is a NaN as its bits are, with FTZ or without. -/
theorem isNan_readZ (ftz : Bool) (w : Word) : (fp32.readZ ftz w.toNat).isNan = isNanWord w := by
  cases h : isNanWord w with
  | true => rw [readZ_of_nan ftz h, Val.isNan]
  | false =>
    rw [Fmt.readZ, Fmt.flushIn]
    split
    · cases bitN w.toNat (fp32.eb + fp32.mb) <;> rfl
    · have hmod : w.toNat % (2 * fp32.signBit) = w.toNat := Nat.mod_eq_of_lt w.isLt
      rw [hmod, Bool.eq_false_iff, Ne, isNan_read]
      exact fun hn => Bool.eq_false_iff.1 h (isNanWord_iff.2 hn)

/-- A signalling reading is that of a signalling word. -/
theorem isSnan_readZ (ftz : Bool) (w : Word) : (fp32.readZ ftz w.toNat).isSnan = signals w := by
  cases h : isNanWord w with
  | true => rw [readZ_of_nan ftz h, Val.isSnan, signals, h, Bool.true_and]
  | false =>
    have hn := (isNan_readZ ftz w).trans h
    rw [signals, h, Bool.false_and]
    generalize fp32.readZ ftz w.toNat = v at hn
    cases v with
    | nan => cases hn
    | inf | fin => rfl

/-! ### Their results -/

/-- Quieting sets the top fraction bit and keeps the sign and the other bits (R93). -/
theorem quiet_of_nan {w : Word} (h : isNanWord w = true) :
    fp32.quiet (bitN w.toNat 31) (w.toNat % 2 ^ 23) = (w ||| 0x00400000).toNat := by
  have hw := w.isLt
  obtain ⟨hexp, -⟩ := isNanWord_iff.1 h
  have hlt : w.toNat % 2 ^ 23 ||| 2 ^ 22 < 2 ^ 23 := Nat.or_lt_two_pow (Nat.mod_lt _ (by decide)) (by decide)
  have hor : (w ||| 0x00400000).toNat = 2 ^ 23 * (w.toNat / 2 ^ 23) + (w.toNat % 2 ^ 23 ||| 2 ^ 22) := by
    calc (w ||| 0x00400000).toNat = (2 ^ 23 * (w.toNat / 2 ^ 23) + w.toNat % 2 ^ 23) ||| 2 ^ 22 := by
          rw [Nat.div_add_mod]
          exact BitVec.toNat_or _ _
      _ = 2 ^ 23 * (w.toNat / 2 ^ 23) + (w.toNat % 2 ^ 23 ||| 2 ^ 22) := by
          rw [Nat.two_pow_add_eq_or_of_lt (Nat.mod_lt _ (by decide)), Nat.or_assoc, ← Nat.two_pow_add_eq_or_of_lt hlt]
  have hquiet (neg : Bool) (frac : Nat) : fp32.quiet neg frac = (if neg then 2 ^ 31 else 0) + (255 * 2 ^ 23 + (frac ||| 2 ^ 22)) := by
    rw [Fmt.quiet, show 23 - fp32.mb = 0 from rfl, Nat.pow_zero, Nat.div_one]
    cases neg
    · exact (Nat.zero_add _).symm
    · rfl
  rw [hquiet, hor]
  cases hs : bitN w.toNat 31 with
  | true | false =>
    simp only [bitN, beq_iff_eq, beq_eq_false_iff_ne] at hs
    simp only [Bool.false_eq_true, if_true, if_false]
    omega

/-- The result of sources of which `w` is the first NaN (R93). -/
theorem nanResult_of_first (dnan ftz : Bool) {ws : List Word} {w : Word} (h : ws.find? isNanWord = some w) :
    fp32.nanResult dnan (ws.map fun x => fp32.readZ ftz x.toNat) = ((nanOf dnan w).toNat, if ws.any signals then fNV else 0) := by
  have hfind : (ws.map fun x => fp32.readZ ftz x.toNat).find? Val.isNan =
      some (.nan (bitN w.toNat 31) (!w.getLsbD 22) (w.toNat % 2 ^ 23)) := by
    rw [List.find?_map, show Val.isNan ∘ (fun x : Word => fp32.readZ ftz x.toNat) = isNanWord from funext (isNan_readZ ftz), h,
      Option.map_some, readZ_of_nan ftz (List.find?_some h)]
  have hany : (ws.map fun x => fp32.readZ ftz x.toNat).any Val.isSnan = ws.any signals := by
    rw [List.any_map, show Val.isSnan ∘ (fun x : Word => fp32.readZ ftz x.toNat) = signals from funext (isSnan_readZ ftz)]
  simp only [Fmt.nanResult, hfind, hany, quiet_of_nan (List.find?_some h), nanOf]
  cases dnan <;> rfl

/-- A word's result, whatever its operation, where one of its sources is a NaN (R93). -/
theorem result_of_first (rm : Rm) (fcr : BitVec 9) (ftz : Bool) {ws : List Word} {w : Word} (r : Option Val)
    (h : ws.find? isNanWord = some w) :
    fp32.result rm fcr (ws.map fun x => fp32.readZ ftz x.toNat) r =
      ((nanOf (fcrDnan fcr) w).toNat, if ws.any signals then fNV else 0) := by
  have hany : (ws.map fun x => fp32.readZ ftz x.toNat).any Val.isNan = true :=
    List.any_eq_true.2 ⟨_, List.mem_map_of_mem (List.mem_of_find?_eq_some h), (isNan_readZ ftz w).trans (List.find?_some h)⟩
  exact (if_pos hany).trans (nanResult_of_first _ _ h)

/-- The first NaN of two words. -/
theorem find?_pair {a b : Word} (h : (isNanWord a || isNanWord b) = true) :
    [a, b].find? isNanWord = some (if isNanWord a then a else b) := by
  cases ha : isNanWord a with
  | true => simp [ha]
  | false =>
    rw [ha, Bool.false_or] at h
    simp [ha, h]

/-- The first NaN of three words. -/
theorem find?_triple {a b z : Word} (h : (isNanWord a || isNanWord b || isNanWord z) = true) :
    [a, b, z].find? isNanWord = some (if isNanWord a then a else if isNanWord b then b else z) := by
  cases ha : isNanWord a with
  | true => simp [ha]
  | false =>
    rw [ha, Bool.false_or] at h
    exact (List.find?_cons_of_neg (Bool.eq_false_iff.1 ha)).trans (find?_pair h)

/-- Settles O9: the sources are read as NaNs just where their bits are, and the result depends on them alone. -/
theorem nanSourcesGiveTheirResult : Obligations.NanSourcesGiveTheirResult := by
  unfold Obligations.NanSourcesGiveTheirResult
  intro rm fcr a b z
  refine ⟨fun h => ?_, fun h => ?_⟩
  · have two (r : Option Val) := result_of_first rm fcr (fcrFtz fcr) r (find?_pair h)
    simp only [List.any_cons, List.any_nil, Bool.or_false] at two
    exact ⟨two _, two _, two _⟩
  · exact congrArg Prod.fst (result_of_first rm fcr (fcrFtz fcr) _ (find?_triple h))

end Sys2Proof.NanSources
end

section
/-! SUPPORT. The sticky bits of `%fcr` (04 R91): what setting them adds to a wave's. -/

namespace Sys2Proof.StickyBits

open Sys2Proof Sys2Proof.Machine Sys2Proof.Laws

/-- A bit of flags gathered one after another: one of them has it. -/
theorem getLsbD_foldl_or {α : Type} {n : Nat} (g : α → BitVec n) (ls : List α) (a : BitVec n) (k : Nat) :
    (ls.foldl (fun a l => a ||| g l) a).getLsbD k = (a.getLsbD k || ls.any fun l => (g l).getLsbD k) := by
  induction ls generalizing a with
  | nil => rw [List.foldl_nil, List.any_nil, Bool.or_false]
  | cons l ls ih => rw [List.foldl_cons, ih, BitVec.getLsbD_or, List.any_cons, Bool.or_assoc]

/-- A float word's wave: its destination written in the active lanes, and the flags of these lanes added. -/
theorem floatRow_wave {c : Ctx} {u : State} {v : Wave} (hv : u.waves[c.w]? = some v) (d : Nat) (f : Nat → Nat × BitVec 9) :
    (floatRow c u d f).waves[c.w]? =
      some { v.put c.acc c.act d (rowOf fun l => BitVec.ofNat 32 (f l).1) with
        fcr := v.fcr ||| (lanesOf c.act).foldl (fun a l => a ||| (f l).2) 0 } := by
  rw [floatRow, raiseFcr, Ctx.put, putReg, getElem?_modWave, if_pos rfl, getElem?_modWave, if_pos rfl, hv]
  simp only [Option.map_some, RegisterFrame.put_fcr]

/-- Settles O8: the word adds the flags of its active lanes to the bits that are set. -/
theorem stickyBitsAccumulate : Obligations.StickyBitsAccumulate := by
  unfold Obligations.StickyBitsAccumulate
  intro c u d f v hv
  refine ⟨_, floatRow_wave hv d f, fun k => ?_⟩
  simp only [BitVec.getLsbD_or, getLsbD_foldl_or, BitVec.ofNat_eq_ofNat, BitVec.getLsbD_zero, Bool.false_or]

end Sys2Proof.StickyBits
end

section
/-! SUPPORT. The words of class V (05 R113 to R126): what their lane functions compute, said on integers and bit by bit. -/

namespace Sys2Proof.IntegerWords

open Sys2Proof Sys2Proof.Machine Sys2Proof.Laws

/-! ### The words -/

/-- A word whose body writes `f` to register d. -/
theorem givesReg_put {i : Instr} {d : BitVec 8} {f : Ctx → Nat → Word}
    (he : ∀ s, exec i s = issue s i fun s c => .ok (c.put s d.toNat (f c))) : GivesReg i d f := gives_of he fun _ _ => rfl

/-- The same where the body's lane function is `g`, which has `f`'s values. -/
theorem givesReg_of {i : Instr} {d : BitVec 8} {f g : Ctx → Nat → Word}
    (he : ∀ s, exec i s = issue s i fun s c => .ok (c.put s d.toNat (g c))) (h : ∀ c l, g c l = f c l) : GivesReg i d f := by
  obtain rfl : g = f := funext fun c => funext (h c)
  exact givesReg_put he

/-! ### Signed and unsigned readings -/

/-- The signed value of the low bits of a number is that of the bit vector they are. -/
theorem signedN_eq_toInt (w v : Nat) : signedN w v = (BitVec.ofNat w v).toInt := by
  rw [signedN, BitVec.toInt_eq_toNat_cond, BitVec.toNat_ofNat]
  cases w with
  | zero => simp [Nat.mod_one]
  | succ n =>
    have h : v % 2 ^ (n + 1) < 2 ^ n ↔ 2 * (v % 2 ^ (n + 1)) < 2 ^ (n + 1) := by omega
    simp only [Nat.add_sub_cancel, h]
    push_cast
    rfl

/-- A bit vector as MOD bit U says that it is read. -/
def rank {w : Nat} (unsigned : Bool) (a : BitVec w) : Int := if unsigned then a.toNat else a.toInt

/-- Either reading tells words apart. -/
theorem rank_inj {w : Nat} {unsigned : Bool} {a b : BitVec w} (h : rank unsigned a = rank unsigned b) : a = b := by
  cases unsigned with
  | false => exact BitVec.eq_of_toInt_eq h
  | true => exact BitVec.eq_of_toNat_eq (Int.ofNat_inj.1 h)

/-- The smaller word in a reading is that of the smaller value. -/
theorem rank_minWord (unsigned : Bool) (a b : Word) : rank unsigned (minWord unsigned a b) = min (rank unsigned a) (rank unsigned b) := by
  cases unsigned <;> simp only [minWord, rank, BitVec.ule, BitVec.sle, decide_eq_true_eq, Bool.false_eq_true, ↓reduceIte] <;>
    split <;> omega

/-- The larger word in a reading is that of the larger value. -/
theorem rank_maxWord (unsigned : Bool) (a b : Word) : rank unsigned (maxWord unsigned a b) = max (rank unsigned a) (rank unsigned b) := by
  cases unsigned <;> simp only [maxWord, rank, BitVec.ule, BitVec.sle, decide_eq_true_eq, Bool.false_eq_true, ↓reduceIte] <;>
    split <;> omega

/-- A word is that of its signed value. -/
theorem eq_ofInt_of_rank {a : Word} {z : Int} (h : rank false a = z) : a = BitVec.ofInt 32 z := h ▸ BitVec.ofInt_toInt.symm

/-- A word is that of its unsigned value. -/
theorem eq_ofNat_of_rank {a : Word} {n : Nat} (h : rank true a = n) : a = BitVec.ofNat 32 n := by
  obtain rfl : a.toNat = n := Int.ofNat_inj.1 h
  exact (BitVec.ofNat_toNat 32 a).symm

/-- IMIN on integers (R118). -/
theorem minWord_eq (unsigned : Bool) (a b : Word) :
    minWord unsigned a b = if unsigned then BitVec.ofNat 32 (min a.toNat b.toNat) else BitVec.ofInt 32 (min a.toInt b.toInt) := by
  cases unsigned with
  | false => exact eq_ofInt_of_rank (rank_minWord false a b)
  | true => exact eq_ofNat_of_rank ((rank_minWord true a b).trans (Nat.cast_min ..).symm)

/-- IMAX on integers (R118). -/
theorem maxWord_eq (unsigned : Bool) (a b : Word) :
    maxWord unsigned a b = if unsigned then BitVec.ofNat 32 (max a.toNat b.toNat) else BitVec.ofInt 32 (max a.toInt b.toInt) := by
  cases unsigned with
  | false => exact eq_ofInt_of_rank (rank_maxWord false a b)
  | true => exact eq_ofNat_of_rank ((rank_maxWord true a b).trans (Nat.cast_max ..).symm)

/-! ### Arithmetic (R118, R119) -/

/-- ICRY's carry. -/
theorem carryOf_eq (a b c : Word) : carryOf a b c = if 2 ^ 32 ≤ a.toNat + b.toNat + (c &&& 1).toNat then 1 else 0 := by
  have h : (c &&& 1).toNat = c.toNat % 2 := (BitVec.toNat_and ..).trans (Nat.and_one_is_mod _)
  rw [carryOf, h]

/-- A product of words is the exact product modulo 2^32. -/
theorem mul_eq_ofNat (a b : Word) : a * b = BitVec.ofNat 32 (a.toNat * b.toNat) := by
  rw [BitVec.ofNat_mul, BitVec.ofNat_toNat, BitVec.ofNat_toNat, BitVec.setWidth_eq, BitVec.setWidth_eq]

/-- IMAD is exact modulo 2^32. -/
theorem mul_add_eq_ofNat (a b c : Word) : a * b + c = BitVec.ofNat 32 (a.toNat * b.toNat + c.toNat) := by
  rw [BitVec.ofNat_add, ← mul_eq_ofNat, BitVec.ofNat_toNat, BitVec.setWidth_eq]

/-- A product of words is the exact signed product modulo 2^32. -/
theorem mul_eq_ofInt (a b : Word) : a * b = BitVec.ofInt 32 (a.toInt * b.toInt) := by
  rw [BitVec.ofInt_mul, BitVec.ofInt_toInt, BitVec.ofInt_toInt]

/-- The least word is the one of value -2^31. -/
theorem eq_least_iff (a : Word) : a = 0x80000000 ↔ a.toInt = -2 ^ 31 :=
  ⟨fun h => h ▸ by decide, fun h => BitVec.eq_of_toInt_eq (h.trans (by decide))⟩

/-- IABS on integers. -/
theorem absWord_eq (sat : Bool) (a : Word) :
    absWord sat a = if a.toInt = -2 ^ 31 then (if sat then 0x7FFFFFFF else 0x80000000) else BitVec.ofNat 32 a.toInt.natAbs := by
  rw [absWord]
  by_cases h : a = 0x80000000
  · simp only [h, show (0x80000000 : Word).toInt = -2 ^ 31 from by decide, ↓reduceIte]
  · rw [if_neg h, if_neg (mt (eq_least_iff a).2 h), BitVec.msb_eq_toInt, ← BitVec.ofInt_natCast, Int.natCast_natAbs]
    by_cases hs : a.toInt < 0
    · simp only [hs, decide_true, ↓reduceIte, abs_of_neg hs, BitVec.ofInt_neg, BitVec.ofInt_toInt]
    · simp only [hs, decide_false, Bool.false_eq_true, ↓reduceIte, abs_of_nonneg (not_lt.1 hs), BitVec.ofInt_toInt]

/-- INEG on integers. -/
theorem negWord_eq (sat : Bool) (a : Word) :
    negWord sat a = if a.toInt = -2 ^ 31 then (if sat then 0x7FFFFFFF else 0x80000000) else BitVec.ofInt 32 (-a.toInt) := by
  rw [negWord]
  by_cases h : a = 0x80000000
  · subst h
    cases sat <;> decide
  · rw [if_neg fun hs => h hs.1, if_neg (mt (eq_least_iff a).2 h), BitVec.ofInt_neg, BitVec.ofInt_toInt]

/-- A byte of a word. -/
theorem byteExt_eq (signed : Bool) (v : Word) (k : Nat) :
    byteExt signed v k = if signed then (v.extractLsb' (8 * k) 8).toInt else ((v.extractLsb' (8 * k) 8).toNat : Int) := by
  have h : (v.extractLsb' (8 * k) 8).toNat = v.toNat / 256 ^ k % 256 := by
    rw [BitVec.extractLsb'_toNat, Nat.shiftRight_eq_div_pow, Nat.pow_mul]
  cases signed with
  | false => simp [byteExt, h]
  | true =>
    rw [BitVec.toInt_eq_toNat_cond, h]
    simp only [byteExt, Bool.true_and, decide_eq_true_eq, ↓reduceIte]
    split <;> split <;> omega

/-! ### Shifts (R120) -/

/-- The low bits of a bit vector under a mask. -/
theorem toNat_and_mask {w k : Nat} (b : BitVec w) (hk : k ≤ w) : (b &&& BitVec.ofNat w (2 ^ k - 1)).toNat = b.toNat % 2 ^ k := by
  have h : 2 ^ k - 1 < 2 ^ w := Nat.lt_of_lt_of_le (Nat.sub_lt (Nat.two_pow_pos k) Nat.one_pos) (Nat.pow_le_pow_right Nat.two_pos hk)
  rw [BitVec.toNat_and, BitVec.toNat_ofNat, Nat.mod_eq_of_lt h, Nat.and_two_pow_sub_one_eq_mod]

/-- Sign extension keeps the low bits. -/
theorem toNat_signExtend_mod {w v k : Nat} (b : BitVec w) (hw : k ≤ w) (hv : k ≤ v) :
    (b.signExtend v).toNat % 2 ^ k = b.toNat % 2 ^ k := by
  have h : (b.signExtend v).setWidth k = b.setWidth k := BitVec.eq_of_getLsbD_eq fun j hj => by
    rw [BitVec.getLsbD_setWidth, BitVec.getLsbD_setWidth, BitVec.getLsbD_signExtend, if_pos (Nat.lt_of_lt_of_le hj hw),
      decide_eq_true (Nat.lt_of_lt_of_le hj hv), Bool.true_and]
  simpa only [BitVec.toNat_setWidth] using congrArg BitVec.toNat h

section
variable {a b : Word} {n : Nat}

/-- SHL, by the low byte of its operand. -/
theorem shlWord_eq (h : n = b.toNat % 256) : shlWord a b = if n < 32 then a <<< n else 0 := by
  rw [shlWord, ← h]
  split
  · rfl
  · next hn => exact BitVec.shiftLeft_eq_zero (Nat.not_lt.1 hn)

/-- SHR, by the low byte of its operand. -/
theorem shrWord_eq (h : n = b.toNat % 256) : shrWord a b = if n < 32 then a >>> n else 0 := by
  rw [shrWord, ← h]
  split
  · rfl
  · next hn => exact BitVec.ushiftRight_eq_zero (Nat.not_lt.1 hn)

/-- SAR, by the low byte of its operand: a division that rounds down, and 32 times the sign at the end. -/
theorem sarWord_eq (h : n = b.toNat % 256) :
    sarWord a b = if n < 32 then BitVec.ofInt 32 (a.toInt / 2 ^ n) else if a.getLsbD 31 then 0xFFFFFFFF else 0 := by
  rw [sarWord, ← h]
  split
  · rw [BitVec.sshiftRight_eq, Int.shiftRight_eq_div_pow]
    push_cast
    rfl
  · next hn =>
    have hn := Nat.not_lt.1 hn
    rw [show a.getLsbD 31 = a.msb from (BitVec.msb_eq_getLsbD_last a).symm]
    cases hs : a.msb with
    | true => rw [BitVec.sshiftRight_eq_of_msb_true hs, BitVec.ushiftRight_eq_zero hn]; rfl
    | false => rw [BitVec.sshiftRight_eq_of_msb_false hs, BitVec.ushiftRight_eq_zero hn]; rfl

/-- ROTL, by the low five bits of its operand. -/
theorem rotlWord_eq (h : n = b.toNat % 32) : rotlWord a b = (a <<< n) ||| (a >>> (32 - n)) := by
  rw [rotlWord, BitVec.rotateLeft_def, Nat.mod_mod, ← h]

end

/-! ### The obligation -/

/-- The low byte of an immediate, extended. -/
theorem toNat_imm_and_255 (imm : BitVec 25) : (imm &&& 0xFF).toNat = (imm.signExtend 32).toNat % 256 :=
  (toNat_and_mask imm (k := 8) (by decide)).trans (toNat_signExtend_mod imm (by decide) (by decide)).symm

/-- The low five bits of an immediate, extended. -/
theorem toNat_imm_and_31 (imm : BitVec 25) : (imm &&& 31).toNat = (imm.signExtend 32).toNat % 32 :=
  (toNat_and_mask imm (k := 5) (by decide)).trans (toNat_signExtend_mod imm (by decide) (by decide)).symm

/-- An immediate's value is that of its extension. -/
theorem toInt_imm (imm : BitVec 25) : (imm.signExtend 32).toInt = imm.toInt := BitVec.toInt_signExtend_of_le (by decide)

/-- Settles O1: each word writes its lane function's value, which is the table's. -/
theorem integerArithmeticResults : Obligations.IntegerArithmeticResults := by
  unfold Obligations.IntegerArithmeticResults
  refine ⟨⟨fun x => ?_, fun y => ?_⟩, fun x => ?_, fun x => ?_, fun y => ?_⟩
  · refine ⟨givesReg_put fun _ => rfl, givesReg_put fun _ => rfl,
      givesReg_put fun _ => rfl, givesReg_of (fun _ => rfl) fun _ _ => carryOf_eq .., 
      givesReg_of (fun _ => rfl) fun _ _ => mul_eq_ofNat .., givesReg_put fun _ => rfl, 
      givesReg_of (fun _ => rfl) fun _ _ => mul_add_eq_ofNat .., givesReg_of (fun _ => rfl) fun _ _ => minWord_eq .., 
      givesReg_of (fun _ => rfl) fun _ _ => maxWord_eq .., givesReg_of (fun _ => rfl) fun _ _ => absWord_eq .., 
      givesReg_of (fun _ => rfl) fun _ _ => negWord_eq ..⟩
  · refine ⟨givesReg_put fun _ => rfl, givesReg_put fun _ => rfl,
      givesReg_of (fun _ => rfl) fun _ _ => ?_, givesReg_of (fun _ => rfl) fun _ _ => ?_, 
      givesReg_of (fun _ => rfl) fun _ _ => ?_, givesReg_of (fun _ => rfl) fun _ _ => ?_⟩
    · rw [← toInt_imm]; exact mul_eq_ofInt ..
    · rw [← toInt_imm]; rfl
    · rw [← toInt_imm]; exact minWord_eq ..
    · rw [← toInt_imm]; exact maxWord_eq ..
  · refine givesReg_of (fun _ => rfl) fun _ _ => ?_
    simp only [dot4, byteExt_eq]
  · exact ⟨givesReg_put fun _ => rfl, givesReg_put fun _ => rfl,
      givesReg_put fun _ => rfl, givesReg_put fun _ => rfl,
      givesReg_put fun _ => rfl, 
      givesReg_of (fun _ => rfl) fun _ _ => shlWord_eq (toNat_and_mask _ (k := 8) (by decide)),
      givesReg_of (fun _ => rfl) fun _ _ => shrWord_eq (toNat_and_mask _ (k := 8) (by decide)),
      givesReg_of (fun _ => rfl) fun _ _ => sarWord_eq (toNat_and_mask _ (k := 8) (by decide)),
      givesReg_of (fun _ => rfl) fun _ _ => rotlWord_eq (toNat_and_mask _ (k := 5) (by decide))⟩
  · exact ⟨givesReg_put fun _ => rfl, givesReg_put fun _ => rfl,
      givesReg_put fun _ => rfl, givesReg_put fun _ => rfl,
      givesReg_of (fun _ => rfl) fun _ _ => shlWord_eq (toNat_imm_and_255 _),
      givesReg_of (fun _ => rfl) fun _ _ => shrWord_eq (toNat_imm_and_255 _),
      givesReg_of (fun _ => rfl) fun _ _ => sarWord_eq (toNat_imm_and_255 _),
      givesReg_of (fun _ => rfl) fun _ _ => rotlWord_eq (toNat_imm_and_31 _)⟩

end Sys2Proof.IntegerWords
end

section
/-! SUPPORT. Bit fields, counts, interleaving, comparison and selection (05 R121 to R126): the bits of what their lane functions compute. -/

namespace Sys2Proof.BitFields

open Sys2Proof Sys2Proof.Machine Sys2Proof.Laws Sys2Proof.IntegerWords

/-! ### Words by their bits -/

/-- A sum of distinct powers of two has their bits, and no further one. -/
theorem testBit_sum_bits (f : Nat → Bool) (n : Nat) :
    ((List.range n).map fun j => (f j).toNat * 2 ^ j).sum < 2 ^ n
      ∧ ∀ j, j < n → (((List.range n).map fun j => (f j).toNat * 2 ^ j).sum).testBit j = f j := by
  induction n with
  | zero => simp
  | succ n ih =>
    obtain ⟨hlt, hbits⟩ := ih
    rw [List.range_succ, List.map_append, List.sum_append, List.map_singleton, List.sum_singleton, Nat.add_comm, Nat.mul_comm]
    refine ⟨?_, fun j hj => ?_⟩
    · have := Nat.mul_le_mul_left (2 ^ n) (Bool.toNat_le (f n))
      rw [Nat.pow_succ]
      omega
    · rw [Nat.testBit_two_pow_mul_add _ hlt]
      split
      · next h => exact hbits j h
      · next h =>
        obtain rfl : j = n := by omega
        rw [Nat.sub_self, Nat.testBit_zero]
        cases f j <;> rfl

/-- The bits of a word given by its bits. -/
theorem getLsbD_bitsFrom (f : Nat → Bool) {j : Nat} (hj : j < 32) : (bitsFrom f).getLsbD j = f j := by
  rw [bitsFrom, BitVec.getLsbD_ofNat, decide_eq_true hj, Bool.true_and, (testBit_sum_bits f 32).2 j hj]

/-! ### Fields (R122) -/

/-- A field's position is in the low five bits of its descriptor. -/
theorem fieldPos_eq (b : Word) : fieldPos b = (b.extractLsb' 0 5).toNat := by
  rw [BitVec.extractLsb'_toNat, Nat.shiftRight_zero, fieldPos]

/-- A field's width is in bits 13:8 of its descriptor, and ends at bit 31. -/
theorem fieldWidth_eq (b : Word) : fieldWidth b = min (b.extractLsb' 8 6).toNat (32 - fieldPos b) := by
  rw [BitVec.extractLsb'_toNat, Nat.shiftRight_eq_div_pow, fieldWidth]

/-- The bits of a field of a number. -/
theorem testBit_field (n pos w j : Nat) : (n / 2 ^ pos % 2 ^ w).testBit j = (decide (j < w) && n.testBit (pos + j)) := by
  rw [Nat.testBit_mod_two_pow, Nat.testBit_div_two_pow, Nat.add_comm]

/-- BFX without S gives the field's bits above zeros. -/
theorem getLsbD_extractField_unsigned (a b : Word) {j : Nat} (hj : j < 32) :
    (extractField false a b).getLsbD j = (decide (j < fieldWidth b) && a.getLsbD (fieldPos b + j)) := by
  rw [extractField]
  split
  · next h => simp [h]
  · rw [if_neg Bool.false_ne_true, BitVec.getLsbD_ofNat, testBit_field, decide_eq_true hj, Bool.true_and, BitVec.getLsbD]

/-- BFX with S repeats the field's top bit. -/
theorem getLsbD_extractField_signed (a b : Word) {j : Nat} (hj : j < 32) :
    (extractField true a b).getLsbD j
      = (decide (fieldWidth b ≠ 0) && a.getLsbD (fieldPos b + min j (fieldWidth b - 1))) := by
  rw [extractField]
  split
  · next h => simp [h]
  · next h =>
    have hm : min j (fieldWidth b - 1) < fieldWidth b := by omega
    have top (x : BitVec (fieldWidth b)) : (x.signExtend 32).getLsbD j = x.getLsbD (min j (fieldWidth b - 1)) := by
      rw [BitVec.getLsbD_signExtend, decide_eq_true hj, Bool.true_and, BitVec.msb_eq_getLsbD_last]
      split <;> congr 1 <;> omega
    rw [if_pos rfl, signedN_eq_toInt, ← BitVec.signExtend, top, BitVec.getLsbD_ofNat, testBit_field, decide_eq_true hm,
      Bool.true_and, Bool.true_and, decide_eq_true h, Bool.true_and, BitVec.getLsbD]

/-- BFI puts the low bits of A in the field. -/
theorem getLsbD_insertField (a b c : Word) {j : Nat} (hj : j < 32) :
    (insertField a b c).getLsbD j
      = if fieldPos b ≤ j ∧ j < fieldPos b + fieldWidth b then a.getLsbD (j - fieldPos b) else c.getLsbD j := by
  have hlow : c.toNat % 2 ^ fieldPos b < 2 ^ fieldPos b := Nat.mod_lt _ (Nat.two_pow_pos _)
  have hmid : 2 ^ fieldPos b * (a.toNat % 2 ^ fieldWidth b) + c.toNat % 2 ^ fieldPos b < 2 ^ (fieldPos b + fieldWidth b) := by
    have : a.toNat % 2 ^ fieldWidth b < 2 ^ fieldWidth b := Nat.mod_lt _ (Nat.two_pow_pos _)
    rw [Nat.pow_add]
    exact Nat.lt_of_lt_of_le (Nat.add_lt_add_left hlow _) (Nat.mul_le_mul_left _ this)
  rw [insertField, BitVec.getLsbD_ofNat, decide_eq_true hj, Bool.true_and, Nat.add_assoc, Nat.mul_comm, Nat.mul_comm (a.toNat % _),
    Nat.testBit_two_pow_mul_add _ hmid, Nat.testBit_two_pow_mul_add _ hlow, Nat.testBit_mod_two_pow, Nat.testBit_mod_two_pow,
    Nat.testBit_div_two_pow]
  rcases Nat.lt_or_ge j (fieldPos b) with hb | hb
  · rw [if_pos (Nat.lt_add_right _ hb), if_pos hb, decide_eq_true hb, Bool.true_and, if_neg fun h => Nat.not_lt.2 h.1 hb, BitVec.getLsbD]
  · rcases Nat.lt_or_ge j (fieldPos b + fieldWidth b) with hw | hw
    · rw [if_pos hw, if_neg (Nat.not_lt.2 hb), decide_eq_true (Nat.sub_lt_left_of_lt_add hb hw), Bool.true_and, if_pos ⟨hb, hw⟩,
        BitVec.getLsbD]
    · rw [if_neg (Nat.not_lt.2 hw), Nat.sub_add_cancel hw, if_neg fun h => Nat.not_lt.2 hw h.2, BitVec.getLsbD]

/-! ### Counts (R123) -/

/-- The numbers below `n` that are at least `k`. -/
theorem length_filter_le (n k : Nat) : ((List.range n).filter fun j => decide (k ≤ j)).length = n - k := by
  induction n with
  | zero => simp
  | succ n ih =>
    rw [List.range_succ, List.filter_append, List.length_append, ih]
    by_cases h : k ≤ n <;> simp [h] <;> omega

/-- The set bits below a place, counted. -/
theorem popcount_eq (n v : Nat) : popcount n v = ((List.range n).filter v.testBit).length := by
  induction n generalizing v with
  | zero => rfl
  | succ n ih =>
    have hs : v.testBit ∘ Nat.succ = (v / 2).testBit := funext fun j => Nat.testBit_succ v j
    rw [popcount, ih, List.range_succ_eq_map, List.filter_cons, List.filter_map, hs, Nat.testBit_zero]
    split
    · next h => rw [List.length_cons, List.length_map, of_decide_eq_true h, Nat.add_comm]
    · next h => rw [List.length_map, Nat.mod_two_ne_one.1 (mt decide_eq_true h), Nat.zero_add]

/-- A number needs at most `j` bits just where it is below 2^j. -/
theorem bitLen_le_iff (v j : Nat) : bitLen v ≤ j ↔ v < 2 ^ j := by
  rw [bitLen]
  split
  · next h => simp [h]
  · next h => exact Nat.log2_lt h

/-- The place of the lowest set bit, counted. -/
theorem lowBit_eq (n v : Nat) :
    (lowBit n v).getD n = ((List.range n).filter fun j => decide (v % 2 ^ (j + 1) = 0)).length := by
  induction n generalizing v with
  | zero => rfl
  | succ n ih =>
    rw [lowBit]
    split
    · next h =>
      have hodd (j : Nat) : ¬v % 2 ^ (j + 1) = 0 := fun h0 => by
        have := Nat.mod_mod_of_dvd v (Dvd.intro_left (2 ^ j) rfl : 2 ∣ 2 ^ (j + 1))
        omega
      simp [hodd]
    · next h =>
      have hhalf (j : Nat) : v % 2 ^ (j + 1 + 1) = 0 ↔ v / 2 % 2 ^ (j + 1) = 0 := by
        rw [Nat.pow_succ', Nat.mod_mul]
        omega
      have h0 : v % 2 ^ (0 + 1) = 0 := by omega
      have hd : ((lowBit n (v / 2)).map (· + 1)).getD (n + 1) = (lowBit n (v / 2)).getD n + 1 := by
        cases lowBit n (v / 2) <;> rfl
      rw [hd, ih, List.range_succ_eq_map, List.filter_cons, if_pos (decide_eq_true h0), List.filter_map, List.length_cons, List.length_map]
      simp only [Function.comp_def, Nat.succ_eq_add_one, hhalf]

/-- POPC counts the set bits. -/
theorem toNat_popcWord (a : Word) : (popcWord a).toNat = ((List.range 32).filter a.getLsbD).length := by
  have h : ((List.range 32).filter a.getLsbD).length ≤ 32 := List.length_filter_le _ _
  rw [popcWord, popcount_eq, BitVec.toNat_ofNat]
  exact Nat.mod_eq_of_lt (Nat.lt_of_le_of_lt h (by decide))

/-- CLZ counts the places that are powers of two above its operand. -/
theorem toNat_clzWord (a : Word) :
    (clzWord a).toNat = ((List.range 32).filter fun j => decide (a < BitVec.ofNat 32 (2 ^ j))).length := by
  have h : ∀ j ∈ List.range 32, decide (a < BitVec.ofNat 32 (2 ^ j)) = decide (bitLen a.toNat ≤ j) := fun j hj => by
    have hlt : 2 ^ j < 2 ^ 32 := Nat.pow_lt_pow_right (by decide) (List.mem_range.1 hj)
    simp only [BitVec.lt_def, BitVec.toNat_ofNat, Nat.mod_eq_of_lt hlt, bitLen_le_iff]
  rw [List.filter_congr h, length_filter_le, clzWord, BitVec.toNat_ofNat]
  omega

/-- CTZ counts the places at and below which no bit is set. -/
theorem toNat_ctzWord (a : Word) :
    (ctzWord a).toNat = ((List.range 32).filter fun j => decide (a &&& BitVec.ofNat 32 (2 ^ (j + 1) - 1) = 0)).length := by
  have h : ∀ j ∈ List.range 32, decide (a &&& BitVec.ofNat 32 (2 ^ (j + 1) - 1) = 0) = decide (a.toNat % 2 ^ (j + 1) = 0) :=
    fun j hj => by
      rw [← toNat_and_mask a (List.mem_range.1 hj), decide_eq_decide]
      exact BitVec.toNat_eq
  have hle : ((List.range 32).filter fun j => decide (a.toNat % 2 ^ (j + 1) = 0)).length ≤ 32 := List.length_filter_le _ _
  rw [List.filter_congr h, ctzWord, lowBit_eq, BitVec.toNat_ofNat]
  exact Nat.mod_eq_of_lt (Nat.lt_of_le_of_lt hle (by decide))

/-! ### Comparison (R124, R128) -/

/-- A comparison of bit vectors is that of their values in the reading that MOD bit U gives. -/
theorem condHolds_eq {w : Nat} (code : Nat) (unsigned : Bool) (a b : BitVec w) :
    condHolds w code unsigned a.toNat b.toNat = condition code unsigned a b := by
  have value (x : BitVec w) : (if unsigned then ((x.toNat % 2 ^ w : Nat) : Int) else signedN w x.toNat) = rank unsigned x := by
    rw [rank, signedN_eq_toInt, BitVec.ofNat_toNat, BitVec.setWidth_eq, Nat.mod_eq_of_lt x.isLt]
  have same : (rank unsigned a == rank unsigned b) = (a == b) := by
    rw [Bool.eq_iff_iff, beq_iff_eq, beq_iff_eq]
    exact ⟨rank_inj, congrArg _⟩
  have less (x y : BitVec w) : decide (rank unsigned x < rank unsigned y) = if unsigned then x.ult y else x.slt y := by
    cases unsigned <;> simp [rank, BitVec.ult, BitVec.slt]
  have atMost (x y : BitVec w) : decide (rank unsigned x ≤ rank unsigned y) = if unsigned then x.ule y else x.sle y := by
    cases unsigned <;> simp [rank, BitVec.ule, BitVec.sle]
  simp only [condHolds, value]
  match code with
  | 0 => exact same
  | 1 => exact congrArg not same
  | 2 => exact less a b
  | 3 => exact atMost a b
  | 4 => exact less b a
  | _ + 5 => exact atMost b a

/-- ICLAMP on integers (R125). -/
theorem clamp_eq (a b c : Word) : minWord false (maxWord false a b) c = BitVec.ofInt 32 (min (max a.toInt b.toInt) c.toInt) :=
  eq_ofInt_of_rank (by rw [rank_minWord, rank_maxWord]; rfl)

/-! ### The obligation -/

/-- Settles O2: each word writes its lane function's value, whose bits are the field's, the reversed, the spread or the gathered ones. -/
theorem bitFieldCompareAndSelectResults : Obligations.BitFieldCompareAndSelectResults := by
  unfold Obligations.BitFieldCompareAndSelectResults
  refine ⟨⟨fun x => ?_, fun lut a b d j hj => ?_, fun a b c j hj => ?_, fun a j hj => ?_, fun a => ?_⟩, fun x => ?_, fun k => ?_⟩
  · exact ⟨givesReg_put fun _ => rfl, givesReg_put fun _ => rfl, givesReg_put fun _ => rfl, givesReg_put fun _ => rfl,
      givesReg_put fun _ => rfl, givesReg_put fun _ => rfl, givesReg_put fun _ => rfl, givesReg_put fun _ => rfl,
      givesReg_put fun _ => rfl⟩
  · exact getLsbD_bitsFrom _ hj
  · simp only [← fieldPos_eq, ← fieldWidth_eq]
    exact ⟨getLsbD_extractField_unsigned a b hj, getLsbD_extractField_signed a b hj, getLsbD_insertField a b c hj⟩
  · refine ⟨?_, ?_, ?_, ?_, ?_⟩
    · rw [brevWord, getLsbD_bitsFrom _ (by omega), Nat.sub_sub_self (Nat.le_of_lt_succ hj)]
    · rw [spreadWord, if_pos rfl, getLsbD_bitsFrom _ hj]
      rfl
    · rw [spreadWord, if_neg (by decide), getLsbD_bitsFrom _ hj, Bool.decide_and, Bool.and_comm (decide _)]
      rfl
    · rw [gatherWord, if_pos rfl, getLsbD_bitsFrom _ hj]
    · rw [gatherWord, if_neg (by decide), getLsbD_bitsFrom _ hj]
  · exact ⟨toNat_popcWord a, toNat_clzWord a, toNat_ctzWord a⟩
  · exact ⟨givesReg_of (fun _ => rfl) fun _ _ => congrArg boolWord (condHolds_eq ..), givesReg_put fun _ => rfl,
      givesReg_of (fun _ => rfl) fun _ _ => clamp_eq .., givesReg_put fun _ => rfl⟩
  · exact givesReg_put fun _ => rfl

end Sys2Proof.BitFields
end

section
/-! SUPPORT. The affine words and MWRITE (05 R127 to R129, R134): the lanes of the pair they write, and the strand's mask. -/

namespace Sys2Proof.AffineWords

open Sys2Proof Sys2Proof.Machine Sys2Proof.Laws Sys2Proof.RegisterFrame Sys2Proof.IntegerWords Sys2Proof.BitFields

/-! ### The pair that is written -/

/-- A register after a masked write of one register of the wave: the active lanes of that one are new (R13). -/
theorem lane_reg_put (v : Wave) (m : Mask) {d r l : Nat} (row : Row) (hl : l < 8) (hr : r < 256) :
    Row.lane ((v.put false m d row).reg r) l = if d = r ∧ m.getLsbD l then Row.lane row l else Row.lane (v.reg r) l := by
  simp only [Wave.put, Bool.false_eq_true, ↓reduceIte, Wave.reg, Wave.setReg, getD_setIfInBounds, hr, and_true]
  by_cases hd : d = r
  · subst hd
    simp [mergeRow, lane_rowOf _ hl]
  · simp [hd]

/-- The wave after a write of a pair of the wave (R29). -/
theorem putPair_wave {s : State} {w : Nat} {v : Wave} (hv : s.waves[w]? = some v) (acc : Bool) (m : Mask) (r : Nat) (f : Nat → DWord) :
    (putPair s w acc m r f).waves[w]? = some
      ((v.put acc m r (rowOf fun l => Word.lo (f l))).put acc m (r + 1) (rowOf fun l => Word.hi (f l))) := by
  rw [putPair, putReg, putReg, getElem?_modWave, if_pos rfl, getElem?_modWave, if_pos rfl, hv]
  rfl

/-- The low half of a 64-bit value, as the even register of a pair holds it (R29). -/
theorem lo_eq (d : DWord) : Word.lo d = d.extractLsb' 0 32 := BitVec.setWidth_eq_extractLsb' (by decide)

/-- The high half (R29). -/
theorem hi_eq (d : DWord) : Word.hi d = d.extractLsb' 32 32 := BitVec.eq_of_getLsbD_eq fun j hj => by simp [Word.hi]

/-- An affine word writes the halves of its values to the active lanes of its pair (R127); the mark it leaves is in no register (R30). -/
theorem affineRow_lanes {c : Ctx} {u : State} {r l : Nat} (f : Nat → DWord) {v : Wave} (hv : u.waves[c.w]? = some v) (hr : r + 1 < 256)
    (hacc : c.acc = false) (hl : l < 8) :
    ∃ t : Wave, (affineRow c u r f).waves[c.w]? = some t
      ∧ Row.lane (t.reg r) l = (if c.act.getLsbD l then (f l).extractLsb' 0 32 else Row.lane (v.reg r) l)
      ∧ Row.lane (t.reg (r + 1)) l = (if c.act.getLsbD l then (f l).extractLsb' 32 32 else Row.lane (v.reg (r + 1)) l) := by
  obtain ⟨t, ht, frame⟩ := (Writes.markAffine (c := c) (ds := []) (P := False) (c.put64 u r f) r f).wave _ (putPair_wave hv ..)
  have kept (q : Nat) := frame.lanes q l hl (.inl List.not_mem_nil)
  simp only [hacc, Wave.file, Bool.false_eq_true, ↓reduceIte] at kept
  refine ⟨t, ht, ?_, ?_⟩
  · rw [kept, lane_reg_put _ _ _ hl (by omega), if_neg (by simp), lane_reg_put _ _ _ hl (by omega), lane_rowOf _ hl, lo_eq]
    simp
  · rw [kept, lane_reg_put _ _ _ hl hr, lane_reg_put _ _ _ hl hr, if_neg (c := r = _ ∧ _) (by simp), lane_rowOf _ hl, hi_eq]
    simp

/-! ### MWRITE -/

/-- Outside an atomic region the end of a word does not look back at the state before it. -/
theorem finishDone_of_noRegion {c : Ctx} (h : c.region = none) (s s' t : State) (i : Instr) (st : Stops) :
    finishDone s t c i st = finishDone s' t c i st := by
  simp only [finishDone, h]

/-- MWRITE reads its mask from the lowest active lane through PA (R134): it sets the strand's mask, or in the access slice checks that the
mask is whole (R116). -/
theorem exec_mwrite {x : V3} {s : State} {c : Ctx} (h : runs s c (.mwrite x) = true) {m : Mask}
    (hm : (c.perm x.a x.pa c.lo).setWidth 8 = m) :
    (c.acc = false → exec (.mwrite x) s = .next (strandMoved c (writeMask (wakeBanks s c (.mwrite x)) c m)))
    ∧ (c.acc = true → m = 0xFF → exec (.mwrite x) s = .next (wordDone c (.mwrite x) (wakeBanks s c (.mwrite x))))
    ∧ (c.acc = true → m ≠ 0xFF → exec (.mwrite x) s = finishDone s (wakeBanks s c (.mwrite x)) c (.mwrite x)
        { Stops.none with faults := (lanesOf c.ex).map fun l => laneFault l .divergentAccess }) := by
  have answer : exec (.mwrite x) s = finish (wakeBanks s c (.mwrite x)) c (.mwrite x)
      (if c.acc then
        (if m = 0xFF then .ok (wakeBanks s c (.mwrite x))
         else .done (wakeBanks s c (.mwrite x)) { Stops.none with faults := (lanesOf c.ex).map fun l => laneFault l .divergentAccess })
       else .moved (writeMask (wakeBanks s c (.mwrite x)) c m)) := by
    subst hm
    exact issue_finish h
  refine ⟨fun ha => ?_, fun ha hw => ?_, fun ha hw => ?_⟩
  · rw [answer, if_neg (ne_true_of_eq_false ha)]
    rfl
  · rw [answer, if_pos ha, if_pos hw]
    exact finishDone_ok (region_of_runs h)
  · rw [answer, if_pos ha, if_neg hw]
    exact finishDone_of_noRegion (region_of_runs h) ..

/-! ### The obligation -/

/-- Settles O3: the words write their table's values; the pair's lanes and MWRITE's three outcomes are the lemmas above. -/
theorem affineAndMaskWordResults : Obligations.AffineAndMaskWordResults := by
  unfold Obligations.AffineAndMaskWordResults
  refine ⟨⟨fun x => ?_, fun y => ?_, fun c u r f v hv hr hacc l hl => affineRow_lanes f hv hr hacc hl⟩, fun x s c h => exec_mwrite h rfl⟩
  · exact ⟨gives_of (fun _ => rfl) fun _ _ => rfl, gives_of (fun _ => rfl) fun _ _ => rfl, gives_of (fun _ => rfl) fun _ _ => rfl,
      givesReg_of (fun _ => rfl) fun _ _ => congrArg boolWord (condHolds_eq ..)⟩
  · exact ⟨gives_of (fun _ => rfl) fun _ _ => rfl, gives_of (fun _ => rfl) fun _ _ => rfl, gives_of (fun _ => rfl) fun _ _ => rfl,
      gives_of (fun _ => rfl) fun _ _ => rfl, gives_of (fun _ => rfl) fun _ _ => rfl⟩

end Sys2Proof.AffineWords
end

section
/-! SUPPORT. Lane movement, votes and masks (02 R64, 05 R130, R131, R133): the lane that each form reads. -/

namespace Sys2Proof.LaneMovement

open Sys2Proof Sys2Proof.Machine Sys2Proof.Laws Sys2Proof.IntegerWords Sys2Proof.FaultedLanes

/-! ### Votes -/

/-- A lane is among a mask's just where its bit is set. -/
theorem mem_lanesOf {m : Mask} {l : Nat} : l ∈ lanesOf m ↔ l < 8 ∧ m.getLsbD l = true := by
  rw [lanesOf, List.mem_filter, show l ∈ lanes ↔ l < 8 from List.mem_range (n := 8)]

/-- A mask that is not empty has a lane. -/
theorem ne_zero_iff {m : Mask} : m ≠ 0 ↔ ∃ l, l < 8 ∧ m.getLsbD l = true := by
  refine ⟨fun h => ?_, fun ⟨l, _, hl⟩ h0 => ?_⟩
  · by_contra hn
    refine h (BitVec.eq_of_getLsbD_eq fun l hl => ?_)
    exact (Bool.eq_false_iff.2 fun hm => hn ⟨l, hl, hm⟩).trans BitVec.getLsbD_zero.symm
  · rw [h0] at hl
    exact Bool.false_ne_true (BitVec.getLsbD_zero.symm.trans hl)

/-- The lanes that vote for: the active ones whose A is not zero. -/
theorem getLsbD_voteMask (c : Ctx) (x : V3) {l : Nat} (hl : l < 8) :
    (voteMask c x).getLsbD l = (c.act.getLsbD l && c.src x.sA l != 0) := by
  rw [voteMask, BitVec.getLsbD_and, getLsbD_maskOf _ hl]

/-- Some lane votes for. -/
theorem voteMask_ne_zero (c : Ctx) (x : V3) : (voteMask c x != 0) = (lanesOf c.act).any fun l => c.src x.sA l != 0 := by
  rw [Bool.eq_iff_iff, bne_iff_ne, ne_zero_iff, List.any_eq_true]
  refine exists_congr fun l => ?_
  rw [mem_lanesOf, and_assoc]
  refine and_congr_right fun hl => ?_
  rw [getLsbD_voteMask c x hl, Bool.and_eq_true]

/-- Every active lane votes for. -/
theorem voteMask_eq_act (c : Ctx) (x : V3) : (voteMask c x == c.act) = (lanesOf c.act).all fun l => c.src x.sA l != 0 := by
  rw [Bool.eq_iff_iff, beq_iff_eq, List.all_eq_true, BitVec.eq_of_getLsbD_eq_iff]
  refine ⟨fun h l hl => ?_, fun h l hl => ?_⟩
  · obtain ⟨hl, ha⟩ := mem_lanesOf.1 hl
    have := h l hl
    rwa [getLsbD_voteMask c x hl, ha, Bool.true_and] at this
  · rw [getLsbD_voteMask c x hl, Bool.and_eq_left_iff_imp]
    exact fun ha => h l (mem_lanesOf.2 ⟨hl, ha⟩)

/-- The ballot is the mask of those votes. -/
theorem voteMask_eq_maskOf (c : Ctx) (x : V3) : voteMask c x = maskOf fun l => c.act.getLsbD l && c.src x.sA l != 0 :=
  BitVec.eq_of_getLsbD_eq fun l hl => by rw [getLsbD_voteMask c x hl, getLsbD_maskOf _ hl]

/-! ### Permutations -/

/-- The lowest lane of a mask is the set one below which none is. -/
theorem lowest_eq {m : Mask} {k : Nat} (hk : k < 8) (hm : m.getLsbD k = true) (hlow : ∀ j, j < k → m.getLsbD j = false) :
    lowest m = some k := by
  rw [lowest, lanesOf, List.head?_filter, show lanes = List.range 8 from rfl, List.find?_range_eq_some]
  exact ⟨hm, List.mem_range.2 hk, fun j hj => by rw [hlow j hj]; rfl⟩

/-! ### The obligation -/

/-- Settles O4: the words read the lanes of their tables, and a permutation field the lane that R64 gives it. -/
theorem laneMovementResults : Obligations.LaneMovementResults := by
  unfold Obligations.LaneMovementResults
  refine ⟨⟨fun x => ⟨givesReg_put fun _ => rfl, givesReg_of (fun _ => rfl) fun c _ => ?_, givesReg_put fun _ => rfl⟩,
    fun y => givesReg_put fun _ => rfl⟩, fun act l _ => ⟨rfl, rfl, rfl, rfl, rfl, rfl, rfl, fun k hk hm hlow => ?_⟩⟩
  · rw [voteMask_ne_zero, voteMask_eq_act, voteMask_eq_maskOf]
    rcases h : x.c.toNat with _ | _ | n
    · rw [if_pos (BitVec.eq_of_toNat_eq h)]
      rfl
    · have h1 : x.c = 1 := BitVec.eq_of_toNat_eq h
      rw [if_neg (by rw [h1]; decide), if_pos h1]
      rfl
    · rw [if_neg fun h0 => by simp [h0] at h, if_neg fun h1 => by simp [h1] at h]
      rfl
  · rw [show permLane 7 act l = (lowest act).getD 0 from rfl, lowest_eq hk hm hlow]
    rfl

end Sys2Proof.LaneMovement
end

section
/-! SUPPORT. LRED and LSCAN (04 R109, 05 R132): the butterfly of an associative operation with an identity gives totals and their
parts from lane 0 on. -/

namespace Sys2Proof.Butterfly

open Sys2Proof Sys2Proof.Machine Sys2Proof.Laws Sys2Proof.IntegerWords

/-! ### The integer operations -/

/-- No word is above the identity of the least. -/
theorem rank_le_redIdent (unsigned : Bool) (a : Word) : rank unsigned a ≤ rank unsigned (redIdent 1 unsigned) := by
  cases unsigned with
  | false =>
    have : a.toInt ≤ 2 ^ 31 - 1 := BitVec.toInt_le
    exact this.trans (by decide)
  | true =>
    have := a.isLt
    exact Int.ofNat_le.2 (Nat.le_of_lt_succ this)

/-- No word is below the identity of the greatest. -/
theorem redIdent_le_rank (unsigned : Bool) (a : Word) : rank unsigned (redIdent 2 unsigned) ≤ rank unsigned a := by
  cases unsigned with
  | false => exact (show _ ≤ (-2 ^ 31 : Int) by decide).trans (BitVec.le_toInt a)
  | true => exact Int.ofNat_le.2 (Nat.zero_le _)

/-- The value of an integer operation of LRED and LSCAN. -/
def redValue (op : Nat) (unsigned : Bool) (a b : Word) : Word := (redOp op unsigned 0 a b).1

/-- The integer operations are associative. -/
theorem redValue_assoc {op : Nat} (h : op < 6) (unsigned : Bool) : Std.Associative (redValue op unsigned) := by
  refine ⟨fun a b c => ?_⟩
  interval_cases op
  · exact BitVec.add_assoc a b c
  · exact rank_inj (unsigned := unsigned) (by simp only [redValue, redOp, rank_minWord, min_assoc])
  · exact rank_inj (unsigned := unsigned) (by simp only [redValue, redOp, rank_maxWord, max_assoc])
  · exact BitVec.and_assoc a b c
  · exact BitVec.or_assoc a b c
  · exact BitVec.xor_assoc a b c

/-- Each has its identity on both sides. -/
theorem redValue_ident {op : Nat} (h : op < 6) (unsigned : Bool) (a : Word) :
    redValue op unsigned (redIdent op unsigned) a = a ∧ redValue op unsigned a (redIdent op unsigned) = a := by
  interval_cases op
  · exact ⟨BitVec.zero_add a, BitVec.add_zero a⟩
  · exact ⟨rank_inj (unsigned := unsigned) ((rank_minWord ..).trans (min_eq_right (rank_le_redIdent unsigned a))),
      rank_inj (unsigned := unsigned) ((rank_minWord ..).trans (min_eq_left (rank_le_redIdent unsigned a)))⟩
  · exact ⟨rank_inj (unsigned := unsigned) ((rank_maxWord ..).trans (max_eq_right (redIdent_le_rank unsigned a))),
      rank_inj (unsigned := unsigned) ((rank_maxWord ..).trans (max_eq_left (redIdent_le_rank unsigned a)))⟩
  · exact ⟨BitVec.allOnes_and, BitVec.and_allOnes⟩
  · exact ⟨BitVec.zero_or, BitVec.or_zero⟩
  · exact ⟨BitVec.zero_xor, BitVec.xor_zero⟩

/-! ### Blocks of lanes -/

/-- The combination of `n` lanes from lane `a` on. -/
def block (g : Word → Word → Word) (i : Word) (xs : List Word) (a n : Nat) : Word := ((xs.drop a).take n).foldl g i

/-- What the butterfly has after the steps below distance `k`: each lane the total of its block of `k` lanes, and where it scans the
combination of the block's lanes below it, and of its own where `e` is 1. -/
structure Reduced (g : Word → Word → Word) (i : Word) (xs : List Word) (e k : Nat) (doScan : Bool) (r : RedState) : Prop where
  tot : ∀ l, l < 8 → r.tot.getD l 0 = block g i xs (l / k * k) k
  scan : doScan = true → ∀ l, l < 8 → r.scan.getD l 0 = block g i xs (l / k * k) (l % k + e)

/-- A list given lane by lane, read at a lane. -/
theorem getD_map_lanes {α : Type} (h : Nat → α) (d : α) {l : Nat} (hl : l < 8) : (lanes.map h).getD l d = h l := by
  interval_cases l <;> rfl

/-- The partner of a lane of a lower block is in the next block. -/
theorem partner_of_lower : ∀ k ∈ [1, 2, 4], ∀ l, l < 8 → l / k % 2 = 0 →
    (l ^^^ k) < 8 ∧ (l ^^^ k) / k * k = l / k * k + k ∧ l / (2 * k) * (2 * k) = l / k * k ∧ l % (2 * k) = l % k := by decide

/-- The partner of a lane of an upper block is in the block before. -/
theorem partner_of_upper : ∀ k ∈ [1, 2, 4], ∀ l, l < 8 → l / k % 2 = 1 →
    (l ^^^ k) < 8 ∧ l / k * k = (l ^^^ k) / k * k + k ∧ l / (2 * k) * (2 * k) = (l ^^^ k) / k * k ∧ l % (2 * k) = k + l % k := by decide

section
variable {f : Word → Word → Word × BitVec 9} {g : Word → Word → Word} {i : Word} {xs scan : List Word} {e k : Nat} {doScan : Bool}
variable (hf : ∀ a b, (f a b).1 = g a b) (ha : Std.Associative g) (hi : ∀ a, g i a = a ∧ g a i = a)

include hf in
/-- A lane's total after a butterfly step (R109). -/
theorem redStep_tot (r : RedState) {l : Nat} (hl : l < 8) : (redStep f doScan r k).tot.getD l 0 =
    if l / k % 2 = 0 then g (r.tot.getD l 0) (r.tot.getD (l ^^^ k) 0) else g (r.tot.getD (l ^^^ k) 0) (r.tot.getD l 0) := by
  simp only [redStep, List.map_map, getD_map_lanes _ _ hl, Function.comp_apply, apply_ite Prod.fst, hf]

include hf in
/-- A lane's scan after a butterfly step (R109). -/
theorem redStep_scan (r : RedState) {l : Nat} (hl : l < 8) : (redStep f true r k).scan.getD l 0 =
    if l / k % 2 = 1 then g (r.tot.getD (l ^^^ k) 0) (r.scan.getD l 0) else r.scan.getD l 0 := by
  simp only [redStep, List.map_map, getD_map_lanes _ _ hl, Function.comp_apply, apply_ite Prod.fst, hf, Bool.and_true, decide_eq_true_eq]

include ha hi in
/-- Two blocks side by side. -/
theorem block_append (a m n : Nat) : g (block g i xs a m) (block g i xs (a + m) n) = block g i xs a (m + n) := by
  rw [block, block, block, List.take_add, List.foldl_append, List.drop_drop, ← List.foldl_assoc (op := g), (hi _).2]

include hf ha hi in
/-- A butterfly step joins each block with its neighbour (R109): the lanes of the upper one take the lower one's total into their scan. -/
theorem Reduced.step {r : RedState} (hk : k ∈ [1, 2, 4]) (h : Reduced g i xs e k doScan r) :
    Reduced g i xs e (2 * k) doScan (redStep f doScan r k) := by
  refine ⟨fun l hl => ?_, ?_⟩
  · rw [redStep_tot hf r hl]
    rcases Nat.mod_two_eq_zero_or_one (l / k) with hb | hb
    · obtain ⟨hp, hnext, hstart, -⟩ := partner_of_lower k hk l hl hb
      rw [if_pos hb, h.tot l hl, h.tot _ hp, hnext, block_append ha hi, hstart, Nat.two_mul]
    · obtain ⟨hp, hnext, hstart, -⟩ := partner_of_upper k hk l hl hb
      rw [if_neg (hb ▸ Nat.one_ne_zero), h.tot l hl, h.tot _ hp, hnext, block_append ha hi, hstart, Nat.two_mul]
  · rintro rfl l hl
    rw [redStep_scan hf r hl]
    rcases Nat.mod_two_eq_zero_or_one (l / k) with hb | hb
    · obtain ⟨-, -, hstart, hrest⟩ := partner_of_lower k hk l hl hb
      rw [if_neg (hb ▸ Nat.zero_ne_one), h.scan rfl l hl, hstart, hrest]
    · obtain ⟨hp, hnext, hstart, hrest⟩ := partner_of_upper k hk l hl hb
      rw [if_pos hb, h.scan rfl l hl, h.tot _ hp, hnext, block_append ha hi, hstart, hrest, Nat.add_assoc]

include hi in
/-- A block of one lane is its value. -/
theorem block_one {l : Nat} (hl : l < xs.length) : block g i xs l 1 = xs.getD l 0 := by
  rw [block, List.drop_eq_getElem_cons hl, List.take_succ_cons, List.take_zero, List.foldl_cons, List.foldl_nil, (hi _).1,
    List.getD_eq_getElem _ _ hl]

include hf ha hi in
/-- The three steps give each lane the total of all lanes, and the combination of the lanes below it, and of its own where `e` is 1. -/
theorem reduce_eq (hx : xs.length = 8) (hscan : doScan = true → ∀ l, l < 8 → scan.getD l 0 = block g i xs l e) {l : Nat} (hl : l < 8) :
    (reduce f doScan xs scan).tot.getD l 0 = xs.foldl g i
      ∧ (doScan = true → (reduce f doScan xs scan).scan.getD l 0 = (xs.take (l + e)).foldl g i) := by
  have first : Reduced g i xs e 1 doScan { tot := xs, scan := scan, fl := 0 } :=
    ⟨fun l hl => by rw [Nat.div_one, Nat.mul_one, block_one hi (hx ▸ hl)],
      fun hs l hl => by rw [Nat.div_one, Nat.mul_one, Nat.mod_one, Nat.zero_add, hscan hs l hl]⟩
  have last : Reduced g i xs e 8 doScan (reduce f doScan xs scan) :=
    ((first.step hf ha hi (by decide)).step hf ha hi (by decide)).step hf ha hi (by decide)
  refine ⟨?_, fun hs => ?_⟩
  · rw [last.tot l hl, Nat.div_eq_of_lt hl, Nat.zero_mul, block, List.drop_zero, List.take_of_length_le (Nat.le_of_eq hx)]
  · rw [last.scan hs l hl, Nat.div_eq_of_lt hl, Nat.zero_mul, Nat.mod_eq_of_lt hl, block, List.drop_zero]

end

/-! ### The obligation -/

/-- Settles O5: the words' bodies are the reductions; the integer operations are associative with an identity, so that the butterfly gives
totals, and each lane the combination up to it, its own value counted or, from identities, not. -/
theorem reductionAndScanResults : Obligations.ReductionAndScanResults := by
  unfold Obligations.ReductionAndScanResults
  refine ⟨fun x => ⟨gives_of (fun _ => rfl) fun _ _ => rfl, gives_of (fun _ => rfl) fun _ _ => rfl⟩, fun op unsigned xs hop hx => ?_⟩
  have ha := redValue_assoc hop unsigned
  have hi := redValue_ident hop unsigned
  have hf : ∀ a b, (redOp op unsigned 0 a b).1 = redValue op unsigned a b := fun _ _ => rfl
  refine ⟨fun l hl => ?_, fun l hl => ?_, fun l hl => ?_⟩
  · exact (reduce_eq (e := 1) hf ha hi hx (fun h => absurd h Bool.false_ne_true) hl).1
  · exact (reduce_eq hf ha hi hx (fun _ k hk => (block_one hi (hx ▸ hk)).symm) hl).2 rfl
  · exact (reduce_eq (e := 0) hf ha hi hx (fun _ k hk => getD_map_lanes _ _ hk) hl).2 rfl

end Sys2Proof.Butterfly
end

section
/-! SUPPORT. The float words, the packed words, the conversions and the narrow words (06 R140 to R152): the shapes their meanings share. -/

namespace Sys2Proof.FloatResults

open Sys2Proof Sys2Proof.Machine Sys2Proof.Laws

section
variable {i : Instr} {x : V3}

/-! ### Words that write in every case -/

/-- A word of one source gives each active lane its function's result and flags (R91). -/
theorem gives_float1 {f : Rm → BitVec 9 → Nat → Nat × BitVec 9} (he : ∀ s, exec i s = float1 i x f s) :
    Gives i fun u c => floatRow c u x.d.toNat fun l => f (c.rm x.pc) c.v.fcr (c.src x.sA l).toNat := gives_of he fun _ _ => rfl

/-- A word of two sources. -/
theorem gives_float2 {f : Rm → BitVec 9 → Nat → Nat → Nat × BitVec 9} (he : ∀ s, exec i s = float2 i x f s) :
    Gives i fun u c => floatRow c u x.d.toNat fun l => f (c.rm x.pc) c.v.fcr (c.src x.sA l).toNat (c.src x.sB l).toNat :=
  gives_of he fun _ _ => rfl

/-- A word that reads its sources itself: the fused ones, and those with an immediate. -/
theorem gives_floatRow {d : BitVec 8} {f : Ctx → Nat → Nat × BitVec 9}
    (he : ∀ s, exec i s = issue s i fun s c => .ok (floatRow c s d.toNat (f c))) : Gives i fun u c => floatRow c u d.toNat (f c) :=
  gives_of he fun _ _ => rfl

/-- A conversion, which under RND 6 writes its seeds too (R138, R148). -/
theorem gives_convRow {f : Ctx → Nat → (Nat × BitVec 9) × Word} (he : ∀ s, exec i s = issue s i fun s c => .ok (convRow c s x (f c))) :
    Gives i fun u c => convRow c u x (f c) := gives_of he fun _ _ => rfl

/-! ### Words that may stop -/

/-- A word that checks for a stop before it does anything: without one it has its effect, and with one every active lane faults. -/
theorem givesIf_and_raisesIf_of_stop {stop : Ctx → Option Cause} {eff : State → Ctx → State}
    (he : ∀ s, exec i s = issue s i fun u c => match stop c with | some cause => c.fault u cause | none => .ok (eff u c)) :
    GivesIf i (fun _ c => stop c = none) eff ∧ ∀ cause, RaisesIf i (fun _ c => stop c = some cause) fun c => c.faultAll cause := by
  refine ⟨givesIf_of he fun u c h => ?_, fun cause => raisesIf_of he fun u c _ h => ?_⟩
  · rw [h]
  · rw [h]
    rfl

end

/-! ### The obligations -/

/-- Settles O6: each word is of one of the shapes above, with the operation of its table. -/
theorem floatWordResults : Obligations.FloatWordResults := by
  unfold Obligations.FloatWordResults
  refine ⟨fun x => ?_, fun x => ?_⟩
  · exact ⟨gives_float2 fun _ => rfl, gives_float2 fun _ => rfl, gives_float2 fun _ => rfl, gives_floatRow fun _ => rfl,
      gives_float2 (f := fun _ => fp32.minMax false) fun _ => rfl, gives_float2 (f := fun _ => fp32.minMax true) fun _ => rfl,
      gives_float2 (f := fun _ fcr a b => ((fcmpOp (x.c.toNat % 8) fcr a b).1.toNat, (fcmpOp (x.c.toNat % 8) fcr a b).2)) fun _ => rfl,
      gives_float1 (f := fun _ _ a => (fclassOp a, 0)) fun _ => rfl, gives_float1 fun _ => rfl,
      gives_float1 (f := fun _ => frcpOp) fun _ => rfl, gives_float1 (f := fun _ => frsqOp) fun _ => rfl, gives_float1 fun _ => rfl,
      gives_float1 (f := fun _ => fexp2Op) fun _ => rfl, gives_float1 (f := fun _ => flog2Op) fun _ => rfl,
      gives_float1 (f := fun _ => fsinOp) fun _ => rfl, gives_float1 (f := fun _ => fcosOp) fun _ => rfl,
      gives_float1 (f := fun _ => ftanhOp) fun _ => rfl,
      gives_float2 (f := fun rm fcr a b => fsclOp rm fcr a (signedN 32 b)) fun _ => rfl, fun _ => gives_floatRow fun _ => rfl⟩
  · exact ⟨gives_floatRow fun _ => rfl, gives_floatRow fun _ => rfl, gives_floatRow fun _ => rfl, gives_convRow fun _ => rfl,
      gives_of (fun _ => rfl) fun _ _ => rfl, gives_convRow fun _ => rfl⟩

/-- Settles O7: PKN, UPKN and NDOT make the two checks of `narrowStop` before anything else. -/
theorem narrowWordResults : Obligations.NarrowWordResults := by
  unfold Obligations.NarrowWordResults
  intro x
  obtain ⟨pkn, pkn_stops⟩ := givesIf_and_raisesIf_of_stop (i := .pkn x) fun _ => rfl
  obtain ⟨upkn, upkn_stops⟩ := givesIf_and_raisesIf_of_stop (i := .upkn x) fun _ => rfl
  obtain ⟨ndot, ndot_stops⟩ := givesIf_and_raisesIf_of_stop (i := .ndot x) fun _ => rfl
  exact ⟨pkn, upkn, ndot, fun cause => ⟨pkn_stops cause, upkn_stops cause, ndot_stops cause⟩⟩

end Sys2Proof.FloatResults
end

section
/-! SUPPORT. The memory words (07 R155 to R182) whose lanes all complete: what each answers, from the lanes' results. -/

namespace Sys2Proof.MemoryWords

open Sys2Proof Sys2Proof.Machine Sys2Proof.Laws

/-! ### Words over lanes -/

section
variable {α : Type} {i : Instr} {body : State → Ctx → Res} {room : State → Ctx → Bool} {f : Ctx → State → Nat → LaneStep α}
  {k : State → Ctx → State → List (Nat × α) → State}

/-- A meaning that, where there is room, takes its lanes in turn and then asks whether there is room for those that complete (R337). -/
theorem givesLanes_of_withRoom {fits : State → Ctx → Nat → Bool} (he : ∀ s, exec i s = issue s i body)
    (hb : ∀ u c, c.region = none → room u c = true → body u c = withRoom (fits u c) u c (f c) (k u c))
    (hfits : ∀ u c, room u c = true → fits u c (lanesOf c.act).length = true) : GivesLanes i room f k := fun s c t res h hr hd => by
  rw [he]
  refine issue_runs h ?_
  rw [hb _ _ (region_of_runs h) hr]
  exact withRoom_done (act_ne_zero h) hd (hfits _ _ hr)

/-- Lanes that all go on in the state they find. -/
theorem overLanes_of_reads {h : Nat} {u : State} {g : State → Nat → LaneStep α} {r : Nat → α} {ls : List Nat} (hg : ∀ l ∈ ls, g u l = .go u (r l))
    (res : List (Nat × α)) (st : Stops) :
    overLanes h g ls { s := u, res := res, st := st } = .ok { s := u, res := res ++ ls.map fun l => (l, r l), st := st } := by
  induction ls generalizing res with
  | nil => simp [overLanes]
  | cons l ls ih =>
    simp only [overLanes, hg l List.mem_cons_self, ih fun l' hl' => hg l' (List.mem_cons_of_mem _ hl'), List.append_assoc, List.map_cons,
      List.singleton_append]

/-- The same as a word's lanes. -/
theorem lanesDone_of_reads {c : Ctx} {u : State} {g : State → Nat → LaneStep α} {r : Nat → α} (hg : ∀ l ∈ lanesOf c.act, g u l = .go u (r l)) :
    lanesDone u c g = some (u, (lanesOf c.act).map fun l => (l, r l)) := by
  simp only [lanesDone, overLanes_of_reads hg, List.nil_append, ↓reduceIte]

end

/-! ### Loads and stores -/

section
variable (x : MWord)

/-- LDV's lanes read their bytes where none is misaligned, out of bounds or poisoned (R169). -/
theorem exec_ldv {s : State} {c : Ctx} (h : runs s c (.ldv x) = true) :
    let u := wakeBanks s c (.ldv x)
    let n := sizeBytes x.size
    let off := fun l => sAddr c x l x.pa x.off6 n
    c.pathFull u .v = false →
    (∀ l ∈ lanesOf c.act, off l % n = 0 ∧ vaultFault u c.v.hank (vaultCore c x) (off l) n = none
      ∧ vaultPoison u (vaultCore c x) (off l) n = none) →
    exec (.ldv x) s = .next (wordDone c (.ldv x) (addFlight u
      { c.flight .access (some .v) (dataRegs x.size x.d)
          (regResults x.d.toNat ((lanesOf c.act).map fun l => (l, loadWords x.size (vaultRead u c.v.hank (vaultCore c x) (off l) n)))) true false with
        route := [(0, vaultCore c x)] })) := by
  intro u n off hfull hlanes
  refine issue_runs (i := .ldv x) h ?_
  dsimp only
  rw [if_neg (by simpa using hfull), withLanes_done (act_ne_zero h) (lanesDone_of_reads
    (r := fun l => vaultRead u c.v.hank (vaultCore c x) (off l) n) fun l hl => ?_)]
  · simp only [loadedWords, List.map_map]
    rfl
  · obtain ⟨halign, hfault, hpoison⟩ := hlanes l hl
    change (if off l % n ≠ 0 then _ else _) = _
    rw [if_neg (by simpa using halign)]
    simp only [u, n, off] at hfault hpoison
    simp only [hfault, hpoison]
    rfl

/-- STV writes each lane's bytes in the root ply (R169). -/
theorem givesLanes_stv : GivesLanes (.stv x) (fun u c => !c.pathFull u .v && c.v.ply == 0)
    (fun c u l =>
      let n := sizeBytes x.size
      let off := sAddr c x l x.pa x.off6 n
      if off % n ≠ 0 then .stop (laneFault l .misalign (BitVec.ofNat 64 off) true .vault)
      else match vaultFault u c.v.hank (vaultCore c x) off n with
        | some d => .stop (laneFault l .protection (BitVec.ofNat 64 off) true .vault d)
        | none =>
          carryStore u c (.stv x) l ((touchedGranules off n).map (.vault (vaultCore c x)))
            (.go (vaultClear (vaultWrite u c.v.hank (vaultCore c x) off (regBytes c x.d.toNat n l)) (vaultCore c x) off n) ()))
    (fun _ c t _ => storeFlight t c (some .v)) :=
  givesLanes_of (fun _ => rfl) fun u c _ hr => by
    simp only [Bool.and_eq_true, Bool.not_eq_true', beq_iff_eq] at hr
    simp only [hr.1, hr.2, Bool.false_eq_true, ne_eq, not_true_eq_false, ↓reduceIte] <;> rfl

end

/-- Settles O11: each word's body, where there is room, takes its lanes in turn. -/
theorem loadAndStoreWordsComplete : Obligations.LoadAndStoreWordsComplete := by
  unfold Obligations.LoadAndStoreWordsComplete
  refine ⟨fun x => ⟨?_, ?_, ?_, fun s c h hfull hlanes => exec_ldv x h hfull hlanes⟩, fun x => ⟨?_, ?_, givesLanes_stv x⟩⟩
  · refine givesLanes_of (fun _ => rfl) fun u c hreg hr => ?_
    simp only [Bool.and_eq_true, Bool.not_eq_true'] at hr
    simp only [hr.1, hr.2, hreg, Bool.false_eq_true, ↓reduceIte]
  · refine givesLanes_of (fun _ => rfl) fun u c _ hr => ?_
    simp only [Bool.and_eq_true, Bool.not_eq_true'] at hr
    simp only [hr.1, hr.2, Bool.or_self, Bool.false_eq_true, ↓reduceIte]
  · refine givesLanes_of (fun _ => rfl) fun u c _ hr => ?_
    exact if_neg (by simpa using hr)
  · refine givesLanes_of_withRoom (fits := fun u c => sigRoom u c.w c.v) (fun _ => rfl) (fun u c hreg hr => ?_) fun u c hr => ?_
    · simp only [Bool.and_eq_true, Bool.not_eq_true'] at hr
      simp only [hr.1.1, hr.1.2, hreg, Bool.false_eq_true, ↓reduceIte]
    · simp only [Bool.and_eq_true] at hr
      exact hr.2
  · refine givesLanes_of (fun _ => rfl) fun u c _ hr => ?_
    exact if_neg (by simpa using hr)

/-! ### Atomics -/

section
variable {x : MWord} {s t : State} {c : Ctx} {res : List (Nat × Unit)} {addr : Nat → Nat}

/-- A deferred atomic whose lanes all pass their checks, with room for its signatures and its entry, is logged and returns 0 (R175, R247). -/
theorem deferAtomic_done {entry : List Nat → LogKind} {sig : Nat → Bytes} (hact : c.act ≠ 0) (hsig : sigRoom s c.w c.v (laneCount c.act) = true)
    (hlog : logRoom t c.v.hank c.v.ply = true) (hlanes : lanesDone s c (fun u l => deferLane u c l (addr l) (sizeBytes x.size)) = some (t, res)) :
    deferAtomic s c x addr entry sig = .ok (loadFlight
      (addSigs (appendLog t c (entry (lanesOf c.act))) c.w c.v ((lanesOf c.act).map fun l => sigOf (BitVec.ofNat 64 (addr l)) (sig l)))
      c (some .w) x.size x.d false ((lanesOf c.act).map fun l => (l, loadWords x.size []))) := by
  obtain ⟨hover, hres⟩ := lanesDone_spec hlanes
  unfold deferAtomic
  simp only [hover, hres, lanesOf_ne_nil hact, show sigRoom s c.w c.v (lanesOf c.act).length = true from hsig, hlog, Bool.not_true,
    Bool.false_eq_true, ↓reduceIte]
  rfl

end

section
variable (x : MWord)

/-- A word that defers its atomic: the premises that both such words share. -/
theorem exec_deferred {i : Instr} {body : State → Ctx → Res} {s t : State} {c : Ctx} {res : List (Nat × Unit)} {addr : Nat → Nat}
    {entry : List Nat → LogKind} {sig : Nat → Bytes} (he : ∀ s, exec i s = issue s i body) (h : runs s c i = true)
    (hb : c.pathFull (wakeBanks s c i) .w = false → body (wakeBanks s c i) c = deferAtomic (wakeBanks s c i) c x addr entry sig)
    (hroom : (!c.pathFull (wakeBanks s c i) .w && sigRoom (wakeBanks s c i) c.w c.v (laneCount c.act)) = true)
    (hlog : logRoom t c.v.hank c.v.ply = true)
    (hlanes : lanesDone (wakeBanks s c i) c (fun u l => deferLane u c l (addr l) (sizeBytes x.size)) = some (t, res)) :
    exec i s = .next (wordDone c i (loadFlight
      (addSigs (appendLog t c (entry (lanesOf c.act))) c.w c.v ((lanesOf c.act).map fun l => sigOf (BitVec.ofNat 64 (addr l)) (sig l)))
      c (some .w) x.size x.d false ((lanesOf c.act).map fun l => (l, loadWords x.size [])))) := by
  simp only [Bool.and_eq_true, Bool.not_eq_true'] at hroom
  rw [he]
  exact issue_runs h ((hb hroom.1).trans (deferAtomic_done (act_ne_zero h) hroom.2 hlog hlanes))

/-- A word that performs its atomic at once. -/
theorem givesLanes_of_globalAtomic {i : Instr} {body : State → Ctx → Res} {addr : Ctx → Nat → Nat} {f : Ctx → Nat → Nat → Option Nat}
    {sig : Ctx → Nat → Bytes} (he : ∀ s, exec i s = issue s i body)
    (hb : ∀ u c, c.pathFull u .w = false → ¬(x.scope = 5 ∧ c.v.ply ≠ 0) → body u c = globalAtomic u c x (addr c) (f c) (sig c)) :
    GivesLanes i
      (fun u c => (!c.pathFull u .w && sigRoom u c.w c.v (laneCount c.act)) && !(x.scope == 5 && c.v.ply != 0)
        && !c.windowBlocked u (addr c) (sizeBytes x.size) true)
      (fun c u l => rmwLane u c l (addr c l) (sizeBytes x.size) (f c l))
      (fun u c t res =>
        c.reach u
          (loadFlight (addSigs t c.w c.v (res.map fun p => sigOf (BitVec.ofNat 64 (addr c p.1)) (sig c p.1))) c (some .w) x.size x.d true
            (res.map fun p => (p.1, loadWords x.size (natLe (sizeBytes x.size) p.2))))
          7 true (res.map fun p => addr c p.1)) := by
  refine givesLanes_of_withRoom (fits := fun u c => sigRoom u c.w c.v) he (fun u c _ hr => ?_) fun u c hr => ?_
  · simp only [Bool.and_eq_true, Bool.not_eq_true'] at hr
    obtain ⟨⟨⟨hfull, -⟩, hnow⟩, hwin⟩ := hr
    rw [hb u c hfull (by simpa using hnow), globalAtomic, if_neg (by simpa using hwin)]
  · simp only [Bool.and_eq_true] at hr
    exact hr.1.1.2

/-- What ATOM and ACAS do in a ply at once, and what they defer (R175). -/
theorem atomicBody_of_now {u : State} {c : Ctx} {deferred now : Res} (hfull : c.pathFull u .w = false) (hnow : ¬(x.scope = 5 ∧ c.v.ply ≠ 0)) :
    (if c.pathFull u .w then Res.hold else if x.scope = 5 ∧ c.v.ply ≠ 0 then deferred else now) = now := by
  rw [if_neg (by simpa using hfull), if_neg hnow]

theorem atomicBody_of_deferred {u : State} {c : Ctx} {deferred now : Res} (hscope : x.scope = 5) (hply : c.v.ply ≠ 0)
    (hfull : c.pathFull u .w = false) :
    (if c.pathFull u .w then Res.hold else if x.scope = 5 ∧ c.v.ply ≠ 0 then deferred else now) = deferred := by
  rw [if_neg (by simpa using hfull), if_pos ⟨hscope, hply⟩]

end

/-- Settles O12: an atomic is performed, deferred, or made in scratch or in a partial line. -/
theorem atomicWordsComplete : Obligations.AtomicWordsComplete := by
  unfold Obligations.AtomicWordsComplete
  intro x
  refine ⟨?_, ?_, ?_, ?_, ?_, ?_⟩
  · exact givesLanes_of_globalAtomic x (addr := fun c => atomA c x) (fun _ => rfl) fun _ _ => atomicBody_of_now x
  · exact givesLanes_of_globalAtomic x (addr := fun c => casA c x)
      (sig := fun c l => regBytes c x.b.toNat (sizeBytes x.size) l ++ regBytes c (x.b.toNat + sizeBytes x.size / 4) (sizeBytes x.size) l)
      (fun _ => rfl) fun _ _ => atomicBody_of_now x
  · exact givesLanes_of (fun _ => rfl) fun u c _ hr => if_neg (by simpa using hr)
  · refine givesLanes_of_withRoom (fits := fun u c => sigRoom u c.w c.v) (fun _ => rfl) (fun u c _ hr => ?_) fun u c hr => ?_
    · simp only [Bool.and_eq_true, Bool.not_eq_true'] at hr
      exact if_neg (by simp [hr.1])
    · simp only [Bool.and_eq_true] at hr
      exact hr.2
  · intro s c t res h hscope hply hroom hlog hlanes
    have hgo := exec_deferred x (addr := atomA c x) (fun _ => rfl) h (atomicBody_of_deferred x hscope hply) hroom hlog hlanes
    rw [hscope] at hgo
    exact hgo
  · intro s c t res h hscope hply hroom hlog hlanes
    have hgo := exec_deferred x (addr := casA c x) (fun _ => rfl) h (atomicBody_of_deferred x hscope hply) hroom hlog hlanes
    rw [hscope] at hgo
    exact hgo

/-- Settles O15: one equation a variant; the signed orders are those of the operands read in two's complement. -/
theorem atomicOperationTable : Obligations.AtomicOperationTable := by
  unfold Obligations.AtomicOperationTable
  intro n _ old b hold hb w sg
  have hsg (v : Nat) : signedN (8 * n) v = sg v := IntegerWords.signedN_eq_toInt (8 * n) v
  refine ⟨rfl, rfl, ?_, rfl, ?_, rfl, rfl, rfl, rfl, rfl, ?_, ?_⟩
  · change sg (if signedN (8 * n) old ≤ signedN (8 * n) b then old else b) = _
    rw [hsg, hsg, apply_ite sg, min_def]
  · change sg (if signedN (8 * n) b ≤ signedN (8 * n) old then old else b) = _
    rw [hsg, hsg, apply_ite sg, max_comm, max_def]
  · change (if b ≤ old then 0 else (old + 1) % 2 ^ (8 * n)) = _
    split
    · rfl
    · exact Nat.mod_eq_of_lt (by omega)
  · rfl

/-! ### Fences, monitors and cache maintenance -/

/-- Translation of an address behind a leaf that passes the checks (R161, R164, R386). -/
theorem translate_of_mapped {s : State} {h va : Nat} {wr : Bool} {lf : Leaf} (hm : Mapped s h va wr lf) (n : Nat) :
    Machine.translate s h va n wr = .ok (.mem lf) := by
  obtain ⟨hwin, hwalk, hhank, hown, hwrite, hpa⟩ := hm
  have hw : (wr && !pteW lf.pte) = false := by
    cases wr with
    | false => rfl
    | true => simp [hwrite rfl]
  simp only [Machine.translate, hwin, hwalk, checkLeaf, hhank, hown, hw, Nat.not_le.2 hpa, ne_eq, not_true_eq_false, ↓reduceIte, Bool.not_true,
    Bool.and_false, Bool.false_and, Bool.false_eq_true]

/-- Settles O13: each word's body, where it does not stop. -/
theorem fenceMonitorCacheWordsComplete : Obligations.FenceMonitorCacheWordsComplete := by
  unfold Obligations.FenceMonitorCacheWordsComplete
  intro x
  refine ⟨gives_of (fun _ => rfl) fun _ _ => rfl, gives_of (fun _ => rfl) fun _ _ => rfl, gives_of (fun _ => rfl) fun _ _ => rfl,
    fun lf => givesIf_of (fun _ => rfl) fun u c hm => ?_, givesIf_of (fun _ => rfl) fun u c hm => ?_,
    fun m => givesIf_of (fun _ => rfl) fun u c hm => ?_, fun m s c h hm => ?_,
    givesLanes_of (fun _ => rfl) fun u c _ hr => if_neg (by simpa using hr),
    givesLanes_of (fun _ => rfl) fun u c _ hr => if_neg (by simpa using hr)⟩
  · simp only [hm.1, translate_of_mapped hm, Option.isSome_none, Bool.false_eq_true, ↓reduceIte]
  · simp only [hm]
  · simp only [hm.1, hm.2, ↓reduceIte]
  · obtain ⟨harmed, hwait⟩ := hm
    refine (issue_finish (i := .mwait x) h).trans ?_
    simp only [harmed, hwait, Bool.false_eq_true, ↓reduceIte]
    rfl

end Sys2Proof.MemoryWords
end

section
/-! SUPPORT. One lane's access (07 R161 to R164, R251, 20 R386, R390), check by check. -/

namespace Sys2Proof.LaneAccesses

open Sys2Proof Sys2Proof.Machine Sys2Proof.Laws Sys2Proof.MemoryWords

/-! ### Translation -/

section
variable {s : State} {h va : Nat} {wr : Bool} {lf : Leaf}

/-- An address outside the aperture that no table maps (R386). -/
theorem translate_of_unmapped (n : Nat) (hwin : windowAt va = none) (hw : walkFor s h va wr = .fault) :
    Machine.translate s h va n wr = .fault .pageFault 0 := by
  simp only [Machine.translate, hwin, hw]

/-- An address outside the aperture behind a leaf meets the leaf's checks (R386). -/
theorem translate_of_leaf (n : Nat) (hwin : windowAt va = none) (hw : walkFor s h va wr = .leaf lf) :
    Machine.translate s h va n wr = checkLeaf s h va lf wr := by
  simp only [Machine.translate, hwin, hw]

/-- Another hank's page (R161). -/
theorem checkLeaf_of_otherHank (hk : pteHank lf.pte ≠ h) : checkLeaf s h va lf wr = .fault .protection 0 := if_pos hk

/-- A host-owned page that a read meets (R164, R438). -/
theorem checkLeaf_of_hostOwned (hk : pteHank lf.pte = h) (hown : pteOwn lf.pte = false) :
    checkLeaf s h va lf false = if asksHost s h va then .migrate else .fault .migrated 0 := by
  simp [checkLeaf, hk, hown]

/-- A page that may not be written (R161). -/
theorem checkLeaf_of_readOnly (hk : pteHank lf.pte = h) (hown : pteOwn lf.pte = true) (hw : pteW lf.pte = false) :
    checkLeaf s h va lf true = .fault .protection 1 := by
  simp [checkLeaf, hk, hown, hw]

/-! ### What is in the way -/

/-- Nothing is folded where there is no partial sum (R177). -/
theorem foldRange_of_noPartials (hp : s.partials = []) (pa n : Nat) : foldRange s pa n = s := if_pos (by simp [hp])

/-- No copy is evicted for its corruption where none is corrupted (R339). -/
theorem evictCopy_of_clean (hc : s.corrupt = []) (cl line : Nat) : evictCopy s cl line = s := if_neg (by simp [hc])

/-- Nothing read is poisoned where nothing is (R421). -/
theorem poisonOfRead_of_none (hp : s.poison = []) (h p pa n : Nat) : poisonOfRead s h p pa n = none := if_pos (by simp [hp])

/-- A gauge that is off passes every write as it is (R268). -/
theorem gaugeCheck_of_off (hg : (gaugeOf s h (pteGidx lf.pte)).mode = 0) (w : Nat) (bs : Bytes) (trap : Bool) :
    gaugeCheck s w h lf bs trap = (s, some bs) := by
  simp [gaugeCheck, Gauge.check, hg]

/-- A write that passes the ply's checks (R163, R251, R361). -/
theorem writePly_of_passing {ply : Nat} (hver : storePly (hankOf s h) ply va ≠ 0 → pteVer lf.pte = true) (hwp : wpHolds s h lf = false)
    (hslot : slotFor s h (storePly (hankOf s h) ply va) (lineOf lf.pa) = true) :
    writePly s h ply va lf = .to (storePly (hankOf s h) ply va) := by
  have hv : ¬(storePly (hankOf s h) ply va ≠ 0 ∧ (!pteVer lf.pte) = true) := fun ⟨hq, hf⟩ => by simp [hver hq] at hf
  simp only [writePly, if_neg hv, hwp, hslot, Bool.not_true, Bool.false_eq_true, ↓reduceIte]

/-- A write into a ply of a page without versions (R251). -/
theorem writePly_of_escape {ply : Nat} (hq : storePly (hankOf s h) ply va ≠ 0) (hver : pteVer lf.pte = false) :
    writePly s h ply va lf = .fault .versionEscape := if_pos ⟨hq, by simp [hver]⟩

end

/-! ### Loads and stores -/

section
variable {s : State} {c : Ctx} {va n cl : Nat} {sp : Space} {lf : Leaf} {bs : Bytes} (l : Nat)

theorem loadLane_of_misaligned (ha : va % n ≠ 0) : loadLane s c l va n sp cl = .stop (laneFault l .misalign (BitVec.ofNat 64 va) false sp) :=
  if_pos ha

/-- An aligned load that stops at its translation. -/
theorem loadLane_of_fault {e : Cause} {d : Nat} (ha : va % n = 0) (ht : Machine.translate s c.v.hank va n false = .fault e d) :
    loadLane s c l va n sp cl = .stop (laneFault l e (BitVec.ofNat 64 va) false sp d) := by
  simp only [loadLane, ha, ht, ne_eq, not_true_eq_false, ↓reduceIte]

/-- An aligned load of a mapped page, where nothing is folded, poisoned, corrupted or behind GDDR 7 (R161, R390). -/
theorem loadLane_of_mapped (ha : va % n = 0) (hm : Mapped s c.v.hank va false lf) (hpart : s.partials = []) (hpois : s.poison = [])
    (hc : s.corrupt = []) (hd : ∀ t ∈ s.stale, t.dirty = true) :
    loadLane s c l va n sp cl = .go (markUsed s c.v.hank lf false) (readBytes s c.v.hank (readPly lf c.v.ply) lf.pa n) := by
  simp only [loadLane, ha, translate_of_mapped hm, foldRange_of_noPartials hpart, evictCopy_of_clean hc, poisonOfRead_of_none hpois,
    Steps.loadBytes_of_clean hc hd, ne_eq, not_true_eq_false, ↓reduceIte]

theorem storeLane_of_misaligned (ha : va % bs.length ≠ 0) :
    storeLane s c l va bs = .stop (laneFault l .misalign (BitVec.ofNat 64 va) true .global) := if_pos ha

/-- An aligned store that stops at its translation. -/
theorem storeLane_of_fault {e : Cause} {d : Nat} (ha : va % bs.length = 0) (ht : Machine.translate s c.v.hank va bs.length true = .fault e d) :
    storeLane s c l va bs = .stop (laneFault l e (BitVec.ofNat 64 va) true .global d) := by
  simp only [storeLane, ha, ht, ne_eq, not_true_eq_false, ↓reduceIte]

/-- An aligned store that stops at the checks of its ply. -/
theorem storeLane_of_plyFault {e : Cause} (ha : va % bs.length = 0) (hm : Mapped s c.v.hank va true lf)
    (hw : writePly s c.v.hank c.v.ply va lf = .fault e) :
    storeLane s c l va bs = .stop (laneFault l e (BitVec.ofNat 64 va) true .global) := by
  simp only [storeLane, ha, translate_of_mapped hm, hw, ne_eq, not_true_eq_false, ↓reduceIte]

/-- An aligned store to a mapped page whose gauge is off, where nothing is folded (R163, R390). -/
theorem storeLane_of_mapped {q : Nat} (ha : va % bs.length = 0) (hm : Mapped s c.v.hank va true lf)
    (hw : writePly s c.v.hank c.v.ply va lf = .to q) (hpart : s.partials = []) (hg : (gaugeOf s c.v.hank (pteGidx lf.pte)).mode = 0) :
    storeLane s c l va bs = .go (writeLeaf s (some c.w) c.v.hank q lf bs) (sigOf (BitVec.ofNat 64 va) bs) := by
  simp only [storeLane, ha, translate_of_mapped hm, hw, foldRange_of_noPartials hpart, gaugeCheck_of_off hg, ne_eq, not_true_eq_false,
    ↓reduceIte]

end

/-- Settles O14: a lane's load and its store, check by check. -/
theorem laneAccessRules : Obligations.LaneAccessRules := by
  unfold Obligations.LaneAccessRules
  refine ⟨fun s c l va n cl sp _ => ⟨loadLane_of_misaligned l, fun ha hwin => ⟨fun hw => ?_, fun lf hw => ⟨fun hk => ?_, fun hk hown => ?_⟩, ?_⟩⟩,
    fun s c l va bs lf _ => ?_⟩
  · exact loadLane_of_fault l ha (translate_of_unmapped n hwin hw)
  · exact loadLane_of_fault l ha ((translate_of_leaf n hwin hw).trans (checkLeaf_of_otherHank hk))
  · have ht : Machine.translate s c.v.hank va n false = if asksHost s c.v.hank va then .migrate else .fault .migrated 0 :=
      (translate_of_leaf n hwin hw).trans (checkLeaf_of_hostOwned hk hown)
    split
    · next hask => simp only [loadLane, ha, ht, hask, ne_eq, not_true_eq_false, ↓reduceIte]
    · next hask => exact loadLane_of_fault l ha (by rw [ht, if_neg hask])
  · exact fun lf hm hpart hpois hc hd => loadLane_of_mapped l ha hm hpart hpois hc hd
  · refine ⟨storeLane_of_misaligned l, fun ha hwin hw hk hown hro => ?_, fun ha hm hq hver => ?_, fun ha hm hver hwp hslot hpart hg => ?_⟩
    · exact storeLane_of_fault l ha ((translate_of_leaf bs.length hwin hw).trans (checkLeaf_of_readOnly hk hown hro))
    · exact storeLane_of_plyFault l ha hm (writePly_of_escape hq hver)
    · rw [storeLane_of_mapped l ha hm (writePly_of_passing hver hwp hslot) hpart hg]
      simp only [writeLeaf, pteCached, Bool.and_eq_true, decide_eq_true_eq, bne_iff_ne]

end Sys2Proof.LaneAccesses
end

section
/-! SUPPORT. What the caches do by themselves (18 R356 to R361), as a frame: where nothing is poisoned and no home copy is older than GDDR 7,
lines that enter and leave them change no byte that the home slices read. -/

namespace Sys2Proof.CacheFrames

open Sys2Proof Sys2Proof.Machine Sys2Proof.Laws

/-- A state without what its caches hold, and without the draws of their replacements. -/
def withoutCaches (s : State) : State := { s with l1 := [], l2 := [], skein := [], corrupt := [], stale := [], fresh := 0 }

/-- Nothing is poisoned (R421), and every line whose GDDR 7 bytes differ from its home copy is dirty (R387). -/
structure HomesAhead (s : State) : Prop where
  poison : s.poison = []
  dirty : ∀ t ∈ s.stale, t.dirty = true

/-- `t` is `s` but for its caches, and no more lines are dirty. -/
structure CacheStep (s t : State) : Prop where
  same : withoutCaches t = withoutCaches s
  stale : ∀ x ∈ t.stale, x ∈ s.stale

section
variable {s t u : State}

theorem CacheStep.refl (s : State) : CacheStep s s := ⟨rfl, fun _ => id⟩

theorem CacheStep.trans (h : CacheStep s t) (h' : CacheStep t u) : CacheStep s u := ⟨h'.same.trans h.same, fun x hx => h.stale x (h'.stale x hx)⟩

theorem CacheStep.homes (h : CacheStep s t) (hs : HomesAhead s) : HomesAhead t where
  poison := (congrArg State.poison h.same).trans hs.poison
  dirty x hx := hs.dirty x (h.stale x hx)

/-- A step that follows one, in a state that is as good. -/
theorem CacheStep.step (h : CacheStep s t) (hs : HomesAhead s) (h' : HomesAhead t → CacheStep t u) : CacheStep s u := h.trans (h' (h.homes hs))

/-- Steps over a list. -/
theorem CacheStep.foldl {α : Type} {f : State → α → State} (hf : ∀ s a, HomesAhead s → CacheStep s (f s a)) (as : List α)
    (hs : HomesAhead s) : CacheStep s (as.foldl f s) := by
  induction as generalizing s with
  | nil => exact .refl s
  | cons a as ih => exact (hf s a hs).step hs ih

end

/-! ### Lines that leave -/

section
variable {s : State} (hs : HomesAhead s)
include hs

/-- No line is poisoned. -/
theorem linePoison_eq_none (line : Nat) : linePoison s line = none :=
  List.findSome?_eq_none_iff.2 fun k _ => by simp [poisonAt, hs.poison]

/-- A line written back is dirty no more (R182). -/
theorem writeBack_eq (line : Nat) : writeBack s line = { s with stale := s.stale.filter fun t => t.line != line } := by
  unfold writeBack
  split
  · have hclean : HomesAhead { s with stale := s.stale.filter fun t => t.line != line } :=
      ⟨hs.poison, fun t ht => hs.dirty t (List.mem_filter.1 ht).1⟩
    simp only [notePoisoned, linePoison_eq_none hclean]
  · next h =>
    have hall : (s.stale.filter fun t => t.line != line) = s.stale := List.filter_eq_self.2 fun t ht => by
      simp only [List.any_eq_true, Bool.and_eq_true, beq_iff_eq, not_exists, not_and] at h
      simpa using fun e => h t ht e (hs.dirty t ht)
    rw [hall]

/-- A root line that leaves its last cache is dirty no more, and no byte of it is lost (R356, R360). -/
theorem leaveCache_eq (line : Nat) : leaveCache s line = { s with stale := s.stale.filter fun t => t.line != line } := by
  have hnone : ((s.stale.filter fun t => t.line != line).find? fun t => t.line == line) = none :=
    List.find?_eq_none.2 fun t ht => by simpa using (List.mem_filter.1 ht).2
  simp only [leaveCache, writeBack_eq hs, forgetHome, hnone, ite_self]

theorem CacheStep.leaveCache (line : Nat) : CacheStep s (leaveCache s line) := by
  rw [leaveCache_eq hs]
  exact ⟨rfl, fun _ hx => (List.mem_filter.1 hx).1⟩

omit hs in
theorem CacheStep.dropL1 (cl : Option Nat) (h p line : Nat) : CacheStep s (dropL1 s cl h p line) := ⟨rfl, fun _ => id⟩

omit hs in
/-- A draw among lines names one of them, and uses up a free value. -/
theorem chooseVictim_spec {α : Type} {es : List α} {t : State} {o : Option α} (h : chooseVictim s es = (t, o)) :
    CacheStep s t ∧ t.l1 = s.l1 ∧ ∀ x, o = some x → x ∈ es := by
  cases es with
  | nil =>
    cases h
    exact ⟨.refl s, rfl, fun _ h => by cases h⟩
  | cons e es =>
    cases h
    exact ⟨⟨rfl, fun _ => id⟩, rfl, fun _ h => List.mem_of_getElem? h⟩

theorem CacheStep.evictSkein (e : CacheLine) : CacheStep s (evictSkein s e) := by
  have hout : CacheStep s { s with skein := s.skein.filter fun x => x != e } := ⟨rfl, fun _ => id⟩
  unfold Machine.evictSkein
  dsimp only
  split
  · exact hout.step hs fun hs => .leaveCache hs _
  · exact hout

theorem CacheStep.placeSkein (e : CacheLine) : CacheStep s (placeSkein s e) := by
  unfold Machine.placeSkein
  dsimp only
  split
  · split
    · exact .leaveCache hs _
    · exact .refl s
  · split
    · exact .refl s
    · have hin : CacheStep s { s with skein := e :: s.skein } := ⟨rfl, fun _ => id⟩
      split
      · exact hin
      · split
        · exact hin
        · split
          · next hv => exact (hin.trans (chooseVictim_spec hv).1).step hs fun hs => .evictSkein hs _
          · next hv => exact hin.trans (chooseVictim_spec hv).1

theorem CacheStep.evictL2 (e : CacheLine) : CacheStep s (evictL2 s e) := by
  have hout : CacheStep s (Machine.dropL1 { s with l2 := s.l2.filter fun x => x != e } none e.hank e.ply e.line) := ⟨rfl, fun _ => id⟩
  exact hout.step hs fun hs => .placeSkein hs e

/-! ### Lines that enter -/

theorem CacheStep.placeL2 (h p line : Nat) : CacheStep s (placeL2 s h p line) := by
  have taken {t : State} (e : CacheLine) (ht : CacheStep s t) : CacheStep s { t with l2 := e :: t.l2 } := ⟨ht.same, ht.stale⟩
  unfold Machine.placeL2
  dsimp only
  split
  · exact .refl s
  · split
    · exact taken _ (.refl s)
    · split
      · exact .placeSkein hs _
      · refine taken _ ?_
        split
        · next hv => exact (chooseVictim_spec hv).1.step hs fun hs => .evictL2 hs _
        · next hv => exact (chooseVictim_spec hv).1

theorem CacheStep.cacheRoot (h line : Nat) : CacheStep s (cacheRoot s h line) := by
  have hplace := CacheStep.placeL2 hs h 0 line
  unfold Machine.cacheRoot
  split
  · exact .refl s
  · dsimp only
    split
    · exact hplace
    · exact hplace.step hs fun hs => .leaveCache hs line

omit hs in
theorem CacheStep.placeL1 (e : L1Line) : CacheStep s (placeL1 s e) := by
  have laid (es : List L1Line) : CacheStep s { s with l1 := es } := ⟨rfl, fun _ => id⟩
  unfold Machine.placeL1
  dsimp only
  split
  · exact laid _
  · split
    · next hv => exact ((laid _).trans (chooseVictim_spec hv).1).trans (.dropL1 _ _ _ _)
    · next hv => exact (laid _).trans (chooseVictim_spec hv).1

/-- The L2 takes a line that it may hold. -/
theorem CacheStep.byL2 (pte : DWord) (h p line : Nat) : CacheStep s (if byL2 pte p then Machine.placeL2 s h p line else s) := by
  split
  · exact .placeL2 hs h p line
  · exact .refl s

theorem CacheStep.fillLine (cl h p line : Nat) (pte : DWord) (rc : Nat) (hits : Bool) : CacheStep s (fillLine s cl h p line pte rc hits) := by
  have hL2 := CacheStep.byL2 hs pte h p line
  unfold Machine.fillLine
  dsimp only
  set t := if Machine.byL2 pte p then Machine.placeL2 s h p line else s
  split
  · exact hL2
  · split
    · split
      · exact hL2
      · split
        · exact hL2.trans (.dropL1 _ _ _ _)
        · exact hL2.trans ⟨rfl, fun _ => id⟩
    · exact hL2.trans (.placeL1 _)

theorem CacheStep.ownLine (cl h p line : Nat) (pte : DWord) (rc : Nat) : CacheStep s (ownLine s cl h p line pte rc) := by
  have hL2 := CacheStep.byL2 hs pte h p line
  unfold Machine.ownLine
  dsimp only
  set t := if Machine.byL2 pte p then Machine.placeL2 s h p line else s
  split
  · exact hL2
  · exact hL2.trans (.placeL1 _)

/-- The caches after a word's accesses (R162, R356 to R358). -/
theorem CacheStep.touch (c : Ctx) (rc : Nat) (wr hits : Bool) (ls : List (Nat × Nat × DWord)) : CacheStep s (c.touch s rc wr hits ls) := by
  refine .foldl (fun t p ht => ?_) ls hs
  split
  · exact .ownLine ht _ _ _ _ _ _
  · exact .fillLine ht _ _ _ _ _ _ _

omit hs in
theorem CacheStep.evictCopy (cl line : Nat) : CacheStep s (evictCopy s cl line) := by
  unfold Machine.evictCopy
  split
  · exact .dropL1 _ _ _ _
  · exact .refl s

end

end Sys2Proof.CacheFrames
end

section
/-! SUPPORT. Where lines live (18 R354), and what a load makes of its cluster's copy (07 R162, 18 R358). -/

namespace Sys2Proof.LineMaps

open Sys2Proof Sys2Proof.Machine Sys2Proof.Laws Sys2Proof.CacheFrames

/-! ### The maps of R354 -/

/-- A field of a value as a number. -/
theorem toNat_extractLsb'_eq {w : Nat} (la : BitVec w) (lo n : Nat) : (la.extractLsb' lo n).toNat = la.toNat / 2 ^ lo % 2 ^ n := by
  rw [BitVec.extractLsb'_toNat, Nat.shiftRight_eq_div_pow]

section
variable (s : State) (la : BitVec 45)

/-- The home of a line is the tile at the place that the xor of its address gives (R354). -/
theorem homeTile_eq (hne : tiles s ≠ []) :
    (tiles s)[(la.extractLsb' 0 16 ^^^ la.extractLsb' 16 16 ^^^ (la.extractLsb' 32 13).setWidth 16).toNat % (tiles s).length]?
      = some (homeTile s la.toNat) := by
  have hlt : 0 < (tiles s).length := List.length_pos_iff.2 hne
  have hx : (la.extractLsb' 0 16 ^^^ la.extractLsb' 16 16 ^^^ (la.extractLsb' 32 13).setWidth 16).toNat
      = (la.toNat % 2 ^ 16) ^^^ (la.toNat / 2 ^ 16 % 2 ^ 16) ^^^ (la.toNat / 2 ^ 32 % 2 ^ 13) := by
    simp only [BitVec.toNat_xor, BitVec.toNat_setWidth, toNat_extractLsb'_eq, pow_zero, Nat.div_one]
    rw [Nat.mod_eq_of_lt (a := la.toNat / 2 ^ 32 % 2 ^ 13) (by omega)]
  rw [hx, homeTile, List.getD_eq_getElem?_getD, List.getElem?_eq_getElem (Nat.mod_lt _ hlt), Option.getD_some]

/-- A cluster keeps a line in the slice of one of its own cores, that of bits 1:0 and 7:6 (R354). -/
theorem sliceTile_spec (cl : Nat) :
    clusterOf (sliceTile cl la.toNat) = cl
    ∧ let k := (la.extractLsb' 0 2 ^^^ la.extractLsb' 6 2).toNat
      sliceTile cl la.toNat / 14 % 2 = k / 2 ∧ sliceTile cl la.toNat % 14 % 2 = k % 2 := by
  have hk : (la.extractLsb' 0 2 ^^^ la.extractLsb' 6 2).toNat = (la.toNat % 4) ^^^ (la.toNat / 64 % 4) := by
    simp only [BitVec.toNat_xor, toNat_extractLsb'_eq, pow_zero, Nat.div_one]
    rfl
  have hlt : (la.extractLsb' 0 2 ^^^ la.extractLsb' 6 2).toNat < 4 := BitVec.isLt _
  simp only [clusterOf, sliceTile, ← hk]
  generalize (la.extractLsb' 0 2 ^^^ la.extractLsb' 6 2).toNat = k at hlt
  refine ⟨?_, ?_, ?_⟩ <;> omega

/-- The channel of a line is the xor of its address's groups of four bits (R354). -/
theorem channelOf_eq : channelOf la.toNat
    = (la.extractLsb' 2 4 ^^^ la.extractLsb' 6 4 ^^^ la.extractLsb' 10 4 ^^^ la.extractLsb' 14 4).toNat := by
  simp only [channelOf, BitVec.toNat_xor, toNat_extractLsb'_eq, Nat.div_div_eq_div_mul]
  rfl

end

/-! ### Counted copies -/

/-- Being one line does not depend on which of the two is asked. -/
theorem sameLine_comm (h p line h' p' line' : Nat) : sameLine h p line h' p' line' = sameLine h' p' line' h p line := by
  rw [Bool.eq_iff_iff]
  simp only [sameLine, Bool.and_eq_true, Bool.or_eq_true, beq_iff_eq]
  constructor
  · rintro ⟨⟨rfl, rfl⟩, hh⟩
    exact ⟨⟨rfl, rfl⟩, hh.imp_right Eq.symm⟩
  · rintro ⟨⟨rfl, rfl⟩, hh⟩
    exact ⟨⟨rfl, rfl⟩, hh.imp_right Eq.symm⟩

theorem sameLine_self (h p line : Nat) : sameLine h p line h p line = true := by simp [sameLine]

/-- A line stays where another line's copies are dropped. -/
theorem mem_dropL1_of_other {t : State} {e x : L1Line} (he : e ∈ t.l1)
    (hx : (x.cluster == e.cluster && sameLine e.hank e.ply e.line x.hank x.ply x.line) = false) :
    e ∈ (dropL1 t (some x.cluster) x.hank x.ply x.line).l1 := by
  refine List.mem_filter.2 ⟨he, ?_⟩
  change (!(e.cluster == x.cluster && sameLine x.hank x.ply x.line e.hank e.ply e.line)) = true
  rw [sameLine_comm, BEq.comm, hx]
  rfl

/-- A line that an L1 slice takes lies there, whichever line makes room: that one is another (R356). -/
theorem mem_placeL1 (s : State) (e : L1Line) : e ∈ (placeL1 s e).l1 := by
  unfold placeL1
  dsimp only
  split
  · exact List.mem_cons_self
  · split
    · next t x hv =>
      obtain ⟨-, hl1, hx⟩ := chooseVictim_spec hv
      have hx' : x ∈ (e :: s.l1.filter fun x => !(x.cluster == e.cluster && sameLine e.hank e.ply e.line x.hank x.ply x.line)).filter
          fun x => x != e && sliceTile x.cluster x.line == sliceTile e.cluster e.line && Config.l1Set x.line % 128 == Config.l1Set e.line % 128 := by
        have := hx x rfl
        split at this
        · exact (List.mem_filter.1 this).1
        · split at this
          · exact this
          · cases this
      obtain ⟨hmem, hne⟩ := List.mem_filter.1 hx'
      refine mem_dropL1_of_other (hl1 ▸ List.mem_cons_self) ?_
      rcases List.mem_cons.1 hmem with rfl | hmem
      · simp at hne
      · exact Bool.not_eq_true' _ ▸ (List.mem_filter.1 hmem).2
    · next t hv => exact (chooseVictim_spec hv).2.1 ▸ List.mem_cons_self

section
variable {s : State} {cl h p line rc : Nat} {pte : DWord}

/-- The copies of a line that a cluster's L1 holds. -/
def isCopy (cl h p line : Nat) (e : L1Line) : Bool := e.cluster == cl && sameLine h p line e.hank e.ply e.line

/-- A line goes through both caches, and its L2 home slice lists it already (R355, R356). -/
structure Listed (s : State) (h p line rc : Nat) (pte : DWord) : Prop where
  home : (s.l2.any fun e => sameLine h p line e.hank e.ply e.line) = true
  near : byL1 pte p (loadRc pte rc) = true
  far : byL2 pte p = true

/-- A line that its L2 home slice lists stays as it is there. -/
theorem placeL2_of_listed (hl2 : (s.l2.any fun e => sameLine h p line e.hank e.ply e.line) = true) : placeL2 s h p line = s := by
  unfold placeL2
  simp only [hl2, Bool.or_true, ↓reduceIte]

/-- A load of a listed line that hits its cluster's copy: it lowers a count, and drops the copy at zero (R162, R358). -/
theorem fillLine_of_hit (hs : Listed s h p line rc pte) {e : L1Line} (hf : s.l1.find? (isCopy cl h p line) = some e) :
    fillLine s cl h p line pte rc true =
      if e.count = 0 then s
      else if e.count = 1 then dropL1 s (some cl) h p line
      else { s with l1 := s.l1.map fun x => if x = e then { x with count := e.count - 1 } else x } := by
  have hplace : placeL2 s h p line = s := placeL2_of_listed hs.home
  have hin : inL2 s h p line = true := by simp [inL2, hs.home]
  have hf' : (s.l1.find? fun e => e.cluster == cl && sameLine h p line e.hank e.ply e.line) = some e := hf
  simp only [fillLine, hs.far, hplace, hs.near, hin, hf', ↓reduceIte, Bool.not_true, Bool.or_self, Bool.false_eq_true, Bool.false_or,
    decide_eq_true_eq]

/-- A load of a listed line that misses in its cluster: a copy enters, with the count that RC gives (R162). -/
theorem fillLine_of_miss (hs : Listed s h p line rc pte) (hf : s.l1.find? (isCopy cl h p line) = none) :
    fillLine s cl h p line pte rc true = placeL1 s
      { cluster := cl, hank := h, ply := p, line := line, count := if 1 ≤ loadRc pte rc ∧ loadRc pte rc ≤ 6 then loadRc pte rc else 0
        owned := false } := by
  have hplace : placeL2 s h p line = s := placeL2_of_listed hs.home
  have hin : inL2 s h p line = true := by simp [inL2, hs.home]
  have hf' : (s.l1.find? fun e => e.cluster == cl && sameLine h p line e.hank e.ply e.line) = none := hf
  simp only [fillLine, hs.far, hplace, hs.near, hin, hf', ↓reduceIte, Bool.not_true, Bool.or_self, Bool.false_eq_true]

/-- Either way only the caches change. -/
theorem fillLine_cacheStep (hs : Listed s h p line rc pte) : CacheStep s (fillLine s cl h p line pte rc true) := by
  cases hf : s.l1.find? (isCopy cl h p line) with
  | some e =>
    rw [fillLine_of_hit hs hf]
    split
    · exact .refl s
    · split
      · exact .dropL1 _ _ _ _
      · exact ⟨rfl, fun _ => id⟩
  | none =>
    rw [fillLine_of_miss hs hf]
    exact .placeL1 _

/-- A copy that is dropped is gone. -/
theorem isCopy_of_mem_dropL1 {x : L1Line} (hx : x ∈ (dropL1 s (some cl) h p line).l1) : isCopy cl h p line x = false := by
  simpa [isCopy, or_iff_not_imp_left] using (List.mem_filter.1 hx).2

end

/-- Settles O56: the maps bit by bit, and a load of a listed line by what its cluster holds of it. -/
theorem linesFollowTheirMaps : Obligations.LinesFollowTheirMaps := by
  unfold Obligations.LinesFollowTheirMaps
  refine ⟨fun s la hne => ?_, fun cl la _ => sliceTile_spec la cl, channelOf_eq, fun s cl h p line rc pte hl2 h1 h2 => ?_⟩
  · exact ⟨List.mem_of_getElem? (homeTile_eq s la hne), homeTile_eq s la hne⟩
  · intro copy t
    have hs : Listed s h p line rc pte := ⟨hl2, h1, h2⟩
    have hcache : CacheStep s t := fillLine_cacheStep hs
    refine ⟨(congrArg State.mem hcache.same :), (congrArg State.versions hcache.same :), fun e hf => ?_, fun hf => ?_⟩
    · have ht : t = _ := fillLine_of_hit hs hf
      refine ⟨fun h0 => ?_, fun h1 x hx => ?_, fun h1 => ?_⟩
      · rw [ht, if_pos h0]
      · rw [ht, if_neg (by omega), if_pos h1] at hx
        exact isCopy_of_mem_dropL1 hx
      · rw [ht, if_neg (by omega), if_neg (by omega)]
    · have ht : t = _ := fillLine_of_miss hs hf
      rw [ht]
      exact ⟨_, mem_placeL1 s _, by simp [copy, sameLine_self], rfl, rfl⟩

end Sys2Proof.LineMaps
end

section
/-! SUPPORT. What an access writes, as a frame (07 R161 to R163, R172, 18 R356, 20 R390): the bytes it may write, the parts of the state that it
may change beside them, and the order in which memory stands ready for the next one. -/

namespace Sys2Proof.AccessFrames

open Sys2Proof Sys2Proof.Machine Sys2Proof.Laws Sys2Proof.CacheFrames

/-! ### The parts an access may change -/

/-- A wave without its monitor, the region that watches its lines, its failed gauges and its drowsy banks. -/
def settledWave (v : Wave) : Wave := { v with monitor := none, region := none, gst := 0, drowsy := [] }

/-- A hank without its gauges, its plies' logs, its held translations and the pages being moved. -/
def settledHank (k : Hank) : Hank := { k with gauges := Vector.replicate 16 Gauge.off, plies := [], tlb := [], nodes := [], moves := [] }

/-- A state without what an access at the home slices may change: root memory, the caches, and what watches or translates them. -/
def withoutHome (s : State) : State :=
  { withoutCaches s with mem := [], waves := s.waves.map settledWave, hanks := s.hanks.map settledHank }

/-- The same without the versions of lines. -/
def withoutVersions (s : State) : State := { withoutHome s with versions := [] }

/-- The same without the teams' scratch. -/
def withoutScratch (s : State) : State := { withoutVersions s with teams := [] }

/-- Homes are ahead of GDDR 7, and memory is in canonical form. -/
structure Ready (s : State) : Prop extends HomesAhead s where
  wf : s.mem.wf = true

/-- `t` is `s` but for what `E` leaves out, and of root memory but for the bytes `A`; memory stands ready. -/
structure Effect (E : State → State) (A : Nat → Prop) (s t : State) : Prop where
  same : E t = E s
  ready : Ready t
  mem : ∀ a, ¬A a → t.mem.read a = s.mem.read a

section
variable {E E' : State → State} {A B : Nat → Prop} {s t u : State}

theorem Effect.refl (hs : Ready s) : Effect E A s s := ⟨rfl, hs, fun _ _ => rfl⟩

theorem Effect.trans (h : Effect E A s t) (h' : Effect E A t u) : Effect E A s u :=
  ⟨h'.same.trans h.same, h'.ready, fun a ha => (h'.mem a ha).trans (h.mem a ha)⟩

theorem Effect.mono (h : Effect E A s t) (hAB : ∀ a, A a → B a) : Effect E B s t := ⟨h.same, h.ready, fun a ha => h.mem a (mt (hAB a) ha)⟩

/-- The same where more is left out. -/
theorem Effect.coarsen (h : Effect E A s t) (g : State → State) (hg : ∀ s, E' s = g (E s)) : Effect E' A s t :=
  ⟨by rw [hg, hg, h.same], h.ready, h.mem⟩

theorem Effect.versions (h : Effect withoutHome A s t) : Effect withoutVersions A s t := h.coarsen (fun x => { x with versions := [] }) fun _ => rfl

theorem Effect.scratch (h : Effect withoutVersions A s t) : Effect withoutScratch A s t := h.coarsen (fun x => { x with teams := [] }) fun _ => rfl

/-- A change of what `E` leaves out, and not of memory, its poison or what GDDR 7 lacks. -/
theorem Effect.of_eq (hs : Ready s) (hE : E t = E s) (hm : (t.mem, t.stale, t.poison) = (s.mem, s.stale, s.poison)) : Effect E A s t := by
  simp only [Prod.mk.injEq] at hm
  obtain ⟨hmem, hstale, hpoison⟩ := hm
  exact ⟨hE, ⟨⟨hpoison.trans hs.poison, hstale ▸ hs.dirty⟩, hmem ▸ hs.wf⟩, fun _ _ => by rw [hmem]⟩

/-- What the caches do by themselves. -/
theorem Effect.of_caches (hs : Ready s) (h : CacheStep s t) : Effect withoutHome A s t := by
  have hmem : t.mem = s.mem := (congrArg State.mem h.same :)
  exact ⟨congrArg (fun x : State => { x with mem := [], waves := x.waves.map settledWave, hanks := x.hanks.map settledHank }) h.same,
    ⟨h.homes hs.toHomesAhead, hmem ▸ hs.wf⟩, fun _ _ => by rw [hmem]⟩

end

/-! ### Waves and hanks -/

section
variable {s : State}

/-- A change of waves in settled parts. -/
theorem withoutHome_of_waves {ws : List Wave} (h : ws.map settledWave = s.waves.map settledWave) :
    withoutHome { s with waves := ws } = withoutHome s := by
  simp only [withoutHome, withoutCaches, h]

/-- A change of one wave in settled parts. -/
theorem withoutHome_modWave (w : Nat) {f : Wave → Wave} (hf : ∀ v, settledWave (f v) = settledWave v) :
    withoutHome (modWave s w f) = withoutHome s := by
  refine withoutHome_of_waves ?_
  refine List.ext_getElem? fun k => ?_
  simp only [List.getElem?_map, List.getElem?_modify]
  split
  · cases s.waves[k]? with
    | none => rfl
    | some v => simp [hf]
  · simp

/-- A change of one hank in settled parts. -/
theorem withoutHome_modHank (h : Nat) {f : Hank → Hank} (hf : ∀ k, settledHank (f k) = settledHank k) :
    withoutHome (modHank s h f) = withoutHome s := by
  have hh : (modHank s h f).hanks.map settledHank = s.hanks.map settledHank := by
    refine Vector.ext fun i hi => ?_
    rw [Vector.getElem_map, Vector.getElem_map, modHank_hanks, Vector.getElem_setIfInBounds]
    split
    · next heq =>
      subst heq
      simp [hf, hankOf, hi]
    · rfl
  simp only [withoutHome, hh]
  rfl

/-- A monitor that triggers (R179). -/
theorem settledWave_trigger (line : Nat) (v : Wave) : settledWave (v.trigger line) = settledWave v := by
  unfold Wave.trigger
  split
  · split <;> rfl
  · rfl

/-- A write that monitors and regions see (R179, R257). -/
theorem withoutHome_noteWrite (agent : Option Nat) (h : Nat) (p : Option Nat) (line : Nat) :
    withoutHome (noteWrite s agent h p line) = withoutHome s := by
  refine withoutHome_of_waves (List.ext_getElem? fun k => ?_)
  simp only [List.getElem?_map, List.getElem?_mapIdx]
  cases s.waves[k]? with
  | none => rfl
  | some v =>
    simp only [Option.map_some, Option.some.injEq]
    split
    · split
      · exact settledWave_trigger line v
      · exact settledWave_trigger line v
    · exact settledWave_trigger line v

/-- Copies of a line that are dropped, and monitors of it that trigger (R172, R179). -/
theorem withoutHome_dropCopies (line : Nat) : withoutHome (dropCopies s line) = withoutHome s := by
  refine withoutHome_of_waves (ws := s.waves.map (Wave.trigger line)) ?_
  rw [List.map_map]
  exact List.map_congr_left fun v _ => settledWave_trigger line v

end

/-! ### Writes at the home slices -/

section
variable {s : State} (hs : Ready s)
include hs

theorem noteDirty_ready (line : Nat) : Ready (noteDirty s line) := by
  unfold noteDirty
  split
  · refine ⟨⟨hs.poison, fun t ht => ?_⟩, hs.wf⟩
    obtain ⟨u, hu, rfl⟩ := List.mem_map.1 ht
    split
    · rfl
    · exact hs.dirty u hu
  · refine ⟨⟨hs.poison, fun t ht => ?_⟩, hs.wf⟩
    rcases List.mem_cons.1 ht with rfl | ht
    · rfl
    · exact hs.dirty t ht

omit hs in
theorem withoutHome_noteDirty (line : Nat) : withoutHome (noteDirty s line) = withoutHome s := by
  unfold noteDirty
  split <;> rfl

/-- What GDDR 7 lacks after a write: lines noted dirty, or bytes that reach it (R387). -/
theorem staleAfter_ready (cached : Bool) (ls : List Nat) (g : Stale → Bytes) :
    let u := if cached then ls.foldl noteDirty s
      else { s with stale := s.stale.map fun t => if ls.contains t.line then { t with data := g t } else t }
    Ready u ∧ withoutHome u = withoutHome s := by
  intro u
  cases cached with
  | true =>
    exact ⟨List.foldlRecOn (motive := Ready) _ _ hs fun t ht l _ => noteDirty_ready ht l,
      foldl_keeps withoutHome noteDirty (fun _ _ => withoutHome_noteDirty _) _ _⟩
  | false =>
    refine ⟨⟨⟨hs.poison, fun t ht => ?_⟩, hs.wf⟩, rfl⟩
    obtain ⟨v, hv, rfl⟩ := List.mem_map.1 ht
    split
    · exact hs.dirty v hv
    · exact hs.dirty v hv

/-- A write of root memory (R356, R387). -/
theorem Effect.rootWrite (agent : Option Nat) (cached : Bool) (pa : Nat) (bs : Bytes) :
    Effect withoutHome (fun a => pa ≤ a ∧ a < pa + bs.length) s (rootWrite s agent cached pa bs) := by
  have hmem := rootWrite_mem s agent cached pa bs
  have noted (t : State) (ls : List Nat) :
      (fun u : State => (withoutHome u, u.stale, u.poison)) (ls.foldl (fun s l => noteWrite s agent 0 none l) t)
        = (withoutHome t, t.stale, t.poison) :=
    foldl_keeps (fun u : State => (withoutHome u, u.stale, u.poison)) (fun s l => noteWrite s agent 0 none l)
      (fun _ _ => Prod.ext (withoutHome_noteWrite _ _ _ _) rfl) _ _
  obtain ⟨hready, hsame⟩ := staleAfter_ready hs cached (linesOf pa bs.length) fun t => (List.range 128).map fun k =>
    if pa ≤ 128 * t.line + k ∧ 128 * t.line + k < pa + bs.length then bs.getD (128 * t.line + k - pa) 0 else t.data.getD k 0
  have hparts : withoutHome (Machine.rootWrite s agent cached pa bs) = withoutHome s
      ∧ (∀ t ∈ (Machine.rootWrite s agent cached pa bs).stale, t.dirty = true) ∧ (Machine.rootWrite s agent cached pa bs).poison = [] := by
    unfold Machine.rootWrite
    dsimp only
    set u := if cached then (linesOf pa bs.length).foldl noteDirty s else _ with hu
    rw [if_pos (by simp [hready.poison])]
    have hn := noted { u with
      mem := u.mem.writeBytes pa bs, corrupt := u.corrupt.filter fun c => !(linesOf pa bs.length).contains c.line
      l1 := u.l1.filter fun e => !(e.ply == 0 && (linesOf pa bs.length).contains e.line) } (linesOf pa bs.length)
    simp only [Prod.mk.injEq] at hn
    obtain ⟨h1, h2, h3⟩ := hn
    exact ⟨h1.trans hsame, fun t ht => hready.dirty t (h2 ▸ ht), h3.trans hready.poison⟩
  obtain ⟨h1, h2, h3⟩ := hparts
  refine ⟨h1, ⟨⟨h3, h2⟩, wf_rootWrite hs.wf agent cached pa bs⟩, fun a ha => ?_⟩
  rw [hmem]
  exact read_writeBytes_of_outside hs.wf (by omega)

/-- The same with the lines that may stay dirty in a cache (R182, R387). -/
theorem Effect.homeWrite (h : Nat) (cached : Bool) (pa : Nat) (bs : Bytes) :
    Effect withoutHome (fun a => pa ≤ a ∧ a < pa + bs.length) s (homeWrite s h cached pa bs) := by
  have hw := Effect.rootWrite hs none cached pa bs
  unfold Machine.homeWrite
  dsimp only
  split
  · exact hw.trans (.of_caches hw.ready (.foldl (fun _ _ ht => .cacheRoot ht _ _) _ hw.ready.toHomesAhead))
  · exact hw

/-- A translation that a TLB takes (R388). -/
theorem Effect.noteTlb {A : Nat → Prop} (h : Nat) (lf : Leaf) (q : DWord) : Effect withoutHome A s (noteTlb s h lf q) :=
  .of_eq hs (withoutHome_modHank h fun _ => rfl) rfl

/-- The bytes of a leaf's entry (R390). -/
def entryBytes (lf : Leaf) (a : Nat) : Prop := lf.loc ≤ a ∧ a < lf.loc + 8

/-- The update of a leaf's accessed and dirty bits (R390). -/
theorem Effect.markUsed (h : Nat) (lf : Leaf) (wr : Bool) : Effect withoutHome (entryBytes lf) s (markUsed s h lf wr) := by
  have put (q : DWord) : Effect withoutHome (entryBytes lf) s
      (Machine.noteTlb (if readQ s lf.loc = q then s else Machine.homeWrite s h true lf.loc (natLe 8 q.toNat)) h lf q) := by
    split
    · exact .noteTlb hs h lf q
    · have hw := Effect.homeWrite hs h true lf.loc (natLe 8 q.toNat)
      rw [length_natLe] at hw
      exact hw.trans (.noteTlb hw.ready h lf q)
  unfold Machine.markUsed
  dsimp only
  split
  · exact .refl hs
  · exact put _

/-- The copies of a line that an atomic finds are dropped (R172). -/
theorem Effect.dropCopies {A : Nat → Prop} (line : Nat) : Effect withoutHome A s (dropCopies s line) :=
  .of_eq hs (withoutHome_dropCopies line) rfl

/-- A write that waits for a page's move is noted (R394). -/
theorem Effect.noteMove {A : Nat → Prop} (h : Nat) (lf : Leaf) : Effect withoutHome A s (noteMove s h lf) :=
  .of_eq hs (withoutHome_modHank h fun _ => rfl) rfl

/-! ### Writes of a leaf -/

omit hs in
/-- A gauge's check keeps the number of bytes (R269). -/
theorem length_gaugeScan (g : Gauge) (fuel a : Nat) (bs : Bytes) : (g.scan fuel a bs).1.length = bs.length := by
  induction fuel generalizing a bs with
  | zero => cases bs <;> rfl
  | succ fuel ih =>
    cases bs with
    | nil => rfl
    | cons b bs =>
      simp only [Gauge.scan]
      split
      · next hg =>
        simp only [List.length_append, length_natLe, ih, List.length_drop]
        omega
      · simp only [List.length_cons, ih]

omit hs in
theorem length_gaugeCheck (g : Gauge) (a : Nat) (bs : Bytes) : (g.check a bs).1.length = bs.length := by
  unfold Gauge.check
  split
  · rfl
  · exact length_gaugeScan g _ _ _

/-- The gauge's check of a wave's write: failures are counted and set `%gst` (R269), and the bytes stay as many. -/
theorem Effect.gaugeCheck {A : Nat → Prop} (w h : Nat) (lf : Leaf) (bs : Bytes) (trap : Bool) :
    Effect withoutHome A s (gaugeCheck s w h lf bs trap).1
      ∧ ∀ out, (Machine.gaugeCheck s w h lf bs trap).2 = some out → out.length = bs.length := by
  unfold Machine.gaugeCheck
  dsimp only
  refine ⟨?_, fun out ho => ?_⟩
  · split
    · exact .refl hs
    · have hcount (n : Nat) : Effect withoutHome A s (countFails s h (pteGidx lf.pte) n) := by
        unfold countFails
        split
        · exact .refl hs
        · exact .of_eq hs (withoutHome_modHank h fun _ => rfl) rfl
      exact (hcount _).trans (.of_eq (hcount _).ready (withoutHome_modWave w fun _ => rfl) rfl)
  · split at ho
    · cases ho
    · rw [← Option.some.inj ho, length_gaugeCheck]

/-- A write of scratch changes the team's scratch (R166). -/
theorem Effect.scratchWrite {A : Nat → Prop} (t off : Nat) (bs : Bytes) : Effect withoutScratch A s (scratchWrite s t off bs) := by
  unfold Machine.scratchWrite
  dsimp only
  rw [if_pos (by simp [hs.poison])]
  exact .of_eq hs rfl rfl

/-! ### Versions -/

omit hs in
/-- A change of one version's contents leaves the others as they are. -/
theorem versionIn_of_map {vs : List Version} {f : Version → Version} {h' p' line : Nat} (hs : s.versions = vs.map f)
    (hkey : ∀ v, ((f v).hank, (f v).ply, (f v).line) = (v.hank, v.ply, v.line))
    (hf : ∀ v, v.hank = h' → v.ply = p' → v.line = line → f v = v) :
    versionIn s h' p' line = vs.find? fun v => v.hank == h' && v.ply == p' && v.line == line := by
  have hcomp : (fun v : Version => v.hank == h' && v.ply == p' && v.line == line) ∘ f = fun v => v.hank == h' && v.ply == p' && v.line == line := by
    funext v
    have hk := hkey v
    simp only [Prod.mk.injEq] at hk
    obtain ⟨hh, hp, hl⟩ := hk
    simp only [Function.comp_apply, hh, hp, hl]
  rw [versionIn, hs, List.find?_map, hcomp]
  cases hv : vs.find? fun v => v.hank == h' && v.ply == p' && v.line == line with
  | none => rfl
  | some v =>
    have hk := List.find?_some hv
    simp only [Bool.and_eq_true, beq_iff_eq] at hk
    rw [Option.map_some, hf v hk.1.1 hk.1.2 hk.2]

/-- A ply's version is there, or is added (R295). -/
theorem makeVersion_eq (h p line : Nat) : makeVersion s h p line = s
    ∨ ∃ v : Version, (v.hank = h ∧ v.ply = p ∧ v.line = line) ∧ makeVersion s h p line = { s with versions := v :: s.versions } := by
  unfold makeVersion
  split
  · exact .inl rfl
  · refine .inr ⟨{ hank := h, ply := p, line := line, data := readBytes s h p (128 * line) 128, cached := true }, ⟨rfl, rfl, rfl⟩, ?_⟩
    simp [hs.poison]

/-- A write of a ply's version of a line: it writes no byte of root memory, and no other version (R295). -/
theorem Effect.versionWrite {A : Nat → Prop} (agent : Option Nat) (cached : Bool) (h p pa : Nat) (bs : Bytes) :
    Effect withoutVersions A s (versionWrite s agent cached h p pa bs)
      ∧ ∀ h' p' line, ¬(h' = h ∧ p' = p ∧ line = lineOf pa) →
        versionIn (Machine.versionWrite s agent cached h p pa bs) h' p' line = versionIn s h' p' line := by
  let written (v : Version) : Version :=
    if v.hank = h ∧ v.ply = p ∧ v.line = lineOf pa then { v with data := overlay v.data (pa % 128) bs, cached := cached } else v
  have hmade : Effect withoutVersions A s (makeVersion s h p (lineOf pa)) := by
    rcases makeVersion_eq hs h p (lineOf pa) with hm | ⟨v, -, hm⟩ <;> rw [hm]
    · exact .refl hs
    · exact .of_eq hs rfl rfl
  have hwrite : Machine.versionWrite s agent cached h p pa bs = noteWrite
      { makeVersion s h p (lineOf pa) with
        versions := (makeVersion s h p (lineOf pa)).versions.map written
        l1 := (makeVersion s h p (lineOf pa)).l1.filter fun e => !(e.hank == h && e.ply == p && e.line == lineOf pa) }
      agent h (some p) (lineOf pa) := by
    unfold Machine.versionWrite
    dsimp only
    rw [if_pos (by simp [hmade.ready.poison])]
  rw [hwrite]
  refine ⟨hmade.trans (.of_eq hmade.ready ?_ rfl), fun h' p' line hne => ?_⟩
  · exact congrArg (fun x : State => { x with versions := [] }) (withoutHome_noteWrite agent h (some p) (lineOf pa))
  · refine (versionIn_of_map (f := written) rfl (fun v => ?_) fun v hh hp hl => ?_).trans ?_
    · simp only [written]
      split <;> rfl
    · exact if_neg fun ⟨e1, e2, e3⟩ => hne ⟨hh.symm.trans e1, hp.symm.trans e2, hl.symm.trans e3⟩
    · rcases makeVersion_eq hs h p (lineOf pa) with hm | ⟨v, ⟨e1, e2, e3⟩, hm⟩ <;> rw [hm]
      · rfl
      · refine List.find?_cons_of_neg ?_
        simp only [Bool.and_eq_true, beq_iff_eq]
        exact fun ⟨⟨f1, f2⟩, f3⟩ => hne ⟨f1.symm.trans e1, f2.symm.trans e2, f3.symm.trans e3⟩

end

/-! ### Writes of a leaf -/

/-- The bytes that a write of `n` bytes of a leaf in ply `q` may change: the leaf's entry (R390), and in the root those bytes (R163). -/
def leafBytes (q : Nat) (lf : Leaf) (n a : Nat) : Prop := entryBytes lf a ∨ q = 0 ∧ lf.pa ≤ a ∧ a < lf.pa + n

/-- What a write of a leaf in ply `q` of hank `h` leaves alone: beside its bytes, every other version. -/
structure LeafEffect (h q : Nat) (lf : Leaf) (n : Nat) (s t : State) : Prop extends Effect withoutVersions (leafBytes q lf n) s t where
  versions : ∀ h' p line, ¬(q ≠ 0 ∧ h' = h ∧ p = q ∧ line = lineOf lf.pa) → versionIn t h' p line = versionIn s h' p line

section
variable {s t u : State} {h q n : Nat} {lf : Leaf}

theorem LeafEffect.trans (h1 : LeafEffect h q lf n s t) (h2 : LeafEffect h q lf n t u) : LeafEffect h q lf n s u :=
  ⟨h1.toEffect.trans h2.toEffect, fun h' p line hne => (h2.versions h' p line hne).trans (h1.versions h' p line hne)⟩

/-- An effect that changes no version. -/
theorem LeafEffect.of_home {B : Nat → Prop} (he : Effect withoutHome B s t) (hB : ∀ a, B a → leafBytes q lf n a) : LeafEffect h q lf n s t := by
  refine ⟨he.versions.mono hB, fun h' p line _ => ?_⟩
  have hv : t.versions = s.versions := (congrArg State.versions he.same :)
  rw [versionIn, hv, versionIn]

/-- A write in a ply: of root memory, or of its version (R163). -/
theorem LeafEffect.plyWrite (hs : Ready s) (agent : Option Nat) (cached : Bool) (bs : Bytes) :
    LeafEffect h q lf bs.length s (plyWrite s agent cached h q lf.pa bs) := by
  unfold Machine.plyWrite
  split
  · next hq => exact .of_home (.rootWrite hs agent cached lf.pa bs) fun a ha => .inr ⟨hq, ha⟩
  · next hq =>
    obtain ⟨he, hv⟩ := Effect.versionWrite hs (A := leafBytes q lf bs.length) agent cached h q lf.pa bs
    exact ⟨he, fun h' p line hne => hv h' p line fun ⟨e1, e2, e3⟩ => hne ⟨hq, e1, e2, e3⟩⟩

/-- A write of a leaf, with its entry's bits (R390). -/
theorem LeafEffect.writeLeaf (hs : Ready s) (agent : Option Nat) (bs : Bytes) : LeafEffect h q lf bs.length s (writeLeaf s agent h q lf bs) := by
  have hused : LeafEffect h q lf bs.length s (markUsed s h lf true) := .of_home (.markUsed hs h lf true) fun a => .inl
  have hwrite := hused.trans (.plyWrite hused.ready agent (pteCached lf.pte) bs)
  unfold Machine.writeLeaf
  dsimp only
  split
  · exact hwrite.trans (.of_home (B := fun _ => False) (.of_caches hwrite.ready (.cacheRoot hwrite.ready.toHomesAhead h (lineOf lf.pa)))
      fun _ => False.elim)
  · exact hwrite

end

/-! ### Registers -/

section
variable {s t u : State}

theorem sameRegs_trans (h : sameRegs s t) (h' : sameRegs t u) : sameRegs s u := fun k v hv => by
  obtain ⟨v1, hv1, a1, a2, a3, a4, a5, a6, a7, a8, a9, a10, a11, a12⟩ := h k v hv
  obtain ⟨v2, hv2, b1, b2, b3, b4, b5, b6, b7, b8, b9, b10, b11, b12⟩ := h' k v1 hv1
  exact ⟨v2, hv2, b1.trans a1, b2.trans a2, b3.trans a3, b4.trans a4, b5.trans a5, b6.trans a6, b7.trans a7, b8.trans a8, b9.trans a9,
    b10.trans a10, b11.trans a11, b12.trans a12⟩

/-- The wave at a place, in states whose waves differ in settled parts. -/
theorem wave_of_settled (h : t.waves.map settledWave = s.waves.map settledWave) {k : Nat} {v : Wave} (hv : s.waves[k]? = some v) :
    ∃ v', t.waves[k]? = some v' ∧ settledWave v' = settledWave v := by
  have hk := congrArg (·[k]?) h
  simp only [List.getElem?_map, hv, Option.map_some] at hk
  exact Option.map_eq_some_iff.1 hk

/-- Waves that differ in settled parts have the same registers. -/
theorem sameRegs_of_settled (h : t.waves.map settledWave = s.waves.map settledWave) : sameRegs s t := fun k v hv => by
  obtain ⟨v', hv', e⟩ := wave_of_settled h hv
  have regs := congrArg Wave.regs e
  have access := congrArg (fun v : Wave => v.access.map AccessThread.regs) e
  have fcr := congrArg Wave.fcr e
  have ars := congrArg Wave.ars e
  have rpstat := congrArg Wave.rpstat e
  have kptr := congrArg Wave.kptr e
  have lvl := congrArg Wave.lvl e
  have ext := congrArg Wave.ext e
  have waveid := congrArg Wave.waveid e
  have ply := congrArg Wave.ply e
  have trapRegs := congrArg Wave.trapRegs e
  have yarns := congrArg Wave.yarns e
  exact ⟨v', hv', regs, access, fcr, ars, rpstat, kptr, lvl, ext, waveid, ply, trapRegs, yarns⟩

/-- What a write of a leaf leaves alone, in the words of the obligations. -/
theorem LeafEffect.frame {h q n : Nat} {lf : Leaf} (he : LeafEffect h q lf n s t) : LeafFrame s t h q lf n := by
  have vault := congrArg State.vault he.same
  have teams := congrArg State.teams he.same
  have barriers := congrArg State.barriers he.same
  have flights := congrArg State.flights he.same
  have waves := congrArg State.waves he.same
  exact ⟨fun a hentry hbytes => he.mem a fun ha => ha.elim hentry fun ⟨hq, hb⟩ => hbytes hq hb, he.versions, vault, teams, barriers, flights,
    sameRegs_of_settled waves⟩

end

end Sys2Proof.AccessFrames
end

section
/-! SUPPORT. What one lane's access leaves alone (07 R161, R163, R172, R176), whether it completes or stops. -/

namespace Sys2Proof.LaneFrames

open Sys2Proof Sys2Proof.Machine Sys2Proof.Laws Sys2Proof.CacheFrames Sys2Proof.AccessFrames Sys2Proof.LaneAccesses

/-! ### Translation without poison -/

section
variable {s : State} {h va n : Nat} {wr : Bool}

theorem walkFrom_ne_poison (hp : s.poison = []) (va node : Nat) (levels : List (Nat × Nat × Bool)) (d : Nat) :
    walkFrom s va node levels ≠ .poison d := by
  have via {w : Walk} (e : Nat × Nat × Nat) (hw : w ≠ .poison d) : w.via e ≠ .poison d := by
    cases w with
    | poison c => exact hw
    | leaf | fault | hole => simp [Walk.via]
  induction levels generalizing node with
  | nil => simp [walkFrom]
  | cons level rest ih =>
    obtain ⟨sh, w, leafOk⟩ := level
    simp only [walkFrom, poisonOfRead_of_none hp]
    split
    · simp
    · split
      · simp
      · split
        · split <;> simp
        · exact via _ (ih _)

/-- No walk meets poison where nothing is poisoned, whichever entry it goes by (R386, R388). -/
theorem walkFor_ne_poison (hp : s.poison = []) (h va : Nat) (wr : Bool) (d : Nat) : walkFor s h va wr ≠ .poison d := by
  have tables := walkFrom_ne_poison hp va (hreg s h 0x120).toNat walkLevels d
  have old (o : Walk) (ho : o ∈ oldWalks s h va wr (walkFrom s va (hreg s h 0x120).toNat walkLevels)) : o ≠ .poison d := by
    rcases List.mem_append.1 (List.mem_filter.1 ho).1 with ho | ho
    · obtain ⟨e, -, rfl⟩ := List.mem_map.1 ho
      simp
    · obtain ⟨e, -, rfl⟩ := List.mem_map.1 ho
      exact walkFrom_ne_poison hp _ _ _ d
  unfold walkFor
  dsimp only
  split
  · exact tables
  · split
    · exact tables
    · next k _ =>
      rw [List.getD_eq_getElem?_getD]
      cases hk : (oldWalks s h va wr (walkFrom s va (hreg s h 0x120).toNat walkLevels))[k]? with
      | none => exact tables
      | some o => exact old o (List.mem_of_getElem? hk)

/-- A translation that faults for no poison, and makes an access wait for the host only where `asks` holds. -/
def Sound (asks : Prop) : Tr → Prop
  | .fault e _ => e ≠ .uncorrectable
  | .migrate => asks
  | .ok _ | .wait | .hole _ => True

theorem windowPlace_sound (asks : Prop) (w off : Nat) : Sound asks (windowPlace s h w off n wr) := by
  unfold windowPlace
  split
  · simp [Sound]
  · split
    · simp [Sound]
    · split
      · simp [Sound]
      · split <;> simp [Sound]

theorem checkLeaf_sound (lf : Leaf) : Sound (asksHost s h va = true) (checkLeaf s h va lf wr) := by
  unfold checkLeaf
  split
  · simp [Sound]
  · split
    · trivial
    · split
      · split
        · next hask => exact hask
        · simp [Sound]
      · split
        · simp [Sound]
        · split <;> trivial

/-- Where nothing is poisoned no translation faults for poison, and only one of a page that the host is asked for waits for it (R386, R392). -/
theorem translate_sound (hp : s.poison = []) : Sound (asksHost s h va = true) (Machine.translate s h va n wr) := by
  unfold Machine.translate
  split
  · exact windowPlace_sound _ _ _
  · split
    · simp [Sound]
    · next d hw => exact absurd hw (walkFor_ne_poison hp h va wr d)
    · trivial
    · next lf _ => exact checkLeaf_sound lf

end

/-! ### Lanes -/

/-- What a lane's access answers, where its states are among `I`: a lane that stops does so for no poison, and waits for the host only where it
is asked. -/
def Keeps {α : Type} (s : State) (h : Nat) (I : State → Prop) : LaneStep α → Prop
  | .go t _ | .waitIn t => I t
  | .stop e => e.cause ≠ .uncorrectable
  | .trip t e => I t ∧ e.cause ≠ .uncorrectable
  | .migrate va _ _ => asksHost s h va = true
  | .wait | .hole _ => True

section
variable {α : Type} {s : State} {h : Nat} {I J : State → Prop}

theorem Keeps.mono {r : LaneStep α} (hr : Keeps s h I r) (hIJ : ∀ t, I t → J t) : Keeps s h J r := by
  cases r with
  | go t a => exact hIJ t hr
  | waitIn t => exact hIJ t hr
  | trip t e => exact ⟨hIJ t hr.1, hr.2⟩
  | stop | migrate | wait | hole => exact hr

/-- Where nothing is poisoned, a store carries no poison (R421). -/
theorem carryStore_of_none (hp : s.poison = []) (c : Ctx) (i : Instr) (l : Nat) (gs : List Granule) (r : LaneStep α) :
    carryStore s c i l gs r = r := by
  cases r <;> simp [carryStore, hp]

end

/-! ### Loads -/

section
variable {s : State} (hs : Ready s)
include hs

/-- Scratch without poison. -/
theorem scratchPoison_of_none (t off n : Nat) : scratchPoison s t off n = none := if_pos (by simp [hs.poison])

/-- One lane's load, where no sum is partial (R161): the bits of its entry, and the caches. -/
theorem loadLane_keeps (hpart : s.partials = []) (c : Ctx) (l va n : Nat) (sp : Space) (cl : Nat) :
    Keeps s c.v.hank (Effect withoutHome (fun a => ∃ lf, Machine.translate s c.v.hank va n false = .ok (.mem lf) ∧ entryBytes lf a) s)
      (loadLane s c l va n sp cl) := by
  have hsound := translate_sound (h := c.v.hank) (va := va) (n := n) (wr := false) hs.poison
  unfold loadLane
  split
  · exact Cause.noConfusion
  · split
    · next ht => rw [ht] at hsound; exact hsound
    · next ht => rw [ht] at hsound; exact hsound
    · trivial
    · trivial
    · simp only [scratchPoison_of_none hs]
      split
      · trivial
      · exact .refl hs
    · next lf ht =>
      have hevict : Effect withoutHome (entryBytes lf) s (evictCopy s cl (lineOf lf.pa)) := .of_caches hs (.evictCopy _ _)
      simp only [foldRange_of_noPartials hpart, poisonOfRead_of_none hevict.ready.poison]
      exact (hevict.trans (.markUsed hevict.ready c.v.hank lf false)).mono fun a ha => ⟨lf, ht, ha⟩

end

/-! ### Stores -/

/-- What a write of `n` bytes at a global address of hank `h` in ply `ply` leaves alone: behind a leaf, all but its bytes and its version; in a
scratch window, all but scratch. -/
structure WriteEffect (h ply va n : Nat) (s t : State) : Prop where
  effect : Effect withoutScratch
    (fun a => ∃ lf, Machine.translate s h va n true = .ok (.mem lf) ∧ leafBytes (storePly (hankOf s h) ply va) lf n a) s t
  leaf : ∀ lf, Machine.translate s h va n true = .ok (.mem lf) → LeafEffect h (storePly (hankOf s h) ply va) lf n s t

section
variable {s t : State} {h ply va n : Nat} {lf : Leaf}

theorem WriteEffect.of_leaf (ht : Machine.translate s h va n true = .ok (.mem lf)) (he : LeafEffect h (storePly (hankOf s h) ply va) lf n s t) :
    WriteEffect h ply va n s t := by
  refine ⟨he.toEffect.scratch.mono fun a ha => ⟨lf, ht, ha⟩, fun lf' ht' => ?_⟩
  obtain rfl : lf = lf' := by
    rw [ht] at ht'
    cases ht'
    rfl
  exact he

theorem WriteEffect.of_window {team off : Nat} (ht : Machine.translate s h va n true = .ok (.win team off)) (hs : Ready s) (bs : Bytes) :
    WriteEffect h ply va n s (scratchWrite s team off bs) :=
  ⟨.scratchWrite hs team off bs, fun lf ht' => by rw [ht] at ht'; cases ht'⟩

/-- An access that changes nothing beside what it waits for, or drops copies that it finds. -/
theorem WriteEffect.of_home (he : ∀ A, Effect withoutHome A s t) : WriteEffect h ply va n s t :=
  ⟨(he _).versions.scratch, fun _ _ => .of_home (he _) fun _ ha => ha⟩

/-- The ply that a write goes to is that of the address's lifeline (R163, R250). -/
theorem eq_storePly_of_writePly {q : Nat} (hw : writePly s h ply va lf = .to q) : q = storePly (hankOf s h) ply va := by
  unfold writePly at hw
  dsimp only at hw
  split at hw
  · cases hw
  · split at hw
    · cases hw
    · split at hw
      · cases hw
      · cases hw
        rfl

/-- The ply's checks fault for no poison. -/
theorem ne_uncorrectable_of_writePly {e : Cause} (hw : writePly s h ply va lf = .fault e) : e ≠ .uncorrectable := by
  unfold writePly at hw
  dsimp only at hw
  split at hw
  · cases hw
    decide
  · split at hw
    · cases hw
    · split at hw
      · cases hw
        decide
      · cases hw

end

section
variable {s : State} (hs : Ready s) (hpart : s.partials = []) (c : Ctx) (l va : Nat)
include hs hpart

/-- One lane's store, where no sum is partial (R161, R163). -/
theorem storeLane_keeps (bs : Bytes) : Keeps s c.v.hank (WriteEffect c.v.hank c.v.ply va bs.length s) (storeLane s c l va bs) := by
  have hsound := translate_sound (h := c.v.hank) (va := va) (n := bs.length) (wr := true) hs.poison
  unfold storeLane
  dsimp only
  split
  · exact Cause.noConfusion
  · split
    · next ht => rw [ht] at hsound; exact hsound
    · next ht => rw [ht] at hsound; exact hsound
    · trivial
    · trivial
    · next ht =>
      split
      · exact Cause.noConfusion
      · split
        · trivial
        · exact .of_window ht hs bs
    · next lf ht =>
      split
      · next e hw => exact ne_uncorrectable_of_writePly hw
      · exact .of_home fun _ => .noteMove hs _ _
      · next q hw =>
        obtain rfl := eq_storePly_of_writePly hw
        have hg (A : Nat → Prop) := (Effect.gaugeCheck (A := A) hs c.w c.v.hank lf bs true).1
        have hlen := (Effect.gaugeCheck (A := fun _ => False) hs c.w c.v.hank lf bs true).2
        simp only [foldRange_of_noPartials hpart]
        split
        · next t hcheck =>
          rw [hcheck] at hg
          exact ⟨.of_home hg, Cause.noConfusion⟩
        · next t out hcheck =>
          rw [hcheck] at hg hlen
          refine .of_leaf ht ((LeafEffect.of_home (hg _) fun _ ha => ha).trans ?_)
          have hwrite := LeafEffect.writeLeaf (h := c.v.hank) (q := storePly (hankOf s c.v.hank) c.v.ply va) (lf := lf) (hg fun _ => False).ready
            (some c.w) out
          rwa [hlen out rfl] at hwrite

end

/-! ### Atomics -/

section
variable {s : State} (hs : Ready s) (c : Ctx) (l va n : Nat)
include hs

/-- A read-modify-write behind a leaf (R172): in ply `q`, where it writes at all. -/
theorem LeafEffect.rmwLeaf {h ply q q' w : Nat} {lf : Leaf} {f : Nat → Option Nat} (trap : Bool)
    (hq : f (leNat (homeBytes s h (readPly lf ply) lf n)) ≠ none → q' = q) :
    LeafEffect h q lf n s (rmwLeaf s (some w) h ply q' lf n f trap).1 := by
  have hdrop : LeafEffect h q lf n s (dropCopies s (lineOf lf.pa)) := .of_home (.dropCopies hs (A := fun _ => False) _) fun _ => False.elim
  have hold : homeBytes (dropCopies s (lineOf lf.pa)) h (readPly lf ply) lf n = homeBytes s h (readPly lf ply) lf n := rfl
  have kept {u : State} (hu : Ready u) (bs : Bytes) : LeafEffect h q lf n u (gaugeCheck u w h lf bs trap).1 :=
    .of_home (B := fun _ => False) (Effect.gaugeCheck hu w h lf bs trap).1 fun _ => False.elim
  unfold Machine.rmwLeaf
  dsimp only
  rw [hold]
  split
  · exact hdrop.trans (.of_home (.markUsed hdrop.ready h lf false) fun _ => .inl)
  · next v hv =>
    obtain rfl := hq (by simp [hv])
    split
    · exact kept hs _
    · next t out hcheck =>
      have hchecked := hdrop.trans (kept hdrop.ready (natLe n v))
      have hlen := (Effect.gaugeCheck (A := fun _ => False) hdrop.ready w h lf (natLe n v) trap).2
      rw [hcheck] at hchecked hlen
      have hwrite := LeafEffect.writeLeaf (h := h) (q := q') (lf := lf) hchecked.ready (some w) out
      rw [hlen out rfl, length_natLe] at hwrite
      exact hchecked.trans hwrite

/-- One lane's atomic, where no sum is partial (R172, R173). -/
theorem rmwLane_keeps (hpart : s.partials = []) (f : Nat → Option Nat) :
    Keeps s c.v.hank (WriteEffect c.v.hank c.v.ply va n s) (rmwLane s c l va n f) := by
  have hsound := translate_sound (h := c.v.hank) (va := va) (n := n) (wr := true) hs.poison
  unfold rmwLane
  dsimp only
  split
  · exact Cause.noConfusion
  · split
    · next ht => rw [ht] at hsound; exact hsound
    · next ht => rw [ht] at hsound; exact hsound
    · trivial
    · trivial
    · next ht =>
      split
      · exact Cause.noConfusion
      · split
        · trivial
        · simp only [scratchPoison_of_none hs]
          show WriteEffect c.v.hank c.v.ply va n s _
          split
          · exact .of_window ht hs _
          · exact .of_home fun _ => .refl hs
    · next lf ht =>
      simp only [foldRange_of_noPartials hpart, poisonOfRead_of_none hs.poison]
      have done (q' : Nat) (hq : f (leNat (homeBytes s c.v.hank (readPly lf c.v.ply) lf n)) ≠ none → q' = storePly (hankOf s c.v.hank) c.v.ply va) :
          Keeps s c.v.hank (WriteEffect c.v.hank c.v.ply va n s)
            (match rmwLeaf s (some c.w) c.v.hank c.v.ply q' lf n f true with
            | (s, old, true) => LaneStep.go s old
            | (s, _, false) => LaneStep.trip s (laneFault l .gauge (BitVec.ofNat 64 va) true .global (pteGidx lf.pte))) := by
        have hrmw := WriteEffect.of_leaf ht (LeafEffect.rmwLeaf hs n (w := c.w) true hq)
        split
        · next hr => rw [hr] at hrmw; exact hrmw
        · next hr => rw [hr] at hrmw; exact ⟨hrmw, Cause.noConfusion⟩
      split
      · split
        · next hnone => exact done 0 fun hw => absurd (by simpa using hnone) hw
        · exact Cause.noConfusion
      · next e _ hw => exact ne_uncorrectable_of_writePly hw
      · exact .of_home fun _ => .noteMove hs _ _
      · next q hw => exact done q fun _ => eq_storePly_of_writePly hw

/-- The checks of one lane's deferred atomic change nothing (R175). -/
theorem deferLane_keeps : Keeps s c.v.hank (· = s) (deferLane s c l va n) := by
  have hsound := translate_sound (h := c.v.hank) (va := va) (n := n) (wr := true) hs.poison
  unfold deferLane
  dsimp only
  split
  · exact Cause.noConfusion
  · split
    · next ht => rw [ht] at hsound; exact hsound
    · next ht => rw [ht] at hsound; exact hsound
    · trivial
    · trivial
    · rfl

end

/-! ### CADD -/

/-- What one lane of CADD leaves alone: beside the leaf's entry, all but the partial sums (R176, R177). -/
def SumEffect (A : Nat → Prop) (s t : State) : Prop := ∃ u ps, Effect withoutHome A s u ∧ t = { u with partials := ps }

/-- One lane of CADD (R176). -/
theorem caddLane_keeps {s : State} (hs : Ready s) (c : Ctx) (x : MWord) (l : Nat) :
    Keeps s c.v.hank (SumEffect (fun a => ∃ lf, Machine.translate s c.v.hank (casA c x l) 4 true = .ok (.mem lf) ∧ entryBytes lf a) s)
      (caddLane s c x l) := by
  have hsound := translate_sound (h := c.v.hank) (va := casA c x l) (n := 4) (wr := true) hs.poison
  unfold caddLane
  dsimp only
  split
  · exact Cause.noConfusion
  · split
    · next ht => rw [ht] at hsound; exact hsound
    · next ht => rw [ht] at hsound; exact hsound
    · trivial
    · trivial
    · exact Cause.noConfusion
    · next lf ht =>
      split
      · exact Cause.noConfusion
      · split
        · exact Cause.noConfusion
        · split
          · exact ⟨_, _, .noteMove hs _ _, rfl⟩
          · rw [carryStore_of_none hs.poison]
            exact ⟨_, _, (Effect.markUsed hs c.v.hank lf true).mono fun a ha => ⟨lf, ht, ha⟩, rfl⟩

/-- Settles O57: a lane that goes on has the effect of its access, behind the one leaf that its address leads to. -/
theorem laneAccessesFrame : Obligations.LaneAccessesFrame := by
  unfold Obligations.LaneAccessesFrame
  intro s t c l va lf hcanon hpart hpois hdirty h q
  have hs : Ready s := ⟨⟨hpois, hdirty⟩, hcanon.1⟩
  refine ⟨fun n cl sp bs ht hgo => ?_, fun bs sg ht hgo => ?_, fun n f old ht hgo => ?_, fun x sg hva ht hgo => ?_⟩
  · have hk := loadLane_keeps hs hpart c l va n sp cl
    rw [hgo] at hk
    refine (LeafEffect.of_home (h := h) (q := 0) (n := 0) (lf := lf) hk fun a ⟨lf', ht', ha⟩ => .inl ?_).frame
    rw [ht] at ht'
    cases ht'
    exact ha
  · have hk := storeLane_keeps hs hpart c l va bs
    rw [hgo] at hk
    exact (hk.leaf lf ht).frame
  · have hk := rmwLane_keeps hs c l va n hpart f
    rw [hgo] at hk
    exact (hk.leaf lf ht).frame
  · subst hva
    have hk := caddLane_keeps hs c x l
    rw [hgo] at hk
    obtain ⟨u, ps, hu, rfl⟩ := hk
    refine (LeafEffect.of_home (h := h) (q := 0) (n := 0) (lf := lf) hu fun a ⟨lf', ht', ha⟩ => .inl ?_).frame
    rw [ht] at ht'
    cases ht'
    exact ha

end Sys2Proof.LaneFrames
end

section
/-! SUPPORT. What a word that accesses memory leaves alone (01 R9, 07 R155, R158, R184): its lanes one after another, what it puts in flight, and
what follows it. -/

namespace Sys2Proof.AccessWordFrames

open Sys2Proof Sys2Proof.Machine Sys2Proof.Laws Sys2Proof.RegisterFrame Sys2Proof.AfterAWord Sys2Proof.CacheFrames Sys2Proof.AccessFrames
  Sys2Proof.LaneFrames

/-! ### What follows the word -/

section
variable {c : Ctx} {s t u : State}

/-- A strand added to a wave. -/
theorem moveFrame_addStrand (v : Wave) (t : Strand) : MoveFrame c v { v with strands := v.strands ++ [t] } :=
  ⟨⟨rfl, rfl, fun _ _ => rfl⟩, fun _ => by simp⟩

theorem moveFrame_addStrands (v : Wave) (ts : List Strand) : MoveFrame c v (v.addStrands ts) := by
  unfold Wave.addStrands
  induction ts generalizing v with
  | nil => exact .refl v
  | cons t ts ih => exact (moveFrame_addStrand v _).trans (ih _)

/-- Lanes that go on and lanes that stop (R53). -/
theorem moveFrame_splitStops (v : Wave) (st : Stops) (stamp : Nat) : MoveFrame c v (splitStops v c st stamp) := by
  unfold Machine.splitStops
  split
  · next hacc => exact .modThread v _ fun _ => .inl hacc
  · dsimp only
    split
    · exact (MoveFrame.modThread v _ .inr).trans (moveFrame_addStrands _ _)
    · split
      · exact .refl v
      · exact (MoveFrame.modThread v _ .inr).trans (moveFrame_addStrands _ _)

/-- What becomes of the lanes of a word outside regions and handlers, none of which consumed poison: strands move, and the settling follows. -/
theorem finishDone_moves {s0 : State} {i : Instr} {st : Stops} (hr : c.region = none) (hh : c.st.handler = false)
    (hf : ∀ f ∈ st.faults, f.cause ≠ .uncorrectable) :
    ∃ u, finishDone s0 s c i st = .next (bump (settle u c.w)) ∧ StateFrame c.w (MoveFrame c) s u := by
  have moved (st : Stops) (s' : State) (hs' : StateFrame c.w (MoveFrame c) s s') : StateFrame c.w (MoveFrame c) s
      (rotate (modWave s' c.w fun v => if v.phase = .live then splitStops v c st s'.progress else v) c) := by
    refine (hs'.comp (.modWave _ fun v => ?_) fun _ _ _ => .trans).comp rotate_frame fun _ _ _ => .trans
    split
    · exact moveFrame_splitStops v st _
    · exact .refl v
  have cleared (c' : Ctx) : StateFrame c.w (MoveFrame c) s (clearRegPoison s c' i) := by
    have hu := (clearRegPoison_units s c' i).1
    refine .of_units MoveFrame.refl ?_ (congrArg State.waves hu :)
    exact congrArg (fun x : State => { x with running := s.running, progress := s.progress, barriers := s.barriers, waves := s.waves }) hu
  simp only [finishDone, hr, hh, idemLanes_of_unpoisoned hf, consumedRecords_of_unpoisoned hf, Bool.false_and, Bool.false_eq_true,
    ↓reduceIte, conclude]
  cases c.v.idem with
  | none => exact ⟨_, rfl, moved _ _ (cleared _)⟩
  | some r => exact ⟨_, rfl, moved _ _ (cleared _)⟩

end

/-! ### The word's answer -/

/-- A state without anything that a word's accesses may change. -/
def withoutAccess (s : State) : State := { withoutScratch s with partials := [], vault := [], flights := [], nextFlight := 0, perf := [] }

/-- A word's answer whose state is among `J`, and in which no lane stops for poison. -/
def Answers (J : State → Prop) : Res → Prop
  | .done t st => J t ∧ ∀ f ∈ st.faults, f.cause ≠ .uncorrectable
  | .hold | .stuck _ => True
  | _ => False

/-- The wave of a word that issues: its strands are those that the context reads. -/
theorem wave_of_ctxOf {s : State} {c : Ctx} {i : Instr} (h : ctxOf s i = some c) :
    ∃ v, s.waves[c.w]? = some v ∧ v.phase = .live ∧ v.strands = c.v.strands := by
  have hlive := fun v => live_of_ctxOf (v := v) h
  simp only [ctxOf] at h
  split at h
  · cases h
  · split at h
    · cases h
    · next v hv =>
      split at h
      · cases h
      · split at h
        · simp only [Option.some.injEq] at h
          subst h
          refine ⟨v, hv, hlive v hv, ?_⟩
          unfold readWave
          split <;> rfl
        · cases h

section
variable {s t : State}

/-- Effects at the home slices are effects of an access. -/
theorem withoutAccess_of_home (h : withoutHome t = withoutHome s) : withoutAccess t = withoutAccess s :=
  congrArg (fun x : State => { x with versions := [], teams := [], partials := [], vault := [], flights := [], nextFlight := 0, perf := [] }) h

/-- Where no pair and no keep waits, none does after accesses. -/
theorem nothingWaits_of_access (h : withoutAccess t = withoutAccess s) (hw : nothingWaits s) : nothingWaits t := by
  have hpairs : t.pairs = s.pairs := (congrArg State.pairs h :)
  have hhanks : t.hanks.map settledHank = s.hanks.map settledHank := (congrArg State.hanks h :)
  refine ⟨hpairs ▸ hw.1, fun k hk => ?_⟩
  have hmem : settledHank k ∈ (s.hanks.map settledHank).toList := by
    rw [← hhanks, Vector.toList_map]
    exact List.mem_map_of_mem hk
  rw [Vector.toList_map] at hmem
  obtain ⟨k', hk', e⟩ := List.mem_map.1 hmem
  exact (congrArg Hank.keeper e).symm.trans (hw.2 k' hk')

/-- Banks that wake are settled parts of a wave. -/
theorem wakeBanks_waves (s : State) (c : Ctx) (i : Instr) :
    ∃ ws : List Wave, wakeBanks s c i = { s with waves := ws } ∧ ws.map settledWave = s.waves.map settledWave := by
  have wake (rs : List Nat) : (modWave s c.w fun v => v.wake rs).waves.map settledWave = s.waves.map settledWave := by
    refine (congrArg State.waves (withoutHome_modWave (s := s) c.w fun v => ?_) :)
    unfold Wave.wake
    split <;> rfl
  unfold wakeBanks wakePred
  split
  · split
    · exact ⟨_, rfl, rfl⟩
    · exact ⟨_, rfl, wake _⟩
  · split
    · exact ⟨_, rfl, rfl⟩
    · exact ⟨_, rfl, wake _⟩

theorem withoutHome_wakeBanks (s : State) (c : Ctx) (i : Instr) : withoutHome (wakeBanks s c i) = withoutHome s := by
  obtain ⟨ws, e, hws⟩ := wakeBanks_waves s c i
  rw [e]
  exact withoutHome_of_waves hws

/-- A word that runs in a plain state, and whose answer's state is among `J`: the next state is one of `J` but for strands, flags, barriers and the
schedule. -/
theorem issue_answers {c : Ctx} {i : Instr} {body : State → Ctx → Res} {J : State → Prop} (hplain : plainly s c) (hrun : runs s c i = true)
    (hJ : ∀ u, J u → withoutAccess u = withoutAccess (wakeBanks s c i)) (hstart : J (wakeBanks s c i))
    (hb : Answers J (body (wakeBanks s c i) c)) (ht : issue s i body = .next t) :
    ∃ u, J u ∧ StateFrame c.w (TrailFrame c) u t := by
  obtain ⟨-, -, -, hwaits, -, -, hhandler, hstrands⟩ := hplain
  obtain ⟨v, hv, hlive, hsv⟩ := wave_of_ctxOf (ctxOf_of_runs hrun)
  have hwake := withoutAccess_of_home (withoutHome_wakeBanks s c i)
  rw [issue_finish hrun] at ht
  cases hr : body (wakeBanks s c i) c with
  | done x st =>
    rw [hr] at hb ht
    obtain ⟨hx, hf⟩ := hb
    obtain ⟨y, hy, hmove⟩ := finishDone_moves (s0 := wakeBanks s c i) (s := x) (i := i) (st := st) (region_of_runs hrun) hhandler hf
    have hsame := (hJ x hx).trans hwake
    obtain ⟨v1, hv1, e1⟩ := wave_of_settled (congrArg State.waves hsame :) hv
    have hphase : v1.phase = v.phase := (congrArg Wave.phase e1 :)
    have hkept : v1.strands = v.strands := (congrArg Wave.strands e1 :)
    have hlive1 := hphase.trans hlive
    have hstrands1 : v1.strands ≠ [] := (hkept.trans hsv).symm ▸ hstrands
    obtain ⟨v2, hv2, hm⟩ := hmove.wave v1 hv1
    have hphase2 : v2.phase = v1.phase := (congrArg Wave.phase hm.parts :)
    have hlive2 := hphase2.trans hlive1
    have hsettle := (settled_frame hv2 hlive2 (hm.strands hstrands1)
      (nothingWaits_of_sameUnits hmove.units (nothingWaits_of_access hsame hwaits))).1
    obtain rfl : bump (settle y c.w) = t := Host.Outcome.next.inj (hy.symm.trans ht)
    exact ⟨x, hx, hmove.comp hsettle fun _ _ _ h h' => h.toTrailFrame.trans h'⟩
  | hold =>
    rw [hr] at ht
    cases ht
    refine ⟨_, hstart, StateFrame.comp (u := pruneRunning _) (.modWave _ fun v => (MoveFrame.modThread v _ .inr).toTrailFrame)
      (.of_units (R := TrailFrame c) (fun v => (MoveFrame.refl v).toTrailFrame) rfl rfl) fun _ _ _ => .trans⟩
  | stuck f =>
    rw [hr] at ht
    cases ht
  | holdIn | park | moved | abort =>
    rw [hr] at hb
    exact hb.elim

end

end Sys2Proof.AccessWordFrames
end

section
/-! SUPPORT. Words whose lanes access memory one after another (07 R155, R158): what the lanes leave alone, and with them the word. -/

namespace Sys2Proof.LaneWords

open Sys2Proof Sys2Proof.Machine Sys2Proof.Laws Sys2Proof.RegisterFrame Sys2Proof.AfterAWord Sys2Proof.CacheFrames Sys2Proof.AccessFrames
  Sys2Proof.LaneFrames Sys2Proof.AccessWordFrames

/-! ### Lanes one after another -/

section
variable {α : Type} {I J : State → Prop} {h : Nat} {f : State → Nat → LaneStep α}

/-- A state in which a lane acts belongs to one of the word's lanes. -/
theorem snd_mem_of_lanesBefore {ls : List Nat} {s : State} {p : State × Nat} (hp : p ∈ lanesBefore h f ls s) : p.2 ∈ ls := by
  induction ls generalizing s with
  | nil => cases hp
  | cons l ls ih =>
    rcases List.mem_cons.1 hp with rfl | hp
    · exact List.mem_cons_self
    · exact List.mem_cons_of_mem _ (ih hp)

/-- Lanes that each keep `I`, where the host is asked for no page, keep it together, and none stops for poison. -/
theorem overLanes_keeps (hno : ∀ u, I u → ∀ va, asksHost u h va ≠ true) {ls : List Nat} {s : State} {res : List (Nat × α)} {st : Stops}
    {b : LaneAcc α} (hover : overLanes h f ls ⟨s, res, st⟩ = .ok b) (hf : ∀ p ∈ lanesBefore h f ls s, I p.1 → Keeps p.1 h I (f p.1 p.2)) (hs : I s)
    (hst : ∀ e ∈ st.faults, e.cause ≠ .uncorrectable) : I b.s ∧ ∀ e ∈ b.st.faults, e.cause ≠ .uncorrectable := by
  induction ls generalizing s res st with
  | nil =>
    cases hover
    exact ⟨hs, hst⟩
  | cons l ls ih =>
    have hl := hf (s, l) List.mem_cons_self hs
    have stopped {e : LaneFault} (he : e.cause ≠ .uncorrectable) : ∀ x ∈ st.faults ++ [e], x.cause ≠ .uncorrectable := fun x hx => by
      rcases List.mem_append.1 hx with hx | hx
      · exact hst x hx
      · exact List.mem_singleton.1 hx ▸ he
    simp only [lanesBefore, List.forall_mem_cons] at hf
    simp only [overLanes] at hover
    cases hstep : f s l with
    | go t r =>
      simp only [hstep] at hl hf hover
      exact ih hover hf.2 hl hst
    | stop e =>
      simp only [hstep] at hl hf hover
      exact ih hover hf.2 hs (stopped hl)
    | trip t e =>
      simp only [hstep] at hl hf hover
      exact ih hover hf.2 hl.1 (stopped hl.2)
    | migrate va wr sp =>
      rw [hstep] at hl
      exact absurd hl (hno _ hs va)
    | wait =>
      simp only [hstep] at hf hover
      exact ih hover hf.2 hs hst
    | waitIn t =>
      simp only [hstep] at hl hf hover
      exact ih hover hf.2 hl hst
    | hole pa =>
      simp only [hstep] at hover
      cases hover

/-- A word over lanes answers with what they keep, and what follows from their results. -/
theorem withRoom_answers {room : Nat → Bool} {s : State} {c : Ctx} {k : State → List (Nat × α) → State}
    (hno : ∀ u, I u → ∀ va, asksHost u c.v.hank va ≠ true)
    (hf : ∀ p ∈ lanesBefore c.v.hank f (lanesOf c.act) s, I p.1 → Keeps p.1 c.v.hank I (f p.1 p.2)) (hs : I s)
    (hIJ : ∀ t, I t → J t) (hk : ∀ t res, I t → J (k t res)) : Answers J (withRoom room s c f k) := by
  unfold withRoom
  split
  · trivial
  · next b hover =>
    obtain ⟨hb, hfaults⟩ := overLanes_keeps hno hover hf hs fun _ he => nomatch he
    split
    · exact ⟨hIJ _ hb, hfaults⟩
    · split
      · exact ⟨hk _ _ hb, hfaults⟩
      · trivial

end

/-! ### The word -/

/-- What a word may store to. -/
def stores (s : State) : Sparse Byte × Sparse Byte × List Team × List Version := (s.mem, s.vault, s.teams, s.versions)

section
variable {s t u : State} {c : Ctx}

theorem sameRegs_of_trail (h : StateFrame c.w (TrailFrame c) s t) : sameRegs s t := fun k v hv => by
  by_cases hk : k = c.w
  · subst hk
    obtain ⟨v', hv', hm⟩ := h.wave v hv
    have e := hm.parts
    exact ⟨v', hv', (congrArg Wave.regs e :), hm.regs, (congrArg Wave.fcr e :), (congrArg Wave.ars e :), (congrArg Wave.rpstat e :),
      (congrArg Wave.kptr e :), (congrArg Wave.lvl e :), (congrArg Wave.ext e :), (congrArg Wave.waveid e :), (congrArg Wave.ply e :),
      (congrArg Wave.trapRegs e :), (congrArg Wave.yarns e :)⟩
  · obtain ⟨v', hv', e⟩ := h.others.2 k v hk hv
    have haccess : v'.access = v.access := (congrArg Wave.access e :)
    exact ⟨v', hv', (congrArg Wave.regs e :), by rw [haccess], (congrArg Wave.fcr e :), (congrArg Wave.ars e :), (congrArg Wave.rpstat e :),
      (congrArg Wave.kptr e :), (congrArg Wave.lvl e :), (congrArg Wave.ext e :), (congrArg Wave.waveid e :), (congrArg Wave.ply e :),
      (congrArg Wave.trapRegs e :), (congrArg Wave.yarns e :)⟩

/-- A word that runs in a plain state, and whose answer's state is among `J`: registers stay, and what it stores to is as one of `J` has it. -/
theorem issue_frame {i : Instr} {body : State → Ctx → Res} {J : State → Prop} (hplain : plainly s c) (hrun : runs s c i = true)
    (ht : issue s i body = .next t) (hJ : ∀ u, J u → withoutAccess u = withoutAccess s) (hstart : J (wakeBanks s c i))
    (hb : Answers J (body (wakeBanks s c i) c)) : ∃ u, J u ∧ sameRegs s t ∧ stores t = stores u := by
  obtain ⟨u, hu, hframe⟩ := issue_answers hplain hrun (fun u hu => (hJ u hu).trans (hJ _ hstart).symm) hstart hb ht
  have hwaves : u.waves.map settledWave = s.waves.map settledWave := (congrArg State.waves (hJ u hu) :)
  exact ⟨u, hu, sameRegs_trans (sameRegs_of_settled hwaves) (sameRegs_of_trail hframe), (congrArg stores hframe.units :)⟩

/-- Where the host may be asked for no page, no access asks it (R392, R438). -/
theorem not_asksHost_of_access (hplain : plainly s c) (h : withoutAccess u = withoutAccess s) (k va : Nat) : asksHost u k va ≠ true := by
  obtain ⟨-, -, -, -, hack, -⟩ := hplain
  have hsysc : u.sysc = s.sysc := (congrArg State.sysc h :)
  simp only [asksHost, hsysc, hack, Bool.false_and]
  exact Bool.false_ne_true

end

/-! ### What the word puts in flight -/

/-- A state without what is in flight, and without what an access changes at the home slices; `g` takes away more. -/
def beside (g : State → State) (s : State) : State := g { withoutHome s with flights := [], nextFlight := 0, perf := [] }

section
variable {g : State → State} {A : Nat → Prop} {s t u : State} {c : Ctx}

/-- An effect on what is in flight. -/
theorem effect_inFlight (hs : Ready s) (fs : List Flight) (n : Nat) (ps : Sparse DWord) :
    Effect (beside g) A s { s with flights := fs, nextFlight := n, perf := ps } := .of_eq hs rfl rfl

/-- An effect at the home slices. -/
theorem effect_beside_of_home (h : Effect withoutHome A s t) : Effect (beside g) A s t :=
  h.coarsen (fun x => g { x with flights := [], nextFlight := 0, perf := [] }) fun _ => rfl

/-- The lines that the operation just put in flight reaches, and the caches that change with them (R301, R356, R381). -/
theorem effect_reach (hs : Ready s) (c : Ctx) (s0 : State) (rc : Nat) (wr : Bool) (vas : List Nat) :
    Effect (beside g) A s (c.reach s0 s rc wr vas) := by
  have touched {t : State} (h : Effect (beside g) A s t) (ls : List (Nat × Nat × DWord)) :
      Effect (beside g) A s (c.touch t rc wr true ls) :=
    h.trans (effect_beside_of_home (.of_caches h.ready (.touch h.ready.toHomesAhead _ _ _ _ _)))
  exact touched (iteInduction (motive := Effect (beside g) A s) (fun _ => effect_inFlight hs _ _ _) fun _ => effect_inFlight hs _ _ _) _

/-- Where no pair compares, no signature is added (R272). -/
theorem addSigs_of_noPair (hp : ∀ p ∈ s.pairs, p.active = false) (w : Nat) (v : Wave) (sg : List Sig) : addSigs s w v sg = s := by
  have hpair : pairOf s v = none := by
    unfold pairOf
    cases v.pair with
    | none => rfl
    | some k =>
      cases hk : s.pairs[k]? with
      | none => simp [hk]
      | some p => simp [hk, hp p (List.mem_of_getElem? hk)]
  rw [addSigs, hpair]

/-! ### Words that access memory -/

/-- A plain state stands ready. -/
theorem ready_of_plain (hplain : plainly s c) : Ready s := by
  obtain ⟨hcanon, -, hpoison, -, -, hdirty, -, -⟩ := hplain
  exact ⟨⟨hpoison, hdirty⟩, hcanon.1⟩

/-- In a plain state no pair compares. -/
theorem noPairs_of_plain (hplain : plainly s c) : ∀ p ∈ s.pairs, p.active = false := by
  obtain ⟨-, -, -, ⟨hpairs, -⟩, -⟩ := hplain
  exact hpairs

/-- The state that the lanes start from. -/
theorem effect_wakeBanks (hs : Ready s) (c : Ctx) (i : Instr) : Effect (beside g) A s (wakeBanks s c i) := by
  obtain ⟨ws, e, hws⟩ := wakeBanks_waves s c i
  rw [e]
  exact effect_beside_of_home (.of_eq hs (withoutHome_of_waves hws) rfl)

/-- What some effects leave out of the parts that words store to. -/
def withoutStores (s : State) : State := { s with versions := [], teams := [], partials := [], vault := [] }

/-- A word whose lanes each have an effect, and that puts it in flight: registers stay, and of memory the bytes that no lane may write. -/
theorem accessWord_frame {α : Type} {i : Instr} {body : State → Ctx → Res} {f : State → Nat → LaneStep α} {room : Nat → Bool}
    {k : State → List (Nat × α) → State} {B : State → Nat → Nat → Prop} (hg : ∀ x, withoutStores (g x) = withoutStores x) (hplain : plainly s c)
    (hrun : runs s c i = true) (ht : issue s i body = .next t)
    (hlane : ∀ u l, Ready u → beside g u = beside g s → Keeps u c.v.hank (Effect (beside g) (B u l) u) (f u l))
    (hk : ∀ (A : Nat → Prop) u res, Effect (beside g) A s u → Effect (beside g) A u (k u res))
    (hb : body (wakeBanks s c i) c = .hold ∨ body (wakeBanks s c i) c = withRoom room (wakeBanks s c i) c f k) :
    sameRegs s t ∧ (∃ u, beside g u = beside g s ∧ stores t = stores u)
      ∧ ∀ a, (∀ p ∈ lanesBefore c.v.hank f (lanesOf c.act) (wakeBanks s c i), ¬B p.1 p.2 a) → t.mem.read a = s.mem.read a := by
  have access {u : State} (h : beside g u = beside g s) : withoutAccess u = withoutAccess s := by
    have e := congrArg withoutStores h
    simp only [beside, hg] at e
    exact e
  have hs := ready_of_plain hplain
  obtain ⟨u, hu, hregs, hstores⟩ := issue_frame
    (J := Effect (beside g) (fun a => ∃ p ∈ lanesBefore c.v.hank f (lanesOf c.act) (wakeBanks s c i), B p.1 p.2 a) s)
    hplain hrun ht (fun u hu => access hu.same) (effect_wakeBanks hs c i) (by
      rcases hb with hb | hb <;> rw [hb]
      · trivial
      · refine withRoom_answers (fun u hu => not_asksHost_of_access hplain (access hu.same) _) (fun p hp hI => ?_) (effect_wakeBanks hs c i)
          (fun _ h => h) fun u res hu => hu.trans (hk _ u res hu)
        exact (hlane p.1 p.2 hI.ready hI.same).mono fun v hv => hI.trans (hv.mono fun a ha => ⟨p, hp, ha⟩))
  refine ⟨hregs, ⟨u, hu.same, hstores⟩, fun a ha => ?_⟩
  rw [show t.mem = u.mem from congrArg Prod.fst hstores]
  exact hu.mem a fun ⟨p, hp, hB⟩ => ha p hp hB

/-! ### Words with a memory of their own -/

/-- A state without scratch, vault memory and what is in flight. -/
def withoutOwn (s : State) : State := { s with teams := [], vault := [], flights := [], nextFlight := 0, perf := [] }

/-- A word whose lanes each act on scratch or vault memory only: registers and memory stay, and what its lanes keep of the two. -/
theorem ownWord_frame {α : Type} {i : Instr} {body : State → Ctx → Res} {f : State → Nat → LaneStep α} {room : Nat → Bool}
    {k : State → List (Nat × α) → State} {P : State → Prop} (hP : ∀ u v : State, u.teams = v.teams → u.vault = v.vault → P u → P v)
    (hplain : plainly s c) (hrun : runs s c i = true) (ht : issue s i body = .next t) (hs : P s)
    (hlane : ∀ u, ∀ l ∈ lanesOf c.act, Ready u → u.hanks = s.hanks → P u →
      Keeps u c.v.hank (fun v => withoutOwn v = withoutOwn u ∧ P v) (f u l))
    (hk : ∀ u res, ∃ x, k u res = addFlight u x)
    (hb : body (wakeBanks s c i) c = .hold ∨ body (wakeBanks s c i) c = withRoom room (wakeBanks s c i) c f k) :
    sameRegs s t ∧ t.mem = s.mem ∧ t.versions = s.versions ∧ P t := by
  obtain ⟨ws, e, hws⟩ := wakeBanks_waves s c i
  have hstart : withoutOwn (wakeBanks s c i) = withoutOwn { s with waves := ws } := congrArg withoutOwn e
  have access {u : State} (h : withoutOwn u = withoutOwn (wakeBanks s c i)) : withoutAccess u = withoutAccess s := by
    have hown : withoutAccess u = withoutAccess (wakeBanks s c i) := (congrArg withoutAccess h :)
    exact hown.trans (withoutAccess_of_home (withoutHome_wakeBanks s c i))
  have ready {u : State} (h : withoutOwn u = withoutOwn (wakeBanks s c i)) : Ready u := by
    have hready := ready_of_plain hplain
    have hmem : u.mem = s.mem := (congrArg State.mem (h.trans hstart) :)
    have hstale : u.stale = s.stale := (congrArg State.stale (h.trans hstart) :)
    have hpoison : u.poison = s.poison := (congrArg State.poison (h.trans hstart) :)
    exact ⟨⟨hpoison.trans hready.poison, hstale ▸ hready.dirty⟩, hmem ▸ hready.wf⟩
  have hwake : P (wakeBanks s c i) := hP s _ (by rw [e]) (by rw [e]) hs
  obtain ⟨u, ⟨hu, hPu⟩, hregs, hstores⟩ := issue_frame (J := fun u => withoutOwn u = withoutOwn (wakeBanks s c i) ∧ P u) hplain hrun ht
    (fun u hu => access hu.1) ⟨rfl, hwake⟩ (by
      rcases hb with hb | hb <;> rw [hb]
      · trivial
      · refine withRoom_answers (I := fun u => withoutOwn u = withoutOwn (wakeBanks s c i) ∧ P u)
          (fun u hu => not_asksHost_of_access hplain (access hu.1) _) (fun p hp ⟨hI, hPI⟩ => ?_) ⟨rfl, hwake⟩ (fun _ h => h) fun u res ⟨hu, hPu⟩ => ?_
        · have hhanks : p.1.hanks = s.hanks := (congrArg State.hanks (hI.trans hstart) :)
          exact (hlane p.1 p.2 (snd_mem_of_lanesBefore hp) (ready hI) hhanks hPI).mono fun v ⟨hv, hPv⟩ => ⟨hv.trans hI, hPv⟩
        · obtain ⟨x, hx⟩ := hk u res
          rw [hx]
          exact ⟨hu, hP u _ rfl rfl hPu⟩)
  simp only [stores, Prod.mk.injEq] at hstores
  obtain ⟨hmem, hvault, hteams, hversions⟩ := hstores
  exact ⟨hregs, hmem.trans (congrArg State.mem (hu.trans hstart) :), hversions.trans (congrArg State.versions (hu.trans hstart) :),
    hP u t hteams.symm hvault.symm hPu⟩

end

end Sys2Proof.LaneWords
end

section
/-! SUPPORT. What the words that access memory leave alone (07 R155 to R177): loads, stores and atomics, through pages, in scratch and in vault
memory. -/

namespace Sys2Proof.MemoryKindFrames

open Sys2Proof Sys2Proof.Machine Sys2Proof.Laws Sys2Proof.AccessFrames Sys2Proof.LaneFrames Sys2Proof.AccessWordFrames Sys2Proof.LaneWords

section
variable {s t u : State} {c : Ctx} {i : Instr} {body : State → Ctx → Res}

/-! ### Through pages -/

/-- An operation that goes in flight, and the lines that it reaches. -/
theorem effect_addFlight_reach {g : State → State} {A : Nat → Prop} (hs : Ready u) (y : Flight) (c : Ctx) (s0 : State) (rc : Nat) (wr : Bool)
    (vas : List Nat) : Effect (beside g) A u (c.reach s0 (addFlight u y) rc wr vas) := by
  have hfly : Effect (beside g) A u (addFlight u y) := effect_inFlight hs _ _ _
  exact hfly.trans (effect_reach hfly.ready c s0 rc wr vas)

/-- A word whose lanes load through pages (R161, R165). -/
theorem pageLoad_frame {addr : Nat → Nat} {n cl rc : Nat} {sp : Space} {s0 : State} {y : List (Nat × Bytes) → Flight} (hplain : plainly s c)
    (hrun : runs s c i = true) (ht : issue s i body = .next t)
    (hb : body (wakeBanks s c i) c = .hold ∨ body (wakeBanks s c i) c
      = withLanes (wakeBanks s c i) c (fun u l => loadLane u c l (addr l) n sp cl)
        fun t res => c.reach s0 (addFlight t (y res)) rc false (res.map fun p => addr p.1)) :
    sameRegs s t ∧ t.vault = s.vault ∧ t.teams = s.teams ∧ t.versions = s.versions
      ∧ ∀ a, (∀ p ∈ lanesBefore c.v.hank (fun u l => loadLane u c l (addr l) n sp cl) (lanesOf c.act) (wakeBanks s c i),
          ∀ lf, translate p.1 c.v.hank (addr p.2) n false = .ok (.mem lf) → ¬(lf.loc ≤ a ∧ a < lf.loc + 8)) →
        t.mem.read a = s.mem.read a := by
  obtain ⟨-, hpart, -⟩ := id hplain
  obtain ⟨hregs, ⟨u, hu, hstores⟩, hmem⟩ := accessWord_frame (g := id)
    (B := fun u l a => ∃ lf, translate u c.v.hank (addr l) n false = .ok (.mem lf) ∧ entryBytes lf a) (fun _ => rfl) hplain hrun ht
    (fun u l hu hsame => by
      have hp : u.partials = s.partials := (congrArg State.partials hsame :)
      exact (loadLane_keeps hu (hp.trans hpart) c l (addr l) n sp cl).mono fun _ => effect_beside_of_home)
    (fun _ u res hu => effect_addFlight_reach hu.ready _ c s0 rc false _) hb
  simp only [stores, Prod.mk.injEq] at hstores
  obtain ⟨-, hvault, hteams, hversions⟩ := hstores
  exact ⟨hregs, hvault.trans (congrArg State.vault hu :), hteams.trans (congrArg State.teams hu :),
    hversions.trans (congrArg State.versions hu :), fun a ha => hmem a fun p hp ⟨lf, hlf, he⟩ => ha p hp lf hlf he⟩

/-- A state without versions and scratch. -/
def clearWritten (s : State) : State := { s with versions := [], teams := [] }

/-- A word whose lanes write through pages (R163, R172). -/
theorem pageWrite_frame {α : Type} {f : State → Nat → LaneStep α} {room : Nat → Bool} {k : State → List (Nat × α) → State} {addr : Nat → Nat}
    {n : Nat} (hplain : plainly s c) (hrun : runs s c i = true) (ht : issue s i body = .next t)
    (hf : ∀ u l, Ready u → u.partials = [] → Keeps u c.v.hank (WriteEffect c.v.hank c.v.ply (addr l) n u) (f u l))
    (hk : ∀ (A : Nat → Prop) u res, Ready u → (∀ p ∈ u.pairs, p.active = false) → Effect (beside clearWritten) A u (k u res))
    (hb : body (wakeBanks s c i) c = .hold ∨ body (wakeBanks s c i) c = withRoom room (wakeBanks s c i) c f k) :
    sameRegs s t ∧ t.vault = s.vault
      ∧ ∀ a, (∀ p ∈ lanesBefore c.v.hank f (lanesOf c.act) (wakeBanks s c i),
          ∀ lf, translate p.1 c.v.hank (addr p.2) n true = .ok (.mem lf) →
            ¬(lf.loc ≤ a ∧ a < lf.loc + 8) ∧ (storePly (hankOf p.1 c.v.hank) c.v.ply (addr p.2) = 0 → ¬(lf.pa ≤ a ∧ a < lf.pa + n))) →
        t.mem.read a = s.mem.read a := by
  obtain ⟨-, hpart, -⟩ := id hplain
  obtain ⟨hregs, ⟨u, hu, hstores⟩, hmem⟩ := accessWord_frame (g := clearWritten)
    (B := fun u l a => ∃ lf, translate u c.v.hank (addr l) n true = .ok (.mem lf)
      ∧ leafBytes (storePly (hankOf u c.v.hank) c.v.ply (addr l)) lf n a) (fun _ => rfl) hplain hrun ht
    (fun u l hu hsame => by
      have hp : u.partials = s.partials := (congrArg State.partials hsame :)
      exact (hf u l hu (hp.trans hpart)).mono fun _ hv =>
        hv.effect.coarsen (fun x => { x with flights := [], nextFlight := 0, perf := [] }) fun _ => rfl)
    (fun A u res hu => hk A u res hu.ready (by
      have hp : u.pairs = s.pairs := (congrArg State.pairs hu.same :)
      exact hp ▸ noPairs_of_plain hplain)) hb
  simp only [stores, Prod.mk.injEq] at hstores
  obtain ⟨-, hvault, -, -⟩ := hstores
  exact ⟨hregs, hvault.trans (congrArg State.vault hu :), fun a ha => hmem a fun p hp ⟨lf, hlf, he⟩ =>
    he.elim (ha p hp lf hlf).1 fun ⟨hq, hbytes⟩ => (ha p hp lf hlf).2 hq hbytes⟩

/-! ### Scratch -/

/-- A lane's scratch access stops for no poison (R159, R166). -/
theorem ne_uncorrectable_of_scratchCheck {l off n : Nat} {wr : Bool} {e : LaneFault} (h : scratchCheck s c l off n wr = .error e) :
    e.cause ≠ .uncorrectable := by
  unfold scratchCheck at h
  dsimp only at h
  split at h
  · cases h
    exact Cause.noConfusion
  · split at h
    · cases h
      exact Cause.noConfusion
    · split at h
      · cases h
      · cases h
        exact Cause.noConfusion

/-- A key after another's is listed. -/
theorem get?_insert_of_ne {α : Type} (m : Sparse α) {a b : Nat} (v : α) (hb : b ≠ a) : Sparse.get? (m.insert a v) b = Sparse.get? m b := by
  induction m with
  | nil =>
    simp only [Sparse.insert, Sparse.get?, Ne.symm hb, ↓reduceIte, ite_self]
  | cons p m ih =>
    obtain ⟨k, w⟩ := p
    simp only [Sparse.insert]
    split
    · simp only [Sparse.get?, Ne.symm hb, ↓reduceIte]
      split
      · rw [if_neg (by omega), if_pos (by omega)]
      · rfl
    · split
      · next e =>
        subst e
        simp only [Sparse.get?, Ne.symm hb, ↓reduceIte]
      · simp only [Sparse.get?, ih]

theorem get?_scratchPut_of_outside (m : Sparse Byte) {off b : Nat} (bs : Bytes) (hb : ¬(off ≤ b ∧ b < off + bs.length)) :
    Sparse.get? (scratchPut m off bs) b = Sparse.get? m b := by
  induction bs generalizing m off with
  | nil => rfl
  | cons x bs ih =>
    simp only [List.length_cons] at hb
    rw [scratchPut, ih _ (by omega), get?_insert_of_ne _ _ (by omega)]

/-- Where nothing is poisoned, a write of scratch is one of its team's bytes (R166). -/
theorem scratchWrite_of_noPoison (hp : s.poison = []) (tm off : Nat) (bs : Bytes) :
    scratchWrite s tm off bs = modTeam s tm fun m => { m with scratch := scratchPut m.scratch off bs } := by
  unfold scratchWrite
  exact if_pos (by simp [hp])

/-- A write of scratch leaves every other byte of every team as it is (R166). -/
theorem scratchByte_scratchWrite_of_outside (hp : s.poison = []) {tm tm' off b : Nat} {bs : Bytes}
    (hb : tm' = tm → ¬(off ≤ b ∧ b < off + bs.length)) : scratchByte (scratchWrite s tm off bs) tm' b = scratchByte s tm' b := by
  rw [scratchWrite_of_noPoison hp]
  simp only [scratchByte, teams_modTeam]
  by_cases e : tm = tm'
  · rw [if_pos e]
    cases s.teams[tm']? with
    | none => rfl
    | some m => simp only [Option.map_some, get?_scratchPut_of_outside m.scratch bs (hb e.symm)]
  · rw [if_neg e]

/-- Vault memory as in `s`, and scratch but for the bytes that the lanes act on. -/
def ScratchKept (s : State) (c : Ctx) (off : Nat → Nat) (n : Nat) (u : State) : Prop :=
  u.vault = s.vault
    ∧ ∀ tm b, (tm = c.v.team → ∀ l ∈ lanesOf c.act, ¬(off l ≤ b ∧ b < off l + n)) → scratchByte u tm b = scratchByte s tm b

theorem ScratchKept.refl (off : Nat → Nat) (n : Nat) : ScratchKept s c off n s := ⟨rfl, fun _ _ _ => rfl⟩

theorem ScratchKept.of_eq {off : Nat → Nat} {n : Nat} (v w : State) (hteams : v.teams = w.teams) (hvault : v.vault = w.vault)
    (h : ScratchKept s c off n v) : ScratchKept s c off n w := by
  refine ⟨hvault ▸ h.1, fun tm b hb => ?_⟩
  rw [← h.2 tm b hb]
  unfold scratchByte
  rw [hteams]

/-- A lane's write of scratch. -/
theorem scratchKept_write {off : Nat → Nat} {n l : Nat} {bs : Bytes} (h : ScratchKept s c off n u) (hp : u.poison = []) (hl : l ∈ lanesOf c.act)
    (hbs : bs.length = n) :
    withoutOwn (scratchWrite u c.v.team (off l) bs) = withoutOwn u ∧ ScratchKept s c off n (scratchWrite u c.v.team (off l) bs) := by
  obtain ⟨hvault, hbytes⟩ := h
  refine ⟨by rw [scratchWrite_of_noPoison hp]; rfl, by rw [scratchWrite_of_noPoison hp]; exact hvault, fun tm b hb => ?_⟩
  rw [scratchByte_scratchWrite_of_outside hp fun e => hbs ▸ hb e l hl]
  exact hbytes tm b hb

/-! ### Vault memory -/

/-- A write of vault memory changes nothing else, and of it the bytes behind its offsets (R169, R359). -/
theorem vaultWrite_frame (hv : Sparse.wf (α := Byte) 0 s.vault = true) (h core off : Nat) (bs : Bytes) :
    ∃ vs, vaultWrite s h core off bs = { s with vault := vs } ∧ Sparse.wf (α := Byte) 0 vs = true
      ∧ ∀ key, (∀ k, k < bs.length → key ≠ vaultKey (vwaysOf s h) core (off + k)) →
        Sparse.get (α := Byte) 0 vs key = Sparse.get (α := Byte) 0 s.vault key := by
  induction bs generalizing s off with
  | nil => exact ⟨_, rfl, hv, fun _ _ => rfl⟩
  | cons b bs ih =>
    obtain ⟨vs, e, hvs, hkeys⟩ := ih (s := { s with vault := Sparse.put (α := Byte) 0 s.vault (vaultKey (vwaysOf s h) core off) b })
      (wf_put hv _ b) (off + 1)
    refine ⟨vs, e, hvs, fun key hkey => ?_⟩
    have hrest := hkeys key fun k hk e => hkey (k + 1) (by simpa using hk) (by rw [e, Nat.add_right_comm, Nat.add_assoc]; rfl)
    have hfirst : key ≠ vaultKey (vwaysOf s h) core off := hkey 0 (by simp)
    rw [hrest, get_put 0 hv, if_neg hfirst]

/-- Scratch as in `s`, and vault memory in canonical form and but for the bytes that the lanes act on. -/
def VaultKept (s : State) (c : Ctx) (core : Nat) (off : Nat → Nat) (n : Nat) (u : State) : Prop :=
  u.teams = s.teams ∧ Sparse.wf (α := Byte) 0 u.vault = true
    ∧ ∀ key, (∀ l ∈ lanesOf c.act, ∀ k, k < n → key ≠ vaultKey (vwaysOf s c.v.hank) core (off l + k)) →
      Sparse.get (α := Byte) 0 u.vault key = Sparse.get (α := Byte) 0 s.vault key

/-- A plain state's vault memory is in canonical form. -/
theorem VaultKept.of_plain (hplain : plainly s c) (core : Nat) (off : Nat → Nat) (n : Nat) : VaultKept s c core off n s := by
  obtain ⟨⟨-, hvault⟩, -⟩ := hplain
  exact ⟨rfl, hvault, fun _ _ => rfl⟩

theorem VaultKept.of_eq {core n : Nat} {off : Nat → Nat} (v w : State) (hteams : v.teams = w.teams) (hvault : v.vault = w.vault)
    (h : VaultKept s c core off n v) : VaultKept s c core off n w := by
  unfold VaultKept at h ⊢
  rwa [← hteams, ← hvault]

/-- A lane's write of vault memory. -/
theorem vaultKept_write {core n l : Nat} {off : Nat → Nat} {bs : Bytes} (h : VaultKept s c core off n u) (hp : u.poison = [])
    (hhanks : u.hanks = s.hanks) (hl : l ∈ lanesOf c.act) (hbs : bs.length = n) :
    let t := vaultClear (vaultWrite u c.v.hank core (off l) bs) core (off l) n
    withoutOwn t = withoutOwn u ∧ VaultKept s c core off n t := by
  intro t
  obtain ⟨hteams, hwf, hkeys⟩ := h
  obtain ⟨vs, e, hvs, hput⟩ := vaultWrite_frame hwf c.v.hank core (off l) bs
  have hclear : t = { u with vault := vs } := by
    simp only [t, e]
    exact if_pos (by simp [hp])
  have hways : vwaysOf u c.v.hank = vwaysOf s c.v.hank := by simp only [vwaysOf, hreg, hankOf, hhanks]
  rw [hclear]
  exact ⟨rfl, hteams, hvs, fun key hkey => (hput key fun k hk => hways ▸ hkey l hl k (hbs ▸ hk)).trans (hkeys key hkey)⟩

end

/-- The bytes of registers that an access of a size takes (R156). -/
theorem length_regBytes (c : Ctx) (r l : Nat) (size : BitVec 3) : (regBytes c r (sizeBytes size) l).length = sizeBytes size := by
  have hsize : sizeBytes size ≤ 4 ∨ sizeBytes size / 4 * 4 = sizeBytes size := by
    unfold sizeBytes
    split <;> simp
  unfold regBytes
  split
  · exact length_natLe _ _
  · next hn =>
    simp only [List.length_flatMap, length_natLe, List.map_const', List.length_range, List.sum_replicate, smul_eq_mul]
    exact hsize.resolve_left hn

end Sys2Proof.MemoryKindFrames
end

section
/-! SUPPORT. The frames of the loads, the stores and the atomics (07 R155 to R177), word by word. -/

namespace Sys2Proof.MemoryWordFrames

open Sys2Proof Sys2Proof.Machine Sys2Proof.Laws Sys2Proof.AccessFrames Sys2Proof.LaneFrames Sys2Proof.AccessWordFrames Sys2Proof.LaneWords
  Sys2Proof.MemoryKindFrames

/-- A word that holds, or takes its lanes. -/
theorem hold_or_of_ite {p : Prop} [Decidable p] (r : Res) : (if p then Res.hold else r) = .hold ∨ (if p then Res.hold else r) = r := by
  split
  · exact .inl rfl
  · exact .inr rfl

/-- A word that holds, or answers as one that holds or takes its lanes. -/
theorem hold_or_trans {r q w : Res} (h : r = .hold ∨ r = q) (h' : q = .hold ∨ q = w) : r = .hold ∨ r = w := by
  rcases h with rfl | rfl
  · exact .inl rfl
  · exact h'

/-- A word that, outside regions, holds or takes its lanes (R254). -/
theorem hold_or_of_noRegion {p q : Prop} [Decidable p] [Decidable q] (g : Option Region) {f : Region → Res} (r : Res) : g = none →
    (if p then Res.hold else match g with | some g => f g | none => if q then Res.hold else r) = .hold
      ∨ (if p then Res.hold else match g with | some g => f g | none => if q then Res.hold else r) = r := by
  rintro rfl
  split
  · exact .inl rfl
  · exact hold_or_of_ite r

section
variable {s t u : State} {c : Ctx}

/-! ### Lanes of scratch and vault memory -/

/-- A lane of a scratch word, past its checks (R159, R166, R168). -/
theorem scratchLane_keeps {α : Type} {I : State → Prop} {h l off n : Nat} {wr : Bool} {r : LaneStep α} (hr : Keeps u h I r) :
    Keeps u h I (match scratchCheck u c l off n wr with | .error f => LaneStep.stop f | .ok true => .wait | .ok false => r) := by
  split
  · next hcheck => exact ne_uncorrectable_of_scratchCheck hcheck
  · trivial
  · exact hr

/-- A lane of a vault word, past its checks (R169). -/
theorem vaultLane_keeps {α : Type} {I : State → Prop} {h core l off n : Nat} {wr : Bool} {r : LaneStep α} (hr : Keeps u h I r) :
    Keeps u h I (if off % n ≠ 0 then LaneStep.stop (laneFault l .misalign (BitVec.ofNat 64 off) wr .vault)
      else match vaultFault u h core off n with
        | some d => .stop (laneFault l .protection (BitVec.ofNat 64 off) wr .vault d)
        | none => r) := by
  split
  · exact Cause.noConfusion
  · split
    · exact Cause.noConfusion
    · exact hr

/-! ### Loads -/

/-- What a load of scratch or vault memory keeps: the two memories (R166, R169). -/
theorem ownLoad_frame {i : Instr} {body : State → Ctx → Res} {α : Type} {f : State → Nat → LaneStep α} {k : State → List (Nat × α) → State}
    (hplain : plainly s c) (hrun : runs s c i = true) (ht : issue s i body = .next t) (hf : ∀ u l, Ready u → Keeps u c.v.hank (· = u) (f u l))
    (hk : ∀ u res, ∃ y, k u res = addFlight u y)
    (hb : body (wakeBanks s c i) c = .hold ∨ body (wakeBanks s c i) c = withLanes (wakeBanks s c i) c f k) :
    sameRegs s t ∧ t.vault = s.vault ∧ t.teams = s.teams ∧ t.versions = s.versions ∧ t.mem = s.mem := by
  obtain ⟨hregs, hmem, hversions, hteams, hvault⟩ := ownWord_frame (P := fun u => u.teams = s.teams ∧ u.vault = s.vault)
    (fun u v hteams hvault h => ⟨hteams ▸ h.1, hvault ▸ h.2⟩) hplain hrun ht ⟨rfl, rfl⟩
    (fun u l _ hu _ hP => (hf u l hu).mono fun v hv => by rw [hv]; exact ⟨rfl, hP⟩) hk hb
  exact ⟨hregs, hvault, hteams, hversions, hmem⟩

end

/-- Settles O58: a lane's load goes to its page's entry, or to scratch or vault memory, which it leaves as they are. -/
theorem loadWordsFrame : Obligations.LoadWordsFrame := by
  unfold Obligations.LoadWordsFrame
  intro x s t c hplain
  refine ⟨fun hrun ht => ?_, fun hrun ht => ?_, ?_⟩
  · exact pageLoad_frame (sp := .global) hplain hrun ht (hold_or_of_noRegion _ _ (region_of_runs hrun))
  · exact pageLoad_frame (sp := .param) hplain hrun ht (hold_or_of_ite _)
  · rintro i (rfl | rfl) hrun ht
    · refine ownLoad_frame hplain hrun ht (fun u l hu => scratchLane_keeps ?_) (fun _ _ => ⟨_, rfl⟩) (hold_or_of_ite _)
      rw [scratchPoison_of_none hu]
      rfl
    · refine ownLoad_frame hplain hrun ht (fun u l hu => vaultLane_keeps ?_) (fun _ _ => ⟨_, rfl⟩) (hold_or_of_ite _)
      rw [show vaultPoison u _ _ _ = none from if_pos (by simp [hu.poison])]
      rfl

/-- Settles O59: a lane's store writes behind its page, or the bytes of scratch or vault memory at its offset. -/
theorem storeWordsFrame : Obligations.StoreWordsFrame := by
  unfold Obligations.StoreWordsFrame
  intro x s t c hplain n h
  refine ⟨fun hrun ht => ?_, fun hrun ht => ?_, fun hrun ht => ?_⟩
  · refine pageWrite_frame (addr := accessA c x) hplain hrun ht (fun u l hu hpart => ?_) (fun A u res hu hpairs => ?_)
      (hold_or_of_noRegion _ _ (region_of_runs hrun))
    · have hk := storeLane_keeps hu hpart c l (accessA c x l) (regBytes c x.d.toNat n l)
      rw [length_regBytes] at hk
      rwa [carryStore_of_none hu.poison]
    · rw [addSigs_of_noPair hpairs]
      exact effect_addFlight_reach hu _ c _ _ _ _
  · obtain ⟨hregs, hmem, hversions, hvault, hbytes⟩ := ownWord_frame (P := ScratchKept s c (fun l => sAddr c x l x.pa x.f n) n) (.of_eq) hplain
      hrun ht (.refl _ _) (fun u l hl hu _ hP => scratchLane_keeps (by
        rw [carryStore_of_none hu.poison]
        exact scratchKept_write hP hu.poison hl (length_regBytes c x.d.toNat l x.size))) (fun _ _ => ⟨_, rfl⟩) (hold_or_of_ite _)
    exact ⟨hregs, hvault, hmem, hversions, hbytes⟩
  · obtain ⟨hregs, hmem, hversions, hteams, -, hkeys⟩ := ownWord_frame
      (P := VaultKept s c (vaultCore c x) (fun l => sAddr c x l x.pa x.off6 n) n) (.of_eq) hplain hrun ht
      (.of_plain hplain _ _ _) (fun u l hl hu hhanks hP => vaultLane_keeps (by
        split
        · exact Cause.noConfusion
        · rw [carryStore_of_none hu.poison]
          exact (vaultKept_write hP hu.poison hhanks hl (length_regBytes c x.d.toNat l x.size) :))) (fun _ _ => ⟨_, rfl⟩) (hold_or_of_ite _)
    exact ⟨hregs, hmem, hversions, hteams, hkeys⟩

section
variable {s t u : State} {c : Ctx}

/-! ### Atomics -/

/-- An atomic that is performed writes behind its lanes' pages (R172, R173). -/
theorem globalAtomic_frame {x : MWord} {i : Instr} {body : State → Ctx → Res} {addr : Nat → Nat} {f : Nat → Nat → Option Nat} {sig : Nat → Bytes}
    (hplain : plainly s c) (hrun : runs s c i = true) (ht : issue s i body = .next t)
    (hb : body (wakeBanks s c i) c = .hold ∨ body (wakeBanks s c i) c = globalAtomic (wakeBanks s c i) c x addr f sig) :
    sameRegs s t ∧ t.vault = s.vault
      ∧ ∀ a, (∀ p ∈ lanesBefore c.v.hank (fun u l => rmwLane u c l (addr l) (sizeBytes x.size) (f l)) (lanesOf c.act) (wakeBanks s c i),
          ∀ lf, translate p.1 c.v.hank (addr p.2) (sizeBytes x.size) true = .ok (.mem lf) →
            ¬(lf.loc ≤ a ∧ a < lf.loc + 8)
              ∧ (storePly (hankOf p.1 c.v.hank) c.v.ply (addr p.2) = 0 → ¬(lf.pa ≤ a ∧ a < lf.pa + sizeBytes x.size))) →
        t.mem.read a = s.mem.read a := by
  refine pageWrite_frame hplain hrun ht (fun u l hu hpart => rmwLane_keeps hu c l (addr l) (sizeBytes x.size) hpart (f l))
    (fun A u res hu hpairs => ?_) (hold_or_trans hb (hold_or_of_ite _))
  rw [addSigs_of_noPair hpairs]
  exact effect_addFlight_reach hu _ c _ _ _ _

/-- An operation that goes in flight. -/
theorem beside_addFlight (u : State) (y : Flight) : beside id (addFlight u y) = beside id u := rfl

/-- An entry of the ply's log, and its operation in flight (R247, R299). -/
theorem beside_appendLog (u : State) (c : Ctx) (k : LogKind) : beside id (appendLog u c k) = beside id u :=
  congrArg (fun x : State => { x with flights := [], nextFlight := 0, perf := [] }) (withoutHome_modHank (s := u) c.v.hank
    (f := fun y => { y with plies := y.plies.map fun p =>
      if p.num = c.v.ply then { p with log := p.log ++ [{ kind := k, ply := c.v.ply, flight := u.nextFlight }] } else p }) fun _ => rfl)

/-- A deferred atomic changes the ply's log and what is in flight (R175, R247). -/
theorem deferAtomic_answers {x : MWord} {addr : Nat → Nat} {entry : List Nat → LogKind} {sig : Nat → Bytes} (hs : Ready u)
    (hpairs : ∀ p ∈ u.pairs, p.active = false) (hno : ∀ va, asksHost u c.v.hank va ≠ true) :
    Answers (fun v => beside id v = beside id u ∧ v.mem = u.mem) (deferAtomic u c x addr entry sig) := by
  unfold deferAtomic
  split
  · trivial
  · next b hover =>
    obtain ⟨rfl, hfaults⟩ := overLanes_keeps (I := (· = u)) (by rintro _ rfl; exact hno) hover
      (fun p _ hp => by rw [hp]; exact deferLane_keeps hs c p.2 _ _) rfl fun _ he => nomatch he
    dsimp only
    split
    · exact ⟨⟨rfl, rfl⟩, hfaults⟩
    · split
      · trivial
      · split
        · refine ⟨⟨rfl, rfl⟩, fun e he => ?_⟩
          rcases List.mem_append.1 he with he | he
          · exact hfaults e he
          · obtain ⟨l, -, rfl⟩ := List.mem_map.1 he
            exact Cause.noConfusion
        · rw [addSigs_of_noPair (s := appendLog _ _ _) hpairs]
          exact ⟨⟨(beside_addFlight _ _).trans (beside_appendLog _ c _), rfl⟩, hfaults⟩

/-- A word that defers its atomic writes nothing (R175). -/
theorem deferAtomic_frame {x : MWord} {i : Instr} {body : State → Ctx → Res} {addr : Nat → Nat} {entry : List Nat → LogKind} {sig : Nat → Bytes}
    (hplain : plainly s c) (hrun : runs s c i = true) (ht : issue s i body = .next t)
    (hb : body (wakeBanks s c i) c = .hold ∨ body (wakeBanks s c i) c = deferAtomic (wakeBanks s c i) c x addr entry sig) :
    sameRegs s t ∧ t.vault = s.vault ∧ t.mem = s.mem ∧ t.versions = s.versions ∧ t.teams = s.teams := by
  have hs := ready_of_plain hplain
  have hwake : Effect (beside id) (fun _ => False) s (wakeBanks s c i) := effect_wakeBanks hs c i
  have hpairs : (wakeBanks s c i).pairs = s.pairs := (congrArg State.pairs hwake.same :)
  have hmem : (wakeBanks s c i).mem = s.mem := by
    obtain ⟨ws, e, -⟩ := wakeBanks_waves s c i
    rw [e]
  have access {u : State} (h : beside id u = beside id (wakeBanks s c i)) : withoutAccess u = withoutAccess s :=
    (congrArg withoutStores (h.trans hwake.same) :)
  obtain ⟨u, ⟨hu, hum⟩, hregs, hstores⟩ := issue_frame
    (J := fun u => beside id u = beside id (wakeBanks s c i) ∧ u.mem = (wakeBanks s c i).mem) hplain hrun ht (fun _ h => access h.1) ⟨rfl, rfl⟩ (by
      rcases hb with hb | hb <;> rw [hb]
      · trivial
      · exact deferAtomic_answers hwake.ready (hpairs ▸ noPairs_of_plain hplain) (not_asksHost_of_access hplain (access rfl) _))
  have hsame := hu.trans hwake.same
  simp only [stores, Prod.mk.injEq] at hstores
  obtain ⟨htm, hvault, hteams, hversions⟩ := hstores
  exact ⟨hregs, hvault.trans (congrArg State.vault hsame :), htm.trans (hum.trans hmem), hversions.trans (congrArg State.versions hsame :),
    hteams.trans (congrArg State.teams hsame :)⟩

end

/-- A state without partial sums. -/
def clearSums (s : State) : State := { s with partials := [] }

/-- Settles O60: a lane's atomic acts behind its page, in scratch, or on the log; a sum is partial. -/
theorem atomicWordsFrame : Obligations.AtomicWordsFrame := by
  unfold Obligations.AtomicWordsFrame
  intro x s t c hplain n h b new clear
  refine ⟨fun hrun ht hnow => ?_, fun hrun ht hnow => ?_, ?_, fun hrun ht => ?_, fun hrun ht => ?_⟩
  · exact globalAtomic_frame (addr := atomA c x) (sig := fun l => regBytes c x.b.toNat n l) hplain hrun ht
      (hold_or_trans (hold_or_of_ite _) (.inr (if_neg hnow)))
  · exact globalAtomic_frame (addr := casA c x) hplain hrun ht (hold_or_trans (hold_or_of_ite _) (.inr (if_neg hnow)))
  · rintro i (rfl | rfl) hrun ht hscope hply
    · exact deferAtomic_frame (addr := atomA c x) hplain hrun ht (hold_or_trans (hold_or_of_ite _) (.inr (if_pos ⟨hscope, hply⟩)))
    · exact deferAtomic_frame (addr := casA c x) hplain hrun ht (hold_or_trans (hold_or_of_ite _) (.inr (if_pos ⟨hscope, hply⟩)))
  · obtain ⟨hregs, hmem, hversions, hvault, hbytes⟩ := ownWord_frame (P := ScratchKept s c (fun l => sAddr c x l 0 x.off6 n) n) (.of_eq) hplain
      hrun ht (.refl _ _) (fun u l hl hu _ hP => scratchLane_keeps (by
        rw [scratchPoison_of_none hu]
        exact scratchKept_write hP hu.poison hl (length_natLe n _))) (fun _ _ => ⟨_, rfl⟩) (hold_or_of_ite _)
    exact ⟨hregs, hvault, hmem, hversions, hbytes⟩
  · obtain ⟨hregs, ⟨u, hu, hstores⟩, hmem⟩ := accessWord_frame (g := clearSums)
      (B := fun u l a => ∃ lf, translate u h (casA c x l) 4 true = .ok (.mem lf) ∧ entryBytes lf a) (fun _ => rfl) hplain hrun ht
      (fun u l hu _ => (caddLane_keeps hu c x l).mono fun _ hv => by
        obtain ⟨v, ps, hv, rfl⟩ := hv
        exact (effect_beside_of_home hv).trans (.of_eq hv.ready rfl rfl))
      (fun A u res hu => by
        have hpairs : u.pairs = s.pairs := (congrArg State.pairs hu.same :)
        rw [addSigs_of_noPair (hpairs ▸ noPairs_of_plain hplain)]
        exact effect_inFlight hu.ready _ _ _) (hold_or_of_ite _)
    simp only [stores, Prod.mk.injEq] at hstores
    obtain ⟨-, hvault, hteams, hversions⟩ := hstores
    exact ⟨hregs, hvault.trans (congrArg State.vault hu :), hteams.trans (congrArg State.teams hu :),
      hversions.trans (congrArg State.versions hu :), fun a ha => hmem a fun p hp ⟨lf, hlf, he⟩ => ha p hp lf hlf he⟩

end Sys2Proof.MemoryWordFrames
end

section
/-! SUPPORT. Branches (08 R186 to R191): what BRA, CALL and BRU do with the lanes they take, and the strands into which BRX and RET send
theirs. -/

namespace Sys2Proof.Branches

open Sys2Proof Sys2Proof.Machine Sys2Proof.Laws Sys2Proof.FaultedLanes Sys2Proof.LaneMovement

/-! ### Words that run -/

/-- A word that runs has an active lane, which is in its strand (R63). -/
theorem ex_ne_zero_of_runs {s : State} {c : Ctx} {i : Instr} (h : runs s c i = true) : c.ex ≠ 0 := by
  have hctx := ctxOf_of_runs h
  have hact : c.act ≠ 0 := by
    simp only [runs, Bool.and_eq_true, bne_iff_ne] at h
    obtain ⟨⟨⟨⟨-, hact⟩, -⟩, -⟩, -⟩ := h
    exact hact
  have hlanes : c.act = activeLanes i c.v c.acc c.ex := by
    simp only [ctxOf] at hctx
    repeat' split at hctx
    all_goals cases hctx
    rfl
  rintro hex
  rw [hlanes, hex, activeLanes] at hact
  split at hact
  · exact hact rfl
  · exact hact BitVec.zero_and

section
variable {i : Instr} {body : State → Ctx → Res} {pre : State → Ctx → Prop} {eff : State → Ctx → State} (he : ∀ s, exec i s = issue s i body)
include he

/-- A meaning that is one issue whose body answers `.ok` where the word runs. -/
theorem givesIf_of_runs (hb : ∀ s c, runs s c i = true → pre (wakeBanks s c i) c → body (wakeBanks s c i) c = .ok (eff (wakeBanks s c i) c)) :
    GivesIf i pre eff := fun s c h hp => (he s).trans (issue_runs h (hb s c h hp))

/-- A meaning that is one issue whose body moves its strand where the word runs. -/
theorem moves_of_runs (hb : ∀ s c, runs s c i = true → pre (wakeBanks s c i) c → body (wakeBanks s c i) c = .moved (eff (wakeBanks s c i) c)) :
    Moves i pre eff := fun s c h hp => (he s).trans (issue_moved h (hb s c h hp))

end

/-! ### Some, all or none of the lanes -/

section
variable (s : State) {c : Ctx} {m : Mask} (pc : DWord)

/-- Every lane is taken: the strand jumps (R187). -/
theorem branch_of_all (h : m = c.ex) : branch s c m pc = jump s c pc := if_pos h

/-- No lane is taken: the strand falls through (R187). -/
theorem branch_of_none (hex : c.ex ≠ 0) (h : m = 0) : branch s c m pc = .ok s := by
  rw [branch, if_neg (h ▸ hex.symm), if_pos h]

/-- Some lanes are taken in the execute slice: they part from the strand (R187, R188). -/
theorem branch_of_some (h0 : m ≠ 0) (hex : m ≠ c.ex) (hacc : c.acc = false) (hr : c.region = none) :
    branch s c m pc = .moved (splitOff s c m (c.st.goto pc)) := by
  simp only [branch, h0, hex, hacc, hr, ↓reduceIte, Bool.false_eq_true, Option.isSome_none]

/-- Some lanes are taken in the access slice: they disagree (R191). -/
theorem branch_of_disagree (h0 : m ≠ 0) (hex : m ≠ c.ex) (hacc : c.acc = true) :
    branch s c m pc = .done s (c.faultAll .divergentAccess) := by
  simp only [branch, h0, hex, hacc, ↓reduceIte, Ctx.fault]

end

/-! ### A target for each lane -/

/-- Where BRX and RET send a lane, when no active lane's target is misaligned: to its target, or through. -/
def laneKey (c : Ctx) (x : CWord) (l : Nat) : Option DWord × Bool :=
  if c.act.getLsbD l then (some (c.perm64 x.d 0 l), false) else (none, false)

/-- The strand of the lanes sent one way: at their target, or gone on. -/
def laneStrand (c : Ctx) (k : Option DWord × Bool) : Strand :=
  match k with
  | (some pc, _) => c.st.goto pc
  | (none, _) => c.st.advance

/-- The strand parts into one for each way its lanes are sent; the first, that of the lowest lane, keeps the number. -/
def sendLanes (x : CWord) (u : State) (c : Ctx) : State :=
  match brxParts c (laneKey c x) (laneStrand c) 8 (lanesOf c.ex) with
  | [] => u
  | t :: ts => modWave u c.w fun v => (v.modThread c.n fun _ => { t with num := c.n }).addStrands ts

/-- No lane left, no further strand. -/
theorem brxParts_nil (c : Ctx) (key : Nat → Option DWord × Bool) (mk : Option DWord × Bool → Strand) (fuel : Nat) :
    brxParts c key mk fuel [] = [] := by
  cases fuel <;> rfl

/-- The strands depend on what is made of the lanes' own keys only. -/
theorem brxParts_congr {c : Ctx} {key : Nat → Option DWord × Bool} {mk mk' : Option DWord × Bool → Strand} (h : ∀ l, mk (key l) = mk' (key l))
    (fuel : Nat) (ls : List Nat) : brxParts c key mk fuel ls = brxParts c key mk' fuel ls := by
  induction fuel generalizing ls with
  | zero => rfl
  | succ fuel ih =>
    cases ls with
    | nil => rfl
    | cons l ls => simp only [brxParts, h l, ih]

/-- What else would be made of a misaligned target does not matter where no key asks for it. -/
theorem brxParts_laneKey {c : Ctx} {x : CWord} {mk : Option DWord × Bool → Strand} (hsome : ∀ pc b, mk (some pc, b) = c.st.goto pc)
    (hnone : mk (none, false) = c.st.advance) (fuel : Nat) (ls : List Nat) :
    brxParts c (laneKey c x) mk fuel ls = brxParts c (laneKey c x) (laneStrand c) fuel ls :=
  brxParts_congr (fun l => by
    unfold laneKey
    split
    · exact hsome _ _
    · exact hnone) fuel ls

/-- Lanes that are all sent one way stay one strand. -/
theorem brxParts_of_one_key (c : Ctx) {key : Nat → Option DWord × Bool} (mk : Option DWord × Bool → Strand) (fuel : Nat)
    {k : Option DWord × Bool} {ls : List Nat} (hne : ls ≠ []) (h : ∀ l ∈ ls, key l = k) :
    brxParts c key mk (fuel + 1) ls = [{ mk k with mask := maskOfList ls }] := by
  obtain ⟨l, ls, rfl⟩ := List.exists_cons_of_ne_nil hne
  have hl := h l List.mem_cons_self
  have hall : ((l :: ls).filter fun j => key j == key l) = l :: ls := List.filter_eq_self.2 fun j hj => by rw [h j hj, hl, beq_self_eq_true]
  have hrest : ((l :: ls).filter fun j => !(key j == key l)) = [] := List.filter_eq_nil_iff.2 fun j hj => by rw [h j hj, hl]; simp
  rw [brxParts, hall, hrest, brxParts_nil, hl]

/-- A mask is that of its lanes. -/
theorem maskOfList_lanesOf (m : Mask) : maskOfList (lanesOf m) = m := by
  refine BitVec.eq_of_getLsbD_eq fun l hl => ?_
  rw [maskOfList, getLsbD_maskOf _ hl, Bool.eq_iff_iff, List.contains_iff_mem, mem_lanesOf]
  exact and_iff_right hl

section
variable {s u : State} {c : Ctx} {x : CWord}

/-- BRX and RET with aligned targets (R189, R190). -/
theorem branchLanes_of_aligned (hex : c.ex ≠ 0) (h : ∀ l ∈ lanesOf c.act, (c.perm64 x.d 0 l).toNat % 8 = 0) :
    branchLanes u c x = .moved (sendLanes x u c) := by
  have hbad (l : Nat) : (c.act.getLsbD l && (c.perm64 x.d 0 l).toNat % 8 != 0) = false := by
    rw [Bool.and_eq_false_imp, bne_eq_false_iff_eq]
    exact fun ha => h l (mem_lanesOf.2 ⟨BitVec.lt_of_getLsbD ha, ha⟩)
  have hkey : (fun l => if c.act.getLsbD l then (some (c.perm64 x.d 0 l), false) else (none, false)) = laneKey c x := rfl
  obtain ⟨l, ls, hls⟩ := List.exists_cons_of_ne_nil (lanesOf_ne_nil hex)
  simp only [branchLanes, hbad, Bool.false_eq_true, ↓reduceIte, List.filter_false, List.map_nil, ne_eq, not_true_eq_false, false_and, hkey]
  rw [brxParts_laneKey, sendLanes, hls]
  · rfl
  · exact fun _ _ => rfl
  · rfl

/-- A single target moves the whole strand (R189). -/
theorem sendLanes_of_one_target {pc : DWord} (hst : c.ex = c.st.mask) (hex : c.ex ≠ 0) (hact : c.act = c.ex)
    (h : ∀ l ∈ lanesOf c.act, c.perm64 x.d 0 l = pc) :
    sendLanes x u c = modThread u c.w c.n fun _ => { c.st.goto pc with num := c.n } := by
  have hkey : ∀ l ∈ lanesOf c.ex, laneKey c x l = (some pc, false) := fun l hl => by
    rw [← hact] at hl
    rw [laneKey, if_pos (mem_lanesOf.1 hl).2, h l hl]
  rw [sendLanes, brxParts_of_one_key c _ 7 (lanesOf_ne_nil hex) hkey, maskOfList_lanesOf, hst]
  rfl

end

/-- Settles O22: the lanes taken are all, none or some; BRX and RET send each lane to its own target. -/
theorem branchWordsComplete : Obligations.BranchWordsComplete := by
  unfold Obligations.BranchWordsComplete
  refine ⟨fun x => ?_, fun x => ?_⟩
  · intro jumped taken linked split
    refine ⟨?_, ?_, ?_, ?_, ?_, ?_, ?_, ?_, ?_⟩
    · exact moves_of (fun _ => rfl) fun u c _ h => branch_of_all u _ h
    · exact givesIf_of_runs (fun _ => rfl) fun s c hrun h => branch_of_none _ _ (ex_ne_zero_of_runs hrun) h
    · exact moves_of (fun _ => rfl) fun u c hr ⟨h0, hex, hacc⟩ => branch_of_some u _ h0 hex hacc hr
    · exact raisesIf_of (fun _ => rfl) fun u c _ ⟨h0, hex, hacc⟩ => branch_of_disagree u _ h0 hex hacc
    · exact moves_of (fun _ => rfl) fun u c _ h => branch_of_all _ _ h
    · exact givesIf_of_runs (fun _ => rfl) fun s c hrun h => branch_of_none _ _ (ex_ne_zero_of_runs hrun) h
    · exact moves_of (fun _ => rfl) fun u c hr ⟨h0, hex, hacc⟩ => branch_of_some _ _ h0 hex hacc hr
    · exact moves_of (fun _ => rfl) fun u c _ h => if_pos h
    · refine givesIf_of (fun _ => rfl) fun u c h => if_neg ?_
      split at h
      · next hsub => rwa [if_pos hsub]
      · next hsub => rwa [if_neg hsub, not_not]
  · intro tgt aligned key mk effect
    refine ⟨?_, ?_, fun pc hpc s c hrun ⟨hact, htgt⟩ => ?_⟩
    · exact moves_of_runs (fun _ => rfl) fun s c hrun h => branchLanes_of_aligned (ex_ne_zero_of_runs hrun) h
    · exact moves_of_runs (fun _ => rfl) fun s c hrun h => branchLanes_of_aligned (ex_ne_zero_of_runs hrun) h
    · obtain ⟨-, hst, -⟩ := num_of_ctxOf (ctxOf_of_runs hrun)
      have hex := ex_ne_zero_of_runs hrun
      refine issue_moved hrun ((branchLanes_of_aligned hex fun l hl => ?_).trans (congrArg Res.moved (sendLanes_of_one_target hst hex hact htgt)))
      rw [show c.perm64 x.d 0 l = pc from htgt l hl, hpc]

end Sys2Proof.Branches
end

section
/-! SUPPORT. JOIN and the barriers (08 R192 to R198): where their words park a strand, and when the group at a JOIN is released. -/

namespace Sys2Proof.JoinsAndBarriers

open Sys2Proof Sys2Proof.Machine Sys2Proof.Laws Sys2Proof.LivenessAndPairs Sys2Proof.LaneMovement Sys2Proof.StickyBits

/-- A meaning that is one issue whose body parks its strand at something other than a class B wait. -/
theorem moves_of_park {i : Instr} {body : State → Ctx → Res} {eff : State → Ctx → State} {p : State → Ctx → Park}
    (he : ∀ s, exec i s = issue s i body) (hb : ∀ u c, body u c = .park (eff u c) (p u c)) (hp : ∀ u c k b, p u c ≠ .block k b) :
    Moves i (fun _ _ => True) (fun u c => modThread (eff u c) c.w c.n fun t => { t with park := p u c }) := fun s c h _ =>
  (he s).trans (issue_parked h (hb _ c) (hp _ c))

/-- Settles O23: each word's park, or its arrival. -/
theorem joinAndBarrierWordsComplete : Obligations.JoinAndBarrierWordsComplete := by
  unfold Obligations.JoinAndBarrierWordsComplete
  refine fun x => ⟨?_, ?_, ?_, ?_⟩
  · exact moves_of_park (fun _ => rfl) (fun _ _ => rfl) (by simp)
  · exact moves_of_park (fun _ => rfl) (fun _ _ => rfl) (by simp)
  · exact gives_of (fun _ => rfl) fun _ _ => rfl
  · exact moves_of_park (fun _ => rfl) (fun _ _ => rfl) (by simp)

/-! ### The release of a group -/

/-- No lane is in an empty mask. -/
theorem eq_zero_iff {m : Mask} : m = 0 ↔ ∀ l, l < 8 → m.getLsbD l = false := by
  rw [← not_iff_not, ← ne_eq, ne_zero_iff]
  simp

/-- A lane of the strands that pass a test. -/
theorem getLsbD_lanesWhere (ts : List Strand) (p : Strand → Bool) (l : Nat) :
    (lanesWhere ts p).getLsbD l = ts.any fun t => p t && t.mask.getLsbD l := by
  rw [lanesWhere, getLsbD_foldl_or, List.any_filter, BitVec.ofNat_eq_ofNat, BitVec.getLsbD_zero, Bool.false_or]

/-- A lane that the strands at a JOIN wait for. -/
theorem getLsbD_joinMasks (ts : List Strand) (j : DWord) (l : Nat) :
    ((ts.filter (Strand.atJoin j)).foldl (fun m t => m ||| t.joinMask) (0 : Mask)).getLsbD l
      = ts.any fun t => t.atJoin j && t.joinMask.getLsbD l := by
  rw [getLsbD_foldl_or, List.any_filter, BitVec.ofNat_eq_ofNat, BitVec.getLsbD_zero, Bool.false_or]

/-- The lanes of a mask outside another: there is none just where each lane of the one is a lane of the other. -/
theorem and_not_eq_zero_iff {m k : Mask} : m &&& ~~~k = 0 ↔ ∀ l, l < 8 → m.getLsbD l = true → k.getLsbD l = true := by
  rw [eq_zero_iff]
  refine forall₂_congr fun l hl => ?_
  rw [BitVec.getLsbD_and, BitVec.getLsbD_not, decide_eq_true hl, Bool.true_and, Bool.and_eq_false_imp, Bool.not_eq_false']

/-- Settles O24: the masks of the rule, lane by lane. -/
theorem joinReleaseRule : Obligations.JoinReleaseRule := by
  unfold Obligations.JoinReleaseRule
  intro ts j at_ wanted lost
  have hwant (l : Nat) : (((ts.filter (Strand.atJoin j)).foldl (fun m t => m ||| t.joinMask) (0 : Mask)) &&& lanesWhere ts fun _ => true).getLsbD l
      = wanted l := by
    rw [BitVec.getLsbD_and, getLsbD_joinMasks, getLsbD_lanesWhere]
    rfl
  have hmissed (l : Nat) (hl : l < 8) (m : Mask) : (m &&& ~~~lanesWhere ts (Strand.atJoin j)).getLsbD l = true
      ↔ m.getLsbD l = true ∧ at_ l = false := by
    rw [BitVec.getLsbD_and, BitVec.getLsbD_not, decide_eq_true hl, Bool.true_and, Bool.and_eq_true, Bool.not_eq_true', getLsbD_lanesWhere]
  rw [joinReleased, Bool.or_eq_true, beq_iff_eq, beq_iff_eq, and_not_eq_zero_iff, and_not_eq_zero_iff]
  refine or_congr (forall₂_congr fun l hl => ?_) (forall₂_congr fun l hl => ?_)
  · rw [hwant, getLsbD_lanesWhere]
  · rw [hmissed l hl, hwant, getLsbD_lanesWhere, and_imp]

end Sys2Proof.JoinsAndBarriers
end

section
/-! SUPPORT. Ending, hints and traps (08 R200 to R203, 13 R317): EXIT, TRAP and BPT in the lanes they take, and the return from a trap. -/

namespace Sys2Proof.EndsAndTraps

open Sys2Proof Sys2Proof.Machine Sys2Proof.Laws Sys2Proof.FaultedLanes

/-! ### TRAP and BPT -/

section
variable {u : State} {c : Ctx} {x : CWord}

/-- The strand of the lanes that TRAP or BPT takes: parked with the cause and CODE, to resume at the next header (R202). -/
def trappedPart (c : Ctx) (x : CWord) (cause : Cause) : Strand :=
  { c.st with
    pc := c.st.nextPc, clause := none
    park := .fault c.opc ((lanesOf (c.taken x)).map fun l => laneFault l cause c.pc false .none x.off.toNat) }

/-- Every lane is taken: the strand parks. -/
theorem raiseTrap_of_all (cause : Cause) (h0 : c.taken x ≠ 0) (hex : c.taken x = c.ex) (hh : c.st.handler = false) :
    raiseTrap u c x cause = .moved (modThread u c.w c.n fun _ => trappedPart c x cause) := by
  simp only [raiseTrap, if_neg h0, hh, Bool.false_eq_true, ↓reduceIte, if_pos hex, trappedPart]

/-- Some lanes are taken: they part from the strand. -/
theorem raiseTrap_of_some (cause : Cause) (h0 : c.taken x ≠ 0) (hex : c.taken x ≠ c.ex) (hh : c.st.handler = false) :
    raiseTrap u c x cause = .moved (splitOff u c (c.taken x) (trappedPart c x cause)) := by
  simp only [raiseTrap, if_neg h0, hh, Bool.false_eq_true, ↓reduceIte, if_neg hex, trappedPart]

/-- What a word that traps with a cause does in the lanes it takes: none, all or some of them. -/
theorem trapWord_completes {i : Instr} {cause : Cause} (he : ∀ s, exec i s = issue s i fun s c => raiseTrap s c x cause) :
    GivesIf i (fun _ c => c.taken x = 0) (fun u _ => u)
    ∧ Moves i (fun _ c => c.taken x ≠ 0 ∧ c.taken x = c.ex ∧ c.st.handler = false)
      (fun u c => modThread u c.w c.n fun _ => trappedPart c x cause)
    ∧ Moves i (fun _ c => c.taken x ≠ 0 ∧ c.taken x ≠ c.ex ∧ c.st.handler = false)
      (fun u c => splitOff u c (c.taken x) (trappedPart c x cause)) :=
  ⟨givesIf_of he fun _ _ h => if_pos h,
    moves_of he fun _ _ _ ⟨h0, hex, hh⟩ => raiseTrap_of_all cause h0 hex hh,
    moves_of he fun _ _ _ ⟨h0, hex, hh⟩ => raiseTrap_of_some cause h0 hex hh⟩

end

/-! ### EXIT -/

section
variable (x : CWord)

/-- EXIT with no lane taken goes on (R200). -/
theorem exit_of_none : GivesIf (.exit x) (fun _ c => c.taken x = 0) (fun u _ => u) := givesIf_of (fun _ => rfl) fun _ _ h => if_pos h

/-- EXIT in the execute slice, but for the handler of an access thread's trap, ends its lanes (R200). -/
theorem exit_of_execute : Moves (.exit x)
    (fun _ c => c.taken x ≠ 0 ∧ c.acc = false ∧ (c.st.handler = false ∨ match c.v.trap with | some e => e.isAccess = false | none => True))
    (fun u c => exitLanes u c (c.taken x)) := by
  refine moves_of (fun _ => rfl) fun u c _ ⟨h0, hacc, hplain⟩ => ?_
  simp only [if_neg h0, hacc, Bool.false_eq_true, ↓reduceIte]
  refine if_neg ?_
  rcases hplain with hh | hplain
  · simp [hh]
  · cases ht : c.v.trap with
    | none => simp
    | some e =>
      have hfalse : e.isAccess = false := by simpa only [ht] using hplain
      simp [hfalse]

/-- EXIT in the handler of an access thread's trap retires the wave (R319). -/
theorem exit_of_accessHandler : Moves (.exit x)
    (fun _ c => c.taken x ≠ 0 ∧ c.acc = false ∧ c.st.handler = true ∧ ∃ e, c.v.trap = some e ∧ e.isAccess = true)
    (fun u c => retireWave u c.w none) := by
  refine moves_of (fun _ => rfl) fun u c _ ⟨h0, hacc, hh, e, he, hacc'⟩ => ?_
  simp only [if_neg h0, hacc, hh, he, hacc', Bool.false_eq_true, ↓reduceIte, Bool.and_self]

/-- EXIT in the access slice ends the access thread (R191). -/
theorem exit_of_access : Moves (.exit x) (fun _ c => c.taken x = 0xFF ∧ c.acc = true)
    (fun u c => modWave u c.w fun v => { v with access := v.access.map fun t => { t with ended := true } }) := by
  refine moves_of (fun _ => rfl) fun u c _ ⟨hm, hacc⟩ => ?_
  simp only [hm, hacc, ↓reduceIte]
  exact if_neg (by decide)

end

/-- Settles O25: EXIT, TRAP and BPT by the lanes they take; the others have one effect each. -/
theorem exitTrapAndHintWordsComplete : Obligations.ExitTrapAndHintWordsComplete := by
  unfold Obligations.ExitTrapAndHintWordsComplete
  intro x taken parked plainTrap
  refine ⟨exit_of_none x, exit_of_execute x, exit_of_accessHandler x, exit_of_access x, ?_, ?_, ?_, ?_⟩
  · exact gives_of (fun _ => rfl) fun _ _ => rfl
  · exact gives_of (fun _ => rfl) fun _ _ => rfl
  · simp only [List.forall_mem_cons]
    exact ⟨trapWord_completes fun _ => rfl, trapWord_completes fun _ => rfl, List.forall_mem_nil _⟩
  · exact moves_of (fun _ => rfl) fun _ _ _ _ => rfl

/-! ### ERET -/

section
variable {v : Wave} {n : Nat} {h b : Strand} (hn : n < 8) (hs : v.strands.filter (fun t => t.num == n) = [h])
include hn hs

/-- The strand of a number, where it is the only one. -/
theorem thread_of_filter : v.thread n = some h := thread_of_update (f := id) (more := []) hn hs (fun _ => rfl) (by simp)

/-- The strand of a number after it was replaced, where it was the only one. -/
theorem thread_of_replace (hb : b.num = n) : (v.modThread n fun _ => b).thread n = some b := by
  have hstrands : (v.modThread n fun _ => b).strands = (v.strands.map fun t => if t.num = n then { b with num := t.num } else t) ++ [] := by
    rw [modThread_of_lt v hn, List.append_nil]
    refine List.map_congr_left fun t _ => ?_
    by_cases ht : t.num = n
    · rw [if_pos ht, if_pos ht, ht, ← hb]
    · rw [if_neg ht, if_neg ht]
  rw [thread_of_update (f := fun t => { b with num := t.num }) hn hs (fun _ => rfl) hstrands, num_of_filter hs, ← hb]

/-- Where the only handler's strand is replaced by one that is no handler's, none is left. -/
theorem handlers_of_replace (hh : v.strands.filter (fun t => t.handler) = [h]) (hb : b.handler = false) :
    (v.modThread n fun _ => b).strands.any (·.handler) = false := by
  have hothers : (v.strands.filter fun t => t.num != n).any (·.handler) = false := by
    rw [List.any_eq_false]
    intro t ht htrue
    obtain ⟨hmem, hne⟩ := List.mem_filter.1 ht
    have : t ∈ v.strands.filter fun t => t.handler := List.mem_filter.2 ⟨hmem, htrue⟩
    rw [hh, List.mem_singleton] at this
    rw [this, num_of_filter hs] at hne
    simp at hne
  rw [modThread_of_lt v hn, any_update, hothers, hs]
  simp [hb]

end

/-- The end of a trap of a strand, once no handler's strand is left. -/
theorem endTrap_of_over {v : Wave} {e : TrapEntry} (hh : v.strands.any (·.handler) = false) (he : v.trap = some e) (ha : e.isAccess = false) :
    v.endTrap = { v with trap := none } := by
  simp only [Wave.endTrap, hh, he, ha, Bool.false_eq_true, ↓reduceIte, List.append_nil]

/-- ERET in the only strand of a strand's handler puts the strand set aside back, at its word or at the address in `%fpc` (R54, R317). -/
theorem returnTrap_of_strand {s : State} {w n : Nat} {v : Wave} {e : TrapEntry} {a h : Strand} {as : List Strand} (hv : s.waves[w]? = some v)
    (he : v.trap = some e) (hacc : e.isAccess = false) (ha : e.aside = a :: as) (ht : v.thread n = some h) :
    returnTrap s w n = modWave (stopRunning s w n) w fun v' =>
      (v'.modThread n fun _ => { a.resumeAt (Word.pair v.trapRegs.fpc e.hi) with num := n, mask := h.mask }).endTrap := by
  simp only [returnTrap, hv, he, ht, hacc, ha, Bool.false_eq_true, ↓reduceIte]

/-- A strand set aside resumes as a handler's just where it was one. -/
theorem resumeAt_handler (a : Strand) (pc : DWord) : (a.resumeAt pc).handler = a.handler := by
  unfold Strand.resumeAt
  split <;> rfl

/-- Settles O53: the handler's strand is replaced by the one set aside, and with it the trap is over. -/
theorem trapReturnResumes : Obligations.TrapReturnResumes := by
  unfold Obligations.TrapReturnResumes
  intro s w n v e a h hn hv he hacc ha hh hhn hs pc back s' hah
  have hback : { a.resumeAt pc with num := n, mask := h.mask } = back := by
    simp only [Strand.resumeAt, back]
    split <;> rfl
  have hbn : back.num = n := congrArg Strand.num hback.symm
  have hbh : back.handler = false := (congrArg Strand.handler hback.symm).trans ((resumeAt_handler a pc).trans hah)
  have hs' : s' = modWave (stopRunning s w n) w fun v' => (v'.modThread n fun _ => back).endTrap := by
    rw [← hback]
    exact returnTrap_of_strand hv he hacc ha (thread_of_filter hn hs)
  have hend : (v.modThread n fun _ => back).endTrap = { v.modThread n (fun _ => back) with trap := none } :=
    endTrap_of_over (handlers_of_replace hn hs hh hbh) (by rw [modThread_of_lt v hn]; exact he) hacc
  refine ⟨by rw [hs']; rfl, fun k hk => ?_, (v.modThread n fun _ => back).endTrap, ?_, ?_, ?_, by rw [hend]⟩
  · rw [hs', getElem?_modWave, if_neg hk.symm]
    rfl
  · rw [hs', getElem?_modWave, if_pos rfl]
    exact congrArg (Option.map _) hv
  · rw [hend, modThread_of_lt v hn]
  · rw [hend]
    exact thread_of_replace hn hs hbn

end Sys2Proof.EndsAndTraps
end

section
/-! SUPPORT. The yarn words (09 R204 to R212) and KWAIT (R220): what each body answers when its checks pass. -/

namespace Sys2Proof.YarnWords

open Sys2Proof Sys2Proof.Machine Sys2Proof.Laws

/-- A record that was read is handed on (R161). -/
theorem withRecord_ok {s t : State} {c : Ctx} {ply va n : Nat} {bs : Bytes} {k : State → Bytes → Res}
    (h : readGlobal s c.v.hank ply (clusterOf c.v.core) va n = .ok t bs) : withRecord s c ply va n k = k t bs := by
  rw [withRecord, h]

/-- The yarn that a descriptor's bytes open (R205, R210). -/
def yarnOf (bs : Bytes) : Yarn := { Yarn.closed with isOpen := true, desc := Vector.ofFn fun k => dwordAt bs k.val }

/-- A valid descriptor that its wave and its bay have room for opens its yarn (R206, R210). -/
theorem openYarn_ok {s : State} {c : Ctx} {y : Nat} {bs : Bytes} (hvalid : (yarnOf bs).valid = true)
    (hwave : (c.v.yarns.toList.mapIdx fun k p => if k = y then 0 else p.buffer).sum + (yarnOf bs).buffer ≤ 2 ^ 16)
    (hbay : bayBuffer s c.v.core c.v.bay c.w y + (yarnOf bs).buffer ≤ 2 ^ 16) :
    openYarn s c y bs = .ok (modYarn (closeYarn s c.w y) c.w y fun _ => { yarnOf bs with seq := (yarnOf bs).seq0 }) := by
  have hdesc := Bool.or_eq_false_iff.2 ⟨congrArg not hvalid, decide_eq_false (Nat.not_lt.2 hwave)⟩
  exact (if_neg (ne_true_of_eq_false hdesc)).trans (if_neg (Nat.not_lt.2 hbay))

/-- Scratch ranges that pass the checks of their size and of the team's slices (R211, R221, R234). -/
theorem wants_pass {s : State} {team : Nat} {ws : List Want} (h : ∀ m ∈ ws, m.len ≤ 2 ^ 18 ∧ scratchRangeOk s team m.off m.len = true) :
    (ws.any fun m => decide (2 ^ 18 < m.len)) = false ∧ (ws.any fun m => !scratchRangeOk s team m.off m.len) = false :=
  ⟨List.any_eq_false.2 fun m hm => by simpa using (h m hm).1, List.any_eq_false.2 fun m hm => by simp [(h m hm).2]⟩

/-- YPUSH of an open yarn whose rows are read and whose markers are free appends a stage that fills (R211, R221). -/
theorem pushStage_ok {s t : State} {c : Ctx} {k : Nat} {y : Yarn} {o : DWord} {bs : Bytes} {p : Option Nat} (hopen : y.isOpen = true)
    (htotal : y.total = 0 ∨ y.pushed ≠ y.total) (hroom : y.stages.length < y.depth)
    (halign : y.role = 2 ∨ y.role = 3 ∨ ∀ a ∈ y.rowStarts o, a % 4 = 0) (hread : readRows c.v y (y.rowStarts o) s [] none = .ok (t, bs, p))
    (hwants : ∀ m ∈ y.wants (y.rowStarts o), m.len ≤ 2 ^ 18 ∧ scratchRangeOk s c.v.team m.off m.len = true)
    (hmarks : markersWait s c.v.team (y.wants (y.rowStarts o)) = false) (hpath : inFlight s c.w .y < 63) :
    let f := c.flight (.fill k y.seq p) (some .y) [] [] false true
    pushStage s c k y o y.seq = .ok (modYarn
      (addFlight (addMarkers t c.v.team (y.wants (y.rowStarts o)))
        (if y.kind = 0 then { f with reads := c.rangeLines s false ((y.rowStarts o).map fun a => (a, y.rowBytes)) } else f))
      c.w k fun y' => { y' with seq := y'.seq + 1, pushed := y'.pushed + 1
                                stages := y'.stages ++ [{ seq := y.seq, st := .filling, data := bs, marks := [] }] }) := by
  have hseq : ¬(y.seq ≠ y.seq ∨ (y.total ≠ 0 ∧ y.pushed = y.total)) := by tauto
  have hfind : (if y.role = 2 ∨ y.role = 3 then none else (y.rowStarts o).find? fun a => a % 4 != 0) = none := by
    split
    · rfl
    · rw [List.find?_eq_none]
      rintro a ha
      simp [(halign.resolve_left (by tauto)).resolve_left (by tauto) a ha]
  obtain ⟨hlen, hrange⟩ := wants_pass hwants
  simp only [pushStage, hopen, hseq, Nat.not_le.2 hroom, hfind, hread, hlen, hrange, hmarks, Nat.not_le.2 hpath, decide_false, Bool.or_self,
    Bool.not_true, Bool.false_eq_true, ↓reduceIte]

/-- A class B word that is parked waits, and changes nothing (R79). -/
theorem waits_of {i : Instr} {body : State → Ctx → Res} {pre : State → Ctx → Prop} (he : ∀ s, exec i s = issue s i body)
    (hb : ∀ u c, pre u c → body u c = .park u (.block u.progress false)) : Waits i pre := fun s c h hp => by
  rw [he, issue_finish h, hb _ _ hp]
  rfl

/-- Settles O18: each word's checks pass; KWAIT compares the path's counter. -/
theorem yarnWordsComplete : Obligations.YarnWordsComplete := by
  unfold Obligations.YarnWordsComplete
  refine fun x => ⟨fun s c t bs h => ?_, gives_of (fun _ => rfl) fun _ _ => rfl, fun s c t bs p h => ?_, ?_, ?_, ?_⟩
  · intro u va q halign hread hvalid hwave hbay
    refine issue_runs h ?_
    exact (if_neg (not_not.2 halign)).trans ((withRecord_ok hread).trans (openYarn_ok hvalid hwave hbay))
  · intro u y sq rs hopen hseq htotal hroom halign hread hwants hmarks hpath f
    refine issue_runs h ?_
    change pushStage u c x.y.toNat y (c.u64 x.a.toNat) sq = _
    simp only [f, hseq]
    exact pushStage_ok hopen htotal hroom halign hread hwants hmarks hpath
  · exact givesIf_of (fun _ => rfl) fun u c hopen => by simp only [hopen, Bool.not_true, Bool.false_eq_true, ↓reduceIte]
  · exact givesIf_of (fun _ => rfl) fun u c hle => if_pos hle
  · exact waits_of (fun _ => rfl) fun u c hlt => if_neg (Nat.not_le.2 hlt)

end Sys2Proof.YarnWords
end

section
/-! SUPPORT. The copy engines (09 R216 to R219): what CPY, CPYD, GATH and SCAT answer when their checks pass and their bytes are copied. -/

namespace Sys2Proof.EngineCommands

open Sys2Proof Sys2Proof.Machine Sys2Proof.Laws

/-- A command whose bytes are copied and that need not wait is in flight (R216, R221). -/
theorem engineDone_ok {s t : State} {c : Ctx} {ws : List Want} {g : Reach} {sg : List Sig} {r : Except EngineStop (State × List Sig)}
    (hr : r = .ok (t, sg)) (hwait : engineWait s c ws sg.length = false) : engineDone s c ws g r = .ok (engineFlight t c ws g sg) := by
  subst hr
  exact if_neg (ne_true_of_eq_false hwait)

/-- GATH and SCAT of rows that are copied, and that need not wait (R218). -/
theorem tableCopy_ok {x : KWord} {scat : Bool} {s t : State} {c : Ctx} {out : Bytes} :
    let base := c.side x.a 0
    let rows := c.side x.b 1
    let idx := c.side x.c 1
    let ctl := (c.u (x.c.toNat + 1)).toNat
    let len := 16 * bitsN ctl 31 12
    let n := bitsN ctl 11 0
    let xs := tableRows s c.v.team base rows idx len n
    let ws : List Want := [{ off := idx, len := 4 * n, wr := false }, { off := rows, len := n * len, wr := !scat }]
    len ≠ 0 → n ≠ 0 → n * len ≤ 262144 → base % 16 = 0 → rows % 16 = 0 → idx % 4 = 0 →
    scratchRangeOk s c.v.team idx (4 * n) = true → markersWait s c.v.team ws = false →
    overRows (tableRow c rows len scat) xs s [] = .ok (t, out) → engineWait s c ws (if scat then 1 else 0) = false →
    tableCopy s c x scat = .ok (engineFlight t c ws
      (if scat then { reads := [], writes := xs.map fun x => (x.va, len) } else { reads := xs.map fun x => (x.va, len), writes := [] })
      (if scat then [sigOf (BitVec.ofNat 64 base) out] else [])) := by
  intro base rows idx ctl len n xs ws hlen hn hsize hbase hrows hidx hrange hmarks hcopy hwait
  have hsg : ((if scat then [sigOf (BitVec.ofNat 64 base) out] else []) : List Sig).length = if scat then 1 else 0 := by
    cases scat <;> rfl
  have hdesc : ¬(len = 0 ∨ n = 0 ∨ 262144 < n * len) := not_or.2 ⟨hlen, not_or.2 ⟨hn, Nat.not_lt.2 hsize⟩⟩
  refine (if_neg hdesc).trans ((if_neg (not_not.2 hbase)).trans ((if_neg (not_not.2 hrows)).trans ((if_neg (not_not.2 hidx)).trans ?_)))
  refine (if_neg (ne_true_of_eq_false (congrArg not hrange))).trans ((if_neg (ne_true_of_eq_false hmarks)).trans ?_)
  exact engineDone_ok (congrArg (Except.map _) hcopy) (hsg ▸ hwait)

/-- Settles O19: each command's checks pass, and what was copied is in flight. -/
theorem engineCommandsComplete : Obligations.EngineCommandsComplete := by
  unfold Obligations.EngineCommandsComplete
  refine fun x => ⟨fun s c t sg h => ?_, fun s c t hd v sg h => ?_, fun s c scat => ?_⟩
  · dsimp only
    intro hlen hzero hsides hsrc hdst hcopy hwait
    have hvault : (x.imm.toNat % 4 == 2 || x.imm.toNat / 4 == 2) = decide (x.imm.toNat % 4 = 2 ∨ x.imm.toNat / 4 = 2) := (Bool.decide_or ..).symm
    refine issue_runs h ?_
    simp only [hlen, hzero, hvault, hsrc, hdst, engineDone_ok hcopy hwait, bne_self_eq_false, ne_eq, not_true_eq_false, Bool.false_or,
      decide_eq_true_eq, ↓reduceIte]
    split at hsides
    · next hv => simp only [if_pos hv, hsides.1, hsides.2, Bool.false_eq_true, ↓reduceIte]
    · next hv => simp only [if_neg hv, hsides, bne_self_eq_false, Bool.false_eq_true, ↓reduceIte]
  · dsimp only
    intro hread hover hbits hlen hctl hsrc hdst hrun hwait
    refine issue_runs h ?_
    simp only [hread, hover, hlen, hsrc, hdst, Nat.not_le.2 hbits, Nat.mod_eq_of_lt hbits, Nat.div_eq_of_lt hctl, Except.bind,
      engineDone_ok hrun hwait, decide_false, bne_self_eq_false, Bool.or_self, Bool.false_eq_true, ne_eq, not_true_eq_false, ↓reduceIte]
  · intro i h u base rows idx ctl len n xs ws hlen hn hsize hbase hrows hidx hrange hmarks t out hcopy hwait
    have hbody := tableCopy_ok (x := x) hlen hn hsize hbase hrows hidx hrange hmarks hcopy hwait
    cases scat with
    | false => exact issue_runs h hbody
    | true => exact issue_runs h hbody

end Sys2Proof.EngineCommands
end

section
/-! SUPPORT. The canonical codes of CPYD (09 R217): the code space that a list of lengths takes, and why codes that fit it are prefix-free. -/

namespace Sys2Proof.PrefixCodes

open Sys2Proof Sys2Proof.Machine

/-! ### Code space -/

/-- The part of the 2^15 longest codes that continue a code of each of these lengths. -/
def codeSpace (ps : List (Nat × Nat)) : Nat := (ps.map fun p => 2 ^ (15 - p.1)).sum

/-- The invariant of `canonCodes`: lengths ascend from `prev` to at most 15, and what continues a code below `code` leaves room for them. -/
structure Fits (ps : List (Nat × Nat)) (prev code : Nat) : Prop where
  sorted : ps.Pairwise fun p q => p.1 ≤ q.1
  lengths : ∀ p ∈ ps, prev ≤ p.1 ∧ p.1 ≤ 15
  room : code * 2 ^ (15 - prev) + codeSpace ps ≤ 2 ^ 15

section
variable {ps : List (Nat × Nat)} {prev code len sym : Nat}

/-- The next code takes its share of the room: it has its length, and the rest fits after it. -/
theorem Fits.next (h : Fits ((len, sym) :: ps) prev code) :
    prev ≤ len ∧ code * 2 ^ (len - prev) < 2 ^ len ∧ Fits ps len (code * 2 ^ (len - prev) + 1) := by
  obtain ⟨hsorted, hlengths, hroom⟩ := h
  obtain ⟨hprev, hmax⟩ := hlengths _ List.mem_cons_self
  obtain ⟨hfirst, hrest⟩ := List.pairwise_cons.1 hsorted
  have hscale : code * 2 ^ (15 - prev) = code * 2 ^ (len - prev) * 2 ^ (15 - len) := by
    rw [mul_assoc, ← pow_add]
    congr 2
    omega
  have hnext : (code * 2 ^ (len - prev) + 1) * 2 ^ (15 - len) + codeSpace ps ≤ 2 ^ 15 := by
    rw [hscale, codeSpace, List.map_cons, List.sum_cons] at hroom
    rwa [add_mul, one_mul, add_assoc]
  refine ⟨hprev, ?_, hrest, fun p hp => ⟨hfirst p hp, (hlengths p (List.mem_cons_of_mem _ hp)).2⟩, hnext⟩
  refine Nat.lt_of_mul_lt_mul_right (a := 2 ^ (15 - len)) ?_
  rw [← pow_add, Nat.add_sub_cancel' hmax]
  have := Nat.two_pow_pos (15 - len)
  linarith

/-- Each code has its length, and is not below what continues `code`. -/
theorem Fits.bounds (h : Fits ps prev code) :
    ∀ q ∈ canonCodes ps prev code, prev ≤ q.1 ∧ code * 2 ^ (q.1 - prev) ≤ q.2.1 ∧ q.2.1 < 2 ^ q.1 := by
  induction ps generalizing prev code with
  | nil => simp [canonCodes]
  | cons p ps ih =>
    obtain ⟨hprev, hlt, hrest⟩ := h.next
    rintro q (_ | ⟨_, hq⟩)
    · exact ⟨hprev, le_rfl, hlt⟩
    · obtain ⟨hlen, hle, hq⟩ := ih hrest q hq
      refine ⟨hprev.trans hlen, ?_, hq⟩
      calc code * 2 ^ (q.1 - prev) = code * 2 ^ (p.1 - prev) * 2 ^ (q.1 - p.1) := by
            rw [mul_assoc, ← pow_add]
            congr 2
            omega
        _ ≤ (code * 2 ^ (p.1 - prev) + 1) * 2 ^ (q.1 - p.1) := Nat.mul_le_mul_right _ (Nat.le_succ _)
        _ ≤ q.2.1 := hle

/-- No code begins a later one. -/
theorem Fits.prefixFree (h : Fits ps prev code) : (canonCodes ps prev code).Pairwise fun p q =>
    p.1 ≤ q.1 ∧ p.2.1 < 2 ^ p.1 ∧ q.2.1 < 2 ^ q.1 ∧ q.2.1 / 2 ^ (q.1 - p.1) ≠ p.2.1 := by
  induction ps generalizing prev code with
  | nil => exact .nil
  | cons p ps ih =>
    obtain ⟨-, hlt, hrest⟩ := h.next
    refine List.pairwise_cons.2 ⟨fun q hq => ?_, ih hrest⟩
    obtain ⟨hlen, hle, hq⟩ := hrest.bounds q hq
    exact ⟨hlen, hlt, hq, Nat.ne_of_gt ((Nat.le_div_iff_mul_le (Nat.two_pow_pos _)).2 hle)⟩

end

/-! ### The lengths of a header -/

/-- The symbols of a list that have code `len`, with their length. -/
def ofLength (f : Nat → Nat) (syms : List Nat) (len : Nat) : List (Nat × Nat) := (syms.filter fun sym => f sym == len).map fun sym => (len, sym)

/-- The space of lists of lengths one after another. -/
theorem codeSpace_flatMap (g : Nat → List (Nat × Nat)) (ks : List Nat) : codeSpace (ks.flatMap g) = (ks.map fun k => codeSpace (g k)).sum := by
  rw [codeSpace, List.map_flatMap, List.flatMap_def, List.sum_flatten, List.map_map]
  rfl

/-- A symbol takes space among those of its own length only. -/
theorem codeSpace_ofLength_cons (f : Nat → Nat) (sym : Nat) (syms : List Nat) (len : Nat) :
    codeSpace (ofLength f (sym :: syms) len) = (if f sym = len then 2 ^ (15 - len) else 0) + codeSpace (ofLength f syms len) := by
  by_cases h : f sym = len <;> simp [codeSpace, ofLength, h]

/-- The codes in their order take the space of the symbols' lengths (R217). -/
theorem codeSpace_byLength {f : Nat → Nat} (hf : ∀ sym, f sym < 16) (syms : List Nat) :
    codeSpace ((List.range 15).flatMap fun k => ofLength f syms (k + 1)) = (syms.map fun sym => if f sym = 0 then 0 else 2 ^ (15 - f sym)).sum := by
  have hone : ∀ n < 16, ((List.range 15).map fun k => if n = k + 1 then 2 ^ (15 - (k + 1)) else 0).sum = if n = 0 then 0 else 2 ^ (15 - n) := by
    decide
  rw [codeSpace_flatMap]
  induction syms with
  | nil => simp [ofLength, codeSpace]
  | cons sym syms ih => simp only [codeSpace_ofLength_cons, List.sum_map_add, hone _ (hf sym), ih, List.map_cons, List.sum_cons]

/-- The lengths of a header that is not over-full fit the code space from the first code. -/
theorem fits_of_header {clen : Nat} (h : overFull clen = false) :
    Fits ((List.range 15).flatMap fun k => ofLength (codeLen clen) (List.range 16) (k + 1)) 0 0 where
  sorted := by
    refine List.pairwise_flatMap.2
      ⟨fun k _ => List.pairwise_map.2 (List.pairwise_of_forall fun _ _ => le_rfl), List.pairwise_lt_range.imp fun hlt => ?_⟩
    simp only [ofLength, List.mem_map]
    rintro _ ⟨_, -, rfl⟩ _ ⟨_, -, rfl⟩
    exact Nat.succ_le_succ hlt.le
  lengths := by
    simp only [List.mem_flatMap, ofLength, List.mem_map, List.mem_range]
    rintro _ ⟨k, hk, sym, -, rfl⟩
    exact ⟨Nat.zero_le _, hk⟩
  room := by
    rw [codeSpace_byLength (f := codeLen clen) fun sym => Nat.mod_lt _ (by decide), Nat.zero_mul, Nat.zero_add]
    exact Nat.not_lt.1 (of_decide_eq_false h)

/-- Settles O20: the codes of lengths that fit the code space. -/
theorem codesArePrefixFree : Obligations.CodesArePrefixFree := by
  unfold Obligations.CodesArePrefixFree
  exact fun clen _ h => (fits_of_header h).prefixFree

end Sys2Proof.PrefixCodes
end

section
/-! SUPPORT. The matrix words (09 R228 to R235): what MMA, MMAS and MEPI answer when their checks pass, and when MEPI reads the odd half of a
global address. -/

namespace Sys2Proof.MatrixWords

open Sys2Proof Sys2Proof.Machine Sys2Proof.Laws Sys2Proof.YarnWords

/-! ### The address of a MEPI -/

/-- The active lanes of a context are those that the word's predicate leaves of its strand (R63). -/
theorem act_of_ctxOf {s : State} {c : Ctx} {i : Instr} (h : ctxOf s i = some c) : c.act = activeLanes i c.v c.acc c.ex := by
  simp only [ctxOf] at h
  repeat' split at h
  all_goals cases h
  rfl

/-- A word that runs reads its uniform operands in a lane (R61). -/
theorem lowest_of_runs {s : State} {c : Ctx} {i : Instr} (h : runs s c i = true) : lowest c.act = some c.lo := by
  rw [lo_of_ctxOf (ctxOf_of_runs h)]
  cases hl : lowest c.act with
  | some l => rfl
  | none => exact absurd (List.head?_eq_none_iff.1 hl) (lanesOf_ne_nil (act_ne_zero h))

/-- A MEPI that runs reads the odd half of an even pair just where its control word gives a global destination (R224, R232). -/
theorem mepiHigh_of_runs {s : State} {c : Ctx} {x : XWord} (h : runs s c (.mepi x) = true) :
    mepiHigh c.v c.acc c.ex (.mepi x) = if x.vreg % 2 = 0 ∧ mepiScratch (c.u x.ereg) = false then [x.vreg + 1] else [] := by
  simp only [mepiHigh, ← act_of_ctxOf (ctxOf_of_runs h), lowest_of_runs h, Bool.not_eq_true']
  rfl

/-- Whether a MEPI's address can be read: a scratch offset, or a pair whose odd half is no pending register (R67, R224). -/
def AddressReady (u : State) (c : Ctx) (x : XWord) : Prop :=
  mepiScratch (c.u x.ereg) = true ∨ (x.vreg % 2 = 0 ∧ x.vreg + 1 < c.regCount ∧ x.vreg + 1 ∉ pendingRegs u c.w c.acc)

/-- A MEPI that runs and can read its address goes on to the needle (R223, R224). -/
theorem exec_mepi {s : State} {c : Ctx} {x : XWord} (h : runs s c (.mepi x) = true) (ha : AddressReady (wakeBanks s c (.mepi x)) c x) :
    exec (.mepi x) s = finish (wakeBanks s c (.mepi x)) c (.mepi x)
      (if !holdsNeedle (wakeBanks s c (.mepi x)) c then c.fault (wakeBanks s c (.mepi x)) .needle
       else mepiWord (wakeBanks s c (.mepi x)) c x (c.u x.ereg) (c.u (x.ereg + 1))) := by
  refine (issue_finish (i := .mepi x) h).trans (congrArg _ ?_)
  dsimp only
  rw [mepiHigh_of_runs h]
  obtain hscratch | ⟨heven, hlt, hpending⟩ := ha
  · simp [hscratch]
  · simp [heven, hlt, hpending]

/-! ### The rows of a MEPI -/

section
variable {s : State} {c : Ctx} {x : XWord} {rows : Nat → Bytes × BitVec 6} {ps : Nat → List (Nat × Nat)} {n : Nat}

/-- The flags of the active rows go into MSTAT (R233). -/
def flagRows (c : Ctx) (rows : Nat → Bytes × BitVec 6) (t : State) : State :=
  c.modBay t fun b => { b with mstat := (lanesOf c.act).foldl (fun m l => m ||| (rows l).2) b.mstat }

/-- Rows that all lie in the team's slices are stored in scratch (R221, R234). -/
theorem mepiToScratch_ok (hact : c.act ≠ 0) :
    let off := fun l => (Row.lane (c.reg x.vreg) l).toNat
    let ws := rowSpan ((lanesOf c.act).map off) n
    (∀ l ∈ lanesOf c.act, scratchRowFault s c l (off l) n = none) →
    (∀ m ∈ ws, m.len ≤ 2 ^ 18 ∧ scratchRangeOk s c.v.team m.off m.len = true) → markersWait s c.v.team ws = false → c.pathFull s .s = false →
    mepiToScratch s c x rows ps n = .ok (addMe (addFlight (addMarkers
        (flagRows c rows ((lanesOf c.act).foldl (fun t l => writeScratch t c.v.team (off l) { data := (rows l).1, poison := ps l }) s))
        c.v.team ws)
      (c.flight .engine (some .s) [] [] false true)) c) := by
  dsimp only
  intro hrows hws hmarks hpath
  obtain ⟨hlen, hrange⟩ := wants_pass hws
  simp only [mepiToScratch, List.filterMap_eq_nil_iff.2 hrows, List.any_nil, Bool.not_false, List.filter_true, hlen, hrange, hmarks, hpath,
    lanesOf_ne_nil hact, Bool.or_self, Bool.false_eq_true, ↓reduceIte]
  rfl

/-- Rows whose stores all pass are stored in global memory, with room for their signatures (R234, R337). -/
theorem mepiToGlobal_ok {t : State} {res : List (Nat × Sig)} (hact : c.act ≠ 0) :
    let va := fun l => (c.perm64 (BitVec.ofNat 8 x.vreg) 0 l).toNat
    c.pathFull s .w = false → c.windowBlocked s va n true = false → sigRoom s c.w c.v (laneCount c.act) = true →
    lanesDone s c (fun t l => mepiRowLane t c l (va l) (rows l).1 (ps l)) = some (t, res) →
    mepiToGlobal s c x rows ps n = .ok (addMe (c.reach s
      (addFlight (addSigs (flagRows c rows t) c.w c.v (res.map Prod.snd)) (c.flight .access (some .w) [] [] false true)) 0 true
      (res.map fun p => va p.1)) c) := by
  intro va hpath hwindow hsigs hlanes
  have hflags (b : Bay) : res.foldl (fun m p => m ||| (rows p.1).2) b.mstat = (lanesOf c.act).foldl (fun m l => m ||| (rows l).2) b.mstat := by
    rw [← (lanesDone_spec hlanes).2, List.foldl_map]
  refine (if_neg (by simpa using ⟨hpath, hwindow⟩)).trans ((withRoom_done hact hlanes hsigs).trans ?_)
  simp only [hflags]
  rfl

end

/-- Settles O17: MMA and MMAS are one word; the rows of a MEPI go to scratch or to global memory. -/
theorem matrixWordsComplete : Obligations.MatrixWordsComplete := by
  unfold Obligations.MatrixWordsComplete
  refine ⟨fun x => ?_, fun x s c h => ?_⟩
  · intro ready effect
    have hword : ∀ u c, ready u c → mmaWord u c x = .ok (effect u c) := by
      rintro u c ⟨hneedle, hdesc, hsync, hroom, hfilled, hsparse, hscale, hpoison⟩
      have hfilling : ((consulted c.v x).any fun p => ((c.v.yarn p.1).stages.head?).map Stage.st == some .filling) = false :=
        List.any_eq_false.2 fun p hp => by simpa using hfilled p hp
      simp only [mmaWord, hneedle, hdesc, hsync, Nat.not_le.2 hroom, hfilling, hsparse, hscale, hpoison, Bool.not_true, Bool.false_eq_true,
        ↓reduceIte]
      rfl
    exact ⟨givesIf_of (fun _ => rfl) hword, givesIf_of (fun _ => rfl) hword⟩
  · intro u w col use rows ps flags hneedle hidle hdesc hcolumn
    have hword : AddressReady u c x → exec (.mepi x) s = finish u c (.mepi x)
        (if mepiScratch w then mepiToScratch u c x rows ps (32 * mepiWidth w) else mepiToGlobal u c x rows ps (32 * mepiWidth w)) := fun ha => by
      have hrange : (use && !scratchRangeOk u c.v.team col.toNat 256) = false := by
        cases huse : use with
        | false => rfl
        | true => exact congrArg not (hcolumn huse).1
      have hblocks : (use && markerBlocks u c.v.team col.toNat 256 false) = false := by
        cases huse : use with
        | false => rfl
        | true => exact (hcolumn huse).2
      refine (exec_mepi h ha).trans (congrArg _ ?_)
      refine (if_neg (ne_true_of_eq_false (congrArg not hneedle))).trans ((if_neg (ne_true_of_eq_false hdesc)).trans ?_)
      exact (if_neg (not_not.2 hidle)).trans ((if_neg (ne_true_of_eq_false hrange)).trans (if_neg (ne_true_of_eq_false hblocks)))
    refine ⟨fun hscratch => ?_, fun hglobal => ?_⟩
    · intro n off ws hrows hws hmarks hpath
      rw [hword (.inl hscratch), if_pos hscratch, mepiToScratch_ok (act_ne_zero h) hrows hws hmarks hpath]
      exact finishDone_ok (region_of_runs h)
    · intro heven hlt hpending hpath hsigs va hwindow t res hlanes
      rw [hword (.inr ⟨heven, hlt, hpending⟩), if_neg (ne_true_of_eq_false hglobal), mepiToGlobal_ok (act_ne_zero h) hpath hwindow hsigs hlanes]
      exact finishDone_ok (region_of_runs h)

end Sys2Proof.MatrixWords
end

section
/-! SUPPORT. AFILL of a poisoned register (09 R230, 23 R421): a state in which the word carries the poison into the accumulators, where the
statement has them clean. -/

namespace Sys2Proof.NeedleWords

open Sys2Proof Sys2Proof.Machine

/-- AFILL of the registers 0 to 7 into the columns 0 to 7 of tile 0. -/
def fill : Instr := .afill ⟨0, 0, 0, 0, 0, 0, 0, 0, 0, 0, 0, 0, 0, 0, 0⟩

/-- A lone wave that holds the needle, with the lanes 0 to 3 of its register 0 poisoned by an error of the register file (code 0, R315). -/
def poisonedFill : State :=
  modBay { State.reset with
    waves := [loneWave State.reset .x], running := [⟨0, 0⟩], poison := [(regGranule 0 false 0 0, 0)] } 0 0 fun b => { b with holder := some 0 }

/-- The context in which the word issues. -/
def fillContext : Ctx := (ctxOf poisonedFill fill).get (by decide +kernel)

/-- The code that columns 0 to 3 of row 0 of the tile hold in a word's next state. -/
def tilePoison (r : Host.Outcome State Fault Refusal) : Option Nat :=
  match r with
  | .next t => poisonAt t (.acc 0 0 0 0 0)
  | _ => none

/-- The word runs: AFILL does not consume its registers' poison. -/
theorem runs_fill : runs poisonedFill fillContext fill = true := by decide +kernel

/-- The word finds the needle and a place in the ME's queue. -/
theorem ready_fill : holdsNeedle (wakeBanks poisonedFill fillContext fill) fillContext = true
    ∧ meBusy (wakeBanks poisonedFill fillContext fill) fillContext.v.core fillContext.v.bay < 2 := by decide +kernel

/-- The tile takes the register's poison code (R421). -/
theorem exec_fill_poisons : tilePoison (exec fill poisonedFill) = some 0 := by decide +kernel

/-- Refutes O16: AFILL carries the poison of its registers into the accumulators that it writes (R421); the statement's effect only clears the
poison that they held. -/
theorem not_needleAndAccumulatorWordsComplete : ¬ Obligations.NeedleAndAccumulatorWordsComplete := by
  unfold Obligations.NeedleAndAccumulatorWordsComplete
  rintro ⟨-, -, hready⟩
  obtain ⟨-, hfill, -⟩ := hready ⟨0, 0, 0, 0, 0, 0, 0, 0, 0, 0, 0, 0, 0, 0, 0⟩
  have hpoison := exec_fill_poisons
  rw [fill, hfill poisonedFill fillContext runs_fill ready_fill] at hpoison
  exact absurd hpoison (by decide +kernel)

end Sys2Proof.NeedleWords
end

section
/-! SUPPORT. The words on the ply tree (10 R241 to R249): what each does when the version directory serves it, and how it waits for its turn. -/

namespace Sys2Proof.PlyWords

open Sys2Proof Sys2Proof.Machine Sys2Proof.Laws Sys2Proof.LivenessAndPairs

/-! ### The directory -/

/-- The directory serves a word whose turn it is (R241). -/
theorem atDirectory_of_idle {s : State} {c : Ctx} (h : dirBusy s c = false) (k : State → Res) :
    atDirectory s c k = k (leaveDir s c.v.hank c.w c.n) := if_neg (ne_true_of_eq_false h)

/-- A word that the directory does not serve yet takes its place in the order of arrival (R241). -/
theorem atDirectory_of_busy {s : State} {c : Ctx} (h : dirBusy s c = true) (k : State → Res) :
    atDirectory s c k = .holdIn (joinDir s c.v.hank c.w c.n c.pc.toNat) := if_pos h

/-- The word's meaning is `serve`, at the directory in its turn (R241). -/
def ServedBy (i : Instr) (serve : Ctx → State → Res) : Prop := ∀ s, exec i s = issue s i fun u c => atDirectory u c (serve c)

section
variable {i : Instr} {serve : Ctx → State → Res} {pre : State → Ctx → Prop} {eff : State → Ctx → State}

/-- A served word that answers `.ok`. -/
theorem ServedBy.givesIf (hi : ServedBy i serve) (hidle : ∀ u c, pre u c → dirBusy u c = false)
    (hserve : ∀ u c, pre u c → serve c (leaveDir u c.v.hank c.w c.n) = .ok (eff u c)) : GivesIf i pre eff :=
  givesIf_of hi fun u c hp => (atDirectory_of_idle (hidle u c hp) _).trans (hserve u c hp)

/-- A served word that parks its strand at something other than a class B wait. -/
theorem ServedBy.moves {p : Ctx → Park} (hi : ServedBy i serve) (hidle : ∀ u c, pre u c → dirBusy u c = false)
    (hserve : ∀ u c, pre u c → serve c (leaveDir u c.v.hank c.w c.n) = .park (eff u c) (p c)) (hpark : ∀ c k b, p c ≠ .block k b) :
    Moves i pre (fun u c => modThread (eff u c) c.w c.n fun t => { t with park := p c }) := fun s c h hp =>
  (hi s).trans (issue_parked h ((atDirectory_of_idle (hidle _ c hp) _).trans (hserve _ c hp)) (hpark c))

/-- A word that waits for the directory holds in its place (R241). -/
theorem ServedBy.exec_of_busy (hi : ServedBy i serve) {s : State} {c : Ctx} (h : runs s c i = true) (hbusy : dirBusy (wakeBanks s c i) c = true) :
    exec i s = .next (pruneRunning (modThread (joinDir (wakeBanks s c i) c.v.hank c.w c.n c.pc.toNat) c.w c.n fun t =>
      { t with park := .hold (wakeBanks s c i).progress })) := by
  rw [hi s, issue_finish h, atDirectory_of_busy hbusy]
  rfl

end

/-- The words that the directory serves (R241): all those on the ply tree but PQRY. -/
theorem exists_servedBy (x : SWord) : ∀ i ∈ [Instr.pfork x, .penter x, .pkeep x, .pfrog x, .lline x], ∃ serve, ServedBy i serve := by
  simp only [List.forall_mem_cons]
  exact ⟨⟨_, fun _ => rfl⟩, ⟨_, fun _ => rfl⟩, ⟨_, fun _ => rfl⟩, ⟨_, fun _ => rfl⟩, ⟨_, fun _ => rfl⟩, List.forall_mem_nil _⟩

/-! ### PKEEP -/

/-- The siblings that a keep frogs, by the word's SIB (R244). -/
theorem keepFrogs_bne_zero (s : State) (h t : Nat) {n : Nat} (imm : BitVec n) :
    keepFrogs s h t (imm != 0) = if imm = 0 then [] else keepFrogs s h t true := by
  by_cases himm : imm = 0 <;> simp [himm, keepFrogs]

section
variable {s : State} {c : Ctx} {x : SWord} {k : Keep}

/-- A keep with accesses of its target unperformed takes the directory and waits for them (R244). -/
theorem keepGo_of_waits (h : keepWaits s c.v.hank k.target = true) :
    keepGo s c x k = .park (setKeeper s c.v.hank (some k)) (.keep x.d.toNat c.act) := if_pos h

/-- A keep whose target's accesses are all performed merges; it answers 0 where no deferred effect is left to issue, and else keeps the
directory until they are done (R244, R248). -/
theorem keepGo_of_ready (h : keepWaits s c.v.hank k.target = false) :
    keepGo s c x k =
      let kept := applyKeep s c.v.hank k.target (keepFrogs s c.v.hank k.target k.sib) []
      if (hankOf kept c.v.hank).draining = [] then .ok (c.put kept x.d.toNat fun _ => 0)
      else .park (setKeeper kept c.v.hank (some { k with merged := true })) (.keep x.d.toNat c.act) := by
  simp only [keepGo, h, Bool.false_eq_true, ↓reduceIte, List.isEmpty_iff]

end

/-- What the directory answers a PKEEP (R244): its status, or the keep of a target that passed the checks. -/
def serveKeep (x : SWord) (c : Ctx) (s : State) : Res :=
  let t := (c.u x.a.toNat).toNat
  let st := keepStatus (hankOf s c.v.hank) c.v.ply t (x.imm != 0)
  if st = 0 then keepGo s c x { target := t, wave := c.w, strand := c.n, sib := x.imm != 0, merged := false }
  else .ok (c.put s x.d.toNat fun _ => BitVec.ofNat 32 st)

/-- PKEEP is served so. -/
theorem servedBy_serveKeep (x : SWord) : ServedBy (.pkeep x) (serveKeep x) := fun _ => rfl

/-- A PKEEP whose target passes the checks and has no access unperformed. -/
theorem serveKeep_of_ready {s : State} {c : Ctx} {x : SWord}
    (hstatus : keepStatus (hankOf s c.v.hank) c.v.ply (c.u x.a.toNat).toNat (x.imm != 0) = 0)
    (hwaits : keepWaits s c.v.hank (c.u x.a.toNat).toNat = false) :
    serveKeep x c s =
      let t := (c.u x.a.toNat).toNat
      let kept := applyKeep s c.v.hank t (if x.imm = 0 then [] else keepFrogs s c.v.hank t true) []
      if (hankOf kept c.v.hank).draining = [] then .ok (c.put kept x.d.toNat fun _ => 0)
      else .park (setKeeper kept c.v.hank (some { target := t, wave := c.w, strand := c.n, sib := x.imm != 0, merged := true }))
        (.keep x.d.toNat c.act) := by
  rw [serveKeep, if_pos hstatus, keepGo_of_ready hwaits, keepFrogs_bne_zero]

/-! ### The obligation -/

/-- Settles O29: each word as the directory serves it, and the wait of those that it does not serve yet; PKEEP by its status, the accesses of
its target and the effects that the keep leaves to issue. -/
theorem plyWordsComplete : Obligations.PlyWordsComplete := by
  unfold Obligations.PlyWordsComplete
  refine ⟨fun x => ⟨?pfork, ?pforkStatus, ?penter, ?pfrog, ?pqry, ?lline, ?busy⟩, fun x => ⟨?keepStatus, ?keepDone, ?keepDrains, ?keepWaits⟩⟩
  case pfork | pforkStatus =>
    refine ServedBy.givesIf (fun _ => rfl) (fun _ _ h => h.1) fun u c h => ?_
    simp only [h.2, ↓reduceIte]
  case penter | pfrog => exact ServedBy.givesIf (fun _ => rfl) (fun _ _ hidle => hidle) fun _ _ _ => rfl
  case pqry => exact gives_of (fun _ => rfl) fun _ _ => rfl
  case lline =>
    refine ServedBy.givesIf (fun _ => rfl) (fun _ _ hidle => hidle) fun u c _ => ?_
    exact (apply_ite Res.ok _ _ _).symm
  case busy =>
    intro i hi s c h u hbusy
    obtain ⟨serve, hserve⟩ := exists_servedBy x i hi
    exact hserve.exec_of_busy h hbusy
  case keepStatus => exact (servedBy_serveKeep x).givesIf (fun _ _ h => h.1) fun _ _ h => if_neg h.2
  case keepDone =>
    refine (servedBy_serveKeep x).givesIf (fun _ _ h => h.1.1) fun u c ⟨⟨_, hstatus⟩, hwaits, hdrain⟩ => ?_
    exact (serveKeep_of_ready hstatus hwaits).trans (if_pos hdrain)
  case keepDrains =>
    refine (servedBy_serveKeep x).moves (fun _ _ h => h.1.1) (fun u c ⟨⟨_, hstatus⟩, hwaits, hdrain⟩ => ?_) (by simp)
    exact (serveKeep_of_ready hstatus hwaits).trans (if_neg hdrain)
  case keepWaits =>
    refine (servedBy_serveKeep x).moves (fun _ _ h => h.1.1) (fun u c ⟨⟨_, hstatus⟩, hwaits⟩ => ?_) (by simp)
    exact (if_pos hstatus).trans (keepGo_of_waits hwaits)

end Sys2Proof.PlyWords
end

section
/-! SUPPORT. Atomic regions (10 R253 to R259): what the words of an open region answer, and the tags that its arithmetic words give. -/

namespace Sys2Proof.RegionWords

open Sys2Proof Sys2Proof.Machine Sys2Proof.Laws Sys2Proof.BitFields

/-! ### Words of an open region -/

/-- A region is open in the execute slice only (R253). -/
theorem acc_of_region {c : Ctx} {r : Region} (h : c.region = some r) : c.acc = false := by
  cases hacc : c.acc with
  | false => rfl
  | true =>
    unfold Ctx.region at h
    split at h <;> simp [hacc] at h

section
variable {s t : State} {c : Ctx} {i : Instr} {r : Region} {body : State → Ctx → Res}

/-- The region in which a word runs. -/
theorem region_of_runsInRegion (h : runsInRegion s c i r = true) : c.region = some r := by
  simp only [runsInRegion, Bool.and_eq_true, beq_iff_eq] at h
  obtain ⟨⟨⟨⟨-, hr⟩, -⟩, -⟩, -⟩ := h
  exact hr

/-- A word of an open region that runs to its end answers what becomes of its body's answer. -/
theorem issue_inRegion (h : runsInRegion s c i r = true) (hi : handlerWord i = false) :
    issue s i body = finish (wakeBanks (concretePred s c i) c i) c i (body (wakeBanks (concretePred s c i) c i) c) :=
  have hacc := acc_of_region (region_of_runsInRegion h)
  issue_finish_region h (.inr hacc) (by simp only [divergent, hacc, Bool.false_and]) hi

/-- A word of an open region that runs to its end and answers `.ok`: its tags follow, and its strand goes on. -/
theorem issue_inRegion_ok (h : runsInRegion s c i r = true) (hi : handlerWord i = false)
    (hb : body (wakeBanks (concretePred s c i) c i) c = .ok t) : issue s i body = .next (wordDoneIn c i r t) := by
  rw [issue_inRegion h hi, hb]
  exact finishDone_region (region_of_runsInRegion h)

end

/-! ### Tags -/

section
variable {c : Ctx} {r : Region} {l : Nat} {t : Tag}

/-- A source without permutation carries its register's own tag (R64). -/
theorem tagRead_plain (reg : Nat) : c.tagRead r ⟨reg, .lane 0⟩ l = r.tag reg l := rfl

/-- A tagged A beside an untagged B, both without permutation: the tag is A's, and the other value B's (R255). -/
theorem oneTag_left {a b : Nat} (ha : r.tag a l = some t) (hb : r.tag b l = none) (left : Bool) :
    c.oneTag r ⟨a, .lane 0⟩ ⟨b, .lane 0⟩ l left = some (t, true, Row.lane (c.reg b) l) := by
  simp only [Ctx.oneTag, tagRead_plain, ha, hb]
  rfl

/-- The tags that IADD, ISUB and MOV give where A alone is tagged and nothing is permuted: the same slot, and the constant that follows (R255). -/
theorem newTag_of_left {x : V3} (hpa : x.pa = 0) (hpb : x.pb = 0) (ha : r.tag x.a.toNat l = some t) (hb : r.tag x.b.toNat l = none) :
    c.newTag r (.iadd x) l = some (t.slot, t.c + Row.lane (c.reg x.b.toNat) l)
    ∧ c.newTag r (.isub x) l = some (t.slot, t.c - Row.lane (c.reg x.b.toNat) l)
    ∧ c.newTag r (.mov x) l = some (t.slot, t.c) := by
  have hone := oneTag_left (c := c) ha hb
  simp only [Ctx.newTag, V3.sA, V3.sB, hpa, hpb, hone, tagRead_plain, ha, Src.plain, BEq.rfl, ↓reduceIte, Option.map_some, and_self]

end

/-! ### The obligation -/

/-- Settles O30: each region word outside a region and in one; in one the arithmetic words have the effect of their bodies, and their tags
follow. -/
theorem regionWordsComplete : Obligations.RegionWordsComplete := by
  unfold Obligations.RegionWordsComplete
  refine ⟨fun x => ⟨?arbeg, ?arbegDiverge, ?arendOutside, ?arabtOutside, ?arend, ?arabt⟩, fun x s c r => ⟨?iadd, ?isub, ?mov, ?icmp, ?tags⟩⟩
  case arbeg =>
    refine givesIf_of (fun _ => rfl) fun u c h => ?_
    simp only [h.1, Nat.not_lt.2 h.2, ↓reduceIte]
    rfl
  case arbegDiverge =>
    refine moves_of (fun _ => rfl) fun u c _ h => ?_
    simp only [h.1, h.2, ↓reduceIte]
    rfl
  case arendOutside =>
    refine fun s c h => issue_runs h ?_
    simp only [region_of_runs h]
  case arabtOutside =>
    refine fun s c h => issue_runs h ?_
    simp only [region_of_runs h]
    rfl
  case arend =>
    refine fun s c r h => issue_inRegion_ok h rfl ?_
    simp only [region_of_runsInRegion h]
  case arabt =>
    refine fun s c r h => (issue_inRegion h rfl).trans ?_
    simp only [region_of_runsInRegion h]
    rfl
  case iadd | isub | mov => exact fun h => issue_inRegion_ok h rfl rfl
  case icmp =>
    refine fun h => issue_inRegion_ok h rfl ?_
    simp only [condHolds_eq]
    rfl
  case tags => exact fun _ _ => newTag_of_left

end Sys2Proof.RegionWords
end

section
/-! SUPPORT. The ray words (11 R285, R286): what TRACE answers of legal operands, and TRES where none of its lanes' rays faulted. -/

namespace Sys2Proof.RayWords

open Sys2Proof Sys2Proof.Machine Sys2Proof.Laws

/-- Where no ray of an active lane faulted, now or at an earlier TRES, TRES raises nothing (R286). -/
theorem tresFaults_eq_nil {c : Ctx} {k : RaySlot} (hnow : ∀ f ∈ k.faults, c.act.getLsbD f.lane = false) (hagain : c.act &&& k.again = 0) :
    ((k.faults.filter fun f => c.act.getLsbD f.lane) ++ (lanesOf (c.act &&& k.again)).map fun l => laneFault l .desc) = [] := by
  rw [List.filter_eq_nil_iff.2 fun f hf => ne_true_of_eq_false (hnow f hf), hagain]
  rfl

/-- Settles O21: TRACE's checks pass; TRES has no lane to stop. -/
theorem rayWordsComplete : Obligations.RayWordsComplete := by
  unfold Obligations.RayWordsComplete
  refine fun x => ⟨givesIf_of (fun _ => rfl) fun u c ⟨hctl, hloaded, hroot, htable⟩ => ?trace, fun s c t h hargs hknow => ?tres⟩
  case trace => simp only [hctl, hloaded, hroot, htable, Bool.not_true, Bool.or_self, Bool.false_eq_true, ne_eq, not_true_eq_false, ↓reduceIte]
  case tres =>
    intro k hnow hagain
    have hnone : ((raySlot c.v x.y.toNat).args).isNone = false := by simpa using hargs
    have hlanes : (lanesOf c.act).isEmpty = false := List.isEmpty_eq_false_iff.2 (lanesOf_ne_nil (act_ne_zero h))
    have hmask : maskOfList [] = 0#8 := maskOfList_nil
    have hfaults := tresFaults_eq_nil hnow hagain
    refine issue_runs h ?_
    simp only [k] at hfaults
    simp only [hnone, hknow, hfaults, List.map_nil, hmask, BitVec.getLsbD_zero, Bool.not_false, List.filter_true, hlanes,
      BitVec.or_zero, Bool.false_eq_true, ↓reduceIte]
    rfl

end Sys2Proof.RayWords
end

section
/-! SUPPORT. Gauges, frames, invalidations and scratch windows (11 R268, R274, R275, R288): what their words answer when their operands are
legal. -/

namespace Sys2Proof.PagesAndWindows

open Sys2Proof Sys2Proof.Machine Sys2Proof.Laws

/-- Settles O28: each word's checks pass; FMAP by its address and its walk, SMAP by the lowest free window, SUNMAP by its address. INVPG and
SUNMAP wait for nothing, since accesses took effect at issue (log 1). -/
theorem gaugePageAndWindowWordsComplete : Obligations.GaugePageAndWindowWordsComplete := by
  unfold Obligations.GaugePageAndWindowWordsComplete
  refine ⟨fun x => ⟨?gset, fun s c h => ?fmap, ?invpg⟩, fun y => ⟨fun s c h => ?smap, fun n off => ?sunmap, ?sunmapOutside⟩⟩
  case gset =>
    refine givesIf_of (fun _ => rfl) fun u c ⟨hb, hlo, hhi⟩ => ?_
    simp only [hlo, hhi, Nat.not_le.2 hb, decide_false, Bool.not_true, Bool.or_self, Bool.false_eq_true, ↓reduceIte]
  case fmap =>
    dsimp only
    intro hattr halign
    refine ⟨fun hwin => issue_runs h ?aperture, fun hwin hpath => issue_runs h ?mapped, fun loc rest hwin hpath => issue_runs h ?missing⟩
    case aperture => simp only [hattr, halign, hwin, ne_eq, not_true_eq_false, ↓reduceIte]
    case mapped | missing =>
      simp only [hattr, halign, hwin, hpath, Option.isSome_none, Bool.false_eq_true, ne_eq, not_true_eq_false, ↓reduceIte]
  case invpg => exact gives_of (fun _ => rfl) fun _ _ => rfl
  case smap =>
    dsimp only
    intro hlen hmin hmax halign hspan
    refine ⟨fun hfree => issue_runs h ?noneFree, fun n hfree => issue_runs h ?lowest⟩
    case noneFree | lowest =>
      simp only [hlen, halign, hspan, hfree, Nat.not_lt.2 hmin, Nat.not_lt.2 hmax, Bool.not_true, Bool.false_eq_true, ne_eq, not_true_eq_false,
        or_self, ↓reduceIte, apertureBase]
  case sunmap | sunmapOutside =>
    refine givesIf_of (fun _ => rfl) fun u c hwin => ?_
    simp only [hwin]

end Sys2Proof.PagesAndWindows
end

section
/-! SUPPORT. A hank's control registers across a read of a record (11 R276): nothing that a read at the home slices does writes one, also where
lines are folded, written back or found poisoned. -/

namespace Sys2Proof.ControlRegisters

open Sys2Proof Sys2Proof.Machine Sys2Proof.Laws

/-- The control registers of each hank. -/
def controls (s : State) (h : Nat) : RegFile := (hankOf s h).ctl

/-- A register of a hank's control block is one of its control registers (R407). -/
theorem hreg_eq (s : State) (h off : Nat) : hreg s h off = (controls s h).read off := rfl

/-! ### Writes of memory -/

section
variable (s : State)

theorem controls_noteDirty (line : Nat) : controls (noteDirty s line) = controls s := by unfold noteDirty; split <;> rfl

/-- A write of root memory writes no register (R356, R387). -/
theorem controls_rootWrite (agent : Option Nat) (cached : Bool) (pa : Nat) (bs : Bytes) :
    controls (rootWrite s agent cached pa bs) = controls s := by
  have hclear (u : State) : controls (if u.poison.isEmpty then u
      else (wholeGranules pa bs.length).foldl (fun s g => clearPoison s (.phys g)) u) = controls u := by
    split
    · rfl
    · exact foldl_keeps controls (fun s g => clearPoison s (.phys g)) (fun _ _ => rfl) _ _
  unfold rootWrite
  refine ((foldl_keeps controls (fun s l => noteWrite s agent 0 none l) (fun _ _ => rfl) _ _).trans (hclear _)).trans ?_
  cases cached with
  | false => rfl
  | true => exact foldl_keeps controls noteDirty controls_noteDirty _ _

/-- An error record writes its ring, and no register of a hank (R427, R428). -/
theorem controls_errRecord (sev core hank kind : Nat) (addr info : DWord) :
    controls (errRecord s sev core hank kind addr info) = controls s := by
  unfold errRecord
  dsimp only
  split
  · rfl
  · split
    · exact controls_rootWrite _ _ _ _ _
    · exact controls_rootWrite _ _ _ _ _

/-! ### Lines that leave and enter the caches -/

theorem controls_writeBack (line : Nat) : controls (writeBack s line) = controls s := by
  have hnoted (u : State) : controls (notePoisoned u line) = controls u := by
    unfold notePoisoned
    split
    · rfl
    · dsimp only
      split
      · rfl
      · split
        · exact controls_errRecord _ _ _ _ _ _ _
        · rfl
  unfold writeBack
  split
  · exact hnoted _
  · rfl

theorem controls_leaveCache (line : Nat) : controls (leaveCache s line) = controls s := by
  have hforget (u : State) : controls (forgetHome u line) = controls u := by unfold forgetHome; split <;> rfl
  unfold leaveCache
  dsimp only
  split
  · exact controls_writeBack s line
  · exact (hforget _).trans (controls_writeBack s line)

/-- A draw among lines uses up a free value only. -/
theorem controls_chooseVictim {α : Type} {s t : State} {es : List α} {o : Option α} (h : chooseVictim s es = (t, o)) :
    controls t = controls s := by
  cases es with
  | nil => cases h; rfl
  | cons e es => cases h; rfl

theorem controls_evictSkein (e : CacheLine) : controls (evictSkein s e) = controls s := by
  unfold evictSkein
  dsimp only
  split
  · exact controls_leaveCache _ _
  · rfl

theorem controls_placeSkein (e : CacheLine) : controls (placeSkein s e) = controls s := by
  unfold placeSkein
  dsimp only
  split
  · split
    · exact controls_leaveCache _ _
    · rfl
  · split
    · rfl
    · split
      · rfl
      · split
        · rfl
        · split
          · next hv => exact (controls_evictSkein _ _).trans (controls_chooseVictim hv :)
          · next hv => exact (controls_chooseVictim hv :)

theorem controls_evictL2 (e : CacheLine) : controls (evictL2 s e) = controls s :=
  controls_placeSkein (dropL1 { s with l2 := s.l2.filter fun x => x != e } none e.hank e.ply e.line) e

theorem controls_placeL2 (h p line : Nat) : controls (placeL2 s h p line) = controls s := by
  have taken {t : State} (e : CacheLine) (ht : controls t = controls s) : controls { t with l2 := e :: t.l2 } = controls s := ht
  unfold placeL2
  dsimp only
  split
  · rfl
  · split
    · exact taken _ rfl
    · split
      · exact controls_placeSkein _ _
      · refine taken _ ?_
        split
        · next hv => exact (controls_evictL2 _ _).trans (controls_chooseVictim hv)
        · next hv => exact controls_chooseVictim hv

theorem controls_cacheRoot (h line : Nat) : controls (cacheRoot s h line) = controls s := by
  unfold cacheRoot
  split
  · rfl
  · dsimp only
    split
    · exact controls_placeL2 _ _ _ _
    · exact (controls_leaveCache _ _).trans (controls_placeL2 _ _ _ _)

theorem controls_homeWrite (h : Nat) (cached : Bool) (pa : Nat) (bs : Bytes) : controls (homeWrite s h cached pa bs) = controls s := by
  unfold homeWrite
  dsimp only
  split
  · exact (foldl_keeps controls (fun s l => cacheRoot s h l) (fun _ _ => controls_cacheRoot _ _ _) _ _).trans (controls_rootWrite _ _ _ _ _)
  · exact controls_rootWrite _ _ _ _ _

/-! ### Gauges, translations and reads -/

/-- A change of a hank beside its control registers. -/
theorem controls_modHank (h : Nat) {f : Hank → Hank} (hf : ∀ k, (f k).ctl = k.ctl) : controls (modHank s h f) = controls s := by
  funext h'
  simp only [controls, hankOf, modHank_hanks, Vector.getElem?_setIfInBounds]
  split
  · next heq =>
    subst heq
    split
    · next hlt => simp [hf, hlt]
    · next hge => simp [hge]
  · rfl

/-- A translation that a TLB takes (R388). -/
theorem controls_noteTlb (h : Nat) (lf : Leaf) (q : DWord) : controls (noteTlb s h lf q) = controls s := controls_modHank s h fun _ => rfl

/-- A leaf that a read marks used: its entry, and the TLBs (R388, R390). -/
theorem controls_markUsed (h : Nat) (lf : Leaf) (wr : Bool) : controls (markUsed s h lf wr) = controls s := by
  have put (q : DWord) : controls (noteTlb (if readQ s lf.loc = q then s else homeWrite s h true lf.loc (natLe 8 q.toNat)) h lf q) = controls s := by
    rw [controls_noteTlb]
    split
    · rfl
    · exact controls_homeWrite _ _ _ _ _
  unfold markUsed
  dsimp only
  split
  · rfl
  · exact put _

/-- A commutative line that an access folds first (R177). -/
theorem controls_foldLine (line : Nat) : controls (foldLine s line) = controls s := by
  have hsum (u : State) (p : Partial) (bs : Bytes) : controls (sumWrite u p bs) = controls u := by
    unfold sumWrite
    dsimp only
    split
    · exact (controls_cacheRoot _ _ _).trans (controls_rootWrite u none p.cached (128 * p.line) bs)
    · exact controls_rootWrite u none p.cached (128 * p.line) bs
  have hcount (u : State) (h gi n : Nat) : controls (countFails u h gi n) = controls u := by
    unfold countFails
    split
    · rfl
    · exact controls_modHank u h fun _ => rfl
  unfold foldLine
  split
  · rfl
  · exact (hcount _ _ _ _).trans (hsum _ _ _)

theorem controls_foldRange (pa n : Nat) : controls (foldRange s pa n) = controls s := by
  unfold foldRange
  split
  · rfl
  · exact foldl_keeps controls foldLine controls_foldLine _ _

theorem controls_evictCopy (cl line : Nat) : controls (evictCopy s cl line) = controls s := by unfold evictCopy; split <;> rfl

end

/-- A record that was read: no hank's register changed. -/
theorem hreg_of_readGlobal {s t : State} {h ply cl va n : Nat} {bs : Bytes} (hr : readGlobal s h ply cl va n = .ok t bs) (h' off : Nat) :
    hreg t h' off = hreg s h' off := by
  rw [hreg_eq, hreg_eq]
  unfold readGlobal at hr
  split at hr
  case h_5 =>
    split at hr
    · cases hr
    · split at hr
      · cases hr
      · cases hr; rfl
  case h_6 =>
    dsimp only at hr
    split at hr
    · cases hr
    · cases hr
      rw [controls_markUsed, controls_evictCopy, controls_foldRange]
  all_goals cases hr

end Sys2Proof.ControlRegisters
end

section
/-! SUPPORT. The words that give work to other units (11 R276 to R284): what each answers when its checks pass. -/

namespace Sys2Proof.DispatchAndQueues

open Sys2Proof Sys2Proof.Machine Sys2Proof.Laws Sys2Proof.ControlRegisters Sys2Proof.LaneAccesses

/-! ### Launches and bins -/

/-- A record enters a ring that has room (R276, R366). -/
theorem pushLaunch_ok {s t v : State} {c : Ctx} {p q : Nat} {bs : Bytes} {l : Place} (hregs : ∀ off, hreg t c.v.hank off = hreg s c.v.hank off) :
    let off := queueOff p q
    let r := (hreg s c.v.hank off).toNat
    let tail := (hreg s c.v.hank (off + 0x08)).toNat
    tail - (hreg s c.v.hank (off + 0x10)).toNat < ringSize r →
    placeWrite t (some c.w) c.v.hank 0 (ringEntry r tail) bs l = .ok v →
    pushLaunch t c p q bs l = .ok (setbFlight (setHreg v c.v.hank (off + 0x08) (BitVec.ofNat 64 (tail + 1))) c) := by
  intro off r tail hroom hwrite
  simp only [pushLaunch, hregs]
  exact (if_neg (Nat.not_le.2 hroom)).trans (by rw [hwrite])

/-- The places of a bin's store that hold none of its records (R376). -/
def freePlaces (b : Bin) : List Nat := (List.range (65536 / b.len)).filter fun k => !(b.recs.any fun x => x.2 == k)

theorem mem_freePlaces {b : Bin} {k : Nat} : k ∈ freePlaces b ↔ k < 65536 / b.len ∧ ∀ r ∈ b.recs, r.2 ≠ k := by
  simp [freePlaces]

/-- A bin with fewer records than places has a free one. -/
theorem freePlaces_ne_nil {b : Bin} (h : b.recs.length < 65536 / b.len) : freePlaces b ≠ [] := fun hnil => by
  have htaken : List.range (65536 / b.len) ⊆ b.recs.map Prod.snd := fun k hk => by
    have hfree : k ∉ freePlaces b := hnil ▸ List.not_mem_nil
    simpa [mem_freePlaces, List.mem_range.1 hk] using hfree
  have hle := (List.subperm_of_subset List.nodup_range htaken).length_le
  rw [List.length_range, List.length_map] at hle
  omega

/-- The place that a bin with room draws for a record is free (R376). -/
theorem drawn_mem_freePlaces {b : Bin} (h : b.recs.length < 65536 / b.len) (n : Nat) :
    (freePlaces b).getD (n % (freePlaces b).length) 0 ∈ freePlaces b := by
  have hlt : n % (freePlaces b).length < (freePlaces b).length := Nat.mod_lt _ (List.length_pos_iff.2 (freePlaces_ne_nil h))
  rw [List.getD_eq_getElem _ _ hlt]
  exact List.getElem_mem hlt

/-! ### Deferred effects -/

/-- A deferred effect whose log and whose signatures have room (R247, R337). -/
theorem defer_ok {s : State} {c : Ctx} (k : LogKind) (ad : DWord) (ops : Bytes) (hsig : sigRoom s c.w c.v (laneCount c.act) = true)
    (hlog : logRoom s c.v.hank c.v.ply = true) :
    defer s c k ad ops = .ok (addSigs (appendLog s c k) c.w c.v ((lanesOf c.act).map fun _ => sigOf ad ops)) := by
  simp only [defer, hsig, hlog, Bool.not_true, Bool.false_eq_true, ↓reduceIte]

/-! ### Queues -/

/-- Where no home copy is behind GDDR 7, a ply's bytes are what the home slices read (R387). -/
theorem homeBytes_of_clean {s : State} (hc : s.corrupt = []) (hd : ∀ t ∈ s.stale, t.dirty = true) (h ply n : Nat) (lf : Leaf) :
    homeBytes s h (readPly lf ply) lf n = readBytes s h (readPly lf ply) lf.pa n := by
  simpa only [loadBytes, hc, List.find?_nil, ite_self] using Steps.loadBytes_of_clean hc hd h ply 0 lf n

/-- The bytes behind a leaf where nothing is folded, poisoned or behind GDDR 7 (R161, R390). -/
theorem placeBytes_of_clean {s : State} (hpart : s.partials = []) (hpois : s.poison = []) (hc : s.corrupt = [])
    (hd : ∀ t ∈ s.stale, t.dirty = true) (h ply n : Nat) (lf : Leaf) :
    placeBytes s h ply n (.mem lf) = (markUsed s h lf false, .ok (readBytes s h (readPly lf ply) lf.pa n)) := by
  simp only [placeBytes, foldRange_of_noPartials hpart, poisonOfRead_of_none hpois, homeBytes_of_clean hc hd]

/-- A legal descriptor on a page of the hank, which has the right that the word needs, is read with nothing found wrong (R279). -/
theorem readQueue_of_mapped {u : State} {h ply a : Nat} {may : QueueDesc → Bool} {lf : Leaf} (hpart : u.partials = []) (hpois : u.poison = [])
    (hc : u.corrupt = []) (hd : ∀ t ∈ u.stale, t.dirty = true) (hm : Mapped u h a true lf) :
    let bs := readBytes u h (readPly lf ply) lf.pa 64
    queueBad bs = false → may (QueueDesc.of a (.mem lf) bs) = true →
    readQueue u h ply a may = .ok { s := markUsed u h lf false, desc := QueueDesc.of a (.mem lf) bs, stops := [] } := by
  intro bs hlegal hmay
  obtain ⟨hwin, hwalk, hhank, hown, hwrite, hpa⟩ := hm
  simp only [bs] at hlegal hmay
  simp only [readQueue, hwin, hwalk, hhank, hown, hwrite rfl, Nat.not_le.2 hpa, placeBytes_of_clean hpart hpois hc hd, hlegal, hmay,
    Bool.not_true, Bool.false_eq_true, ne_eq, not_true_eq_false, false_and, List.append_nil, ↓reduceIte]
  rfl

section
variable {s t v w : State} {c : Ctx} {d : QueueDesc} {l : Place}

/-- A QPUSH without hand-off finds nothing wrong where its entry's place is the queue's and no version escapes (R279, R280). -/
theorem pushStops_eq_nil {h ply n : Nat} {pay : DWord} (hplace : queuePlace s h (d.entry d.tail) 16 (d.allows h) = .ok l)
    (hesc : d.escapes s h ply (d.entry d.tail) (.ok l) = []) : pushStops s h ply d false pay n = [] := by
  simp only [pushStops, hplace, hesc, Bool.false_and, Bool.false_eq_true, ↓reduceIte, List.append_nil]

/-- A push into a queue with room, performed at once (R280). -/
theorem queuePush_ok {pay : DWord} {n : Nat} (hply : c.v.ply = 0 ∨ d.kind = 0) (hroom : d.used ≠ d.size)
    (hpush : pushEntry (releaseLines s (d.place.lines ++ l.lines)) (some c.w) c.v.hank c.v.ply d l pay n = .ok v) :
    queuePush s c d l false pay n = .ok (setbFlight v c) := by
  have hnow : ¬(c.v.ply ≠ 0 ∧ d.kind ≠ 0) := by tauto
  simp only [queuePush, if_neg hnow, if_neg hroom, hpush, Bool.false_eq_true, ↓reduceIte]

/-- A pop of a queue that holds an entry (R280). -/
theorem queuePop_ok {x : SWord} {bs : Bytes} (hused : d.used ≠ 0) :
    let free := releaseLines s (d.place.lines ++ l.lines)
    popEntry free c.w c.v.hank c.v.ply d = .ok w → placeBytes free c.v.hank c.v.ply 16 l = (t, .ok bs) →
    popEntry t c.w c.v.hank c.v.ply d = .ok v → queuePop s c x d l = .ok (c.put64 v x.d.toNat fun _ => dwordAt bs 0) := by
  intro free hmay hread hpop
  simp only [free] at hmay hread
  simp only [queuePop, if_neg hused, hmay, hread, hpop]

end

/-- A class B word that waits: its strand parks, to try it again (R79, R80). -/
theorem issue_waits {s t : State} {c : Ctx} {i : Instr} {setb : Bool} {body : State → Ctx → Res} (h : runs s c i = true)
    (hb : body (wakeBanks s c i) c = .park t (.block t.progress setb)) : issue s i body = .next (strandWaits c setb t) := by
  rw [issue_finish h, hb]
  rfl

/-- The pop that a QPOP whose checks pass makes (R279, R280). -/
theorem exec_qpop {s : State} {c : Ctx} {x : SWord} {r : QueueRead} {l : Place} (h : runs s c (.qpop x) = true)
    (halign : (c.u64 x.a.toNat).toNat % 64 = 0)
    (hread : readQueue (wakeBanks s c (.qpop x)) c.v.hank c.v.ply (c.u64 x.a.toNat).toNat (fun d => d.mayPop c.v.hank) = .ok r)
    (hstops : r.stops = []) (hply : c.v.ply = 0 ∨ r.desc.kind = 0)
    (hplace : queuePlace r.s c.v.hank (r.desc.entry r.desc.head) 16 (r.desc.allows c.v.hank) = .ok l)
    (hesc : r.desc.escapes r.s c.v.hank c.v.ply (r.desc.entry r.desc.head) (.ok l) = []) :
    exec (.qpop x) s = finish (wakeBanks s c (.qpop x)) c (.qpop x) (queuePop r.s c x r.desc l) := by
  have hnow : ¬(c.v.ply ≠ 0 ∧ r.desc.kind ≠ 0) := by tauto
  refine (issue_finish h).trans (congrArg _ ?_)
  simp only [halign, hread, hstops, hplace, hesc, if_neg hnow, List.append_nil, firstStop, argMin, ne_eq, not_true_eq_false, ↓reduceIte]

/-! ### Token cells -/

/-- The step of a QTOK in `s` reaches a cell that holds `bs`: it leaves `home` where it writes nothing, and `written new` where it writes `new`
(R282). -/
def CellStep (s : State) (c : Ctx) (va : Nat) (bs : Bytes) (home : State) (written : Bytes → State) : Prop :=
  ∀ f k, tokenStep s c va f k = k ((f bs).elim home written) bs

section
variable {s t : State} {c : Ctx} {va : Nat} (halign : va % 16 = 0)
include halign

/-- A cell of a mapped page, once no engine command owns its line (R282, R357). -/
theorem cellStep_of_mapped {lf : Leaf} {q : Nat} {bs : Bytes} (htr : translate s c.v.hank va 16 true = .ok (.mem lf))
    (hply : writePly (releaseLines s [lineOf lf.pa]) c.v.hank c.v.ply va lf = .to q)
    (hread : placeBytes (releaseLines s [lineOf lf.pa]) c.v.hank c.v.ply 16 (.mem lf) = (t, .ok bs)) :
    CellStep s c va bs (dropCopies t (lineOf lf.pa)) fun new => writeLeaf (dropCopies t (lineOf lf.pa)) (some c.w) c.v.hank q lf new := by
  intro f k
  simp only [tokenStep, halign, htr, hply, hread, ne_eq, not_true_eq_false, ↓reduceIte]
  cases f bs <;> rfl

/-- A cell behind a scratch window (R282, R288). -/
theorem cellStep_of_window {team off : Nat} (htr : translate s c.v.hank va 16 true = .ok (.win team off))
    (hply : storePly (hankOf s c.v.hank) c.v.ply va = 0) (hmark : markerBlocks s team off 16 true = false)
    (hpois : scratchPoison s team off 16 = none) :
    CellStep s c va (scratchRead s team off 16) s fun new => scratchWrite s team off new := by
  intro f k
  simp only [tokenStep, halign, htr, hply, hmark, hpois, Bool.false_eq_true, ne_eq, not_true_eq_false, ↓reduceIte]
  cases f (scratchRead s team off 16) <;> rfl

end

/-- What QTOK.put and QTOK.take make of the cell that they reach (R282). -/
theorem tokenWords_of_cellStep {s home : State} {c : Ctx} {x : SWord} {i : Instr} {bs : Bytes} {written : Bytes → State} (h : runs s c i = true)
    (hcell : CellStep (wakeBanks s c i) c (c.u64 x.a.toNat).toNat bs home written) :
    (i = .qtokPut x →
      (cellFull bs = true → exec i s = .next (wordDone c i (setbFlight (c.put home x.d.toNat fun _ => 1) c)))
      ∧ (cellFull bs = false → exec i s = .next (wordDone c i (setbFlight
          (c.put (written (natLe 8 (c.u64 x.b.toNat).toNat ++ natLe 8 1)) x.d.toNat fun _ => 0) c))))
    ∧ (i = .qtokTake x →
      (cellFull bs = true → exec i s
        = .next (wordDone c i (setbFlight (c.put64 (written (bs.take 8 ++ natLe 8 0)) x.d.toNat fun _ => dwordAt bs 0) c)))
      ∧ (cellFull bs = false → exec i s = .next (strandWaits c true (wakeBanks s c i)))) := by
  refine ⟨?put, ?take⟩
  case put =>
    rintro rfl
    refine ⟨fun hfull => issue_runs h ((hcell _ _).trans ?_), fun hfull => issue_runs h ((hcell _ _).trans ?_)⟩
    all_goals
      simp only [hfull, Bool.false_eq_true, ↓reduceIte]
      rfl
  case take =>
    rintro rfl
    refine ⟨fun hfull => issue_runs h ((hcell _ _).trans ?_), fun hfull => issue_waits h ((hcell _ _).trans ?_)⟩
    · simp only [hfull, ↓reduceIte]
      rfl
    · simp only [hfull, Bool.false_eq_true, ↓reduceIte]

/-! ### The obligation -/

/-- Settles O31: each word's checks pass, and its unit has room or its ply's log takes it, signed as log 25 reads it; QPUSH and QPOP by their
queue, QTOK by its cell. -/
theorem dispatchAndQueueWordsComplete : Obligations.DispatchAndQueueWordsComplete := by
  unfold Obligations.DispatchAndQueueWordsComplete
  refine ⟨⟨fun x => ⟨fun s c t bs l v h => ?launch, fun s c b t d h => ?emit, fun s c h => ?recv, ?flip, ?flipDeferred⟩,
      fun y => ⟨?msub, ?msubDeferred⟩⟩,
    fun x => ⟨fun s c r l v h hread => ?qpush, fun s c r l h hread => ?qpop, fun u h ply a may lf => ?readQueue, fun s c h => ?qtok⟩⟩
  case launch =>
    dsimp only
    intro halign hread hsrc hen hroom hring hwrite
    refine issue_runs h ?_
    simp only [halign, hread, hsrc, hen, hring, Read.stop?, Option.toList_none, Bool.not_true, Bool.or_self, Bool.false_eq_true, List.append_nil,
      firstStop, argMin, ne_eq, not_true_eq_false, ↓reduceIte]
    exact pushLaunch_ok (hreg_of_readGlobal hread _) hroom hwrite
  case emit =>
    dsimp only
    intro hn hon halign hbin hroom hread hclean
    obtain ⟨hlt, hfree⟩ := mem_freePlaces.1 (drawn_mem_freePlaces hroom (Config.binPick (readClock t).1.fresh))
    refine ⟨_, hlt, hfree, issue_runs h ?_⟩
    simp only [hon, halign, hbin, emitTo, hread, hclean, Nat.not_le.2 hn, Nat.not_le.2 hroom, decide_false, Bool.not_true, Bool.or_self,
      Bool.false_eq_true, ne_eq, not_true_eq_false, ↓reduceIte]
    rfl
  case recv =>
    dsimp only
    intro halign
    refine ⟨fun hnone => issue_runs h ?_, fun hsome hrange hmark => issue_runs h ?_⟩
    · simp only [halign, hnone, List.isEmpty_nil, ne_eq, not_true_eq_false, ↓reduceIte]
      rfl
    · simp only [halign, List.isEmpty_eq_false_iff.2 hsome, hrange, hmark, Bool.not_true, Bool.false_eq_true, ne_eq, not_true_eq_false, ↓reduceIte]
  case flip =>
    refine givesIf_of (fun _ => rfl) fun u c ⟨⟨hb, hon, halign⟩, hply, hroom⟩ => ?_
    simp only [hon, halign, hply, Nat.not_le.2 hb, Nat.not_le.2 hroom, decide_false, Bool.not_true, Bool.or_self, Bool.false_eq_true, ne_eq,
      not_true_eq_false, ↓reduceIte]
  case flipDeferred =>
    refine givesIf_of (fun _ => rfl) fun u c ⟨⟨hb, hon, halign⟩, hply, hsig, hlog⟩ => ?_
    simp only [hon, halign, hply, Nat.not_le.2 hb, defer_ok _ _ _ hsig hlog, decide_false, Bool.not_true, Bool.or_self, Bool.false_eq_true, ne_eq,
      not_true_eq_false, not_false_eq_true, ↓reduceIte]
  case msub =>
    refine givesIf_of (fun _ => rfl) fun u c ⟨⟨hb, halign⟩, hply, hroom⟩ => ?_
    simp only [halign, hply, Nat.not_le.2 hb, Nat.not_le.2 hroom, ne_eq, not_true_eq_false, ↓reduceIte]
  case msubDeferred =>
    refine givesIf_of (fun _ => rfl) fun u c ⟨⟨hb, halign⟩, hply, hsig, hlog⟩ => ?_
    simp only [halign, hply, Nat.not_le.2 hb, defer_ok _ _ _ hsig hlog, ne_eq, not_true_eq_false, not_false_eq_true, ↓reduceIte]
  case qpush =>
    obtain ⟨halign, hread, hstops⟩ := hread
    intro hn hplace hply hesc hroom hpush
    have hxfer : decide (4096 ≤ x.imm.toNat) = false := decide_eq_false (Nat.not_le.2 hn)
    refine issue_runs h ?_
    simp only [halign, hread, hstops, hxfer, hplace, pushStops_eq_nil hplace hesc, Nat.mod_eq_of_lt hn, Bool.false_and, Bool.false_eq_true,
      List.append_nil, firstStop, argMin, ne_eq, not_true_eq_false, ↓reduceIte]
    exact queuePush_ok hply hroom hpush
  case qpop =>
    obtain ⟨halign, hread, hstops⟩ := hread
    intro hply hplace hesc free
    have hword := exec_qpop h halign hread hstops hply hplace hesc
    refine ⟨fun t bs v w hused hmay hbytes hpop => ?_, fun hempty => ?_⟩
    · rw [hword, queuePop_ok hused hmay hbytes hpop]
      exact finishDone_ok (region_of_runs h)
    · rw [hword, queuePop, if_pos hempty]
      rfl
  case readQueue => exact fun hpart hpois hc hd hm => readQueue_of_mapped hpart hpois hc hd hm
  case qtok =>
    intro i u put did halign
    have hi : runs s c i = true := by
      by_cases hput : runs s c (.qtokPut x) = true
      · simp only [i, if_pos hput, hput]
      · simp only [i, if_neg hput, h.resolve_left hput]
    exact ⟨fun lf q t bs htr hply hread => tokenWords_of_cellStep hi (cellStep_of_mapped halign htr hply hread),
      fun t off htr hply hmark hpois => tokenWords_of_cellStep hi (cellStep_of_window halign htr hply hmark hpois)⟩

end Sys2Proof.DispatchAndQueues
end

section
/-! SUPPORT. Every operation of the machine keeps memory and vault memory in canonical form (O48): one lemma per operation of the state,
in the order of the model, up to `exec` and `step`. An operation that writes neither memory keeps the form as it stands (`hs` itself);
those that write one do so through `Sparse.put`, `Memory.writeBytes` and `List.filter`, which keep it (`wf_put`, `wf_writeBytes`,
`wf_filter`). -/

namespace Sys2Proof.CanonicalForm

open Sys2Proof Sys2Proof.Machine Sys2Proof.Laws

/-- A word's answer in which every state has its memories in canonical form. -/
def canonicalRes : Res → Prop
  | .done t _ | .holdIn t | .park t _ | .moved t => canonical t
  | .hold | .abort _ _ _ | .stuck _ => True

/-- A lane's answer in which every state has its memories in canonical form. -/
def canonicalLane {α : Type} : LaneStep α → Prop
  | .go t _ | .trip t _ | .waitIn t => canonical t
  | .stop _ | .migrate _ _ _ | .wait | .hole _ => True

/-- An outcome whose next state, if there is one, has its memories in canonical form. -/
def canonicalOutcome : Host.Outcome State Fault Refusal → Prop
  | .next t => canonical t
  | .fault _ | .refused _ => True

/-- Where a read or a write of several pieces stops, it answers no state. -/
theorem orStop_ne_ok {α : Type} (e : EngineStop) (r : Except EngineStop α) (a : α) : orStop e r ≠ .ok a := by
  unfold orStop
  split <;> simp

/-- A property of both branches of an `if`. -/
theorem ite_cases {α : Type} {P : α → Prop} (p : Prop) [Decidable p] {a b : α} (ha : P a) (hb : P b) : P (if p then a else b) := by
  split <;> assumption

/-- Changes one after another, each of which keeps the canonical form. -/
theorem canonical_foldl {β : Type} {f : State → β → State} (hf : ∀ s b, canonical s → canonical (f s b)) {s : State} (hs : canonical s)
    (bs : List β) : canonical (bs.foldl f s) := by
  induction bs generalizing s with
  | nil => exact hs
  | cons b bs ih => exact ih (hf s b hs)

/-! ### The host, the caches and memory -/

section
variable {s : State} (hs : canonical s)
include hs

theorem canonical_modWave (w : Nat) (f : Wave → Wave) : canonical (modWave s w f) := hs

theorem canonical_modHank (h : Nat) (f : Hank → Hank) : canonical (modHank s h f) := hs

theorem canonical_setHreg (h off : Nat) (v : DWord) : canonical (setHreg s h off v) := hs

theorem canonical_modTeam (t : Nat) (f : Team → Team) : canonical (modTeam s t f) := hs

theorem canonical_setPoison (g : Granule) (src : Nat) : canonical (setPoison s g src) := by
  unfold setPoison
  split <;> exact hs

theorem canonical_clearPoison (g : Granule) : canonical (clearPoison s g) := hs

theorem canonical_triggerMonitors (line : Nat) : canonical (triggerMonitors s line) := hs

theorem canonical_rootWrite (agent : Option Nat) (cached : Bool) (pa : Nat) (bs : Bytes) : canonical (rootWrite s agent cached pa bs) :=
  ⟨wf_rootWrite hs.1 .., (rootWrite_vault ..).symm ▸ hs.2⟩

theorem canonical_versionWrite (agent : Option Nat) (cached : Bool) (h p pa : Nat) (bs : Bytes) :
    canonical (versionWrite s agent cached h p pa bs) :=
  ⟨(versionWrite_mem ..).symm ▸ hs.1, (versionWrite_vault ..).symm ▸ hs.2⟩

theorem canonical_plyWrite (agent : Option Nat) (cached : Bool) (h p pa : Nat) (bs : Bytes) : canonical (plyWrite s agent cached h p pa bs) := by
  unfold plyWrite
  grind [canonical_rootWrite, canonical_versionWrite]

theorem canonical_countFails (h gi n : Nat) : canonical (countFails s h gi n) := by
  unfold countFails
  split <;> exact hs

theorem canonical_readClock : canonical (readClock s).1 := hs

theorem canonical_sendMsix (fn vec : Nat) : canonical (sendMsix s fn vec) := hs

theorem canonical_errRecord (sev core hank kind : Nat) (addr info : DWord) : canonical (errRecord s sev core hank kind addr info) := by
  unfold errRecord
  grind [canonical, canonical_readClock, canonical_rootWrite, canonical_sendMsix]

theorem canonical_hankEvent (h n : Nat) : canonical (hankEvent s h n) := by
  unfold hankEvent
  grind [canonical_setHreg, canonical_sendMsix]

theorem canonical_scratchWrite (t off : Nat) (bs : Bytes) : canonical (scratchWrite s t off bs) := by
  have hw := canonical_modTeam hs t fun m => { m with scratch := scratchPut m.scratch off bs }
  unfold scratchWrite
  dsimp only
  split
  · exact hw
  · exact canonical_foldl (fun _ _ hu => canonical_clearPoison hu _) hw _

theorem canonical_vaultWrite (h core off : Nat) (bs : Bytes) : canonical (vaultWrite s h core off bs) :=
  ⟨(vaultWrite_spec h core off bs).1.symm ▸ hs.1, (vaultWrite_spec h core off bs).2 hs.2⟩

theorem canonical_vaultClear (core off n : Nat) : canonical (vaultClear s core off n) := by
  unfold vaultClear
  split
  · exact hs
  · exact canonical_foldl (fun _ _ h => canonical_clearPoison h _) hs _

theorem canonical_halt (cause : Nat) : canonical (halt s cause) := hs

theorem canonical_notePoisoned (line : Nat) : canonical (notePoisoned s line) := by
  unfold notePoisoned
  grind [canonical, canonical_halt, canonical_errRecord]

theorem canonical_writeBack (line : Nat) : canonical (writeBack s line) := by
  unfold writeBack
  grind [canonical, canonical_notePoisoned]

theorem canonical_forgetHome (line : Nat) : canonical (forgetHome s line) := by
  unfold forgetHome
  split
  · exact hs
  · exact ⟨wf_writeBytes hs.1 _ _, hs.2⟩

theorem canonical_leaveCache (line : Nat) : canonical (leaveCache s line) := by
  unfold leaveCache
  grind [canonical_writeBack, canonical_forgetHome]

theorem canonical_dropL1 (cl : Option Nat) (h p line : Nat) : canonical (dropL1 s cl h p line) := hs

theorem canonical_chooseVictim {α : Type} (x0 : List α) : canonical (chooseVictim s x0).1 := by
  unfold chooseVictim
  split <;> exact hs

theorem canonical_evictSkein (e : CacheLine) : canonical (evictSkein s e) := by
  unfold evictSkein
  grind [canonical, canonical_leaveCache]

theorem canonical_placeSkein (e : CacheLine) : canonical (placeSkein s e) := by
  unfold placeSkein
  grind [canonical, canonical_leaveCache, canonical_chooseVictim, canonical_evictSkein]

theorem canonical_evictL2 (e : CacheLine) : canonical (evictL2 s e) := by
  unfold evictL2
  grind [canonical, canonical_placeSkein, canonical_dropL1]

theorem canonical_placeL2 (h p line : Nat) : canonical (placeL2 s h p line) := by
  unfold placeL2
  grind [canonical, canonical_placeSkein, canonical_chooseVictim, canonical_evictL2]

theorem canonical_cacheRoot (h line : Nat) : canonical (cacheRoot s h line) := by
  unfold cacheRoot
  grind [canonical_placeL2, canonical_leaveCache]

theorem canonical_homeWrite (h : Nat) (cached : Bool) (pa : Nat) (bs : Bytes) : canonical (homeWrite s h cached pa bs) := by
  have hw := canonical_rootWrite hs none cached pa bs
  unfold homeWrite
  split
  · exact canonical_foldl (fun _ _ hu => canonical_cacheRoot hu _ _) hw _
  · exact hw

theorem canonical_placeL1 (e : L1Line) : canonical (placeL1 s e) := by
  unfold placeL1
  grind [canonical, canonical_chooseVictim, canonical_dropL1]

theorem canonical_fillLine (cl h p line : Nat) (pte : DWord) (rc : Nat) (hits : Bool) : canonical (fillLine s cl h p line pte rc hits) := by
  unfold fillLine
  grind [canonical, canonical_placeL2, canonical_dropL1, canonical_placeL1]

theorem canonical_ownLine (cl h p line : Nat) (pte : DWord) (rc : Nat) : canonical (ownLine s cl h p line pte rc) := by
  unfold ownLine
  grind [canonical_placeL2, canonical_placeL1]

theorem canonical_evictCopy (cl line : Nat) : canonical (evictCopy s cl line) := by
  unfold evictCopy
  split <;> exact hs

theorem canonical_retagLines (h : Nat) (ps : List Nat) (p : Option Nat) : canonical (retagLines s h ps p) := by
  unfold retagLines
  split <;> exact hs

theorem canonical_flushHank (h : Nat) : canonical (flushHank s h) := by
  unfold flushHank
  refine canonical_foldl (fun u e hu => ?_) (canonical_foldl (fun u t hu => canonical_leaveCache hu _) hs _) _
  grind [canonical, canonical_dropL1, canonical_leaveCache]

theorem canonical_sumWrite (p : Partial) (bs : Bytes) : canonical (sumWrite s p bs) := by
  unfold sumWrite
  grind [canonical, canonical_rootWrite, canonical_cacheRoot]

theorem canonical_evictPartial (p : Partial) : canonical (evictPartial s p) := by
  unfold evictPartial
  grind [canonical_sumWrite]

theorem canonical_foldLine (line : Nat) : canonical (foldLine s line) := by
  unfold foldLine
  grind [canonical, canonical_countFails, canonical_sumWrite]

theorem canonical_foldRange (pa n : Nat) : canonical (foldRange s pa n) := by
  unfold foldRange
  split
  · exact hs
  · exact canonical_foldl (fun _ _ hu => canonical_foldLine hu _) hs _

theorem canonical_noteTlb (h : Nat) (l : Leaf) (q : DWord) : canonical (noteTlb s h l q) := hs

theorem canonical_markUsed (h : Nat) (l : Leaf) (wr : Bool) : canonical (markUsed s h l wr) := by
  unfold markUsed
  grind [canonical_noteTlb, canonical_homeWrite]

end

/-! ### Waves, markers and flights -/

section
variable {s : State} (hs : canonical s)
include hs

theorem canonical_modThread (w n : Nat) (f : Strand → Strand) : canonical (modThread s w n f) := hs

theorem canonical_putPair (w : Nat) (acc : Bool) (m : Mask) (r : Nat) (f : Nat → DWord) : canonical (putPair s w acc m r f) := hs

theorem canonical_stopRunning (w n : Nat) : canonical (stopRunning s w n) := hs

theorem canonical_stopWave (w : Nat) : canonical (stopWave s w) := hs

theorem canonical_pruneRunning : canonical (pruneRunning s) := hs

theorem canonical_addFlight (f : Flight) : canonical (addFlight s f) := hs

theorem canonical_modFlight (id : Nat) (f : Flight → Flight) : canonical (modFlight s id f) := hs

theorem canonical_cancelFlights (p : Flight → Bool) : canonical (cancelFlights s p) := hs

theorem canonical_updateFlight (id : Nat) (f : Flight → Flight) : canonical (updateFlight s id f) := hs

theorem canonical_performed (id : Nat) : canonical (performed s id) := hs

theorem canonical_settleFlags (w : Nat) : canonical (settleFlags s w) := hs

theorem canonical_releaseLines (ls : List Nat) : canonical (releaseLines s ls) :=
  canonical_foldl (fun _ _ hu => canonical_settleFlags (canonical_performed hu _) _) hs _

theorem canonical_settleBarriers (launch : Nat) : canonical (settleBarriers s launch) := hs

theorem canonical_modBay (core bay : Nat) (f : Bay → Bay) : canonical (modBay s core bay f) := hs

theorem canonical_giveNeedle (core bay w : Nat) : canonical (giveNeedle s core bay w) := by
  unfold giveNeedle
  dsimp only
  split
  · exact hs
  · split
    · split
      · exact canonical_foldl (fun _ _ hu => canonical_setPoison hu _ _) (by exact hs) _
      · exact hs
    · exact hs

theorem canonical_clearAccs (core bay : Nat) : canonical (clearAccs s core bay) := hs

theorem canonical_passNeedle (core bay : Nat) (tgt : Option Nat) : canonical (passNeedle s core bay tgt) := by
  unfold passNeedle
  grind [canonical_clearAccs, canonical_modBay, canonical_giveNeedle]

theorem canonical_leaveFifo (w : Nat) (v : Wave) : canonical (leaveFifo s w v) := by
  unfold leaveFifo
  split <;> exact hs

theorem canonical_leaveNeedle (w : Nat) (v : Wave) : canonical (leaveNeedle s w v) := by
  unfold leaveNeedle
  grind [canonical_leaveFifo, canonical_passNeedle]

theorem canonical_endLaunch (li : Nat) (l : Launch) : canonical (endLaunch s li l) := by
  unfold endLaunch
  grind [canonical, canonical_hankEvent]

theorem canonical_settleLaunch (li : Nat) : canonical (settleLaunch s li) := by
  unfold settleLaunch
  grind [canonical_endLaunch]

theorem canonical_endPair (k : Nat) : canonical (endPair s k) := by
  unfold endPair
  split <;> exact hs

theorem canonical_settleTeam (ti : Nat) : canonical (settleTeam s ti) := by
  unfold settleTeam
  grind [canonical_modTeam, canonical_modHank]

theorem canonical_saveBarriers (ti : Nat) (t : Team) (base : Nat) : canonical (saveBarriers s ti t base) :=
  canonical_foldl (fun _ _ hu => canonical_homeWrite (by exact hu) _ _ _ _) hs _

theorem canonical_savePoison (ti : Nat) (t : Team) (rs : List (Nat × Nat)) (base : Nat) : canonical (savePoison s ti t rs base) := by
  refine canonical_foldl (fun u q hu => ?_) hs _
  grind [canonical_setPoison]

theorem canonical_settleSave (ti : Nat) : canonical (settleSave s ti) := by
  unfold settleSave
  split
  · exact hs
  · dsimp only
    split
    · exact hs
    · exact canonical_saveBarriers (canonical_savePoison (canonical_foldl (fun _ _ hu => canonical_homeWrite hu _ _ _ _) hs _) _ _ _ _) _ _ _

theorem canonical_freeKeeper (h w : Nat) : canonical (freeKeeper s h w) := hs

theorem canonical_retireWave (w : Nat) (cause : Option Nat) : canonical (retireWave s w cause) := by
  unfold retireWave
  grind [canonical, canonical_stopWave, canonical_cancelFlights, canonical_freeKeeper, canonical_settleSave, canonical_settleTeam,
    canonical_modWave, canonical_leaveNeedle, canonical_errRecord, canonical_endPair, canonical_settleBarriers, canonical_settleLaunch]

theorem canonical_bump : canonical (bump s) := hs

theorem canonical_endRegionFlights (w : Nat) : canonical (endRegionFlights s w) := hs

theorem canonical_leaveFifoIn (w : Nat) (lanes : Mask) : canonical (leaveFifoIn s w lanes) := by
  unfold leaveFifoIn
  grind [canonical_leaveFifo]

theorem canonical_abortRegion (w cause code detail : Nat) : canonical (abortRegion s w cause code detail) := by
  unfold abortRegion
  grind [canonical_leaveFifoIn, canonical_stopWave, canonical_modWave, canonical_endRegionFlights, canonical_stopRunning]

theorem canonical_restoreMarks (w : Nat) (m : Mask) (rs : List Nat) (marks : List (Nat × Nat × Nat)) : canonical (restoreMarks s w m rs marks) := by
  unfold restoreMarks
  dsimp only
  split
  · exact hs
  · refine canonical_foldl (fun u q hu => ?_) (by exact hs) _
    split
    · exact canonical_setPoison hu _ _
    · exact hu

theorem canonical_restartIdem (w : Nat) (r : Idem) : canonical (restartIdem s w r) := by
  unfold restartIdem
  grind [canonical, canonical_leaveFifoIn, canonical_stopWave, canonical_restoreMarks, canonical_modWave]

theorem canonical_takeStrandTrap (w : Nat) (v : Wave) (t : Strand) : canonical (takeStrandTrap s w v t) := by
  unfold takeStrandTrap
  grind [canonical_modWave, canonical_retireWave]

theorem canonical_takeAccessTrap (w : Nat) (v : Wave) (t : Strand) : canonical (takeAccessTrap s w v t) := by
  unfold takeAccessTrap
  grind [canonical_modWave, canonical_retireWave]

theorem canonical_takeTrap (w : Nat) : canonical (takeTrap s w) := by
  unfold takeTrap
  grind [canonical_takeStrandTrap, canonical_takeAccessTrap]

theorem canonical_doubleFault (w : Nat) (v : Wave) : canonical (doubleFault s w v) := by
  unfold doubleFault
  grind [canonical_retireWave]

theorem canonical_returnTrap (w n : Nat) : canonical (returnTrap s w n) := by
  unfold returnTrap
  grind [canonical_stopRunning, canonical_modWave]

end

/-! ### Plies, atomic regions and the issue of a word -/

section
variable {s : State} (hs : canonical s)
include hs

theorem canonical_joinDir (h w n pc : Nat) : canonical (joinDir s h w n pc) := hs

theorem canonical_leaveDir (h w n : Nat) : canonical (leaveDir s h w n) := by
  unfold leaveDir
  split <;> exact hs

theorem canonical_addPlies (h parent : Nat) (life : Option (Nat × Nat)) (ns : List Nat) : canonical (addPlies s h parent life ns) := hs

theorem canonical_moveWave (w p : Nat) : canonical (moveWave s w p) := hs

theorem canonical_repointOps (h : Nat) (ps : List Nat) (p : Nat) : canonical (repointOps s h ps p) := hs

theorem canonical_endDeferred (es : List LogEntry) : canonical (endDeferred s es) := by
  unfold endDeferred
  split <;> exact hs

theorem canonical_dropPlies (h : Nat) (ps : List Nat) : canonical (dropPlies s h ps) := by
  unfold dropPlies
  grind [canonical, canonical_endDeferred, canonical_modHank, canonical_retagLines]

theorem canonical_frog (h t : Nat) (spare : List Nat) : canonical (frog s h t spare) := by
  unfold frog
  dsimp only
  split
  · exact hs
  · split
    · exact hs
    · refine canonical_dropPlies (canonical_repointOps (canonical_foldl (fun u w hu => ?_) hs _) _ _ _) _ _
      grind [canonical_moveWave, canonical_modWave, canonical_cancelFlights, canonical_retireWave]

theorem canonical_noteKeep (h t p line : Nat) : canonical (noteKeep s h t p line) := hs

theorem canonical_versionToRoot (v : Version) : canonical (versionToRoot s v) :=
  canonical_foldl (fun _ _ hu => canonical_setPoison hu _ _) (canonical_homeWrite hs _ _ _ _) _

theorem canonical_renameVersions (h t p : Nat) (ls : List Nat) : canonical (renameVersions s h t p ls) := hs

theorem canonical_mergePly (h : Nat) (y : Ply) : canonical (mergePly s h y) := by
  have hnoted : ∀ ls : List Nat, canonical (ls.foldl (fun s l => noteKeep s h y.num y.parent l) s) :=
    fun ls => canonical_foldl (fun _ _ hu => canonical_noteKeep hu _ _ _ _) hs ls
  have hroot : ∀ (vs : List Version) (u : State), canonical u → canonical (vs.foldl versionToRoot u) :=
    fun vs u hu => canonical_foldl (fun _ _ hu => canonical_versionToRoot hu _) hu vs
  unfold mergePly
  grind [canonical, canonical_renameVersions, canonical_retagLines, canonical_repointOps, canonical_modHank]

theorem canonical_applyKeep (h t : Nat) (others spare : List Nat) : canonical (applyKeep s h t others spare) := by
  have hf := canonical_foldl (f := fun s q => frog s h q spare) (fun _ _ hu => canonical_frog hu _ _ _) hs others
  unfold applyKeep
  dsimp only
  split
  · exact hf
  · exact canonical_mergePly hf _ _

theorem canonical_setKeeper (h : Nat) (k : Option Keep) : canonical (setKeeper s h k) := hs

theorem canonical_cleanReg (w d : Nat) (m : Mask) : canonical (cleanReg s w d m) := by
  unfold cleanReg
  grind [canonical_restoreMarks]

theorem canonical_keepDone (w d : Nat) (m : Mask) : canonical (keepDone s w d m) := by
  unfold keepDone
  grind [canonical_cleanReg, canonical_modWave]

theorem canonical_endKeep (h : Nat) : canonical (endKeep s h) := by
  refine canonical_foldl (fun u w hu => ?_) (canonical_setKeeper hs _ _) _
  dsimp only
  split
  · split
    · exact canonical_settleFlags (canonical_modWave (canonical_foldl (fun _ _ hu => canonical_keepDone hu _ _ _) hu _) _ _) _
    · exact hu
  · exact hu

theorem canonical_mergeKeep (h : Nat) (k : Keep) : canonical (mergeKeep s h k) := by
  unfold mergeKeep
  grind [canonical_applyKeep, canonical_endKeep, canonical_setKeeper]

theorem canonical_settleKeep (h : Nat) : canonical (settleKeep s h) := by
  unfold settleKeep
  grind [canonical_mergeKeep]

theorem canonical_settleKeeps : canonical (settleKeeps s) := by
  unfold settleKeeps
  split
  · exact hs
  · exact canonical_foldl (fun _ _ hu => canonical_settleKeep hu _) hs _

theorem canonical_raiseAll (w : Nat) (cause : Cause) (detail : Nat) : canonical (raiseAll s w cause detail) := by
  unfold raiseAll
  grind [canonical, canonical_doubleFault, canonical_abortRegion, canonical_modWave]

theorem canonical_markRend (w k : Nat) : canonical (markRend s w k) := hs

theorem canonical_mismatchRecords (p : Pair) (n : Nat) : canonical (mismatchRecords s p n) := by
  unfold mismatchRecords
  grind [canonical_errRecord]

theorem canonical_of_pairKeep {p : Pair} {t : State} (h : pairKeep s p = .kept t) : canonical t := by
  unfold pairKeep at h
  grind [canonical_applyKeep]

theorem canonical_modPair (k : Nat) (f : Pair → Pair) : canonical (modPair s k f) := hs

theorem canonical_rollbackWave (w : Nat) (ck : Checkpoint) : canonical (rollbackWave s w ck) := by
  unfold rollbackWave
  grind [canonical, canonical_restoreMarks, canonical_endRegionFlights, canonical_modWave]

theorem canonical_forkPair (k : Nat) (p : Pair) (back : Bool) : canonical (forkPair s k p back) := by
  unfold forkPair
  grind [canonical_addPlies, canonical_modPair, canonical_modWave]

theorem canonical_frogPair (p : Pair) : canonical (frogPair s p) := by
  unfold frogPair
  grind [canonical_frog]

theorem canonical_retryPair (k : Nat) (p : Pair) : canonical (retryPair s k p) := by
  unfold retryPair
  grind [canonical_frogPair, canonical_modPair, canonical_rollbackWave]

theorem canonical_raiseMet (w : Nat) (cause : Cause) (detail : Nat) : canonical (raiseMet s w cause detail) := by
  unfold raiseMet
  grind [canonical_retireWave, canonical_raiseAll, canonical_modWave]

theorem canonical_breakPair (k : Nat) (p : Pair) : canonical (breakPair s k p) := by
  unfold breakPair
  grind [canonical_raiseMet, canonical_retireWave, canonical_endPair, canonical_frogPair]

theorem canonical_mismatch (k : Nat) (p : Pair) (n : Nat) : canonical (mismatch s k p n) := by
  unfold mismatch
  grind [canonical_mismatchRecords, canonical_breakPair, canonical_retryPair]

theorem canonical_checkPair (k : Nat) (p : Pair) (a b : Wave) : canonical (checkPair s k p a b) := by
  unfold checkPair
  grind [canonical_mismatch, canonical_of_pairKeep, canonical_raiseMet, canonical_modPair, canonical_modWave]

theorem canonical_finalPair (k : Nat) (p : Pair) (a : Wave) : canonical (finalPair s k p a) := by
  unfold finalPair
  grind [canonical_mismatch, canonical_of_pairKeep, canonical_raiseMet, canonical_retireWave, canonical_endPair]

theorem canonical_settlePair (k : Nat) : canonical (settlePair s k) := by
  unfold settlePair
  grind [canonical_forkPair, canonical_finalPair, canonical_checkPair]

theorem canonical_settlePairs : canonical (settlePairs s) := by
  have hk := canonical_settleKeeps hs
  have hp : ∀ (u : State) (ks : List Nat), canonical u → canonical (ks.foldl settlePair u) :=
    fun _ ks hu => canonical_foldl (fun _ _ h => canonical_settlePair h _) hu ks
  unfold settlePairs
  dsimp only
  split
  · exact hk
  · exact hp _ _ (hp _ _ hk)

theorem canonical_settle (w : Nat) : canonical (settle s w) := by
  unfold settle
  grind [canonical_modWave, canonical_pruneRunning, canonical_settlePairs, canonical_settleFlags, canonical_markRend, canonical_retireWave,
    canonical_settleBarriers]

theorem canonical_put (c : Ctx) (r : Nat) (f : Nat → Word) : canonical (Ctx.put c s r f) := hs

theorem canonical_put64 (c : Ctx) (r : Nat) (f : Nat → DWord) : canonical (Ctx.put64 c s r f) := hs

theorem canonical_fault (c : Ctx) (cause : Cause) (addr : DWord) (wr : Bool) (space : Space) (detail : Nat) : canonicalRes (Ctx.fault c s cause addr
    wr space detail) := hs

theorem canonical_markReg (c : Ctx) (code : Nat → Option Nat) (r q : Nat) : canonical (markReg s c code r q) := by
  unfold markReg
  grind [canonical_setPoison, canonical_clearPoison]

theorem canonical_markRegs (c : Ctx) (code : Nat → Option Nat) (rs : List Nat) : canonical (markRegs s c code rs) := by
  unfold markRegs
  split
  · exact hs
  · exact canonical_foldl (fun _ _ hu => canonical_markReg (canonical_markReg hu _ _ _ _) _ _ _ _) hs _

theorem canonical_clearRegs (c : Ctx) (rs : List Nat) : canonical (clearRegs s c rs) := by
  unfold clearRegs
  grind [canonical_markRegs]

theorem canonical_clearRegPoison (c : Ctx) (i : Instr) : canonical (clearRegPoison s c i) := by
  unfold clearRegPoison
  grind [canonical_markRegs]

theorem canonical_trackTags (c : Ctx) (r : Region) (i : Instr) : canonical (trackTags s c r i) := hs

theorem canonical_rotate (c : Ctx) : canonical (rotate s c) := by
  unfold rotate
  split <;> exact hs

theorem canonical_conclude (c : Ctx) : canonicalOutcome (conclude s c) := by
  unfold conclude
  grind [canonicalOutcome, canonical_bump, canonical_settle, canonical_rotate]

theorem canonical_consumedRecords (c : Ctx) (again : Mask) (fs : List LaneFault) : canonical (consumedRecords s c again fs) := by
  refine canonical_foldl (fun u r hu => ?_) hs _
  grind [canonical_errRecord]

theorem canonical_concretePred (c : Ctx) (i : Instr) : canonical (concretePred s c i) := by
  unfold concretePred
  grind [canonical_modWave]

theorem canonical_regionFault (c : Ctx) (fs : List LaneFault) : canonicalOutcome (regionFault s c fs) := by
  unfold regionFault
  grind [canonical_consumedRecords, canonical_conclude, canonical_abortRegion]

theorem canonical_finishDone {s0 : State} (hs0 : canonical s0) (c : Ctx) (i : Instr) (st : Stops) : canonicalOutcome (finishDone s0 s c i st) := by
  unfold finishDone
  grind [canonical_regionFault, canonical_conclude, canonical_modThread, canonical_trackTags, canonical_clearRegPoison, canonical_doubleFault,
    canonical_consumedRecords, canonical_modWave, canonical_restartIdem]

theorem canonical_finish (c : Ctx) (i : Instr) {r : Res} (hr : canonicalRes r) : canonicalOutcome (finish s c i r) := by
  unfold finish
  grind [canonicalOutcome, canonicalRes, canonical_finishDone, canonical_pruneRunning, canonical_modThread, canonical_settle, canonical_rotate,
    canonical_conclude, canonical_abortRegion]

theorem canonical_wordFault (c : Ctx) (i : Instr) (cause : Cause) : canonicalOutcome (wordFault s c i cause) :=
  canonical_finishDone hs hs _ _ _

theorem canonical_wakePred (c : Ctx) (i : Instr) : canonical (wakePred s c i) := by
  unfold wakePred
  split <;> exact hs

theorem canonical_wakeBanks (c : Ctx) (i : Instr) : canonical (wakeBanks s c i) := by
  unfold wakeBanks
  grind [canonical_wakePred, canonical_modWave]

theorem canonical_issueIn (c : Ctx) (i : Instr) {body : State → Ctx → Res} (hbody : ∀ u c, canonical u → canonicalRes (body u c)) :
    canonicalOutcome (issueIn s c i body) := by
  have hwake : ∀ {u}, canonical u → canonical (wakeBanks u c i) := fun hu => canonical_wakeBanks hu c i
  have hpred := hwake (canonical_concretePred hs c i)
  unfold issueIn
  dsimp only
  iterate 3 refine ite_cases _ (canonical_wordFault hs c i _) ?_
  refine ite_cases _ (canonical_finishDone hpred hs c i _) ?_
  refine ite_cases _ (canonical_finish (canonical_wakePred hs c i) c i trivial) ?_
  refine ite_cases _ (canonical_finish (hwake hs) c i trivial) ?_
  refine ite_cases _ (canonical_finish (canonical_wakePred hs c i) c i trivial) ?_
  refine ite_cases _ (canonical_finish hpred c i (hbody _ c hpred)) ?_
  refine ite_cases _ (canonical_finishDone hpred hpred c i _) ?_
  split
  · next t st hdone =>
    exact canonical_finishDone (hdone ▸ hbody _ _ hpred :) hpred _ i _
  · exact canonical_finishDone hpred hpred c i _

theorem canonical_issue (i : Instr) {body : State → Ctx → Res} (hbody : ∀ u c, canonical u → canonicalRes (body u c)) :
    canonicalOutcome (issue s i body) := by
  unfold issue
  split
  · trivial
  · exact canonical_issueIn hs _ i hbody

theorem canonical_raiseFcr (w : Nat) (f : BitVec 9) : canonical (raiseFcr s w f) := hs

theorem canonical_raiseGst (w g : Nat) : canonical (raiseGst s w g) := hs

theorem canonical_raisePerf (core bay n : Nat) : canonical (raisePerf s core bay n) := hs

theorem canonical_floatRow (c : Ctx) (d : Nat) (f : Nat → Nat × BitVec 9) : canonical (floatRow c s d f) := hs

end

/-! ### Lanes, global memory and scratch -/

section
variable {s : State} (hs : canonical s)
include hs

theorem canonical_markAffine (c : Ctx) (r : Nat) (f : Nat → DWord) : canonical (markAffine s c r f) := by
  unfold markAffine
  grind [canonical_modWave]

theorem canonical_affineRow (c : Ctx) (r : Nat) (f : Nat → DWord) : canonical (affineRow c s r f) :=
  canonical_markAffine (by exact hs) c r f

theorem canonical_execAmov (x : V3) : canonicalOutcome (execAmov x s) := by
  refine canonical_issue hs _ fun u c hu => ?_
  grind [canonicalRes, Res.ok, canonical_affineRow]

theorem canonical_execAldi (x : VI) : canonicalOutcome (execAldi x s) := by
  refine canonical_issue hs _ fun u c hu => ?_
  grind [canonicalRes, Res.ok, canonical_affineRow]

theorem canonical_execAadd (x : V3) : canonicalOutcome (execAadd x s) := by
  refine canonical_issue hs _ fun u c hu => ?_
  grind [canonicalRes, Res.ok, canonical_affineRow]

theorem canonical_execAaddVi (x : VI) : canonicalOutcome (execAaddVi x s) := by
  refine canonical_issue hs _ fun u c hu => ?_
  grind [canonicalRes, Res.ok, canonical_affineRow]

theorem canonical_execAsub (x : V3) : canonicalOutcome (execAsub x s) := by
  refine canonical_issue hs _ fun u c hu => ?_
  grind [canonicalRes, Res.ok, canonical_affineRow]

theorem canonical_execAsubVi (x : VI) : canonicalOutcome (execAsubVi x s) := by
  refine canonical_issue hs _ fun u c hu => ?_
  grind [canonicalRes, Res.ok, canonical_affineRow]

theorem canonical_execAmuli (x : VI) : canonicalOutcome (execAmuli x s) := by
  refine canonical_issue hs _ fun u c hu => ?_
  grind [canonicalRes, Res.ok, canonical_affineRow]

theorem canonical_execAshli (x : VI) : canonicalOutcome (execAshli x s) := by
  refine canonical_issue hs _ fun u c hu => ?_
  grind [canonicalRes, Res.ok, canonical_affineRow]

theorem canonical_writeMask (c : Ctx) (m : Mask) : canonical (writeMask s c m) := hs

theorem canonical_execMwrite (x : V3) : canonicalOutcome (execMwrite x s) := by
  refine canonical_issue hs _ fun u c hu => ?_
  grind [canonicalRes, Res.ok, canonical_writeMask]

theorem canonical_writeRequest (h : Nat) : canonical (writeRequest s h) := by
  unfold writeRequest
  grind [canonical_homeWrite, canonical_modHank, canonical_hankEvent, canonical_setHreg]

theorem canonical_writeRequests (h n : Nat) : canonical (writeRequests s h n) := by
  induction n generalizing s with
  | zero => exact hs
  | succ n ih => exact ih (canonical_writeRequest hs h)

theorem canonical_requestPage (h va : Nat) (wr : Bool) : canonical (requestPage s h va wr) := by
  unfold requestPage
  grind [canonical_modHank, canonical_writeRequest]

theorem canonical_noteMove (h : Nat) (l : Leaf) : canonical (noteMove s h l) := hs

theorem canonical_invalidate (h : Nat) (va : Option Nat) : canonical (invalidate s h va) := hs

theorem canonical_of_overLanes {α : Type} {h : Nat} {f : State → Nat → LaneStep α} (hf : ∀ u l, canonical u → canonicalLane (f u l)) {ls : List Nat}
    {res : List (Nat × α)} {st : Stops} {b : LaneAcc α} (ho : overLanes h f ls { s := s, res := res, st := st } = .ok b) : canonical b.s := by
  induction ls generalizing s res st with
  | nil =>
    cases ho
    exact hs
  | cons l ls ih =>
    have hl := hf s l hs
    unfold overLanes at ho
    cases hstep : f s l <;> rw [hstep] at hl ho
    case go => exact ih hl ho
    case stop => exact ih hs ho
    case trip => exact ih hl ho
    case migrate => exact ih (canonical_requestPage hs _ _ _) ho
    case wait => exact ih hs ho
    case waitIn => exact ih hl ho
    case hole => cases ho

theorem canonical_withRoom {α : Type} {room : Nat → Bool} {c : Ctx} {f : State → Nat → LaneStep α} {k : State → List (Nat × α) → State}
    (hf : ∀ u l, canonical u → canonicalLane (f u l)) (hk : ∀ u res, canonical u → canonical (k u res)) : canonicalRes (withRoom room s c f k) := by
  unfold withRoom
  split
  · trivial
  · next a ho =>
    have ha := canonical_of_overLanes hs hf ho
    split
    · exact ha
    · split
      · exact hk _ _ ha
      · trivial

theorem canonical_withLanes {α : Type} {c : Ctx} {f : State → Nat → LaneStep α} {k : State → List (Nat × α) → State}
    (hf : ∀ u l, canonical u → canonicalLane (f u l)) (hk : ∀ u res, canonical u → canonical (k u res)) : canonicalRes (withLanes s c f k) :=
  canonical_withRoom hs hf hk

theorem canonical_loadLane (c : Ctx) (l va n : Nat) (sp : Space) (cl : Nat) : canonicalLane (loadLane s c l va n sp cl) := by
  unfold loadLane
  grind [canonicalLane, canonical_evictCopy, canonical_foldRange, canonical_markUsed]

theorem canonical_touch (c : Ctx) (rc : Nat) (wr hits : Bool) (ls : List (Nat × Nat × DWord)) : canonical (c.touch s rc wr hits ls) := by
  refine canonical_foldl (fun u p hu => ?_) hs _
  split
  · exact canonical_ownLine hu _ _ _ _ _ _
  · exact canonical_fillLine hu _ _ _ _ _ _ _

theorem canonical_reach (c : Ctx) (s0 : State) (rc : Nat) (wr : Bool) (vas : List Nat) : canonical (c.reach s0 s rc wr vas) := by
  refine canonical_touch ?_ c _ _ _ _
  exact ite_cases _ (by exact hs) (by exact hs)

theorem canonical_writeLeaf (w : Option Nat) (h q : Nat) (l : Leaf) (bs : Bytes) : canonical (writeLeaf s w h q l bs) := by
  unfold writeLeaf
  grind [canonical_plyWrite, canonical_markUsed, canonical_cacheRoot]

theorem canonical_gaugeCheck (w h : Nat) (l : Leaf) (bs : Bytes) (trap : Bool) : canonical (gaugeCheck s w h l bs trap).1 := by
  unfold gaugeCheck
  grind [canonical_raiseGst, canonical_countFails]

theorem canonical_addSigs (w : Nat) (v : Wave) (sg : List Sig) : canonical (addSigs s w v sg) := by
  unfold addSigs
  grind [canonical]

theorem canonical_storeLane (c : Ctx) (l va : Nat) (bs : Bytes) : canonicalLane (storeLane s c l va bs) := by
  unfold storeLane
  grind [canonicalLane, canonical_scratchWrite, canonical_noteMove, canonical_foldRange, canonical_gaugeCheck, canonical_writeLeaf]

theorem canonical_of_readGlobal {h ply cl va n : Nat} {t : State} {bs : Bytes} (hr : readGlobal s h ply cl va n = .ok t bs) : canonical t := by
  unfold readGlobal at hr
  grind [canonical_evictCopy, canonical_foldRange, canonical_markUsed]

theorem canonical_placeBytes (h p n : Nat) (x0 : Place) : canonical (placeBytes s h p n x0).1 := by
  unfold placeBytes
  grind [canonical_foldRange, canonical_markUsed]

theorem canonical_of_placeWrite {w : Option Nat} {h ply va : Nat} {bs : Bytes} {pl : Place} {t : State}
    (hw : placeWrite s w h ply va bs pl = .ok t) : canonical t := by
  unfold placeWrite at hw
  grind [canonical_scratchWrite, canonical_writeLeaf, canonical_foldRange]

theorem canonical_migrateAll (c : Ctx) (va : Nat) (wr : Bool) (sp : Space) : canonicalRes (c.migrateAll s va wr sp) :=
  canonical_requestPage hs _ _ _

theorem canonical_withRecord (c : Ctx) (ply va n : Nat) {k : State → Bytes → Res} (hk : ∀ u bs, canonical u → canonicalRes (k u bs)) :
    canonicalRes (withRecord s c ply va n k) := by
  unfold withRecord
  split
  · next hr => exact hk _ _ (canonical_of_readGlobal hs hr)
  · exact hs
  · exact canonical_migrateAll hs c _ _ _
  · trivial
  · trivial

theorem canonical_loadFlight (c : Ctx) (p : Option Path) (size : BitVec 3) (d : BitVec 8) (perf : Bool) (res : List (Nat × List Word)) : canonical
    (loadFlight s c p size d perf res) := hs

theorem canonical_regionLoadLane (c : Ctx) (l va n cl : Nat) : canonicalLane (regionLoadLane s c l va n cl) := by
  have hl := canonical_loadLane hs c l va n .global cl
  unfold regionLoadLane
  grind [canonicalLane]

theorem canonical_regionLd (c : Ctx) (r : Region) (x : MWord) : canonicalRes (regionLd s c r x) := by
  refine ite_cases _ trivial ?_
  split
  · trivial
  · next b ho =>
    have hb := canonical_of_overLanes hs (fun _ l hu => canonical_regionLoadLane hu c l _ _ _) ho
    refine ite_cases _ hb ?_
    split
    · trivial
    · exact canonical_reach (by exact hb) c _ _ _ _

theorem canonical_regionStoreLane (c : Ctx) (l va : Nat) (bs : Bytes) : canonicalLane (regionStoreLane s c l va bs) := by
  unfold regionStoreLane
  grind [canonicalLane, canonical_noteMove, canonical_gaugeCheck]

theorem canonical_regionSt (c : Ctx) (r : Region) (x : MWord) : canonicalRes (regionSt s c r x) := by
  refine ite_cases _ trivial ?_
  split
  · trivial
  · next b ho =>
    have hb := canonical_of_overLanes hs (fun _ l hu => canonical_regionStoreLane hu c l _ _) ho
    refine ite_cases _ hb (ite_cases _ trivial ?_)
    split
    · trivial
    · exact ite_cases _ trivial (canonical_addSigs (by exact hb) _ _ _)

omit hs in
theorem canonical_carryStore {α : Type} {r : LaneStep α} (c : Ctx) (i : Instr) (l : Nat) (gs : List Granule) (hr : canonicalLane r) :
    canonicalLane (carryStore s c i l gs r) := by
  unfold carryStore
  split
  · split
    · exact hr
    · split
      · exact hr
      · exact canonical_foldl (fun _ _ hu => canonical_setPoison hu _ _) (by exact hr) _
  · exact hr

theorem canonical_execLd (x : MWord) : canonicalOutcome (execLd x s) := by
  refine canonical_issue hs _ fun u c hu => ite_cases _ trivial ?_
  split
  · exact canonical_regionLd hu c _ x
  · exact ite_cases _ trivial (canonical_withLanes hu (fun _ l ht => canonical_loadLane ht c l _ _ _ _) fun _ _ ht => canonical_reach (by exact ht)
    c _ _ _ _)

theorem canonical_execSt (x : MWord) : canonicalOutcome (execSt x s) := by
  refine canonical_issue hs _ fun u c hu => ite_cases _ trivial ?_
  split
  · exact canonical_regionSt hu c _ x
  · exact ite_cases _ trivial (canonical_withRoom hu (fun _ l ht => canonical_carryStore c _ l _ (canonical_storeLane ht c l _ _))
      fun _ _ ht => canonical_reach (by exact canonical_addSigs ht _ _ _) c _ _ _ _)

theorem canonical_execLdk (x : MWord) : canonicalOutcome (execLdk x s) := by
  refine canonical_issue hs _ fun u c hu => ite_cases _ trivial ?_
  exact canonical_withLanes hu (fun _ l ht => canonical_loadLane ht c l _ _ _ _) fun _ _ ht => canonical_reach (by exact ht) c _ _ _ _

theorem canonical_execLds (x : MWord) : canonicalOutcome (execLds x s) := by
  refine canonical_issue hs _ fun u c hu => ite_cases _ trivial (canonical_withLanes hu (fun t l ht => ?_) fun _ _ ht => ht)
  dsimp only
  split
  · trivial
  · trivial
  · split
    · trivial
    · exact ht

theorem canonical_execSts (x : MWord) : canonicalOutcome (execSts x s) := by
  refine canonical_issue hs _ fun u c hu => ite_cases _ trivial (canonical_withLanes hu (fun t l ht => ?_) fun _ _ ht => ht)
  dsimp only
  split
  · trivial
  · trivial
  · exact canonical_carryStore c _ l _ (canonical_scratchWrite ht _ _ _)

theorem canonical_execLdv (x : MWord) : canonicalOutcome (execLdv x s) := by
  refine canonical_issue hs _ fun u c hu => ite_cases _ trivial (canonical_withLanes hu (fun t l ht => ?_) fun _ _ ht => ht)
  dsimp only
  refine ite_cases _ trivial ?_
  split
  · trivial
  · split
    · trivial
    · exact ht

theorem canonical_execStv (x : MWord) : canonicalOutcome (execStv x s) := by
  refine canonical_issue hs _ fun u c hu => ite_cases _ trivial (canonical_withLanes hu (fun t l ht => ?_) fun _ _ ht => ht)
  dsimp only
  refine ite_cases _ trivial ?_
  split
  · trivial
  · exact ite_cases _ trivial (canonical_carryStore c _ l _ (canonical_vaultClear (canonical_vaultWrite ht _ _ _ _) _ _ _))

theorem canonical_dropCopies (line : Nat) : canonical (dropCopies s line) := hs

theorem canonical_rmwLeaf (w : Option Nat) (h ply q : Nat) (lf : Leaf) (n : Nat) (f : Nat → Option Nat) (trap : Bool) : canonical (rmwLeaf s w h ply
    q lf n f trap).1 := by
  unfold rmwLeaf
  grind [canonical_dropCopies, canonical_markUsed, canonical_gaugeCheck, canonical_writeLeaf, canonical_countFails]

theorem canonical_rmwLane (c : Ctx) (l va n : Nat) (f : Nat → Option Nat) : canonicalLane (rmwLane s c l va n f) := by
  unfold rmwLane
  grind [canonicalLane, canonical_scratchWrite, canonical_foldRange, canonical_rmwLeaf, canonical_noteMove]

theorem canonical_deferLane (c : Ctx) (l va n : Nat) : canonicalLane (deferLane s c l va n) := by
  unfold deferLane
  grind [canonicalLane]

theorem canonical_deferAtomic (c : Ctx) (x : MWord) (addr : Nat → Nat) (entry : List Nat → LogKind) (sig : Nat → Bytes) :
    canonicalRes (deferAtomic s c x addr entry sig) := by
  unfold deferAtomic
  split
  · trivial
  · next b ho =>
    have hb := canonical_of_overLanes hs (fun _ l hu => canonical_deferLane hu c l _ _) ho
    exact ite_cases _ hb (ite_cases _ trivial (ite_cases _ hb (canonical_addSigs (by exact hb) _ _ _)))

theorem canonical_globalAtomic (c : Ctx) (x : MWord) (addr : Nat → Nat) (f : Nat → Nat → Option Nat) (sig : Nat → Bytes) :
    canonicalRes (globalAtomic s c x addr f sig) :=
  ite_cases _ trivial (canonical_withRoom hs (fun _ l hu => canonical_rmwLane hu c l _ _ _)
    fun _ _ hu => canonical_reach (by exact canonical_addSigs hu _ _ _) c _ _ _ _)

theorem canonical_execAtom (x : MWord) : canonicalOutcome (execAtom x s) :=
  canonical_issue hs _ fun _ c hu => ite_cases _ trivial (ite_cases _ (canonical_deferAtomic hu c x _ _ _) (canonical_globalAtomic hu c x _ _ _))

theorem canonical_execAcas (x : MWord) : canonicalOutcome (execAcas x s) :=
  canonical_issue hs _ fun _ c hu => ite_cases _ trivial (ite_cases _ (canonical_deferAtomic hu c x _ _ _) (canonical_globalAtomic hu c x _ _ _))

theorem canonical_execAtoms (x : MWord) : canonicalOutcome (execAtoms x s) := by
  refine canonical_issue hs _ fun u c hu => ite_cases _ trivial (canonical_withLanes hu (fun t l ht => ?_) fun _ _ ht => ht)
  dsimp only
  split
  · trivial
  · trivial
  · split
    · trivial
    · exact canonical_scratchWrite ht _ _ _

theorem canonical_addPartial (cl h gidx fmt pa b : Nat) (cached : Bool) : canonical (addPartial s cl h gidx fmt pa b cached) := hs

theorem canonical_caddLane (c : Ctx) (x : MWord) (l : Nat) : canonicalLane (caddLane s c x l) := by
  unfold caddLane
  grind [canonicalLane, canonical_noteMove, canonical_carryStore, canonical_addPartial, canonical_markUsed]

theorem canonical_execCadd (x : MWord) : canonicalOutcome (execCadd x s) := by
  refine canonical_issue hs _ fun u c hu => ite_cases _ trivial ?_
  exact canonical_withRoom hu (fun _ l ht => canonical_caddLane ht c x l) fun _ _ ht => canonical_addSigs ht _ _ _

theorem canonical_endMwait (w : Nat) : canonical (endMwait s w) := hs

theorem canonical_execMon (x : MWord) : canonicalOutcome (execMon x s) := by
  refine canonical_issue hs _ fun u c hu => ite_cases _ hu ?_
  split
  · exact hu
  · exact canonical_migrateAll hu c _ _ _
  · trivial
  · trivial
  · trivial
  · have hm := canonical_markUsed hu c.v.hank ‹_› false
    exact ite_cases (P := canonical) _ hm hm

theorem canonical_execMwait (x : MWord) : canonicalOutcome (execMwait x s) := by
  refine canonical_issue hs _ fun u c hu => ?_
  grind [canonicalRes, Res.ok, canonical_endMwait]

theorem canonical_execPref (x : MWord) : canonicalOutcome (execPref x s) := by
  refine canonical_issue hs _ fun u c hu => ?_
  grind [canonicalRes, Res.ok, canonical_touch]

theorem canonical_invalidateLine (line : Nat) : canonical (invalidateLine s line) := by
  unfold invalidateLine
  grind [canonical, canonical_forgetHome, canonical_writeBack, canonical_dropCopies]

theorem canonical_maintLane (c : Ctx) (l va : Nat) {f : State → Nat → State} (hf : ∀ u line, canonical u → canonical (f u line)) :
    canonicalLane (maintLane s c l va f) := by
  unfold maintLane
  grind [canonicalLane, canonical_markUsed, canonical_foldRange]

theorem canonical_execCinv (x : MWord) : canonicalOutcome (execCinv x s) := by
  refine canonical_issue hs _ fun u c hu => ite_cases _ trivial ?_
  exact canonical_withLanes hu (fun _ l ht => canonical_maintLane ht c l _ fun _ _ hw => canonical_invalidateLine hw _) fun _ _ ht => ht

theorem canonical_execCwb (x : MWord) : canonicalOutcome (execCwb x s) := by
  refine canonical_issue hs _ fun u c hu => ite_cases _ trivial ?_
  exact canonical_withLanes hu (fun _ l ht => canonical_maintLane ht c l _ fun _ _ hw => canonical_writeBack hw _) fun _ _ ht => ht

end

/-! ### Ranges of bytes, yarns and tables -/

section
variable {s : State} (hs : canonical s)
include hs

theorem canonical_of_readPiece {h p : Nat} {sp : Space} {va n : Nat} {r : State × Load} (hr : readPiece s h p sp va n = .ok r) :
    canonical r.1 := by
  unfold readPiece at hr
  grind [canonical_foldRange, canonical_markUsed]

theorem canonical_of_readPieces {h p : Nat} {sp : Space} {ps : List (Nat × Nat)} {off : Nat} {d : Load} {r : State × Load}
    (hr : readPieces h p sp ps off s d = .ok r) : canonical r.1 := by
  induction ps generalizing s off d with
  | nil =>
    cases hr
    exact hs
  | cons q ps ih =>
    unfold readPieces at hr
    split at hr
    · exact absurd hr (orStop_ne_ok _ _ _)
    · next hp => exact ih (canonical_of_readPiece hs hp) hr

theorem canonical_of_readRange {h p va n : Nat} {sp : Space} {r : State × Load} (hr : readRange s h p va n sp = .ok r) : canonical r.1 :=
  canonical_of_readPieces hs hr

theorem canonical_carryPoison (a n : Nat) (ps : List (Nat × Nat)) (mk : Nat → Granule) : canonical (carryPoison s a n ps mk) := by
  unfold carryPoison
  split
  · exact hs
  · refine canonical_foldl (fun u g hu => ?_) hs _
    split
    · exact canonical_setPoison hu _ _
    · exact hu

theorem canonical_of_writePiece {w h p va : Nat} {bs : Bytes} {ps : List (Nat × Nat)} {r : State × Bytes}
    (hr : writePiece s w h p va bs ps = .ok r) : canonical r.1 := by
  unfold writePiece at hr
  grind [canonical_carryPoison, canonical_scratchWrite, canonical_writeLeaf, canonical_gaugeCheck, canonical_foldRange]

theorem canonical_of_writePieces {w h p : Nat} {d : Load} {qs : List (Nat × Nat)} {off : Nat} {out : Bytes} {r : State × Bytes}
    (hr : writePieces w h p d qs off s out = .ok r) : canonical r.1 := by
  induction qs generalizing s off out with
  | nil =>
    cases hr
    exact hs
  | cons q qs ih =>
    unfold writePieces at hr
    split at hr
    · exact absurd hr (orStop_ne_ok _ _ _)
    · next hp => exact ih (canonical_of_writePiece hs hp) hr

theorem canonical_of_writeRange {w h p va : Nat} {d : Load} {r : State × Bytes} (hr : writeRange s w h p va d = .ok r) : canonical r.1 :=
  canonical_of_writePieces hs hr

theorem canonical_writeScratch (t off : Nat) (d : Load) : canonical (writeScratch s t off d) := by
  unfold writeScratch
  grind [canonical_carryPoison, canonical_scratchWrite]

theorem canonical_writeVault (h core off : Nat) (d : Load) : canonical (writeVault s h core off d) := by
  unfold writeVault
  grind [canonical_carryPoison, canonical_vaultClear, canonical_vaultWrite]

theorem canonical_engineStop (c : Ctx) (e : EngineStop) : canonicalRes (c.engineStop s e) := by
  cases e with
  | fault | move => exact hs
  | migrate => exact canonical_migrateAll hs c _ _ _
  | hold | hole => trivial

theorem canonical_addMarkers (t : Nat) (ws : List Want) : canonical (addMarkers s t ws) := hs

theorem canonical_modYarn (w y : Nat) (f : Yarn → Yarn) : canonical (modYarn s w y f) := hs

theorem canonical_closeYarn (w y : Nat) : canonical (closeYarn s w y) := hs

theorem canonical_openYarn (c : Ctx) (y : Nat) (bs : Bytes) : canonicalRes (openYarn s c y bs) :=
  ite_cases _ hs (ite_cases _ hs hs)

theorem canonical_execYopen (x : KWord) : canonicalOutcome (execYopen x s) :=
  canonical_issue hs _ fun _ c hu => ite_cases _ hu (canonical_withRecord hu c _ _ _ fun _ _ ht => canonical_openYarn ht c _ _)

theorem canonical_of_readRow {v : Wave} {y : Yarn} {a : Nat} {r : State × Load} (hr : readRow s v y a = .ok r) : canonical r.1 := by
  unfold readRow at hr
  grind [canonical_of_readRange]

theorem canonical_of_readRows {v : Wave} {y : Yarn} {as : List Nat} {bs : Bytes} {p : Option Nat} {r : State × Bytes × Option Nat}
    (hr : readRows v y as s bs p = .ok r) : canonical r.1 := by
  induction as generalizing s bs p with
  | nil =>
    cases hr
    exact hs
  | cons a as ih =>
    unfold readRows at hr
    split at hr
    · exact absurd hr (orStop_ne_ok _ _ _)
    · next hp => exact ih (canonical_of_readRow hs hp) hr

theorem canonical_pushStage (c : Ctx) (k : Nat) (y : Yarn) (o : DWord) (sq : BitVec 16) : canonicalRes (pushStage s c k y o sq) := by
  refine ite_cases _ hs (ite_cases _ hs (ite_cases _ trivial ?_))
  dsimp only
  split
  · exact hs
  · split
    · exact canonical_engineStop hs c _
    · next hr => exact ite_cases _ hs (ite_cases _ hs (ite_cases _ trivial (canonical_of_readRows hs hr)))

theorem canonical_execYpush (x : KWord) : canonicalOutcome (execYpush x s) := by
  refine canonical_issue hs _ fun u c hu => ?_
  grind [canonical_pushStage]

theorem canonical_execYdrop (x : KWord) : canonicalOutcome (execYdrop x s) := by
  refine canonical_issue hs _ fun u c hu => ?_
  grind [canonicalRes, Res.ok, canonical_fault, canonical_cancelFlights, canonical_modYarn]

theorem canonical_execKwait (x : KWord) : canonicalOutcome (execKwait x s) := by
  refine canonical_issue hs _ fun u c hu => ?_
  grind [canonicalRes, Res.ok]

theorem canonical_setbFlight (c : Ctx) : canonical (setbFlight s c) := hs

theorem canonical_clockFlight (c : Ctx) (d : BitVec 8) (v : Word) : canonical (clockFlight s c d v) := hs

theorem canonical_execSysrd (x : SWord) : canonicalOutcome (execSysrd x s) := by
  refine canonical_issue hs _ fun u c hu => ?_
  grind [canonicalRes, Res.ok, canonical_readClock, canonical_clockFlight, canonical_modWave, canonical_put]

theorem canonical_execSyswr (x : SWord) : canonicalOutcome (execSyswr x s) := by
  refine canonical_issue hs _ fun u c hu => ?_
  grind [canonicalRes, Res.ok, canonical_writeMask, canonical_fault, canonical_modWave]

theorem canonical_withLive (c : Ctx) (n : Nat) {k : State → Bytes → Res} (hk : ∀ u bs, canonical u → canonicalRes (k u bs)) :
    canonicalRes (withLive s c n k) :=
  ite_cases _ hs (canonical_withRecord hs c _ _ _ fun _ _ hu => ite_cases _ hu (hk _ _ hu))

theorem canonical_execPhint (x : SWord) : canonicalOutcome (execPhint x s) :=
  canonical_issue hs _ fun _ c hu => canonical_withLive hu c _ fun _ _ ht => ite_cases _ ht ht

theorem canonical_execIdem (x : SWord) : canonicalOutcome (execIdem x s) :=
  canonical_issue hs _ fun _ c hu => canonical_withLive hu c _ fun _ _ ht => ite_cases _ ht ht

theorem canonical_execGset (x : SWord) : canonicalOutcome (execGset x s) := by
  refine canonical_issue hs _ fun u c hu => ?_
  grind [canonicalRes, Res.ok, canonical_fault, canonical_modHank]

theorem canonical_execRpair (x : SWord) : canonicalOutcome (execRpair x s) := by
  refine canonical_issue hs _ fun u c hu => ?_
  grind [canonicalRes, Res.ok, canonical, canonical_put, canonical_modPair]

theorem canonical_execRchk (x : SWord) : canonicalOutcome (execRchk x s) := by
  refine canonical_issue hs _ fun _ c hu => canonical_withLive hu c _ fun _ _ ht => ite_cases _ ht ?_
  split
  · exact ht
  · exact ite_cases _ ht ht

theorem canonical_execRend (x : SWord) : canonicalOutcome (execRend x s) := by
  refine canonical_issue hs _ fun u c hu => ?_
  grind [canonicalRes, Res.ok, canonical_markRend]

theorem canonical_zeroFrame (pa : Nat) : canonical (zeroFrame s pa) := ⟨wf_filter hs.1 _, hs.2⟩

theorem canonical_linkFrames (h va : Nat) (leaf : DWord) (fs : List Nat) (levels : List (Nat × Nat × Bool)) (loc : Nat) :
    canonical (linkFrames s h va leaf fs levels loc) := by
  induction fs generalizing s levels loc with
  | nil => exact hs
  | cons f fs ih =>
    have hw := fun v => canonical_homeWrite hs h true loc v
    unfold linkFrames
    split
    · exact hw _
    · exact ih (hw _) _ _

theorem canonical_mapFrame (h va attr loc : Nat) (rest : List (Nat × Nat × Bool)) : canonical (mapFrame s h va attr loc rest).1 := by
  have hz := canonical_foldl (f := fun s n => zeroFrame s (n * 2 ^ 16)) (fun _ _ hu => canonical_zeroFrame hu _) hs
  unfold mapFrame
  grind [canonical_linkFrames, canonical_modHank]

theorem canonical_execFmap (x : SWord) : canonicalOutcome (execFmap x s) := by
  refine canonical_issue hs _ fun u c hu => ?_
  grind [canonicalRes, Res.ok, canonical_put, canonical_fault, canonical_mapFrame]

theorem canonical_execSmap (x : KWord) : canonicalOutcome (execSmap x s) := by
  refine canonical_issue hs _ fun u c hu => ?_
  grind [canonicalRes, Res.ok, canonical_fault, canonical_put64, canonical_modHank]

theorem canonical_execSunmap (x : KWord) : canonicalOutcome (execSunmap x s) := by
  refine canonical_issue hs _ fun u c hu => ?_
  grind [canonicalRes, Res.ok, canonical_modHank]

end

/-! ### Queues and the memory words -/

section
variable {s : State} (hs : canonical s)
include hs

theorem canonical_pushLaunch (c : Ctx) (p q : Nat) (bs : Bytes) (l : Place) : canonicalRes (pushLaunch s c p q bs l) := by
  refine ite_cases _ trivial ?_
  split
  · exact hs
  · exact hs
  · next hw => exact (canonical_of_placeWrite hs hw :)

theorem canonical_execLaunch (x : SWord) : canonicalOutcome (execLaunch x s) := by
  refine canonical_issue hs _ fun u c hu => ?_
  grind [canonicalRes, canonical_of_readGlobal, canonical_fault, canonical_engineStop, canonical_pushLaunch]

theorem canonical_modBin (h b : Nat) (f : Bin → Bin) : canonical (modBin s h b f) := hs

theorem canonical_storeRecord (h : Nat) (b : Bin) (bs : Bytes) : canonical (storeRecord s h b bs) := by
  unfold storeRecord
  grind [canonical, canonical_readClock, canonical_modBin, canonical_homeWrite]

theorem canonical_emitTo (c : Ctx) (b : Bin) (va : Nat) : canonicalRes (emitTo s c b va) := by
  refine ite_cases _ trivial ?_
  split
  · exact canonical_engineStop hs c _
  · next hr =>
    have ht := canonical_of_readRange hs hr
    split
    · exact ht
    · exact canonical_storeRecord ht _ _ _

theorem canonical_execEmit (x : SWord) : canonicalOutcome (execEmit x s) := by
  refine canonical_issue hs _ fun u c hu => ?_
  grind [canonical_fault, canonical_emitTo]

theorem canonical_execRecv (x : SWord) : canonicalOutcome (execRecv x s) := by
  refine canonical_issue hs _ fun u c hu => ?_
  grind [canonicalRes, Res.ok, canonical_put, canonical_fault, canonical_scratchWrite]

theorem canonical_of_readQueue {h ply va : Nat} {may : QueueDesc → Bool} {r : QueueRead} (hr : readQueue s h ply va may = .ok r) :
    canonical r.s := by
  unfold readQueue at hr
  grind [canonical_placeBytes]

theorem canonical_of_pushEntry {w : Option Nat} {h ply : Nat} {d : QueueDesc} {l : Place} {payload : DWord} {n : Nat} {t : State}
    (hp : pushEntry s w h ply d l payload n = .ok t) : canonical t := by
  unfold pushEntry at hp
  split at hp
  · cases hp
  · next hw => exact canonical_of_placeWrite (canonical_of_placeWrite hs hw) hp

theorem canonical_of_popEntry {w h ply : Nat} {d : QueueDesc} {t : State} (hp : popEntry s w h ply d = .ok t) : canonical t :=
  canonical_of_placeWrite hs hp

theorem canonical_giveHank (h dst va : Nat) : canonical (giveHank s h dst va) := by
  unfold giveHank
  grind [canonical_invalidate, canonical_homeWrite]

theorem canonical_writeStop (c : Ctx) (va : Nat) (e : WriteStop) : canonicalRes (Ctx.writeStop c s va e) := by
  unfold Ctx.writeStop
  split <;> exact hs

theorem canonical_defer (c : Ctx) (k : LogKind) (ad : DWord) (ops : Bytes) : canonicalRes (defer s c k ad ops) :=
  ite_cases _ hs (ite_cases _ trivial (canonical_addSigs (by exact hs) _ _ _))

theorem canonical_queuePush (c : Ctx) (d : QueueDesc) (l : Place) (xfer : Bool) (pay : DWord) (n : Nat) :
    canonicalRes (queuePush s c d l xfer pay n) := by
  refine ite_cases _ (canonical_defer hs c _ _ _) (ite_cases _ trivial ?_)
  split
  · exact canonical_writeStop hs c _ _
  · next hp =>
    have ht := canonical_of_pushEntry (canonical_releaseLines hs _) hp
    exact ite_cases (P := canonical) _ (canonical_foldl (fun _ _ hu => canonical_giveHank hu _ _ _) ht _) ht

theorem canonical_execQpush (x : SWord) : canonicalOutcome (execQpush x s) := by
  refine canonical_issue hs _ fun u c hu => ?_
  grind [canonical_fault, canonical_of_readQueue, canonical_engineStop, canonical_queuePush]

theorem canonical_queuePop (c : Ctx) (x : SWord) (d : QueueDesc) (l : Place) : canonicalRes (queuePop s c x d l) := by
  have hfree := canonical_releaseLines hs (d.place.lines ++ l.lines)
  have hread := canonical_placeBytes hfree c.v.hank c.v.ply 16 l
  refine ite_cases (P := canonicalRes) _ hs ?_
  split
  · exact canonical_writeStop hfree c _ _
  · next hb => exact (congrArg Prod.fst hb ▸ hread :)
  · next hb =>
    rw [hb] at hread
    split
    · exact canonical_writeStop hfree c _ _
    · next hp => exact (canonical_of_popEntry hread hp :)

theorem canonical_execQpop (x : SWord) : canonicalOutcome (execQpop x s) := by
  refine canonical_issue hs _ fun u c hu => ?_
  grind [canonical_fault, canonical_of_readQueue, canonical_engineStop, canonical_queuePop]

theorem canonical_tokenStep (c : Ctx) (va : Nat) (f : Bytes → Option Bytes) {k : State → Bytes → Res}
    (hk : ∀ u bs, canonical u → canonicalRes (k u bs)) : canonicalRes (tokenStep s c va f k) := by
  unfold tokenStep
  grind [canonicalRes, canonical_fault, canonical_migrateAll, canonical_scratchWrite, canonical_releaseLines, canonical_noteMove,
    canonical_placeBytes, canonical_dropCopies, canonical_writeLeaf]

theorem canonical_execQtokPut (x : SWord) : canonicalOutcome (execQtokPut x s) :=
  canonical_issue hs _ fun _ c hu => canonical_tokenStep hu c _ _ fun _ _ ht => ht

theorem canonical_execQtokTake (x : SWord) : canonicalOutcome (execQtokTake x s) := by
  refine canonical_issue hs _ fun _ c hu => canonical_tokenStep hu c _ _ fun _ _ ht => ?_
  split
  · exact ht
  · exact hu

theorem canonical_modHead (n : Nat) (f : Head → Head) : canonical (modHead s n f) := hs

theorem canonical_scanFrame (n line : Nat) : canonical (scanFrame s n line) := by
  refine canonical_foldl (fun u p hu => ?_) hs _
  split
  · exact canonical_foldRange (canonical_releaseLines hu _) _ _
  · exact canonical_errRecord hu _ _ _ _ _ _

theorem canonical_joinFlip (n : Nat) (surf : DWord) (imm : Bool) : canonical (joinFlip s n surf imm) := by
  unfold joinFlip
  grind [canonical, canonical_modHead, canonical_scanFrame]

theorem canonical_execFlip (x : SWord) : canonicalOutcome (execFlip x s) := by
  refine canonical_issue hs _ fun u c hu => ?_
  grind [canonicalRes, Res.ok, canonical_fault, canonical_defer, canonical_setbFlight, canonical_joinFlip]

theorem canonical_joinMedia (n h blk : Nat) : canonical (joinMedia s n h blk) := hs

theorem canonical_execMsub (x : KWord) : canonicalOutcome (execMsub x s) := by
  refine canonical_issue hs _ fun u c hu => ?_
  grind [canonicalRes, Res.ok, canonical_fault, canonical_defer, canonical_setbFlight, canonical_joinMedia]

end

/-! ### Traversal, commits and deferred entries -/

section
variable {s : State} (hs : canonical s)
include hs

omit hs in
/-- A triangle's test leaves the state alone. -/
theorem testTri_s (r : Ray) (x : RayState) (bs : Bytes) : (testTri r x bs).s = x.s := by
  unfold testTri
  grind

omit hs in
theorem canonical_rayRead {h ply cl va n : Nat} {x : RayState} {k : State → Bytes → RayState} (hx : canonical x.s)
    (hk : ∀ u bs, canonical u → canonical (k u bs).s) : canonical (rayRead h ply cl va n x k).s := by
  unfold rayRead
  split
  · next hr => exact hk _ _ (canonical_of_readGlobal hx hr)
  all_goals exact hx

omit hs in
theorem canonical_visitLeaf (h ply cl : Nat) (r : Ray) (node va n : Nat) {x : RayState} (hx : canonical x.s) :
    canonical (visitLeaf h ply cl r node va n x).s := by
  induction n generalizing va x with
  | zero => exact hx
  | succ n ih =>
    unfold visitLeaf
    split
    · exact hx
    · refine ih _ (canonical_rayRead hx fun u bs hu => ?_)
      split
      · rw [testTri_s]
        exact hu
      · exact hu

omit hs in
theorem canonical_visitNode (h ply cl : Nat) (r : Ray) (fuel va : Nat) {x : RayState} (hx : canonical x.s) :
    canonical (visitNode h ply cl r fuel va x).s := by
  induction fuel generalizing va x with
  | zero => exact hx
  | succ fuel ih =>
    unfold visitNode
    split
    · exact hx
    · refine canonical_rayRead hx fun u bs hu => ?_
      dsimp only
      split
      · exact hu
      · refine List.foldlRecOn (motive := fun y : RayState => canonical y.s) _ _ (by exact hu) fun y hy p _ => ?_
        split
        · exact hy
        · split
          · exact canonical_visitLeaf h ply cl r va _ _ hy
          · exact ih _ hy

theorem canonical_castRay (h cl : Nat) (a : TraceArgs) (l : Nat) : canonical (castRay s h cl a l).1 := by
  have hv := fun r x hx => canonical_visitNode h a.ply cl r 32 a.root.toNat (x := x) hx
  unfold castRay
  grind

theorem canonical_traceLane (h cl : Nat) (a : TraceArgs) (l : Nat) : canonical (traceLane s h cl a l).1 := by
  have hray : canonical (if a.mask.getLsbD l then castRay s h cl a l else (s, .ok none)).1 := by
    split
    · exact canonical_castRay hs h cl a l
    · exact hs
  unfold traceLane
  dsimp only
  split
  · exact hray
  · split
    · next hr => exact canonical_of_readGlobal hray hr
    all_goals exact hray

omit hs in
theorem canonical_of_traceLanes {h cl : Nat} {a : TraceArgs} {ls : List Nat} {x y : RayAcc} (hx : canonical x.s)
    (hy : traceLanes h cl a ls x = .ok y) : canonical y.s := by
  induction ls generalizing x with
  | nil =>
    cases hy
    exact hx
  | cons l ls ih =>
    have hl := canonical_traceLane hx h cl a l
    unfold traceLanes at hy
    split at hy
    · next he => exact ih (by rw [he] at hl; exact hl) hy
    · next he => exact ih (by rw [he] at hl; exact hl) hy
    · cases hy

theorem canonical_setRaySlot (w y : Nat) (k : RaySlot) : canonical (setRaySlot s w y k) := hs

theorem canonical_of_knowSlot {w : Nat} {v : Wave} {y : Nat} {t : State} (ht : knowSlot s w v y = .ok t) : canonical t := by
  unfold knowSlot at ht
  dsimp only at ht
  split at ht
  · cases ht
    exact hs
  · split at ht
    · cases ht
    · next hx =>
      cases ht
      exact canonical_of_traceLanes (by exact hs) hx

theorem canonical_execTrace (x : KWord) : canonicalOutcome (execTrace x s) := by
  refine canonical_issue hs _ fun u c hu => ?_
  grind [canonicalRes, Res.ok, canonical_fault, canonical_cancelFlights, canonical_setRaySlot, canonical_addFlight]

theorem canonical_execTres (x : KWord) : canonicalOutcome (execTres x s) := by
  refine canonical_issue hs _ fun u c hu => ite_cases (P := canonicalRes) _ hu ?_
  split
  · trivial
  · exact canonical_migrateAll hu c _ _ _
  · trivial
  · next hk =>
    have ht := canonical_of_knowSlot hu hk
    exact ite_cases (P := canonical) _ ht ht

theorem canonical_notNow : canonicalOutcome (notNow s) := hs

theorem canonical_afterWave (w : Nat) : canonicalOutcome (afterWave s w) := by
  unfold afterWave
  grind [canonicalOutcome, canonical_bump, canonical_settle]

theorem canonical_afterStep : canonicalOutcome (afterStep s) := by
  unfold afterStep
  grind [canonicalOutcome, canonical_bump, canonical_pruneRunning, canonical_settlePairs]

theorem canonical_settleAll : canonical (settleAll s) := canonical_foldl (fun _ _ hu => canonical_settle hu _) hs _

theorem canonical_onLive (w : Nat) {f : Wave → Host.Outcome State Fault Refusal} (hf : ∀ v, canonicalOutcome (f v)) :
    canonicalOutcome (onLive s w f) := by
  unfold onLive
  split
  · exact ite_cases _ (hf _) hs
  · exact hs

theorem canonical_foldTracked (r : Region) : canonical (foldTracked s r) :=
  canonical_foldl (fun _ _ hu => canonical_foldRange hu _ _) (canonical_releaseLines hs _) _

theorem canonical_of_commitWaits {v : Wave} {q va n : Nat} {t : State} (ht : commitWaits s v q va n = some t) : canonical t := by
  unfold commitWaits at ht
  grind [canonical_requestPage, canonical_noteMove]

/-- The stores of a region that commit one after another: what is committed, or the state that they are given up in. -/
theorem canonical_of_commitStores {w : Nat} {v : Wave} {s0 : State} (hs0 : canonical s0) {ts : List (RegionStore × Bytes)} {t : State}
    (ht : commitStores w v s0 ts s = .ok t ∨ commitStores w v s0 ts s = .error t) : canonical t := by
  induction ts generalizing s with
  | nil => grind [commitStores]
  | cons p ts ih =>
    unfold commitStores at ht
    split at ht
    · next lf _ =>
      split at ht
      · have hgauge := canonical_gaugeCheck hs w v.hank lf p.2 true
        have hstopped := canonical_gaugeCheck hs0 w v.hank lf p.2 true
        split at ht
        · grind
        · next he =>
          rw [he] at hgauge
          exact ih (canonical_writeLeaf hgauge _ _ _ _ _) ht
      · grind
    · grind

theorem canonical_commitRegion (w : Nat) (v : Wave) (r : Region) (repair : Bool) : canonical (commitRegion s w v r repair) := by
  unfold commitRegion
  dsimp only
  split
  · next hw =>
    obtain ⟨t, -, ht⟩ := List.exists_of_findSome?_eq_some hw
    exact canonical_of_commitWaits hs ht
  · split
    · next he => exact canonical_abortRegion (canonical_of_commitStores hs hs (.inr he)) _ _ _ _
    · next ho => exact (canonical_of_commitStores hs hs (.inl ho) :)

theorem canonical_repairRecord (v : Wave) (va : Nat) : canonical (repairRecord s v va) := by
  unfold repairRecord
  grind [canonical_errRecord]

theorem canonical_darn (w : Nat) (v : Wave) (r : Region) : canonical (darn s w v r) := by
  unfold darn
  grind [canonical_commitRegion, canonical_abortRegion, canonical_repairRecord]

theorem canonical_execDarnerCommit (w : Nat) : canonicalOutcome (execDarnerCommit w s) := by
  refine canonical_onLive hs w fun v => ?_
  grind [canonicalOutcome, notNow, canonical_foldTracked, canonical_darn, canonical_afterWave]

theorem canonical_deferDrop (h ply op cls : Nat) (ad : DWord) : canonical (deferDrop s h ply op cls ad) := by
  unfold deferDrop
  grind [canonical_errRecord]

/-- How the issue of a deferred entry goes, where every state has its memories in canonical form. -/
def canonicalDeferred : Deferred → Prop
  | .done t => canonical t
  | .waits | .page _ | .move _ | .hole _ => True

omit hs in
theorem canonical_defers {drop : State} (hd : canonical drop) (e : EngineStop) : canonicalDeferred (e.defers drop) := by
  cases e with
  | fault => exact hd
  | _ => trivial

theorem canonical_pushDeferred (h : Nat) {drop : State} (hd : canonical drop) (d : QueueDesc) (pay : DWord) (n : Nat) :
    canonicalDeferred (pushDeferred s h drop d pay n) := by
  unfold pushDeferred
  split
  · exact canonical_defers hd _
  · refine ite_cases _ hd (ite_cases _ trivial ?_)
    split
    · exact hd
    · trivial
    · next hp => exact canonical_foldl (fun _ _ hu => canonical_giveHank hu _ _ _) (canonical_of_pushEntry (canonical_releaseLines hs _) hp) _

theorem canonical_issueQpush (h ply : Nat) (desc pay : DWord) (n : Nat) : canonicalDeferred (issueQpush s h ply desc pay n) := by
  have hd := canonical_deferDrop hs h ply 0x16 7 desc
  unfold issueQpush
  dsimp only
  split
  · exact canonical_defers hd _
  · next hr => exact ite_cases _ (canonical_pushDeferred (canonical_of_readQueue hs hr) h hd _ _ _) hd

theorem canonical_atomLane (h ply op n va : Nat) (f : Nat → Option Nat) : canonical (atomLane h ply op n s va f) := by
  unfold atomLane
  grind [canonical_rmwLeaf, canonical_foldRange, canonical_releaseLines, canonical_scratchWrite, canonical_deferDrop]

theorem canonical_issueAtomic (h ply op n : Nat) (ls : List (Nat × (Nat → Option Nat))) : canonicalDeferred (issueAtomic s h ply op n ls) := by
  unfold issueAtomic
  split
  · next hw =>
    obtain ⟨p, -, hp⟩ := List.exists_of_findSome?_eq_some hw
    unfold laneWaits at hp
    grind [canonicalDeferred]
  · exact canonical_foldl (fun _ _ hu => canonical_atomLane hu h ply op n _ _) hs _

theorem canonical_issueEntry (h : Nat) (e : LogEntry) : canonicalDeferred (issueEntry s h e) := by
  unfold issueEntry
  split
  · exact ite_cases _ (canonical_deferDrop hs _ _ _ _ _) (ite_cases _ trivial (canonical_joinFlip hs _ _ _))
  · exact canonical_issueQpush hs _ _ _ _ _
  · exact canonical_issueAtomic hs _ _ _ _ _
  · exact canonical_issueAtomic hs _ _ _ _ _
  · exact ite_cases _ trivial hs

theorem canonical_execDeferredEntryIssue (h : Nat) : canonicalOutcome (execDeferredEntryIssue h s) := by
  unfold execDeferredEntryIssue
  split
  · exact hs
  · next e es _ =>
    have he := canonical_issueEntry hs h e
    split
    · exact hs
    · trivial
    · exact ite_cases _ hs (canonical_afterStep (canonical_requestPage hs _ _ _))
    · exact ite_cases _ hs (canonical_afterStep (canonical_noteMove hs _ _))
    · next t ht =>
      rw [ht] at he
      have hd := canonical_endDeferred (canonical_modHank he h fun k => { k with draining := es }) [e]
      exact canonical_afterStep (canonical_settleAll (ite_cases _ (canonical_endKeep hd h) hd))

theorem canonical_execPlyReconcile (h p : Nat) : canonicalOutcome (execPlyReconcile h p s) := by
  unfold execPlyReconcile
  grind [canonical_afterStep, canonical_modHank, canonical_notNow]

theorem canonical_execPartialEviction (cl line : Nat) : canonicalOutcome (execPartialEviction cl line s) := by
  unfold execPartialEviction
  grind [canonical, canonical_notNow, canonical_afterStep, canonical_evictPartial]

theorem canonical_addMe (c : Ctx) : canonical (addMe s c) := hs

theorem canonical_withNeedle (c : Ctx) {k : Bay → Res} (hk : ∀ b, canonicalRes (k b)) : canonicalRes (withNeedle s c k) :=
  ite_cases _ hs (ite_cases _ trivial (hk _))

theorem canonical_ctxModBay (c : Ctx) (f : Bay → Bay) : canonical (c.modBay s f) := hs

theorem canonical_clearAcc (c : Ctx) (t : Nat) (qs : List Nat) : canonical (c.clearAcc s t qs) :=
  ite_cases _ hs (canonical_foldl (fun _ _ hu => canonical_foldl (fun _ _ hw => canonical_clearPoison hw _) hu _) hs _)

theorem canonical_execNtake (x : XWord) : canonicalOutcome (execNtake x s) :=
  canonical_issue hs _ fun _ _ hu => ite_cases (P := canonicalRes) _ hu (ite_cases (P := canonicalRes) _ hu hu)

theorem canonical_execNpass (x : XWord) : canonicalOutcome (execNpass x s) :=
  canonical_issue hs _ fun _ _ hu => ite_cases _ hu (ite_cases _ trivial (canonical_passNeedle hu _ _ _))

theorem canonical_execAzero (x : XWord) : canonicalOutcome (execAzero x s) :=
  canonical_issue hs _ fun _ c hu => canonical_withNeedle hu c fun _ => canonical_clearAcc (by exact hu) c _ _

theorem canonical_fillPoison (c : Ctx) (x : XWord) : canonical (fillPoison s c x) := by
  have hc := canonical_clearAcc hs c x.acc.toNat [2 * x.group, 2 * x.group + 1]
  refine ite_cases _ hc (canonical_foldl (fun _ _ hu => canonical_foldl (fun _ _ hw => ?_) hu _) hc _)
  split
  · exact canonical_setPoison hw _ _
  · exact hw

theorem canonical_execAfill (x : XWord) : canonicalOutcome (execAfill x s) :=
  canonical_issue hs _ fun _ c hu => canonical_withNeedle hu c fun _ => canonical_fillPoison (by exact hu) c x

theorem canonical_drainPoison (c : Ctx) (x : XWord) : canonical (drainPoison s c x) := by
  have hc := canonical_clearRegs hs c (octRegs x.vreg)
  refine ite_cases _ hc (canonical_foldl (fun _ _ hu => canonical_foldl (fun _ _ hw => ?_) hu _) hc _)
  split
  · exact canonical_setPoison hw _ _
  · exact hw

theorem canonical_execAdrain (x : XWord) : canonicalOutcome (execAdrain x s) :=
  canonical_issue hs _ fun _ c hu => canonical_withNeedle hu c fun _ => canonical_drainPoison hu c x

theorem canonical_execMstat (x : XWord) : canonicalOutcome (execMstat x s) := by
  refine canonical_issue hs _ fun u c hu => canonical_withNeedle hu c fun b => ?_
  exact canonical_addFlight (canonical_addMe (ite_cases _ (canonical_ctxModBay hu c _) hu) c) _

end

/-! ### MMA, traps, fetches and the next word -/

section
variable {s : State} (hs : canonical s)
include hs

theorem canonical_popStages (c : Ctx) (x : XWord) : canonical (popStages s c x) :=
  canonical_foldl (fun _ _ hu => canonical_modYarn hu _ _ _) hs _

theorem canonical_mmaWord (c : Ctx) (x : XWord) : canonicalRes (mmaWord s c x) := by
  have hb : ∀ b, canonical (addMe (popStages (c.modBay s b) c x) c) := fun b => canonical_popStages (canonical_ctxModBay hs c b) c x
  unfold mmaWord
  grind [canonicalRes, Res.ok, canonical_fault]

theorem canonical_execMma (x : XWord) : canonicalOutcome (execMma x s) :=
  canonical_issue hs _ fun _ c hu => canonical_mmaWord hu c x

theorem canonical_execMmas (x : XWord) : canonicalOutcome (execMmas x s) :=
  canonical_issue hs _ fun _ c hu => canonical_mmaWord hu c x

theorem canonical_poisonRow (c : Ctx) (va n : Nat) (ps : List (Nat × Nat)) : canonical (poisonRow s c va n ps) := by
  unfold poisonRow
  grind [canonical_carryPoison]

theorem canonical_mepiToScratch (c : Ctx) (x : XWord) (rows : Nat → Bytes × BitVec 6) (ps : Nat → List (Nat × Nat)) (n : Nat) :
    canonicalRes (mepiToScratch s c x rows ps n) := by
  refine ite_cases _ hs (ite_cases _ hs (ite_cases _ trivial (ite_cases _ hs ?_)))
  refine canonical_addMe (canonical_addFlight (canonical_addMarkers (canonical_ctxModBay ?_ c _) _ _) _) c
  exact canonical_foldl (fun _ _ hu => canonical_writeScratch hu _ _ _) hs _

theorem canonical_mepiRowLane (c : Ctx) (l va : Nat) (bs : Bytes) (ps : List (Nat × Nat)) : canonicalLane (mepiRowLane s c l va bs ps) := by
  have hl := canonical_storeLane hs c l va bs
  unfold mepiRowLane
  grind [canonicalLane, canonical_poisonRow]

theorem canonical_mepiToGlobal (c : Ctx) (x : XWord) (rows : Nat → Bytes × BitVec 6) (ps : Nat → List (Nat × Nat)) (n : Nat) :
    canonicalRes (mepiToGlobal s c x rows ps n) :=
  ite_cases _ trivial (canonical_withRoom hs (fun _ l hu => canonical_mepiRowLane hu c l _ _ _) fun _ _ hu =>
    canonical_reach (by exact canonical_addSigs (canonical_ctxModBay hu c _) _ _ _) c _ _ _ _)

theorem canonical_mepiWord (c : Ctx) (x : XWord) (w col : Word) : canonicalRes (mepiWord s c x w col) :=
  ite_cases _ hs (ite_cases _ trivial (ite_cases _ hs (ite_cases _ trivial
    (ite_cases _ (canonical_mepiToScratch hs c x _ _ _) (canonical_mepiToGlobal hs c x _ _ _)))))

theorem canonical_execMepi (x : XWord) : canonicalOutcome (execMepi x s) :=
  canonical_issue hs _ fun _ c hu => ite_cases (P := canonicalRes) _ hu (ite_cases _ trivial (ite_cases _ hu (canonical_mepiWord hu c x _ _)))

theorem canonical_of_fetchWord {v : Wave} {va x : Nat} {t : State} (ht : fetchWord s v va = .ok t x) : canonical t := by
  unfold fetchWord at ht
  grind [canonical_foldRange, canonical_releaseLines, canonical_markUsed]

theorem canonical_fetchWords (v : Wave) (as : List DWord) : canonical (fetchWords v as s).1 := by
  induction as generalizing s with
  | nil => exact hs
  | cons a as ih =>
    unfold fetchWords
    split
    · next ht => exact ih (canonical_of_fetchWord hs ht)
    · exact ih hs

theorem canonical_fetchFault (v : Wave) (w n : Nat) (t : Strand) (opc : Nat) (e : Cause) (detail : Nat) (space : Space) (ad : DWord) :
    canonicalOutcome (fetchFault s v w n t opc e detail space ad) := canonical_finishDone hs hs _ _ _

theorem canonical_fetchMigrate (v : Wave) (w n : Nat) (t : Strand) (ad : DWord) : canonicalOutcome (fetchMigrate s v w n t ad) :=
  canonical_finishDone (canonical_requestPage hs _ _ _) (canonical_requestPage hs _ _ _) _ _ _

theorem canonical_fetchStop (v : Wave) (w n : Nat) (t : Strand) (opc : Nat) (ad : DWord) (f : Fetch) :
    canonicalOutcome (fetchStop s v w n t opc ad f) := by
  cases f with
  | ok => exact hs
  | fault => exact canonical_fetchFault hs _ _ _ _ _ _ _ _ _
  | migrate => exact canonical_fetchMigrate hs _ _ _ _ _
  | hole => trivial

theorem canonical_parkWait (v : Wave) (w n : Nat) (k : Wait) : canonical (parkWait s v w n k) := by
  unfold parkWait
  split <;> exact hs

theorem canonical_beginClause (w n : Nat) (t : Strand) (h : Header) : canonical (beginClause s w n t h) := hs

theorem canonical_startClause {s0 : State} (hs0 : canonical s0) (w n : Nat) (v : Wave) (t : Strand) (x : Nat) :
    canonicalOutcome (startClause s0 s w n v t x) := by
  have hw := fun as => canonical_fetchWords hs v as
  unfold startClause
  grind [canonicalOutcome, notNow, canonical_fetchFault, canonical_fetchStop, canonical_bump, canonical_beginClause, canonical_parkWait]

theorem canonical_startHeader (w n : Nat) (v : Wave) (t : Strand) : canonicalOutcome (startHeader s w n v t) := by
  refine ite_cases _ (canonical_fetchFault hs _ _ _ _ _ _ _ _ _) ?_
  split
  · next hf => exact canonical_startClause (canonical_of_fetchWord hs hf) hs _ _ _ _ _
  · exact canonical_fetchStop hs _ _ _ _ _ _ _

theorem canonical_resumeClause (w n : Nat) (v : Wave) (t : Strand) (c : Clause) : canonicalOutcome (resumeClause s w n v t c) := by
  unfold resumeClause
  grind [canonicalOutcome, canonical, canonical_bump, canonical_parkWait, canonical_notNow]

theorem canonical_execClauseStart (w n : Nat) : canonicalOutcome (execClauseStart w n s) := by
  refine canonical_onLive hs w fun v => ?_
  grind [canonical_notNow, canonical_startHeader, canonical_resumeClause]

theorem canonical_answerWave (w : Nat) (p : Nat × Nat) (refused : Option Nat) : canonical (answerWave s w p refused) := by
  unfold answerWave
  grind [canonical_abortRegion, canonical_modWave, canonical_doubleFault]

theorem canonical_reissue (w n : Nat) (v : Wave) (t : Strand) : canonicalOutcome (reissue s w n v t) := by
  unfold reissue
  grind [canonicalOutcome, canonical, canonical_notNow, canonical_bump, canonical_parkWait, canonical_modThread]

theorem canonical_execHeldWordIssue (w n : Nat) : canonicalOutcome (execHeldWordIssue w n s) := by
  refine canonical_onLive hs w fun v => ?_
  grind [canonical_notNow, canonical_reissue]

theorem canonical_execStrandWake (w n : Nat) : canonicalOutcome (execStrandWake w n s) := by
  have hn := canonical_notNow hs
  refine canonical_onLive hs w fun v => ?_
  cases v.thread n with
  | none => exact hn
  | some t =>
    have hissue := canonical_reissue hs w n v t
    have hgo := canonical_bump (canonical_modThread hs w n fun t => { t with park := .none })
    have hpark := fun k => canonical_bump (canonical_parkWait hs v w n k)
    have hmwait := canonical_afterWave (canonical_endMwait hs w) w
    have hanswer := fun p => canonical_afterWave (canonical_answerWave hs w p (some 1)) w
    dsimp only
    cases t.park <;> dsimp only <;> grind [canonicalOutcome]

theorem canonical_execOpportunisticFusion (w n m : Nat) : canonicalOutcome (execOpportunisticFusion w n m s) := by
  refine canonical_onLive hs w fun v => ?_
  grind [canonical_notNow, canonical_afterWave, canonical_modWave]

/-- What the strand whose turn it is does next, where every state has its memories in canonical form. -/
def canonicalNext : Next → Prop
  | .exec t _ => canonical t
  | .out o => canonicalOutcome o

theorem canonical_nextWord (w n : Nat) (v : Wave) (t : Strand) : canonicalNext (nextWord s w n v t) := by
  unfold nextWord
  split
  · next hf =>
    have ht := canonical_of_fetchWord hs hf
    have hfault := fun opc => canonical_fetchFault ht v w n t opc
    grind [canonicalNext]
  · exact canonical_fetchStop hs _ _ _ _ _ _ _

theorem canonical_of_nextIssue {x : Next} (hx : nextIssue s = some x) : canonicalNext x := by
  unfold nextIssue at hx
  grind [canonical_nextWord, Option.map_eq_some_iff]

theorem canonical_execResultWriteback (id : Nat) : canonicalOutcome (execResultWriteback id s) := by
  unfold execResultWriteback
  grind [canonical_notNow, canonical_modWave, canonical_afterWave, canonical_updateFlight]

theorem canonical_execAccessPerformed (id : Nat) : canonicalOutcome (execAccessPerformed id s) := by
  unfold execAccessPerformed
  grind [canonical_notNow, canonical_afterWave, canonical_performed]

theorem canonical_execYarnFillComplete (id : Nat) : canonicalOutcome (execYarnFillComplete id s) := by
  unfold execYarnFillComplete
  grind [canonical_notNow, canonical_afterWave, canonical_performed, canonical_modYarn]

theorem canonical_execEngineCommandComplete (id : Nat) : canonicalOutcome (execEngineCommandComplete id s) := by
  unfold execEngineCommandComplete
  grind [canonical_notNow, canonical_afterWave, canonical_performed]

theorem canonical_execMeOperationComplete (id : Nat) : canonicalOutcome (execMeOperationComplete id s) := by
  unfold execMeOperationComplete
  grind [canonical_notNow, canonical_afterWave, canonical_performed]

theorem canonical_endTrace (w y id : Nat) : canonical (endTrace s w y id) := by
  unfold endTrace
  split <;> exact hs

theorem canonical_execTraversalComplete (id : Nat) : canonicalOutcome (execTraversalComplete id s) := by
  unfold execTraversalComplete
  grind [canonicalOutcome, canonical_notNow, canonical_afterWave, canonical_endTrace, canonical_of_knowSlot, canonical_afterStep,
    canonical_requestPage]

theorem canonical_execSlotFree (w : Nat) : canonicalOutcome (execSlotFree w s) := by
  unfold execSlotFree
  grind [canonical_notNow, canonical_afterStep, canonical_modWave]

theorem canonical_execMonitorSpuriousTrigger (w : Nat) : canonicalOutcome (execMonitorSpuriousTrigger w s) := by
  refine canonical_onLive hs w fun v => ?_
  grind [canonical_notNow, canonical_afterWave, canonical_modWave]

theorem canonical_execMwaitTimeout (w n : Nat) : canonicalOutcome (execMwaitTimeout w n s) := by
  refine canonical_onLive hs w fun v => ?_
  grind [canonical_notNow, canonical_afterWave, canonical_endMwait]

theorem canonical_execWatchdog (w n : Nat) : canonicalOutcome (execWatchdog w n s) := by
  refine canonical_onLive hs w fun v => ?_
  grind [canonical_notNow, canonical_leaveFifo, canonical_modThread, canonical_fetchFault, canonical_afterWave, canonical_doubleFault]

theorem canonical_execTrapTaken (w : Nat) : canonicalOutcome (execTrapTaken w s) := by
  refine canonical_onLive hs w fun v => ?_
  grind [canonical_afterWave, canonical_takeTrap, canonical_notNow]

theorem canonical_execWalkStarvation (w : Nat) : canonicalOutcome (execWalkStarvation w s) := by
  unfold execWalkStarvation
  grind [canonicalOutcome, canonical_onLive]

theorem canonical_entriesFound (f : Flight) (n : Nat) (rej : Option Nat) : canonical (entriesFound s f n rej) := by
  unfold entriesFound
  grind [canonical_modFlight, canonical_raisePerf]

theorem canonical_execAccessRejectRetry (id : Nat) : canonicalOutcome (execAccessRejectRetry id s) := by
  unfold execAccessRejectRetry
  grind [canonicalOutcome, canonical_notNow, canonical_afterStep, canonical_modFlight, canonical_entriesFound]

theorem canonical_execAgedReservation (id : Nat) : canonicalOutcome (execAgedReservation id s) := by
  unfold execAgedReservation
  grind [canonical_notNow, canonical_afterStep, canonical_entriesFound]

theorem canonical_execBankDrowsy (w bank : Nat) : canonicalOutcome (execBankDrowsy w bank s) := by
  refine canonical_onLive hs w fun v => ?_
  grind [canonicalOutcome, canonical_notNow, canonical_modWave]

theorem canonical_execDebuggerAccess (w reg lane : Nat) (wr : Option Word) : canonicalOutcome (execDebuggerAccess w reg lane wr s) := by
  unfold execDebuggerAccess
  grind [canonicalOutcome, canonical, canonical_notNow, canonical_modWave]

end

/-! ### The scheduler -/

section
variable {s : State} (hs : canonical s)
include hs

theorem canonical_agentRead (h va n : Nat) : canonical (agentRead s h va n).1 := by
  unfold agentRead
  grind [canonical_placeBytes, canonical_releaseLines]

theorem canonical_cellWrite (h : Nat) (l : Leaf) (bs : Bytes) : canonical (cellWrite s h l bs) := by
  unfold cellWrite
  grind [canonical_markUsed, canonical_foldRange, canonical_releaseLines, canonical_homeWrite, canonical_dropCopies]

theorem canonical_agentWaits (h : Nat) (l : Leaf) : canonicalOutcome (agentWaits s h l) := by
  unfold agentWaits
  grind [canonical_notNow, canonical_afterStep, canonical_noteMove]

theorem canonical_queueStat (h p q : Nat) (keep bits : Nat) : canonical (queueStat s h p q keep bits) := hs

theorem canonical_refuse (li reason : Nat) : canonical (refuse s li reason) := by
  unfold refuse
  grind [canonical, canonical_hankEvent, canonical_queueStat, canonical_endLaunch]

theorem canonical_takeHead (h p q : Nat) (r : Vector DWord 16) : canonical (takeHead s h p q r) := hs

theorem canonical_execQueueDispatch (h : Nat) : canonicalOutcome (execQueueDispatch h s) := by
  unfold execQueueDispatch
  grind [canonical_notNow, canonical_agentWaits, canonical_afterStep, canonical_refuse, canonical_takeHead, canonical_cellWrite]

theorem canonical_markHeld (h : Nat) (q : Nat × Nat) : canonical (markHeld s h q) := hs

theorem canonical_putDone (d : Done) : canonicalOutcome (putDone s d) := by
  unfold putDone
  grind [canonical, canonical_agentWaits, canonical_afterStep, canonical_markHeld, canonical_errRecord, canonical_notNow, canonical_cellWrite]

theorem canonical_execDoneTokenPut (launch : Nat) : canonicalOutcome (execDoneTokenPut launch s) := by
  unfold execDoneTokenPut
  grind [canonical_notNow, canonical_putDone]

theorem canonical_execDoneTokenRetry (launch : Nat) : canonicalOutcome (execDoneTokenRetry launch s) := by
  unfold execDoneTokenRetry
  grind [canonical_notNow, canonical_putDone]

theorem canonical_launchBin (h : Nat) (b : Bin) : canonical (launchBin s h b) := hs

theorem canonical_execBinLaunch (h b : Nat) : canonicalOutcome (execBinLaunch h b s) := by
  unfold execBinLaunch
  grind [canonical_notNow, canonical_afterStep, canonical_launchBin]

theorem canonical_execBinTimerExpiry (h b : Nat) : canonicalOutcome (execBinTimerExpiry h b s) := by
  unfold execBinTimerExpiry
  grind [canonical, canonical_notNow, canonical_afterStep, canonical_launchBin]

theorem canonical_addWaves (h li ti slotCls : Nat) (r : Vector DWord 16) (ply : Nat) (rpstat : Word) (bs : List (Nat × Nat)) (wid : Nat) :
    canonical (addWaves h li ti slotCls r ply rpstat bs wid s) := by
  induction bs generalizing s wid with
  | nil => exact hs
  | cons b bs ih => exact ih (by exact hs) _

theorem canonical_addTeam (h li idx : Nat) (l : Launch) (role : Role) (p : Seat) : canonical (addTeam s h li idx l role p) :=
  canonical_addWaves (by exact hs) _ _ _ _ _ _ _ _ _

theorem canonical_addPair (h lead trail parent : Nat) (pc : DWord) : canonical (addPair s h lead trail parent pc) := by
  unfold addPair
  split <;> exact hs

theorem canonical_placeUnit (li : Nat) (l : Launch) (x : Nat × Seat × Option Seat) : canonical (placeUnit li l s x) := by
  unfold placeUnit
  dsimp only
  split
  · exact canonical_addTeam hs _ _ _ _ _ _
  · exact canonical_foldl (fun _ _ hu => canonical_addPair hu _ _ _ _ _) (canonical_addTeam (canonical_addTeam hs _ _ _ _ _ _) _ _ _ _ _ _) _

theorem canonical_placeTeams (li : Nat) (l : Launch) (xs : List (Nat × Seat × Option Seat)) : canonical (placeTeams s li l xs) :=
  canonical_foldl (fun _ _ hu => canonical_placeUnit hu li l _) hs xs

theorem canonical_execTeamPlacement (h : Nat) : canonicalOutcome (execTeamPlacement h s) := by
  unfold execTeamPlacement
  grind [canonical_notNow, canonical_afterStep, canonical_refuse, canonical_placeTeams]

theorem canonical_of_askTeams {h : Nat} {ts : List Nat} {t : State} (ht : askTeams h ts s = some t) : canonical t := by
  induction ts generalizing s with
  | nil =>
    cases ht
    exact hs
  | cons ti ts ih =>
    unfold askTeams at ht
    split at ht
    · exact ih hs ht
    · split at ht
      · cases ht
      · exact ih (canonical_foldl (fun _ _ hu => canonical_modWave hu _ _) (by exact hs) _) ht

theorem canonical_execPreemptRequest (h : Nat) : canonicalOutcome (execPreemptRequest h s) := by
  unfold execPreemptRequest
  grind [canonical_notNow, canonical_of_askTeams, canonical_afterStep]

theorem canonical_execPromiseBroken (w : Nat) : canonicalOutcome (execPromiseBroken w s) := by
  refine canonical_onLive hs w fun v => ?_
  grind [canonical, canonical_afterStep, canonical_notNow]

theorem canonical_settleForSave (w : Nat) (v : Wave) : canonical (settleForSave s w v) := by
  refine canonical_foldl (fun _ _ hu => canonical_closeYarn hu _ _) (canonical_cancelFlights ?_ _) _
  exact ite_cases _ (canonical_abortRegion hs _ _ _ _) hs

theorem canonical_dropRegPoison (w : Nat) (r : Option (Nat × Bytes)) : canonical (dropRegPoison s w r) := hs

theorem canonical_saveWave (w : Nat) : canonical (saveWave s w) := by
  unfold saveWave
  split
  · exact hs
  · next v _ =>
    have hsettled := canonical_settleForSave hs w v
    dsimp only
    split
    · exact hsettled
    · refine canonical_settleSave (canonical_dropRegPoison (canonical_modHank (canonical_modWave (canonical_leaveNeedle ?_ _ _) _ _) _ _) _ _) _
      exact canonical_foldl (fun _ _ hu => canonical_setPoison hu _ _) (canonical_homeWrite hsettled _ _ _ _) _

theorem canonical_execFullSave (w : Nat) : canonicalOutcome (execFullSave w s) := by
  refine canonical_onLive hs w fun v => ?_
  grind [canonicalOutcome, canonical_notNow, canonical_afterStep, canonical_settleAll, canonical_saveWave]

theorem canonical_queueNeedle (w : Nat) (v : Wave) : canonical (queueNeedle s w v) := by
  unfold queueNeedle
  grind [canonical_giveNeedle, canonical_modBay]

theorem canonical_restoreWave (seats : List (Nat × Nat)) (first w : Nat) : canonical (restoreWave seats first s w) := by
  unfold restoreWave
  grind [canonical_modWave, canonical_queueNeedle]

theorem canonical_restoreTeam (p : Nat × Seat) : canonical (restoreTeam s p) := by
  unfold restoreTeam
  dsimp only
  split
  · exact hs
  · exact canonical_modTeam (canonical_foldl (fun _ _ hu => canonical_restoreWave hu _ _ _) (by exact hs) _) _ _

theorem canonical_execTeamRestore (team : Nat) : canonicalOutcome (execTeamRestore team s) := by
  have hu : ∀ ps, canonical (List.foldl restoreTeam s ps) := canonical_foldl (fun _ _ hu => canonical_restoreTeam hu _) hs
  unfold execTeamRestore
  grind [canonical_notNow, canonical_afterStep, canonical_settleAll]

end

/-! ### Control-block registers, contexts, displays and media -/

section
variable {s : State} (hs : canonical s)
include hs

theorem canonical_storeIf (h off : Nat) (v : DWord) (ok : Bool) : canonical (storeIf s h off v ok) := by
  unfold storeIf
  split <;> exact hs

theorem canonical_freshPool (h off : Nat) : canonical (freshPool s h off) := by
  unfold freshPool
  split <;> exact hs

theorem canonical_perfClear (h : Nat) (x : RegWrite) : canonical (perfClear s h x) := by
  unfold perfClear
  grind [canonical]

theorem canonical_hankWrite (h off : Nat) (x : RegWrite) : canonical (hankWrite s h off x) := by
  unfold hankWrite
  grind [canonical_storeIf, canonical_setHreg, canonical_perfClear, canonical_freshPool, canonical_modHank]

theorem canonical_headWrite (n off : Nat) (x : RegWrite) : canonical (headWrite s n off x) := by
  unfold headWrite
  grind [canonical_modHead]

theorem canonical_relWrite (off : Nat) (x : RegWrite) : canonical (relWrite s off x) := by
  unfold relWrite
  grind [canonical]

theorem canonical_statusWrite (off : Nat) (x : RegWrite) : canonical (statusWrite s off x) := by
  unfold statusWrite
  grind [canonical]

theorem canonical_regWrite (off : Nat) (x : RegWrite) : canonicalOutcome (regWrite s off x) := by
  have hn : canonicalOutcome (notNow s) := canonical_notNow hs
  have hnext : canonicalOutcome (.next s) := hn
  have hstatus : ∀ off, canonicalOutcome (.next (statusWrite s off x)) := fun off => canonical_statusWrite hs off x
  have hhead := fun n off => canonical_afterStep (canonical_headWrite hs n off x)
  have hrel := fun off => canonical_afterStep (canonical_relWrite hs off x)
  have hhank := fun h off => canonical_afterStep (canonical_hankWrite hs h off x)
  have go := @ite_cases _ canonicalOutcome
  unfold regWrite
  refine go _ hnext (go _ hnext (go _ ?_ ?_))
  · exact go _ hn (hstatus _)
  refine go _ (go _ hn (hhead _ _)) (go _ ?_ (go _ ?_ hnext))
  · extract_lets o
    clear_value o
    exact go _ hn (hrel _)
  · extract_lets h o
    clear_value h o
    exact go _ hn (hhank _ _)

theorem canonical_execRegisterWrite (off : Nat) (x : RegAccess) : canonicalOutcome (execRegisterWrite off x s) := by
  unfold execRegisterWrite
  grind [canonicalOutcome, canonical, canonical_regWrite]

theorem canonical_badDoorbell (h p q : Nat) : canonical (badDoorbell s h p q) := by
  unfold badDoorbell
  grind [canonical_hankEvent, canonical_queueStat]

theorem canonical_execHostDoorbell (h p q : Nat) (page : Bool) (x : RegWrite) : canonicalOutcome (execHostDoorbell h p q page x s) := by
  unfold execHostDoorbell
  grind [canonical_afterStep, canonical_setHreg, canonical_badDoorbell]

theorem canonical_execQringWrite (h p q : Nat) (x : RegWrite) : canonicalOutcome (execQringWrite h p q x s) := by
  unfold execQringWrite
  grind [canonical_afterStep, canonical_setHreg]

theorem canonical_execQstatWrite (h p q : Nat) (x : RegWrite) : canonicalOutcome (execQstatWrite h p q x s) := by
  unfold execQstatWrite
  grind [canonical_afterStep, canonical_setHreg]

theorem canonical_configureBin (h b : Nat) (v : DWord) : canonical (configureBin s h b v) := by
  unfold configureBin
  grind [canonical_modHank, canonical_setHreg, canonical_agentRead]

theorem canonical_execBincfgWrite (h b : Nat) (x : RegWrite) : canonicalOutcome (execBincfgWrite h b x s) := by
  unfold execBincfgWrite
  grind [canonical_afterStep, canonical_configureBin]

theorem canonical_execHankctlWrite (h : Nat) (x : RegWrite) : canonicalOutcome (execHankctlWrite h x s) := by
  unfold execHankctlWrite
  grind [canonical_afterStep, canonical_setHreg]

theorem canonical_execWaysWrite (h : Nat) (x : RegWrite) : canonicalOutcome (execWaysWrite h x s) := by
  unfold execWaysWrite
  grind [canonical_afterStep, canonical_modHank, canonical_setHreg]

theorem canonical_execWayChangeComplete (h : Nat) : canonicalOutcome (execWayChangeComplete h s) := by
  unfold execWayChangeComplete
  grind [canonical_afterStep, canonical_modHank, canonical_flushHank, canonical_notNow]

theorem canonical_loseWays (h old new : Nat) : canonical (loseWays s h old new) := ⟨hs.1, wf_filter hs.2 _⟩

theorem canonical_moveVaultPoison (h old new : Nat) : canonical (moveVaultPoison s h old new) := hs

theorem canonical_execMemcfgWrite (h : Nat) (x : RegWrite) : canonicalOutcome (execMemcfgWrite h x s) := by
  unfold execMemcfgWrite
  grind [canonical_afterStep, canonical_setHreg, canonical_moveVaultPoison, canonical_loseWays]

theorem canonical_execShadowPoolWrite (h : Nat) (chunks : Bool) (x : RegWrite) : canonicalOutcome (execShadowPoolWrite h chunks x s) := by
  unfold execShadowPoolWrite
  grind [canonical_afterStep, canonical_modHank, canonical_setHreg]

theorem canonical_execPoolfreeWrite (h : Nat) (x : RegWrite) : canonicalOutcome (execPoolfreeWrite h x s) := by
  unfold execPoolfreeWrite
  grind [canonical_afterStep, canonical_modHank]

theorem canonical_execInvreqPage (h : Nat) (va : DWord) : canonicalOutcome (execInvreqPage h va s) := by
  unfold execInvreqPage
  grind [canonical_afterStep, canonical_modHank]

theorem canonical_execInvreqAll (h : Nat) : canonicalOutcome (execInvreqAll h s) := by
  unfold execInvreqAll
  grind [canonical_afterStep, canonical_modHank]

theorem canonical_execInvalidationComplete (h : Nat) : canonicalOutcome (execInvalidationComplete h s) := by
  unfold execInvalidationComplete
  grind [canonical_notNow, canonical_afterStep, canonical_invalidate, canonical_modHank]

theorem canonical_answerPage (h : Nat) (p : Nat × Nat) (refused : Option Nat) : canonical (answerPage s h p refused) := by
  refine canonical_foldl (fun u w hu => ?_) (by exact hs) _
  grind [canonical_answerWave]

theorem canonical_execMigackDone (h : Nat) (va : DWord) : canonicalOutcome (execMigackDone h va s) := by
  unfold execMigackDone
  grind [canonical_afterStep, canonical_settleAll, canonical_answerPage]

theorem canonical_refusing (h : Nat) (p : Nat × Nat) {f : State → State} (hf : ∀ u, canonical u → canonical (f u)) :
    canonical (refusing s h p f) := hf _ hs

theorem canonical_refuseTraces (h : Nat) (p : Nat × Nat) : canonical (refuseTraces s h p) := by
  refine canonical_foldl (fun u w hu => canonical_foldl (fun u y hu => ?_) hu _) hs _
  dsimp only
  split
  · exact hu
  · next v _ =>
    refine ite_cases _ hu ?_
    split
    · refine ite_cases _ (canonical_refusing hu h p fun t ht => ?_) hu
      split
      · next hk => exact canonical_of_knowSlot ht hk
      · exact ht
    · exact hu

theorem canonical_refuseCommits (h : Nat) (p : Nat × Nat) : canonical (refuseCommits s h p) := by
  refine canonical_foldl (fun u w hu => ?_) hs _
  grind [canonical_abortRegion]

theorem canonical_refuseDeferred (h : Nat) (p : Nat × Nat) : canonical (refuseDeferred s h p) := by
  unfold refuseDeferred
  split
  · exact hs
  · next e es _ =>
    split
    · refine ite_cases _ (canonical_refusing hs h p fun u hu => ?_) hs
      have he := canonical_issueEntry hu h e
      split
      · next t ht =>
        have hend : canonical (endDeferred (modHank t h fun k => { k with draining := es }) [e]) :=
          canonical_endDeferred (by rw [ht] at he; exact he) _
        exact ite_cases _ (canonical_endKeep hend h) hend
      · exact hu
    · exact hs

theorem canonical_execMigackRefused (h : Nat) (va : DWord) : canonicalOutcome (execMigackRefused h va s) := by
  unfold execMigackRefused
  grind [canonical_afterStep, canonical_settleAll, canonical_refuseDeferred, canonical_refuseCommits, canonical_refuseTraces, canonical_answerPage]

theorem canonical_execMigheadWrite (h : Nat) (x : RegWrite) : canonicalOutcome (execMigheadWrite h x s) := by
  unfold execMigheadWrite
  grind [canonical_afterStep, canonical_writeRequests, canonical_setHreg]

theorem canonical_execGaugecWrite (h g : Nat) (x : RegWrite) : canonicalOutcome (execGaugecWrite h g x s) := by
  unfold execGaugecWrite
  grind [canonical_afterStep, canonical_modHank]

theorem canonical_modContext (h c : Nat) (f : TrContext → TrContext) : canonical (modContext s h c f) := hs

theorem canonical_dropRays (h c : Nat) (on : Nat → Bool) : canonical (dropRays s h c on) := by
  refine canonical_foldl (fun u w hu => ?_) (by exact hs) _
  grind [canonical_retireWave]

theorem canonical_resetContext (h c : Nat) : canonical (resetContext s h c) := by
  unfold resetContext
  grind [canonical_dropRays, canonical_modContext]

theorem canonical_execTrctlLoad (h c : Nat) (x : RegWrite) : canonicalOutcome (execTrctlLoad h c x s) := by
  unfold execTrctlLoad
  grind [canonical_notNow, canonical_afterStep, canonical_modContext, canonical_settleAll, canonical_resetContext]

theorem canonical_execTrctlReset (h c : Nat) (x : RegWrite) : canonicalOutcome (execTrctlReset h c x s) := by
  unfold execTrctlReset
  grind [canonical_notNow, canonical_afterStep, canonical_modContext, canonical_settleAll, canonical_resetContext]

theorem canonical_execTraversalLoadComplete (h c : Nat) : canonicalOutcome (execTraversalLoadComplete h c s) := by
  unfold execTraversalLoadComplete
  grind [canonical_notNow, canonical_afterStep, canonical_modContext]

theorem canonical_execTraversalResetComplete (h c : Nat) : canonicalOutcome (execTraversalResetComplete h c s) := by
  unfold execTraversalResetComplete
  grind [canonical_notNow, canonical_afterStep, canonical_modContext]

theorem canonical_execTraversalContextFault (row col c : Nat) : canonicalOutcome (execTraversalContextFault row col c s) := by
  unfold execTraversalContextFault
  grind [canonical_notNow, canonical_modContext, canonical_errRecord, canonical_dropRays, canonical_afterStep, canonical_settleAll,
    canonical_hankEvent]

theorem canonical_execHeadctlWrite (head : Nat) (x : RegWrite) : canonicalOutcome (execHeadctlWrite head x s) := by
  unfold execHeadctlWrite
  grind [canonical_modHead, canonical_afterStep, canonical_scanFrame]

theorem canonical_execVblank (head : Nat) : canonicalOutcome (execVblank head s) := by
  unfold execVblank
  grind [canonical_afterStep, canonical_scanFrame, canonical_modHead, canonical_notNow]

theorem canonical_mediaRead (h : Nat) (ps : List (Nat × Nat)) (acc : Bytes) : canonical (mediaRead h ps s acc).1 := by
  induction ps generalizing s acc with
  | nil => exact hs
  | cons p ps ih =>
    have hfold := fun pa n => canonical_foldRange (canonical_releaseLines hs (linesOf pa n)) pa n
    unfold mediaRead
    grind [canonical_markUsed]

theorem canonical_mediaPut (h : Nat) (l : Leaf) (bs : Bytes) : canonical (mediaPut s h l bs) :=
  canonical_homeWrite (canonical_foldl (fun _ _ hu => canonical_dropCopies hu _)
    (canonical_markUsed (canonical_foldRange (canonical_releaseLines hs _) _ _) _ _ _) _) _ _ _ _

theorem canonical_mediaWrite (h : Nat) (out : Nat → Byte) (f : Nat) (ps : List (Nat × Nat)) (k : Nat) : canonical (mediaWrite h out f ps k s).1 := by
  induction f generalizing s ps k with
  | zero => exact hs
  | succ f ih =>
    cases ps with
    | nil => exact hs
    | cons p ps =>
      unfold mediaWrite
      grind [canonical_mediaPut]

theorem canonical_sessionWrite (h base : Nat) (ws : List (Nat × Byte)) : canonical (sessionWrite s h base ws) := by
  refine canonical_foldl (fun u p hu => ?_) hs _
  grind [canonical_mediaPut]

theorem canonical_mediaFault (h : Nat) (b data : Bytes) (n d : Nat) : canonical (mediaFault s h b data n d).1 := by
  unfold mediaFault
  grind [canonical_mediaWrite]

theorem canonical_runMedia (h : Nat) (b : Bytes) (lost : Bool) : canonical (runMedia s h b lost).1 := by
  unfold runMedia
  grind [canonical, canonical_mediaRead, canonical_mediaFault, canonical_mediaWrite, canonical_sessionWrite]

theorem canonical_modMedia (n : Nat) (f : Sequencer → Sequencer) : canonical (modMedia s n f) := hs

theorem canonical_putMedia (n h : Nat) (cell value : DWord) (first : Bool) : canonicalOutcome (putMedia s n h cell value first) := by
  unfold putMedia
  grind [canonical_modMedia, canonical_afterStep, canonical_noteMove, canonical_agentWaits, canonical_notNow, canonical_cellWrite]

theorem canonical_execMediaCommand (sq : Nat) : canonicalOutcome (execMediaCommand sq s) := by
  unfold execMediaCommand
  grind [canonical_modMedia, canonical_mediaRead, canonical_putMedia, canonical_afterStep, canonical_agentWaits, canonical_runMedia, canonical_notNow]

theorem canonical_execMediaDoneRetry (sq : Nat) : canonicalOutcome (execMediaDoneRetry sq s) := by
  unfold execMediaDoneRetry
  grind [canonical_putMedia, canonical_notNow]

theorem canonical_answer (o : HostOut) : canonical (answer s o) := hs

end

/-! ### Host accesses, reliability and bring-up -/

section
variable {s : State} (hs : canonical s)
include hs

theorem canonical_atHome (pa n : Nat) : canonical (atHome s pa n) := by
  unfold atHome
  grind [canonical_foldRange, canonical_releaseLines]

theorem canonical_coherentRead (pa n : Nat) : canonical (coherentRead s pa n) := by
  unfold coherentRead
  grind [canonical_atHome, canonical_answer]

theorem canonical_coherentWrite (pa : Nat) (bs : Bytes) : canonical (coherentWrite s pa bs) := by
  unfold coherentWrite
  grind [canonical_rootWrite, canonical_atHome]

theorem canonical_execHostCoherentRead (pa size : Nat) (peer : Bool) : canonicalOutcome (execHostCoherentRead pa size peer s) := by
  unfold execHostCoherentRead
  grind [canonical_afterStep, canonical_coherentRead, canonical_answer]

theorem canonical_execHostCoherentWrite (pa : Nat) (bs : Bytes) (peer : Bool) : canonicalOutcome (execHostCoherentWrite pa bs peer s) := by
  unfold execHostCoherentWrite
  grind [canonical_afterStep, canonical_coherentWrite, canonical_answer]

theorem canonical_evictSome (pa n : Nat) : canonical (evictSome s pa n) :=
  canonical_foldl (fun _ _ hu => canonical_invalidateLine hu _) hs _

theorem canonical_execHostDirectRead (pa size : Nat) (peer : Bool) : canonicalOutcome (execHostDirectRead pa size peer s) := by
  unfold execHostDirectRead
  grind [canonical_afterStep, canonical_evictSome, canonical_answer]

theorem canonical_gddrWriteLine (pa : Nat) (bs : Bytes) (line : Nat) : canonical (gddrWriteLine pa bs s line) := by
  unfold gddrWriteLine
  grind [canonical, canonical_triggerMonitors, canonical_rootWrite]

theorem canonical_execHostDirectWrite (pa : Nat) (bs : Bytes) (peer hint : Bool) : canonicalOutcome (execHostDirectWrite pa bs peer hint s) :=
  canonical_afterStep (ite_cases _ (canonical_foldl (fun _ l hu => canonical_gddrWriteLine hu pa bs l) (canonical_evictSome hs _ _) _) hs)

theorem canonical_atomicOp (pa n : Nat) (ok : Bool) (via : AtomicVia) (f : Nat → Option Nat) : canonicalOutcome (atomicOp s pa n ok via f) := by
  have hhome := canonical_atHome hs pa n
  have hdrop := fun o => canonical_dropCopies (canonical_answer hhome o) (lineOf pa)
  refine ite_cases _ (canonical_afterStep (canonical_answer hs _)) (canonical_afterStep ?_)
  split
  · exact canonical_rootWrite (hdrop _) _ _ _ _
  · exact hdrop _

theorem canonical_execFetchadd (pa size : Nat) (v : DWord) (via : AtomicVia) : canonicalOutcome (execFetchadd pa size v via s) := by
  unfold execFetchadd
  grind [canonical_atomicOp]

theorem canonical_execSwap (pa size : Nat) (v : DWord) (via : AtomicVia) : canonicalOutcome (execSwap pa size v via s) := by
  unfold execSwap
  grind [canonical_atomicOp]

theorem canonical_execCas (pa size : Nat) (cmp new : BitVec 128) (via : AtomicVia) : canonicalOutcome (execCas pa size cmp new via s) := by
  unfold execCas
  grind [canonical_atomicOp]

theorem canonical_windowMiss (h off size : Nat) (wr : Bool) : canonical (windowMiss s h off size wr) := by
  unfold windowMiss
  grind [canonical_errRecord, canonical_answer]

theorem canonical_windowRead (h : Nat) (l : Leaf) (n : Nat) : canonical (windowRead s h l n) := by
  unfold windowRead
  grind [canonical_atHome, canonical_answer]

theorem canonical_execVfWindowAccess (h off size : Nat) (wr : Option Bytes) : canonicalOutcome (execVfWindowAccess h off size wr s) := by
  unfold execVfWindowAccess
  grind [canonicalOutcome, canonical_afterStep, canonical_answer, canonical_notNow, canonical_windowMiss, canonical_windowRead, canonical_markUsed,
    canonical_agentWaits, canonical_coherentWrite]

theorem canonical_setRel (off : Nat) (v : DWord) : canonical (setRel s off v) := hs

theorem canonical_countCorrected : canonical (countCorrected s) := hs

theorem canonical_execCorrectedError : canonicalOutcome (execCorrectedError s) := by
  unfold execCorrectedError
  grind [canonical_afterStep, canonical_countCorrected]

theorem canonical_poisonGranule (loc : Granule) (src : Nat) : canonical (poisonGranule s loc src) := by
  unfold poisonGranule
  grind [canonical_modWave, canonical_modMedia, canonical_setPoison]

theorem canonical_execPoison (loc : Granule) (src : Nat) : canonicalOutcome (execPoison loc src s) := by
  unfold execPoison
  grind [canonical_notNow, canonical_poisonGranule, canonical_afterStep, canonical_errRecord]

theorem canonical_strikeWave (w detail : Nat) : canonical (strikeWave s w detail).1 := by
  unfold strikeWave
  grind [canonical_restartIdem, canonical_raiseAll, canonical_leaveFifo]

theorem canonical_strikeCore (core detail : Nat) : canonical (strikeCore s core detail).1 := by
  refine List.foldlRecOn (motive := fun a : State × Nat × Nat => canonical a.1) _ _ hs fun a ha p _ => ?_
  have hstrike := canonical_strikeWave ha p.1 detail
  grind

omit hs in
theorem canonical_sharedRecord (sev core h : Nat) {r : State × Nat × Nat} (hr : canonical r.1) : canonical (sharedRecord sev core h r) :=
  canonical_errRecord hr _ _ _ _ _ _

theorem canonical_poisonLine (src line : Nat) : canonical (poisonLine src s line) :=
  canonical_foldl (fun _ _ hu => canonical_setPoison hu _ _) hs _

theorem canonical_zeroHolder (core bay : Nat) : canonical (zeroHolder s core bay) := by
  unfold zeroHolder
  split <;> exact hs

theorem canonical_poisonCached (src : Nat) (e : CacheLine) : canonical (poisonCached src s e) :=
  ite_cases _ (canonical_poisonLine (canonical_foldLine hs _) _ _) (canonical_foldl (fun _ _ hu => canonical_setPoison hu _ _) hs _)

theorem canonical_strikeL2 (e : CacheLine) : canonical (strikeL2 s e) := by
  unfold strikeL2
  grind [canonical, canonical_poisonCached, canonical_dropL1, canonical_leaveCache]

theorem canonical_abortTrackers (line : Nat) : canonical (abortTrackers s line) :=
  canonical_foldl (fun _ _ hu => canonical_abortRegion hu _ _ _ _) hs _

theorem canonical_fellHank (h : Nat) : canonical (fellHank s h).1 :=
  canonical_foldl (fun _ _ hu => canonical_frog hu _ _ _)
    (canonical_foldl (fun _ _ hu => canonical_cancelFlights (canonical_retireWave hu _ _) _) hs _) _

theorem canonical_execShared (u : SharedUnit) : canonicalOutcome (execShared u s) := by
  have hn := canonical_notNow hs
  cases u with
  | bay row col bay =>
    exact ite_cases (P := canonicalOutcome) _ hn
      (canonical_afterStep (canonical_settleAll (canonical_sharedRecord _ _ _ (canonical_strikeCore (canonical_zeroHolder hs _ _) _ _))))
  | l1 row col set =>
    refine ite_cases (P := canonicalOutcome) _ hn (canonical_afterStep (canonical_settleAll (canonical_sharedRecord _ _ _ (canonical_strikeCore ?_ _
      _))))
    exact canonical_foldl (fun _ _ hu => canonical_dropL1 hu _ _ _ _) (canonical_foldl (fun _ _ hu => canonical_poisonCached hu _ _) hs _) _
  | l2 row col set =>
    refine ite_cases (P := canonicalOutcome) _ hn (canonical_afterStep (canonical_settleAll (canonical_sharedRecord _ _ _ ?_)))
    exact canonical_foldl (fun _ e hu => canonical_abortTrackers (canonical_strikeL2 hu e) _) hs _
  | versionDir h =>
    exact ite_cases (P := canonicalOutcome) _ hn
      (canonical_afterStep (canonical_settleAll (canonical_sharedRecord _ _ _ (canonical_fellHank hs h))))

theorem canonical_failTransfer (v : Nat) (t : Transfer) : canonical (failTransfer s v t) := by
  unfold failTransfer
  grind [canonical_errRecord, canonical_setPoison]

theorem canonical_execLinkfail (link : BitVec 20) (what : Transfer) : canonicalOutcome (execLinkfail link what s) := by
  unfold execLinkfail
  grind [canonical_notNow, canonical_afterStep, canonical_failTransfer]

theorem canonical_setInj (i k : Nat) (v : DWord) : canonical (setInj s i k v) := hs

theorem canonical_setCount (i n : Nat) : canonical (setCount s i n) := hs

theorem canonical_execInjselWrite (i : Nat) (x : RegWrite) : canonicalOutcome (execInjselWrite i x s) := by
  unfold execInjselWrite
  grind [canonical_afterStep, canonical_setInj, canonical_setCount]

theorem canonical_corruptHome (mask : DWord) (line beat : Nat) : canonical (corruptHome s mask line beat) := ⟨wf_writeBytes hs.1 _ _, hs.2⟩

theorem canonical_corruptCopy (mask : DWord) (cl line beat : Nat) : canonical (corruptCopy s mask cl line beat) := by
  unfold corruptCopy
  grind [canonical, canonical_fillLine]

theorem canonical_corruptBack (mask : DWord) (line beat : Nat) : canonical (corruptBack s mask line beat) :=
  ite_cases _ hs (ite_cases _ hs ⟨wf_writeBytes hs.1 _ _, hs.2⟩)

theorem canonical_corruptFlit (mask : DWord) (x0 : InjectHit) : canonical (corruptFlit s mask x0) := by
  unfold corruptFlit
  grind [canonical_corruptCopy, canonical_modFlight, canonical_corruptHome, canonical_corruptBack]

omit hs in
theorem canonical_countFlit (hit : InjectHit) {a : State × List (Nat × Nat)} (ha : canonical a.1) (j : Nat) : canonical (countFlit hit a j).1 := by
  unfold countFlit
  grind [canonical_setCount, canonical_setInj, canonical_errRecord]

theorem canonical_acceptFlit (hit : InjectHit) (fired : List (Nat × Nat)) : canonical (acceptFlit s hit fired) := by
  unfold acceptFlit
  grind [canonical, canonical_corruptFlit]

theorem canonical_passFlit (i : Nat) (hit : InjectHit) (again : Bool) (n : Nat) : canonical (passFlit i hit again n s) := by
  induction n generalizing s again with
  | zero =>
    have hcount : canonical ((injectors s i hit).foldl (countFlit hit) (s, [])).1 :=
      List.foldlRecOn (motive := fun a : State × List (Nat × Nat) => canonical a.1) _ _ hs fun a ha j _ => canonical_countFlit hit ha j
    unfold passFlit
    grind [canonical_acceptFlit, canonical_countCorrected, canonical_failTransfer]
  | succ n ih =>
    have hcount : canonical ((injectors s i hit).foldl (countFlit hit) (s, [])).1 :=
      List.foldlRecOn (motive := fun a : State × List (Nat × Nat) => canonical a.1) _ _ hs fun a ha j _ => canonical_countFlit hit ha j
    unfold passFlit
    grind [canonical_acceptFlit, canonical_countCorrected]

theorem canonical_execInject (i : Nat) (hit : InjectHit) : canonicalOutcome (execInject i hit s) := by
  unfold execInject
  grind [canonical_notNow, canonical_afterStep, canonical_passFlit]

theorem canonical_execInjectorDelayExpiry (i : Nat) : canonicalOutcome (execInjectorDelayExpiry i s) := by
  unfold execInjectorDelayExpiry
  grind [canonical, canonical_notNow, canonical_afterStep]

theorem canonical_execErrbaseWrite (x : RegWrite) : canonicalOutcome (execErrbaseWrite x s) := by
  unfold execErrbaseWrite
  grind [canonical, canonical_afterStep, canonical_setRel]

theorem canonical_execCecountWrite (x : RegWrite) : canonicalOutcome (execCecountWrite x s) := by
  unfold execCecountWrite
  grind [canonical_afterStep, canonical_setRel]

theorem canonical_modSysc (f : Sysc → Sysc) : canonical (modSysc s f) := hs

omit hs in
theorem canonical_restart (s : State) : canonical (restart s) := ⟨rfl, rfl⟩

theorem canonical_execRom : canonicalOutcome (execRom s) := by
  unfold execRom
  grind [canonical_notNow, canonical_afterStep, canonical_modSysc]

theorem canonical_execFloorplan (selfTest : DWord) : canonicalOutcome (execFloorplan selfTest s) := by
  unfold execFloorplan
  grind [canonical_notNow, canonical_afterStep, canonical_halt, canonical_modSysc]

theorem canonical_execFirmware : canonicalOutcome (execFirmware s) := by
  unfold execFirmware
  grind [canonical_notNow, canonical_afterStep, canonical_halt, canonical_modSysc]

theorem canonical_execMemory (trained : Bool) : canonicalOutcome (execMemory trained s) := by
  unfold execMemory
  grind [canonical_afterStep, canonical_modSysc, canonical_notNow, canonical_halt]

theorem canonical_raiseRollback : canonical (raiseRollback s) := by
  unfold raiseRollback
  grind [canonical]

theorem canonical_execFeatackWrite (x : RegWrite) : canonicalOutcome (execFeatackWrite x s) := by
  unfold execFeatackWrite
  grind [canonical_afterStep, canonical_raiseRollback, canonical_modSysc]

theorem canonical_execAttctlGo (x : RegWrite) : canonicalOutcome (execAttctlGo x s) := by
  unfold execAttctlGo
  grind [canonical_notNow, canonical_afterStep, canonical_modSysc]

theorem canonical_execQuoteComplete (ok : Bool) : canonicalOutcome (execQuoteComplete ok s) := by
  unfold execQuoteComplete
  grind [canonical_notNow, canonical_afterStep, canonical_modSysc, canonical_answer]

theorem canonical_execGovernorEvaluation (mhz watts temp : Nat) : canonicalOutcome (execGovernorEvaluation mhz watts temp s) := by
  unfold execGovernorEvaluation
  grind [canonical_notNow, canonical_afterStep, canonical_modSysc]

theorem canonical_execThermalTrip : canonicalOutcome (execThermalTrip s) := by
  unfold execThermalTrip
  grind [canonical_afterStep, canonical_halt, canonical_errRecord]

theorem canonical_execPowerWrite (x : RegWrite) : canonicalOutcome (execPowerWrite x s) := by
  unfold execPowerWrite
  grind [canonical_afterStep, canonical_modSysc]

end

/-! ### Control words, engine words, float words and ply words -/

section
variable {s : State} (hs : canonical s)
include hs

theorem canonical_jump (c : Ctx) (pc : DWord) : canonicalRes (jump s c pc) := hs

theorem canonical_branch (c : Ctx) (m : Mask) (pc : DWord) : canonicalRes (branch s c m pc) :=
  ite_cases _ hs (ite_cases _ hs (ite_cases _ hs (ite_cases _ trivial hs)))

theorem canonical_execBra (x : CWord) : canonicalOutcome (execBra x s) := by
  refine canonical_issue hs _ fun u c hu => ?_
  grind [canonical_branch]

theorem canonical_execBru (x : CWord) : canonicalOutcome (execBru x s) := by
  refine canonical_issue hs _ fun u c hu => ?_
  grind [canonicalRes, Res.ok, canonical_jump]

theorem canonical_execCall (x : CWord) : canonicalOutcome (execCall x s) := by
  refine canonical_issue hs _ fun u c hu => ?_
  grind [canonical_putPair, canonical_branch, canonical_clearRegs]

theorem canonical_branchLanes (c : Ctx) (x : CWord) : canonicalRes (branchLanes s c x) := by
  unfold branchLanes
  refine ite_cases _ hs ?_
  dsimp only
  split <;> exact hs

theorem canonical_execBrx (x : CWord) : canonicalOutcome (execBrx x s) := by
  refine canonical_issue hs _ fun u c hu => ?_
  grind [canonical_branchLanes]

theorem canonical_execRet (x : CWord) : canonicalOutcome (execRet x s) := by
  refine canonical_issue hs _ fun u c hu => ?_
  grind [canonical_branchLanes]

theorem canonical_exitLanes (c : Ctx) (m : Mask) : canonical (exitLanes s c m) := hs

theorem canonical_execExit (x : CWord) : canonicalOutcome (execExit x s) := by
  refine canonical_issue hs _ fun u c hu => ?_
  grind [canonicalRes, Res.ok, canonical_modWave, canonical_fault, canonical_retireWave, canonical_exitLanes]

theorem canonical_raiseTrap (c : Ctx) (x : CWord) (cause : Cause) : canonicalRes (raiseTrap s c x cause) :=
  ite_cases _ hs (ite_cases _ hs (ite_cases _ hs hs))

theorem canonical_execTrap (x : CWord) : canonicalOutcome (execTrap x s) := by
  refine canonical_issue hs _ fun u c hu => ?_
  grind [canonical_raiseTrap]

theorem canonical_execBpt (x : CWord) : canonicalOutcome (execBpt x s) := by
  refine canonical_issue hs _ fun u c hu => ?_
  grind [canonical_raiseTrap]

theorem canonical_execEret (x : CWord) : canonicalOutcome (execEret x s) := by
  refine canonical_issue hs _ fun u c hu => ?_
  grind [canonicalRes, canonical_returnTrap]

theorem canonical_engineFlight (c : Ctx) (ws : List Want) (g : Reach) (sg : List Sig) : canonical (engineFlight s c ws g sg) := by
  unfold engineFlight
  grind [canonical_addFlight, canonical_addMarkers, canonical_addSigs]

theorem canonical_engineDone (c : Ctx) (ws : List Want) (g : Reach) {r : Except EngineStop (State × List Sig)}
    (hr : ∀ a, r = .ok a → canonical a.1) : canonicalRes (engineDone s c ws g r) := by
  unfold engineDone
  split
  · exact canonical_engineStop hs c _
  · exact ite_cases _ trivial (canonical_engineFlight (hr _ rfl) c ws g _)

omit hs in
theorem canonical_of_bind {α β : Type} {e : Except EngineStop (State × α)} {f : State × α → Except EngineStop (State × β)}
    (he : ∀ a, e = .ok a → canonical a.1) (hf : ∀ a b, canonical a.1 → f a = .ok b → canonical b.1) {r : State × β} (hr : e.bind f = .ok r) :
    canonical r.1 := by
  cases e with
  | error e => cases hr
  | ok a => exact hf a r (he a rfl) hr

omit hs in
theorem canonical_of_map {α β : Type} {e : Except EngineStop (State × α)} {f : State × α → State × β} (hf : ∀ a, e = .ok a → canonical (f a).1)
    {r : State × β} (hr : e.map f = .ok r) : canonical r.1 := by
  cases e with
  | error e => cases hr
  | ok a =>
    cases hr
    exact hf a rfl

theorem canonical_of_cpyRead (c : Ctx) (sp core a n : Nat) (r) (hr : cpyRead s c sp core a n = .ok r) : canonical r.1 := by
  unfold cpyRead at hr
  grind [canonical_of_readRange]

theorem canonical_of_cpyWrite (c : Ctx) (sp core a : Nat) (d : Load) (r) (hr : cpyWrite s c sp core a d = .ok r) : canonical r.1 := by
  unfold cpyWrite at hr
  split at hr
  · refine canonical_of_map (fun _ ha => ?_) hr
    exact (canonical_of_writeRange hs ha :)
  · grind [canonical_writeScratch]
  · grind [canonical_writeVault]

theorem canonical_execCpy (x : KWord) : canonicalOutcome (execCpy x s) := by
  refine canonical_issue hs _ fun u c hu => ?_
  refine ite_cases _ hu ?_
  split
  · exact hu
  · refine ite_cases _ hu (ite_cases _ hu (canonical_engineDone hu c _ _ fun r hr => ?_))
    exact canonical_of_bind (fun a => canonical_of_cpyRead hu _ _ _ _ _ a) (fun a b ha => canonical_of_cpyWrite ha _ _ _ _ _ b) hr

theorem canonical_of_cpydRun (c : Ctx) (src dst len : Nat) (hd : Load) (r) (hr : cpydRun s c src dst len hd = .ok r) : canonical r.1 := by
  unfold cpydRun at hr
  dsimp only at hr
  cases hrange : rangeOk s c.v.hank src (16 + ((dwordAt hd.data 1).toNat % 2 ^ 32 + 7) / 8) with
  | error e =>
    rw [hrange] at hr
    cases hr
  | ok _ =>
    rw [hrange] at hr
    refine canonical_of_bind (fun _ ha => canonical_of_readRange hs ha) (fun a b ha hb => ?_) hr
    grind [canonical_writeScratch]

theorem canonical_execCpyd (x : KWord) : canonicalOutcome (execCpyd x s) := by
  refine canonical_issue hs _ fun u c hu => ?_
  refine ite_cases _ hu (ite_cases _ hu (ite_cases _ hu (canonical_engineDone hu c _ _ fun r hr => ?_)))
  exact canonical_of_bind (fun _ ha => canonical_of_readRange hu ha) (fun a b ha => canonical_of_cpydRun ha _ _ _ _ _ b) hr

theorem canonical_of_overRows {f : State → TableRow → Except EngineStop (State × Bytes)}
    (hf : ∀ s x r, canonical s → f s x = .ok r → canonical r.1) (xs : List TableRow) (out : Bytes) (r) (hr : overRows f xs s out = .ok r) :
    canonical r.1 := by
  induction xs generalizing s out with
  | nil => cases hr; exact hs
  | cons x xs ih =>
    unfold overRows at hr
    split at hr
    · exact absurd hr (orStop_ne_ok _ _ _)
    · next a ha => exact ih (hf _ _ _ hs ha) _ hr

theorem canonical_of_tableRow (c : Ctx) (rows len : Nat) (scat : Bool) (x : TableRow) (r) (hr : tableRow c rows len scat s x = .ok r) :
    canonical r.1 := by
  have hwrite := fun d r (hr : writeRange s c.w c.v.hank c.v.ply x.va d = .ok r) => canonical_of_writeRange hs hr
  have hread := fun (f : State × Load → State × Bytes) (hf : ∀ a, canonical a.1 → canonical (f a).1) r
    (hr : (readRange s c.v.hank c.v.ply x.va len).map f = .ok r) => canonical_of_map (fun a ha => hf a (canonical_of_readRange hs ha)) hr
  unfold tableRow at hr
  dsimp only at hr
  split at hr
  · exact absurd hr (orStop_ne_ok _ _ _)
  · split at hr
    · exact hwrite _ _ hr
    · exact hread _ (fun a ha => canonical_writeScratch ha _ _ _) _ hr

theorem canonical_tableCopy (c : Ctx) (x : KWord) (scat : Bool) : canonicalRes (tableCopy s c x scat) := by
  refine ite_cases _ hs (ite_cases _ hs (ite_cases _ hs (ite_cases _ hs (ite_cases _ hs (ite_cases _ trivial
    (canonical_engineDone hs c _ _ fun r hr => canonical_of_map (fun _ ha => ?_) hr))))))
  exact (canonical_of_overRows hs (fun _ _ _ hu hr => canonical_of_tableRow hu _ _ _ _ _ _ hr) _ _ _ ha :)

theorem canonical_execGath (x : KWord) : canonicalOutcome (execGath x s) :=
  canonical_issue hs _ fun _ c hu => canonical_tableCopy hu c x false

theorem canonical_execScat (x : KWord) : canonicalOutcome (execScat x s) :=
  canonical_issue hs _ fun _ c hu => canonical_tableCopy hu c x true

theorem canonical_convRow (c : Ctx) (x : V3) (f : Nat → (Nat × BitVec 9) × Word) : canonical (convRow c s x f) := by
  unfold convRow
  split <;> exact hs

theorem canonical_execCvti (x : V3) : canonicalOutcome (execCvti x s) := by
  refine canonical_issue hs _ fun u c hu => ?_
  grind [canonicalRes, Res.ok, canonical_convRow]

theorem canonical_execCvtf (x : V3) : canonicalOutcome (execCvtf x s) := by
  refine canonical_issue hs _ fun u c hu => ?_
  grind [canonicalRes, Res.ok, canonical_floatRow, canonical_put]

theorem canonical_execCvtff (x : V3) : canonicalOutcome (execCvtff x s) := by
  refine canonical_issue hs _ fun u c hu => ?_
  grind [canonicalRes, Res.ok, canonical_convRow]

theorem canonical_execPkn (x : V3) : canonicalOutcome (execPkn x s) := by
  refine canonical_issue hs _ fun u c hu => ?_
  grind [canonicalRes, Res.ok, canonical_fault, canonical_convRow]

theorem canonical_execUpkn (x : V3) : canonicalOutcome (execUpkn x s) := by
  refine canonical_issue hs _ fun u c hu => ?_
  dsimp only
  split
  · exact hu
  · exact canonical_raiseFcr (canonical_foldl (fun _ _ hu => by exact hu) hu _) _ _

theorem canonical_execNdot (x : V3) : canonicalOutcome (execNdot x s) := by
  refine canonical_issue hs _ fun u c hu => ?_
  grind [canonicalRes, Res.ok, canonical_fault, canonical_floatRow, canonical_raiseFcr]

theorem canonical_atDirectory (c : Ctx) {k : State → Res} (hk : ∀ u, canonical u → canonicalRes (k u)) : canonicalRes (atDirectory s c k) :=
  ite_cases _ (canonical_joinDir hs _ _ _ _) (hk _ (canonical_leaveDir hs _ _ _))

theorem canonical_execPfork (x : SWord) : canonicalOutcome (execPfork x s) := by
  refine canonical_issue hs _ fun u c hu => canonical_atDirectory hu c fun t ht => ?_
  grind [canonicalRes, Res.ok, canonical_addPlies, canonical_loadFlight]

theorem canonical_execPenter (x : SWord) : canonicalOutcome (execPenter x s) := by
  refine canonical_issue hs _ fun u c hu => canonical_atDirectory hu c fun t ht => ?_
  grind [canonicalRes, Res.ok, canonical_put, canonical_moveWave]

theorem canonical_keepGo (c : Ctx) (x : SWord) (k : Keep) : canonicalRes (keepGo s c x k) := by
  have happly := canonical_applyKeep hs c.v.hank k.target (keepFrogs s c.v.hank k.target k.sib) []
  exact ite_cases _ hs (ite_cases (P := canonicalRes) _ (by exact happly) (by exact happly))

theorem canonical_execPkeep (x : SWord) : canonicalOutcome (execPkeep x s) := by
  refine canonical_issue hs _ fun u c hu => canonical_atDirectory hu c fun t ht => ?_
  grind [canonicalRes, Res.ok, canonical_keepGo, canonical_put]

theorem canonical_execPfrog (x : SWord) : canonicalOutcome (execPfrog x s) := by
  refine canonical_issue hs _ fun u c hu => canonical_atDirectory hu c fun t ht => ?_
  grind [canonicalRes, Res.ok, canonical_frog]

theorem canonical_execLline (x : SWord) : canonicalOutcome (execLline x s) := by
  refine canonical_issue hs _ fun u c hu => canonical_atDirectory hu c fun t ht => ?_
  grind [canonicalRes, Res.ok, canonical_put, canonical_addPlies, canonical_moveWave]

theorem canonical_openRegion (c : Ctx) (fallback : DWord) : canonical (openRegion s c fallback) := hs

theorem canonical_execArbeg (x : SWord) : canonicalOutcome (execArbeg x s) := by
  refine canonical_issue hs _ fun u c hu => ?_
  grind [canonicalRes, Res.ok, canonical_openRegion, canonical_abortRegion]

theorem canonical_execArend (x : SWord) : canonicalOutcome (execArend x s) := by
  refine canonical_issue hs _ fun u c hu => ?_
  grind [canonicalRes, Res.ok, canonical_loadFlight, canonical_modWave, canonical_addFlight]

theorem canonical_execArabt (x : SWord) : canonicalOutcome (execArabt x s) := by
  refine canonical_issue hs _ fun u c hu => ?_
  grind [canonicalRes, Res.ok]

end

/-! ### Every instruction and the step -/

section
variable {s : State} (hs : canonical s)
include hs

theorem canonical_exec (i : Instr) : canonicalOutcome (exec i s) := by
  cases i
  case cvti => exact canonical_execCvti hs _
  case cvtf => exact canonical_execCvtf hs _
  case cvtff => exact canonical_execCvtff hs _
  case pkn => exact canonical_execPkn hs _
  case upkn => exact canonical_execUpkn hs _
  case ndot => exact canonical_execNdot hs _
  case amov => exact canonical_execAmov hs _
  case aldi => exact canonical_execAldi hs _
  case aadd => exact canonical_execAadd hs _
  case aaddVi => exact canonical_execAaddVi hs _
  case asub => exact canonical_execAsub hs _
  case asubVi => exact canonical_execAsubVi hs _
  case amuli => exact canonical_execAmuli hs _
  case ashli => exact canonical_execAshli hs _
  case mwrite => exact canonical_execMwrite hs _
  case ld => exact canonical_execLd hs _
  case st => exact canonical_execSt hs _
  case lds => exact canonical_execLds hs _
  case sts => exact canonical_execSts hs _
  case ldv => exact canonical_execLdv hs _
  case stv => exact canonical_execStv hs _
  case ldk => exact canonical_execLdk hs _
  case atom => exact canonical_execAtom hs _
  case acas => exact canonical_execAcas hs _
  case atoms => exact canonical_execAtoms hs _
  case cadd => exact canonical_execCadd hs _
  case mon => exact canonical_execMon hs _
  case mwait => exact canonical_execMwait hs _
  case pref => exact canonical_execPref hs _
  case cinv => exact canonical_execCinv hs _
  case cwb => exact canonical_execCwb hs _
  case ntake => exact canonical_execNtake hs _
  case npass => exact canonical_execNpass hs _
  case mma => exact canonical_execMma hs _
  case mmas => exact canonical_execMmas hs _
  case azero => exact canonical_execAzero hs _
  case afill => exact canonical_execAfill hs _
  case adrain => exact canonical_execAdrain hs _
  case mepi => exact canonical_execMepi hs _
  case mstat => exact canonical_execMstat hs _
  case yopen => exact canonical_execYopen hs _
  case ypush => exact canonical_execYpush hs _
  case ydrop => exact canonical_execYdrop hs _
  case cpy => exact canonical_execCpy hs _
  case cpyd => exact canonical_execCpyd hs _
  case gath => exact canonical_execGath hs _
  case scat => exact canonical_execScat hs _
  case kwait => exact canonical_execKwait hs _
  case trace => exact canonical_execTrace hs _
  case tres => exact canonical_execTres hs _
  case msub => exact canonical_execMsub hs _
  case smap => exact canonical_execSmap hs _
  case sunmap => exact canonical_execSunmap hs _
  case bra => exact canonical_execBra hs _
  case bru => exact canonical_execBru hs _
  case brx => exact canonical_execBrx hs _
  case call => exact canonical_execCall hs _
  case ret => exact canonical_execRet hs _
  case exit => exact canonical_execExit hs _
  case trap => exact canonical_execTrap hs _
  case bpt => exact canonical_execBpt hs _
  case eret => exact canonical_execEret hs _
  case sysrd => exact canonical_execSysrd hs _
  case syswr => exact canonical_execSyswr hs _
  case phint => exact canonical_execPhint hs _
  case idem => exact canonical_execIdem hs _
  case gset => exact canonical_execGset hs _
  case pfork => exact canonical_execPfork hs _
  case penter => exact canonical_execPenter hs _
  case pkeep => exact canonical_execPkeep hs _
  case pfrog => exact canonical_execPfrog hs _
  case lline => exact canonical_execLline hs _
  case arbeg => exact canonical_execArbeg hs _
  case arend => exact canonical_execArend hs _
  case arabt => exact canonical_execArabt hs _
  case rpair => exact canonical_execRpair hs _
  case rchk => exact canonical_execRchk hs _
  case rend => exact canonical_execRend hs _
  case fmap => exact canonical_execFmap hs _
  case launch => exact canonical_execLaunch hs _
  case emit => exact canonical_execEmit hs _
  case recv => exact canonical_execRecv hs _
  case qpush => exact canonical_execQpush hs _
  case qpop => exact canonical_execQpop hs _
  case qtokPut => exact canonical_execQtokPut hs _
  case qtokTake => exact canonical_execQtokTake hs _
  case flip => exact canonical_execFlip hs _
  case clauseStart => exact canonical_execClauseStart hs _ _
  case heldWordIssue => exact canonical_execHeldWordIssue hs _ _
  case strandWake => exact canonical_execStrandWake hs _ _
  case opportunisticFusion => exact canonical_execOpportunisticFusion hs _ _ _
  case slotFree => exact canonical_execSlotFree hs _
  case resultWriteback => exact canonical_execResultWriteback hs _
  case accessPerformed => exact canonical_execAccessPerformed hs _
  case yarnFillComplete => exact canonical_execYarnFillComplete hs _
  case engineCommandComplete => exact canonical_execEngineCommandComplete hs _
  case meOperationComplete => exact canonical_execMeOperationComplete hs _
  case traversalComplete => exact canonical_execTraversalComplete hs _
  case darnerCommit => exact canonical_execDarnerCommit hs _
  case deferredEntryIssue => exact canonical_execDeferredEntryIssue hs _
  case plyReconcile => exact canonical_execPlyReconcile hs _ _
  case partialEviction => exact canonical_execPartialEviction hs _ _
  case monitorSpuriousTrigger => exact canonical_execMonitorSpuriousTrigger hs _
  case mwaitTimeout => exact canonical_execMwaitTimeout hs _ _
  case watchdog => exact canonical_execWatchdog hs _ _
  case trapTaken => exact canonical_execTrapTaken hs _
  case walkStarvation => exact canonical_execWalkStarvation hs _
  case accessRejectRetry => exact canonical_execAccessRejectRetry hs _
  case agedReservation => exact canonical_execAgedReservation hs _
  case bankDrowsy => exact canonical_execBankDrowsy hs _ _
  case queueDispatch => exact canonical_execQueueDispatch hs _
  case teamPlacement => exact canonical_execTeamPlacement hs _
  case binLaunch => exact canonical_execBinLaunch hs _ _
  case binTimerExpiry => exact canonical_execBinTimerExpiry hs _ _
  case doneTokenPut => exact canonical_execDoneTokenPut hs _
  case doneTokenRetry => exact canonical_execDoneTokenRetry hs _
  case preemptRequest => exact canonical_execPreemptRequest hs _
  case promiseBroken => exact canonical_execPromiseBroken hs _
  case fullSave => exact canonical_execFullSave hs _
  case teamRestore => exact canonical_execTeamRestore hs _
  case hostDoorbell => exact canonical_execHostDoorbell hs _ _ _ _ _
  case qringWrite => exact canonical_execQringWrite hs _ _ _ _
  case qstatWrite => exact canonical_execQstatWrite hs _ _ _ _
  case bincfgWrite => exact canonical_execBincfgWrite hs _ _ _
  case hankctlWrite => exact canonical_execHankctlWrite hs _ _
  case waysWrite => exact canonical_execWaysWrite hs _ _
  case wayChangeComplete => exact canonical_execWayChangeComplete hs _
  case memcfgWrite => exact canonical_execMemcfgWrite hs _ _
  case shadowPoolWrite => exact canonical_execShadowPoolWrite hs _ _ _
  case traversalLoadComplete => exact canonical_execTraversalLoadComplete hs _ _
  case traversalContextFault => exact canonical_execTraversalContextFault hs _ _ _
  case vblank => exact canonical_execVblank hs _
  case mediaCommand => exact canonical_execMediaCommand hs _
  case mediaDoneRetry => exact canonical_execMediaDoneRetry hs _
  case correctedError => exact canonical_execCorrectedError hs
  case poison => exact canonical_execPoison hs _ _
  case shared => exact canonical_execShared hs _
  case linkfail => exact canonical_execLinkfail hs _ _
  case inject => exact canonical_execInject hs _ _
  case injectorDelayExpiry => exact canonical_execInjectorDelayExpiry hs _
  case quoteComplete => exact canonical_execQuoteComplete hs _
  case powerOn => exact canonical_restart s
  case fundamentalReset => exact canonical_restart s
  case rom => exact canonical_execRom hs
  case floorplan => exact canonical_execFloorplan hs _
  case firmware => exact canonical_execFirmware hs
  case memory => exact canonical_execMemory hs _
  case governorEvaluation => exact canonical_execGovernorEvaluation hs _ _ _
  case thermalTrip => exact canonical_execThermalTrip hs
  case debuggerAccess => exact canonical_execDebuggerAccess hs _ _ _ _
  case migheadWrite => exact canonical_execMigheadWrite hs _ _
  case invalidationComplete => exact canonical_execInvalidationComplete hs _
  case traversalResetComplete => exact canonical_execTraversalResetComplete hs _ _
  case poolfreeWrite => exact canonical_execPoolfreeWrite hs _ _
  case invreqPage => exact canonical_execInvreqPage hs _ _
  case invreqAll => exact canonical_execInvreqAll hs _
  case migackDone => exact canonical_execMigackDone hs _ _
  case migackRefused => exact canonical_execMigackRefused hs _ _
  case trctlLoad => exact canonical_execTrctlLoad hs _ _ _
  case trctlReset => exact canonical_execTrctlReset hs _ _ _
  case headctlWrite => exact canonical_execHeadctlWrite hs _ _
  case hostCoherentRead => exact canonical_execHostCoherentRead hs _ _ _
  case hostCoherentWrite => exact canonical_execHostCoherentWrite hs _ _ _
  case hostDirectRead => exact canonical_execHostDirectRead hs _ _ _
  case hostDirectWrite hint => exact canonical_execHostDirectWrite hs _ _ _ hint
  case fetchadd => exact canonical_execFetchadd hs _ _ _ _
  case swap => exact canonical_execSwap hs _ _ _ _
  case cas => exact canonical_execCas hs _ _ _ _ _
  case vfWindowAccess => exact canonical_execVfWindowAccess hs _ _ _ _
  case injselWrite => exact canonical_execInjselWrite hs _ _
  case errbaseWrite => exact canonical_execErrbaseWrite hs _
  case cecountWrite => exact canonical_execCecountWrite hs _
  case gaugecWrite => exact canonical_execGaugecWrite hs _ _ _
  case featackWrite => exact canonical_execFeatackWrite hs _
  case attctlGo => exact canonical_execAttctlGo hs _
  case registerWrite => exact canonical_execRegisterWrite hs _ _
  case powerWrite => exact canonical_execPowerWrite hs _
  all_goals exact canonical_issue hs _ fun _ _ hu => hu

theorem canonical_takeStep (i : Instr) : canonicalOutcome (takeStep s i) :=
  ite_cases _ (canonical_exec hs i) hs

theorem canonical_chooseStrand : canonical (chooseStrand s) := by
  unfold chooseStrand
  split <;> exact hs

theorem canonical_of_firstStep {k : Nat} {is : List Instr} {r : Nat × Host.Outcome State Fault Refusal} (hr : firstStep s k is = some r) :
    canonicalOutcome r.2 := by
  induction is generalizing k with
  | nil => cases hr
  | cons i is ih =>
    rw [firstStep] at hr
    split at hr
    · cases hr
      exact canonical_exec hs i
    · exact ih hr

theorem canonical_of_inTurn {turn : Nat} {is : List Instr} {r : Nat × Host.Outcome State Fault Refusal} (hr : inTurn s turn is = some r) :
    canonicalOutcome r.2 := by
  unfold inTurn at hr
  grind [canonical_of_firstStep]

omit hs in
theorem canonical_noting {f : State → State} (hf : ∀ u, canonical u → canonical (f u)) {o : Host.Outcome State Fault Refusal}
    (ho : canonicalOutcome o) : canonicalOutcome (noting f o) := by
  cases o with
  | next t => exact hf t ho
  | fault | refused => trivial

theorem canonical_ownStepTaken : canonicalOutcome (ownStepTaken s) := by
  unfold ownStepTaken
  split
  · next h => exact canonical_of_firstStep hs h
  · split
    · next h => exact canonical_noting (fun _ hu => by exact hu) (canonical_of_inTurn hs h :)
    · split
      · next h => exact canonical_noting (fun _ hu => by exact hu) (canonical_of_inTurn hs h :)
      · exact hs

theorem canonical_goOn : canonicalOutcome (goOn s) := by
  unfold goOn
  split
  · next h => exact canonical_of_firstStep hs h
  · have hnext := fun x => canonical_of_nextIssue (canonical_chooseStrand hs) (x := x)
    split
    · next h => exact canonical_exec (hnext _ h) _
    · next h => exact hnext _ h
    · exact canonical_ownStepTaken hs

theorem canonical_haltStep : canonicalOutcome (haltStep s) :=
  ite_cases _ (canonical_exec hs _) hs

theorem canonical_step : canonicalOutcome (step s) := by
  unfold step
  split
  · exact canonical_takeStep (by exact hs) _
  · exact ite_cases _ (canonical_haltStep hs) (canonical_goOn hs)

end

/-- Settles O48: no step, of the host, of a word or of a unit, leaves a state that is out of canonical form. -/
theorem stepsKeepMemoryCanonical : Obligations.StepsKeepMemoryCanonical := by
  unfold Obligations.StepsKeepMemoryCanonical
  intro s t hs ht
  have h := canonical_step hs
  rwa [ht] at h

end Sys2Proof.CanonicalForm
end

section
/-! SUPPORT. What the steps of the device share: how a step ends, and when a register write counts. -/

namespace Sys2Proof.DeviceSteps

open Sys2Proof Sys2Proof.Machine Sys2Proof.Laws

theorem afterStep_eq (s : State) : afterStep s = .next (deviceStepped s) := rfl

theorem isFull_of_half {x : RegWrite} (hx : x.half = .full) : isFull x = true := by simp [isFull, hx]

theorem inRun_of_stage {s : State} (hs : s.sysc.stage = 6) : inRun s = true := by simp [inRun, hs]

end Sys2Proof.DeviceSteps
end

section
/-! SUPPORT. What the machine holds after reset (22 R407, R410, 24 R431). -/

namespace Sys2Proof.ResetHolds

open Sys2Proof Sys2Proof.Machine Sys2Proof.Laws

/-- Every hank is as it is after reset (R407). -/
theorem hankOf_reset (h : Nat) : hankOf State.reset h = Hank.reset := by
  by_cases hh : h < 8 <;> simp [hankOf, State.reset, hh]

/-- HANKCTL holds QUIESCE. -/
theorem hreg_reset_hankctl (h : Nat) : hreg State.reset h 0 = 1 := by
  rw [hreg, hankOf_reset]
  rfl

/-- Every register of a control block but HANKCTL holds 0. -/
theorem hreg_reset_other (h : Nat) {off : Nat} (hoff : off ≠ 0) : hreg State.reset h off = 0 := by
  rw [hreg, hankOf_reset]
  simp [Hank.reset, RegFile.read, Sparse.get, hoff.symm]

/-- QUIET reads 1 of a hank after reset (R410): it is quiesced and has no team, ply, request or busy context. -/
theorem quiescent_reset (h : Nat) : quiescent State.reset h = true := by
  have hq : quiesced State.reset h = true := by
    rw [quiesced, hreg_reset_hankctl]
    rfl
  have ht : hasTeams State.reset h = false := rfl
  rw [quiescent, hq, ht, hankOf_reset]
  decide

theorem readHank_reset_hankctl (h : Nat) : readHank State.reset h 0 = 3 := by
  rw [readHank, if_pos rfl, hreg_reset_hankctl, quiescent_reset, hankOf_reset]
  rfl

/-- Every gauge is off. -/
theorem gaugeOf_reset (h g : Nat) : gaugeOf State.reset h g = Gauge.off := by
  rw [gaugeOf, hankOf_reset]
  by_cases hg : g < 16 <;> simp [Hank.reset, hg]

/-- Settles O46, from what each part of a hank holds after reset. -/
theorem resetState : Obligations.ResetState := by
  unfold Obligations.ResetState
  refine ⟨rfl, rfl, rfl, rfl, rfl, rfl, rfl, rfl, rfl, fun _ => rfl, fun h _ => ?_⟩
  refine ⟨hreg_reset_hankctl h, readHank_reset_hankctl h, fun off => hreg_reset_other h, ?_, fun g => ?_, ?_, ?_⟩
  · rw [hankOf_reset]
    rfl
  · rw [gaugeOf_reset]
    rfl
  · rw [hankOf_reset]
    rfl
  · rw [hankOf_reset]
    rfl

/-- Settles O47: both memories are empty after reset. -/
theorem resetIsCanonical : Obligations.ResetIsCanonical := ⟨rfl, rfl⟩

end Sys2Proof.ResetHolds
end

section
/-! SUPPORT. Boot, the mailbox and power (24 R431 to R442): what each step gives where it occurs. -/

namespace Sys2Proof.BringUp

open Sys2Proof Sys2Proof.Machine Sys2Proof.Laws Sys2Proof.DeviceSteps

section
variable (s : State)

/-- ROM and FLOORPLAN (R431 to R433): each stage goes on from the one before it, FLOORPLAN only where it finds no cause to halt. -/
theorem exec_rom (hs : s.sysc.stage = 0) : exec .rom s = .next (deviceStepped (modSysc s fun y =>
    { y with stage := 1, rollback := s.board.counter, devkey := (deviceKeys s.board).1, devpriv := (deviceKeys s.board).2 })) := by
  change execRom s = _
  simp [execRom, hs, afterStep_eq]

theorem exec_floorplan (selfTest : DWord) (hs : s.sysc.stage = 1) :
    let bs := s.board.flash.readBytes 0 3988
    let cause := floorplanCause bs s.sysc.rollback selfTest
    exec (.floorplan selfTest) s = .next (deviceStepped (if cause = 0 then modSysc s fun y =>
      { y with stage := 2, enmask := BitVec.ofNat 28 (fieldNat bs 8 8), fpSvn := fieldNat bs 6 2, fpDigest := digest bs }
      else halt s cause)) := by
  change execFloorplan selfTest s = _
  by_cases hc : floorplanCause (s.board.flash.readBytes 0 3988) s.sysc.rollback selfTest = 0 <;> simp [execFloorplan, hs, hc, afterStep_eq]

/-- FIRMWARE (R434): an image that does not verify, or one below the rollback counter, halts the device. -/
theorem exec_firmware (hs : s.sysc.stage = 2) :
    let bs := s.board.flash.readBytes 3988 Config.fwSize
    let svn := fieldNat bs Config.fwSvnAt 2
    exec .firmware s = .next (deviceStepped (if signedOk bs = false then halt s 4 else if svn < s.sysc.rollback then halt s 5
      else modSysc s fun y =>
        { y with stage := 3, fwSvn := svn, fwDigest := digest bs, vendorKey := (bs.drop (bs.length - 3732)).take 1312 })) := by
  change execFirmware s = _
  simp only [execFirmware, hs, afterStep_eq]
  cases signedOk (s.board.flash.readBytes 3988 Config.fwSize) with
  | false => simp
  | true =>
    by_cases hv : fieldNat (s.board.flash.readBytes 3988 Config.fwSize) Config.fwSvnAt 2 < s.sysc.rollback <;> simp [hv]

theorem exec_memory_training (trained : Bool) (hs : s.sysc.stage = 3) :
    exec (.memory trained) s = .next (deviceStepped (modSysc s fun y => { y with stage := 4 })) := by
  change execMemory trained s = _
  simp [execMemory, hs, afterStep_eq]

/-- MEMORY after training (R435, log 35): the device goes on where training and every control store's image verify. -/
theorem exec_memory_trained (trained : Bool) (hs : s.sysc.stage = 4) :
    exec (.memory trained) s = .next (deviceStepped
      (if trained = false then halt s 6
      else if Config.storeImages.all (storeOk s) then modSysc s fun y => { y with stage := 5 } else halt s 4)) := by
  change execMemory trained s = _
  cases trained <;> simp [execMemory, hs, afterStep_eq]

theorem exec_featackWrite {x : RegWrite} (hs : s.sysc.stage = 5) (hx : x.half = .full) (hvf : x.vf = false) :
    exec (.featackWrite x) s = .next (deviceStepped (raiseRollback (modSysc s fun y => { y with featack := x.val &&& y.features, stage := 6 }))) := by
  change execFeatackWrite x s = _
  simp [execFeatackWrite, hs, hvf, isFull_of_half hx, afterStep_eq]

/-- The mailbox starts a quote where none is under way (R439). -/
theorem exec_attctlGo {x : RegWrite} (hx : x.half = .full) (hvf : x.vf = false) (hgo : x.val.getLsbD 0 = true) (hst : s.sysc.attstat ≠ 1)
    (hm : fitsMask x.val 0xFFFFFFFFFFFFF001 = true) :
    exec (.attctlGo x) s = .next (deviceStepped (modSysc s fun y => { y with attctl := x.val &&& ~~~1, attstat := 1 })) := by
  change execAttctlGo x s = _
  simp [execAttctlGo, hgo, hvf, hst, hm, isFull_of_half hx, afterStep_eq]

theorem exec_quoteComplete (ok : Bool) (hs : s.sysc.attstat = 1) : exec (.quoteComplete ok) s = .next (deviceStepped
    (if s.sysc.devkey = [] ∨ ok = false then modSysc s fun y => { y with attstat := 3 }
    else modSysc (answer s (.busWrite s.sysc.attctl.toNat (quote s))) fun y => { y with attstat := 2 })) := by
  change execQuoteComplete ok s = _
  by_cases hk : s.sysc.devkey = [] <;> cases ok <;> simp [execQuoteComplete, hs, hk, afterStep_eq]

/-- The governor sets ACLK within its steps, at 800 MHz under a thermal hold (R441, R442). -/
theorem exec_governorEvaluation {mhz watts temp : Nat} (hs : s.sysc.stage ≠ 15) (hlo : 800 ≤ mhz) (hhi : mhz ≤ 2100) (hstep : mhz % 25 = 0)
    (ht : temp < 115) (hw : watts < 2 ^ 16) (hhold : holdNext s.sysc.hold temp = false ∨ mhz = 800) :
    exec (.governorEvaluation mhz watts temp) s = .next (deviceStepped (modSysc s fun y =>
      { y with
        amhz := mhz, watts := watts, temp := temp, hold := holdNext s.sysc.hold temp, throt := y.throt || holdNext s.sysc.hold temp })) := by
  have hgo : ¬ (s.sysc.stage = 15 ∨ mhz < 800 ∨ 2100 < mhz ∨ mhz % 25 ≠ 0 ∨ 115 ≤ temp ∨ 2 ^ 16 ≤ watts
      ∨ (holdNext s.sysc.hold temp ∧ mhz ≠ 800)) := by
    grind
  exact if_neg hgo

theorem exec_powerWrite {x : RegWrite} (hvf : x.vf = false) (hb : (mergeWrite x 0).getLsbD 40 = true)
    (hm : fitsMask (mergeWrite x 0) 0x1FFFFFFFFFF = true) :
    exec (.powerWrite x) s = .next (deviceStepped (modSysc s fun y => { y with throt := false })) := by
  change execPowerWrite x s = _
  simp only [execPowerWrite, hvf, hb, hm, afterStep_eq, Bool.not_false, Bool.and_self, if_true]

end

/-- Settles O42, stage by stage. -/
theorem bringUpStepsComplete : Obligations.BringUpStepsComplete := by
  unfold Obligations.BringUpStepsComplete
  exact fun s => ⟨rfl, rfl, exec_rom s, exec_floorplan s, exec_firmware s, exec_memory_training s, exec_memory_trained s,
    fun x => exec_featackWrite s, fun x => exec_attctlGo s, exec_quoteComplete s,
    fun _ _ _ => exec_governorEvaluation s, rfl, fun _ => exec_powerWrite s⟩

end Sys2Proof.BringUp
end

section
/-! SUPPORT. The registers of queues and bins (19 R366, R367, R375): what each write gives. -/

namespace Sys2Proof.DeviceRegisters

open Sys2Proof Sys2Proof.Machine Sys2Proof.Laws Sys2Proof.DeviceSteps

/-- A doorbell write within the ring of an enabled host queue advances TAIL; any other sets BADDB (R366). -/
theorem exec_hostDoorbell (s : State) (h p q : Nat) (page : Bool) (x : RegWrite) (hx : reaches s h x = true) (hf : x.half = .full)
    (hpage : page = false ∨ feature s 1 = true) :
    let o := queueOff p q
    let r := (hreg s h o).toNat
    exec (.hostDoorbell h p q page x) s = .next (deviceStepped
      (if ringSrc r = false ∧ ringEn r = true ∧ (hreg s h (o + 0x08)).toNat < x.val.toNat
          ∧ x.val.toNat - (hreg s h (o + 0x10)).toNat ≤ ringSize r then
        setHreg s h (o + 0x08) x.val else badDoorbell s h p q)) := by
  intro o r
  change execHostDoorbell h p q page x s = _
  have hgo : (!reaches s h x || !isFull x || (page && !feature s 1)) = false := by
    rcases hpage with hp | hp <;> simp [hx, hp, isFull_of_half hf]
  rw [execHostDoorbell, hgo]
  simp [afterStep_eq, o, r, and_assoc]

theorem exec_qringWrite (s : State) (h p q : Nat) (x : RegWrite) :
    let o := queueOff p q
    let v := mergeWrite x (hreg s h o)
    exec (.qringWrite h p q x) s = .next (deviceStepped
      (if reaches s h x = true ∧ hreg s h (o + 0x08) = hreg s h (o + 0x10) ∧ 1 ≤ v.toNat % 32 ∧ v.toNat % 32 ≤ 12 then
        setHreg (setHreg (setHreg s h o v) h (o + 0x08) 0) h (o + 0x10) 0 else s)) := by
  change execQringWrite h p q x s = _
  simp [execQringWrite, afterStep_eq, and_assoc]

theorem exec_bincfgWrite (s : State) (h b : Nat) (x : RegWrite) :
    let v := mergeWrite x (hreg s h (0x200 + 8 * b))
    exec (.bincfgWrite h b x) s = .next (deviceStepped
      (if reaches s h x = true ∧ fitsMask v 0xFFFFFFFFFFFFFF81 = true ∧ binBusy s h b = false then configureBin s h b v else s)) := by
  change execBincfgWrite h b x s = _
  simp [execBincfgWrite, afterStep_eq, and_assoc]

theorem exec_qstatWrite (s : State) (h p q : Nat) (x : RegWrite) (hx : reaches s h x = true) :
    let o := queueOff p q
    exec (.qstatWrite h p q x) s
      = .next (deviceStepped (setHreg s h (o + 0x18) (hreg s h (o + 0x18) &&& ~~~(mergeWrite x 0 &&& 3)))) := by
  change execQstatWrite h p q x s = _
  simp only [execQstatWrite, hx, if_true, afterStep_eq, clearOnes]

/-- Settles O37: what each of the four writes does, as one `if` over the rule that accepts it. -/
theorem queueRegisterWritesComplete : Obligations.QueueRegisterWritesComplete := by
  unfold Obligations.QueueRegisterWritesComplete
  intro s h p q x o r tail head
  refine ⟨fun page hx hf hpage => ?_, ?_, exec_qstatWrite s h p q x, fun b => ?_⟩
  · rw [exec_hostDoorbell s h p q page x hx hf hpage]
    constructor
    · intro hsrc hen hlo hhi
      rw [if_pos ⟨hsrc, hen, hlo, hhi⟩]
    · intro hbad
      rw [if_neg (by grind)]
  · rw [exec_qringWrite]
    exact ⟨fun ha => by rw [if_pos ha], fun ha => by rw [if_neg ha]⟩
  · rw [exec_bincfgWrite]
    exact ⟨fun ha => by rw [if_pos ha], fun ha => by rw [if_neg ha]⟩

end Sys2Proof.DeviceRegisters
end

section
/-! SUPPORT. The registers of a hank's control block (18 R364, 20 R391 to R394, 22 R407): what each accepted write gives. -/

namespace Sys2Proof.HankRegisters

open Sys2Proof Sys2Proof.Machine Sys2Proof.Laws Sys2Proof.DeviceSteps

/-- The offsets of the plain registers (R407). -/
def plainOffsets : List Nat := [0x048, 0x120, 0x128, 0x188, 0x130, 0x190, 0x148, 0x180, 0x1A0]

theorem mem_plainOffsets {off : Nat} {m : Nat × Bool} (hp : plainReg off = some m) : off ∈ plainOffsets := by
  unfold plainReg at hp
  split at hp <;> simp_all [plainOffsets]

theorem plainOffsets_aligned : ∀ off ∈ plainOffsets, off < 0x100000 ∧ off % 8 = 0 := by decide

/-- A plain register has no step of its own. -/
theorem ownStep_of_plain {off : Nat} (hoff : off ∈ plainOffsets) (v : DWord) : ownStep off v = false := by
  simp only [plainOffsets, List.mem_cons, List.not_mem_nil, or_false] at hoff
  rcases hoff with rfl | rfl | rfl | rfl | rfl | rfl | rfl | rfl | rfl <;> rfl

/-- A plain register keeps a value within its mask, its quiescence and its regions. -/
theorem hankWrite_of_plain {s : State} {h off m : Nat} {q : Bool} {x : RegWrite} (hx : reaches s h x = true)
    (hp : plainReg off = some (m, q)) :
    hankWrite s h off x =
      let v := mergeWrite x (hreg s h off)
      if fitsMask v m && (!q || quiescent s h) && (!assignsRegion off || regionWriteOk s h off v.toNat) then
        freshPool (setHreg s h off v) h off
      else s := by
  have hoff := mem_plainOffsets hp
  simp only [plainOffsets, List.mem_cons, List.not_mem_nil, or_false] at hoff
  rcases hoff with rfl | rfl | rfl | rfl | rfl | rfl | rfl | rfl | rfl <;> cases hp <;>
    simp only [hankWrite, hx, Bool.not_true, Bool.false_eq_true, if_false] <;> rfl

/-- A write of a hank's control block that has no step of its own (R407). -/
theorem regWrite_of_hank (s : State) {h off : Nat} (x : RegWrite) (hh : h < 8) (hoff : off < 0x100000) (h8 : off % 8 = 0)
    (hown : ownStep off (mergeWrite x (hreg s h off)) = false) :
    regWrite s (0x800000 + 0x100000 * h + off) x = .next (deviceStepped (hankWrite s h off x)) := by
  have hdiv : (0x800000 + 0x100000 * h + off - 0x800000) / 0x100000 = h := by omega
  have hmod : (0x800000 + 0x100000 * h + off) % 0x100000 = off := by omega
  unfold regWrite
  rw [if_neg (by omega), if_neg (by omega), if_neg (by omega), if_neg (by omega), if_neg (by omega), if_pos (by omega)]
  simp only [hdiv, hmod, hown, afterStep_eq, Bool.false_eq_true, if_false]

section
variable {s : State} {h : Nat} {x : RegWrite} (hx : reaches s h x = true)
include hx

theorem exec_hankctlWrite (hvf : x.vf = false) (hbusy : (hankOf s h).wayBusy = false) (hm : fitsMask (mergeWrite x (hreg s h 0)) 0x7F = true) :
    exec (.hankctlWrite h x) s = .next (deviceStepped (setHreg s h 0 (hankctlNext s h (mergeWrite x (hreg s h 0)) (hreg s h 0)))) := by
  change execHankctlWrite h x s = _
  simp [execHankctlWrite, hx, hvf, hbusy, hm, afterStep_eq]

theorem exec_waysWrite (hform : formOk s h x = true) (hways : waysOk s h (mergeWrite x (hreg s h 0x010)) = true) :
    exec (.waysWrite h x) s = .next (deviceStepped (modHank (setHreg s h 0x010 (mergeWrite x (hreg s h 0x010))) h fun k =>
      { k with wayBusy := hreg s h 0x010 &&& ~~~(mergeWrite x (hreg s h 0x010)) != 0 })) := by
  change execWaysWrite h x s = _
  simp [execWaysWrite, hx, hform, hways, afterStep_eq]

theorem exec_memcfgWrite (hq : quiescent s h = true) (hm : fitsMask (mergeWrite x (hreg s h 0x100)) 0xFFFF00000FFF = true)
    (hways : bitsN (mergeWrite x (hreg s h 0x100)).toNat 47 32 &&& cacheWays s = 0) :
    let old := vwaysOf s h
    let new := bitsN (mergeWrite x (hreg s h 0x100)).toNat 47 32
    exec (.memcfgWrite h x) s = .next (deviceStepped
      (setHreg (if new = old then s else moveVaultPoison (loseWays s h old new) h old new) h 0x100 (mergeWrite x (hreg s h 0x100)))) := by
  change execMemcfgWrite h x s = _
  simp [execMemcfgWrite, hx, hq, hm, hways, afterStep_eq]

/-- A new shadow pool starts with no reconvergence entry in use (R363). -/
theorem exec_shadowPoolWrite (chunks : Bool) {off m : Nat} (hoff : off = if chunks then 0x110 else 0x108)
    (hmask : m = if chunks then 0xFFFFFF else 0xFFFFFFFFF0000) (hq : quiescent s h = true) (hm : fitsMask (mergeWrite x (hreg s h off)) m = true)
    (hr : regionWriteOk s h off (mergeWrite x (hreg s h off)).toNat = true) :
    exec (.shadowPoolWrite h chunks x) s = .next (deviceStepped (modHank (setHreg s h off (mergeWrite x (hreg s h off))) h fun k =>
      { k with recon := k.recon.map fun r => (r.1, 0) })) := by
  subst hoff hmask
  change execShadowPoolWrite h chunks x s = _
  simp only [execShadowPoolWrite, hx, hq, hm, hr, Bool.and_self, if_true, afterStep_eq]

/-- POOLFREE frees the frame whose base it is given (R364). -/
theorem exec_poolfreeWrite {i : Nat} (hf : x.half = .full) (ha : x.val.toNat = (hreg s h 0x128).toNat + 2 ^ 16 * i)
    (hb : (hreg s h 0x128).toNat % 2 ^ 16 = 0) (hi : i < (hreg s h 0x130).toNat) :
    exec (.poolfreeWrite h x) s = .next (deviceStepped (modHank s h fun k => { k with taken := k.taken.filter (· != i) })) := by
  have hindex : (x.val.toNat - (hreg s h 0x128).toNat) / 2 ^ 16 = i := by omega
  have halign : (x.val.toNat % 2 ^ 16 == 0) = true := by simp; omega
  have hbase : (hreg s h 0x128).toNat ≤ x.val.toNat := by omega
  change execPoolfreeWrite h x s = _
  simp only [execPoolfreeWrite, hindex, halign, hx, isFull_of_half hf, decide_eq_true (And.intro hbase hi), Bool.and_self, if_true, afterStep_eq]

theorem exec_migheadWrite (hm : fitsMask (mergeWrite x (hreg s h 0x158)) 0xFF = true) :
    exec (.migheadWrite h x) s
      = .next (deviceStepped (writeRequests (setHreg s h 0x158 (mergeWrite x (hreg s h 0x158))) h (hankOf s h).migr.length)) := by
  change execMigheadWrite h x s = _
  simp only [execMigheadWrite, hx, hm, Bool.and_self, if_true, afterStep_eq]

theorem exec_gaugecWrite (g : Nat) : exec (.gaugecWrite h g x) s = .next (deviceStepped (modHank s h fun k =>
    { k with gauges := k.gauges.setIfInBounds g { (k.gauges[g]?.getD Gauge.off) with fails := 0 } })) := by
  change execGaugecWrite h g x s = _
  simp only [execGaugecWrite, hx, if_true, afterStep_eq]

theorem exec_registerWrite_plain {off m : Nat} {q : Bool} (hh : h < 8) (hp : plainReg off = some (m, q))
    (hm : fitsMask (mergeWrite x (hreg s h off)) m = true) (hq : q = false ∨ quiescent s h = true)
    (hr : assignsRegion off = false ∨ regionWriteOk s h off (mergeWrite x (hreg s h off)).toNat = true) :
    exec (.registerWrite (0x800000 + 0x100000 * h + off) (.write x)) s
      = .next (deviceStepped (freshPool (setHreg s h off (mergeWrite x (hreg s h off))) h off)) := by
  have hoff := mem_plainOffsets hp
  have hsmall : off < 0x100000 ∧ off % 8 = 0 := plainOffsets_aligned off hoff
  have hgo : (!q || quiescent s h) = true ∧ (!assignsRegion off || regionWriteOk s h off (mergeWrite x (hreg s h off)).toNat) = true := by
    simpa using And.intro hq hr
  change regWrite s _ x = _
  rw [regWrite_of_hank s x hh hsmall.1 hsmall.2 (ownStep_of_plain hoff _), hankWrite_of_plain hx hp]
  simp only [hm, hgo.1, hgo.2, Bool.and_self, if_true]

end

theorem exec_wayChangeComplete {s : State} {h : Nat} (hb : (hankOf s h).wayBusy = true) :
    exec (.wayChangeComplete h) s = .next (deviceStepped (modHank (flushHank s h) h fun k => { k with wayBusy := false })) := by
  change execWayChangeComplete h s = _
  simp only [execWayChangeComplete, hb, if_true, afterStep_eq]

/-- INVREQ takes a page or the whole of a hank's translations (R392). -/
theorem exec_invreqPage {s : State} (h : Nat) {va : DWord} (hs : s.sysc.stage = 6) (ha : va.toNat % 2 ^ 16 = 0) :
    exec (.invreqPage h va) s = .next (deviceStepped (modHank s h fun k => { k with inv := k.inv ++ [some va.toNat] })) := by
  change execInvreqPage h va s = _
  simp only [execInvreqPage, inRun_of_stage hs, ha, beq_self_eq_true, Bool.and_self, if_true, afterStep_eq]

theorem exec_invreqAll {s : State} (h : Nat) (hs : s.sysc.stage = 6) :
    exec (.invreqAll h) s = .next (deviceStepped (modHank s h fun k => { k with inv := k.inv ++ [none] })) := by
  change execInvreqAll h s = _
  simp only [execInvreqAll, inRun_of_stage hs, if_true, afterStep_eq]

theorem exec_migackDone {s : State} {h : Nat} {va : DWord} {p : Nat × Nat} (hs : s.sysc.stage = 6) (hp : askedPage s h va.toNat = some p) :
    exec (.migackDone h va) s
      = .next (deviceStepped (settleAll (answerPage s h p (if changedHank s h va.toNat then some 1 else none)))) := by
  change execMigackDone h va s = _
  simp only [execMigackDone, hp, inRun_of_stage hs, if_true, afterStep_eq]

theorem exec_migackRefused {s : State} {h : Nat} {va : DWord} {p : Nat × Nat} (hs : s.sysc.stage = 6) (hp : askedPage s h va.toNat = some p) :
    exec (.migackRefused h va) s
      = .next (deviceStepped (settleAll (refuseDeferred (refuseCommits (refuseTraces (answerPage s h p (some 0)) h p) h p) h p))) := by
  change execMigackRefused h va s = _
  simp only [execMigackRefused, hp, inRun_of_stage hs, if_true, afterStep_eq]

theorem exec_invalidationComplete {s : State} {h : Nat} {p : Option Nat} {ps : List (Option Nat)} (hi : (hankOf s h).inv = p :: ps) :
    exec (.invalidationComplete h) s = .next (deviceStepped (invalidate (modHank s h fun k => { k with inv := ps }) h p)) := by
  change execInvalidationComplete h s = _
  simp only [execInvalidationComplete, hi, afterStep_eq]

/-- Settles O38, register by register. -/
theorem hankRegisterWritesComplete : Obligations.HankRegisterWritesComplete := by
  unfold Obligations.HankRegisterWritesComplete
  intro s h x at_ took emptied
  refine ⟨fun hx => ⟨exec_hankctlWrite hx, exec_waysWrite hx, exec_memcfgWrite hx, exec_shadowPoolWrite hx false rfl rfl,
    exec_shadowPoolWrite hx true rfl rfl, fun i => exec_poolfreeWrite hx, exec_migheadWrite hx, exec_gaugecWrite hx,
    fun off m q => exec_registerWrite_plain hx⟩, exec_wayChangeComplete,
    fun hs va => ⟨exec_invreqPage h hs, exec_invreqAll h hs, fun p hp => ?_⟩,
    fun p ps => exec_invalidationComplete⟩
  exact ⟨exec_migackDone hs hp, exec_migackRefused hs hp⟩

end Sys2Proof.HankRegisters
end

section
/-! SUPPORT. The host's accesses (22 R411 to R415): what each gives where it is served, and where it is not. -/

namespace Sys2Proof.HostAccesses

open Sys2Proof Sys2Proof.Machine Sys2Proof.Laws Sys2Proof.DeviceSteps

/-- In RUN bytes of GDDR 7 are served to the host, and to a peer where PEER is acknowledged (R411, R438). -/
theorem served_of_run {s : State} {pa n : Nat} {peer : Bool} (hs : s.sysc.stage = 6) (hp : peer = false ∨ feature s 3 = true)
    (hpa : pa + n ≤ Config.physBytes) : served s pa n peer = true := by
  rcases hp with hp | hp <;> simp [served, inRun_of_stage hs, hp, hpa]

theorem served_of_not_run {s : State} (pa n : Nat) (peer : Bool) (hs : s.sysc.stage ≠ 6) : served s pa n peer = false := by
  simp [served, inRun, hs]

theorem served_of_no_peer {s : State} (pa n : Nat) (hp : feature s 3 = false) : served s pa n true = false := by
  simp [served, hp]

section
variable {s : State} {pa : Nat} {peer : Bool}

theorem exec_hostCoherentRead {n : Nat} (hv : served s pa n peer = true) :
    exec (.hostCoherentRead pa n peer) s = .next (deviceStepped (coherentRead s pa n)) := by
  change execHostCoherentRead pa n peer s = _
  simp only [execHostCoherentRead, hv, if_true, afterStep_eq]

theorem exec_hostDirectRead {n : Nat} (hv : served s pa n peer = true) :
    exec (.hostDirectRead pa n peer) s = .next (deviceStepped (answer (evictSome s pa n)
      (.data (gddrRead (evictSome s pa n) pa n) (gddrPoison (evictSome s pa n) pa n)))) := by
  change execHostDirectRead pa n peer s = _
  simp only [execHostDirectRead, hv, if_true, afterStep_eq]

theorem exec_hostCoherentWrite {bs : Bytes} (hv : served s pa bs.length peer = true) :
    exec (.hostCoherentWrite pa bs peer) s = .next (deviceStepped (rootWrite (atHome s pa bs.length) none false pa bs)) := by
  change execHostCoherentWrite pa bs peer s = _
  simp only [execHostCoherentWrite, coherentWrite, hv, if_true, afterStep_eq]

theorem exec_hostDirectWrite {bs : Bytes} (hint : Bool) (hv : served s pa bs.length peer = true) :
    exec (.hostDirectWrite pa bs peer hint) s
      = .next (deviceStepped ((linesOf pa bs.length).foldl (gddrWriteLine pa bs) (evictSome s pa bs.length))) := by
  change execHostDirectWrite pa bs peer hint s = _
  simp only [execHostDirectWrite, hv, if_true, afterStep_eq]

theorem exec_hostCoherentRead_unserved {n : Nat} (hv : served s pa n peer = false) :
    exec (.hostCoherentRead pa n peer) s = .next (deviceStepped (answer s .ur)) := by
  change execHostCoherentRead pa n peer s = _
  simp only [execHostCoherentRead, hv, Bool.false_eq_true, if_false, afterStep_eq]

theorem exec_hostCoherentWrite_unserved {bs : Bytes} (hv : served s pa bs.length peer = false) :
    exec (.hostCoherentWrite pa bs peer) s = .next (deviceStepped (answer s .ur)) := by
  change execHostCoherentWrite pa bs peer s = _
  simp only [execHostCoherentWrite, hv, Bool.false_eq_true, if_false, afterStep_eq]

end

/-! ### AtomicOps -/

/-- The state in which an AtomicOp has answered the old bytes and has dropped the other copies of their line. -/
def atomicTold (s : State) (pa n : Nat) : State :=
  let u := atHome s pa n
  dropCopies (answer u (.data (natLe n (leNat (u.mem.readBytes pa n))) (rootPoison u pa n).isSome)) (lineOf pa)

section
variable {s : State} {pa n : Nat} {ok : Bool} {via : AtomicVia} (f : Nat → Option Nat)

/-- A served AtomicOp answers the old value and writes the value that it makes of it (R412). -/
theorem atomicOp_served (hok : ok = true) (hvia : via ≠ .direct) (hf : feature s 2 = true) (hv : served s pa n (via == .peer) = true)
    (ha : pa % n = 0) :
    atomicOp s pa n ok via f = .next (deviceStepped (match f (leNat ((atHome s pa n).mem.readBytes pa n)) with
      | some v => rootWrite (atomicTold s pa n) none false pa (natLe n v)
      | none => atomicTold s pa n)) := by
  have hgo : (via == .direct || !ok || !feature s 2 || !served s pa n (via == .peer) || pa % n != 0) = false := by
    simp [hok, hvia, hf, hv, ha]
  rw [atomicOp, if_neg (by rw [hgo]; exact Bool.false_ne_true)]
  rfl

/-- An AtomicOp through the direct aperture, or of a peer without PEER, is an Unsupported Request (R412, R415). -/
theorem atomicOp_refused (hvia : via = .direct ∨ via = .peer ∧ feature s 3 = false) :
    atomicOp s pa n ok via f = .next (deviceStepped (answer s .ur)) := by
  have hgo : (via == .direct || !ok || !feature s 2 || !served s pa n (via == .peer) || pa % n != 0) = true := by
    rcases hvia with rfl | ⟨rfl, hp⟩
    · rfl
    · simp [served_of_no_peer pa n hp]
  rw [atomicOp, if_pos hgo]
  rfl

end

section
variable {s : State} {pa n : Nat} {via : AtomicVia} (hs : s.sysc.stage = 6) (hf : feature s 2 = true) (hpa : pa + n ≤ Config.physBytes)
  (ha : pa % n = 0) (hvia : via = .coherent ∨ via = .peer ∧ feature s 3 = true)
include hs hpa hvia

theorem via_served : via ≠ .direct ∧ served s pa n (via == .peer) = true := by
  rcases hvia with rfl | ⟨rfl, hp⟩
  · exact ⟨by decide, served_of_run hs (.inl rfl) hpa⟩
  · exact ⟨by decide, served_of_run hs (.inr hp) hpa⟩

include hf ha

theorem exec_fetchadd (hn : n = 4 ∨ n = 8) (v : DWord) :
    exec (.fetchadd pa n v via) s = .next (deviceStepped
      (rootWrite (atomicTold s pa n) none false pa (natLe n ((leNat ((atHome s pa n).mem.readBytes pa n) + v.toNat) % 2 ^ (8 * n))))) := by
  obtain ⟨hd, hv⟩ := via_served hs hpa hvia
  change execFetchadd pa n v via s = _
  rw [execFetchadd, atomicOp_served _ (by simpa using hn) hd hf hv ha]

theorem exec_swap (hn : n = 4 ∨ n = 8) (v : DWord) :
    exec (.swap pa n v via) s = .next (deviceStepped (rootWrite (atomicTold s pa n) none false pa (natLe n (v.toNat % 2 ^ (8 * n))))) := by
  obtain ⟨hd, hv⟩ := via_served hs hpa hvia
  change execSwap pa n v via s = _
  rw [execSwap, atomicOp_served _ (by simpa using hn) hd hf hv ha]

/-- CAS writes only where the old value is the one compared with (R412). -/
theorem exec_cas (hn : n = 4 ∨ n = 8 ∨ n = 16) (cmp new : BitVec 128) :
    exec (.cas pa n cmp new via) s = .next (deviceStepped
      (if leNat ((atHome s pa n).mem.readBytes pa n) = cmp.toNat % 2 ^ (8 * n) then
        rootWrite (atomicTold s pa n) none false pa (natLe n (new.toNat % 2 ^ (8 * n)))
      else atomicTold s pa n)) := by
  obtain ⟨hd, hv⟩ := via_served hs hpa hvia
  change execCas pa n cmp new via s = _
  rw [execCas, atomicOp_served _ (by simpa [or_assoc] using hn) hd hf hv ha]
  by_cases hold : leNat ((atHome s pa n).mem.readBytes pa n) = cmp.toNat % 2 ^ (8 * n)
  · rw [if_pos hold, if_pos hold]
  · rw [if_neg hold, if_neg hold]

end

/-! ### The window of a virtual function -/

section
variable {s : State} {h off : Nat} {l : Leaf} (hs : s.sysc.stage = 6) (hon : vfOn s h = true) (hhank : pteHank l.pte = h) (hown : pteOwn l.pte = true)
include hs hon hhank hown

theorem exec_vfWindowAccess_read {n : Nat} (hw : walk s h ((hreg s h 0x030).toNat + off) = .leaf l) (hend : off + n ≤ 2 ^ 37)
    (hpage : off % 2 ^ 16 + n ≤ 2 ^ 16) (hpa : l.pa + n ≤ Config.physBytes) :
    exec (.vfWindowAccess h off n none) s = .next (deviceStepped (windowRead (markUsed s h l false) h l n)) := by
  change execVfWindowAccess h off n none s = _
  rw [walk] at hw
  simp only [Nat.reducePow] at hend hpage
  simp [execVfWindowAccess, inRun_of_stage hs, hon, hend.not_gt, hpage.not_gt, hw, hhank, hown, hpa.not_gt, afterStep_eq]

theorem exec_vfWindowAccess_write {n : Nat} {bs : Bytes} (hw : walkFor s h ((hreg s h 0x030).toNat + off) true = .leaf l)
    (hend : off + bs.length ≤ 2 ^ 37) (hpage : off % 2 ^ 16 + bs.length ≤ 2 ^ 16) (hpa : l.pa + bs.length ≤ Config.physBytes)
    (hwp : wpHolds s h l = false) :
    exec (.vfWindowAccess h off n (some bs)) s = .next (deviceStepped (coherentWrite (markUsed s h l true) l.pa bs)) := by
  change execVfWindowAccess h off n (some bs) s = _
  simp only [Nat.reducePow] at hend hpage
  simp [execVfWindowAccess, inRun_of_stage hs, hon, hend.not_gt, hpage.not_gt, hw, hhank, hown, hpa.not_gt, hwp, afterStep_eq]

end

/-- Settles O40, access by access. -/
theorem hostAccessesComplete : Obligations.HostAccessesComplete := by
  unfold Obligations.HostAccessesComplete
  refine ⟨fun s pa n peer hint bs => ⟨fun hs hp => ⟨fun hpa => ?_, fun hpa => ?_⟩, fun hs => ?_⟩,
    fun s pa n via hs hf hpa ha hvia => ⟨fun hn v => ?_, exec_cas hs hf hpa ha hvia⟩, fun s pa n v cmp new via hvia => ?_,
    fun s h off l hs hon hhank hown => ⟨fun n => exec_vfWindowAccess_read hs hon hhank hown,
      fun n bs => exec_vfWindowAccess_write hs hon hhank hown⟩⟩
  · have hv := served_of_run hs hp hpa
    exact ⟨exec_hostCoherentRead hv, exec_hostDirectRead hv⟩
  · have hv := served_of_run hs hp hpa
    exact ⟨exec_hostCoherentWrite hv, exec_hostDirectWrite hint hv⟩
  · exact ⟨exec_hostCoherentRead_unserved (served_of_not_run _ _ _ hs), exec_hostCoherentWrite_unserved (served_of_not_run _ _ _ hs)⟩
  · exact ⟨exec_fetchadd hs hf hpa ha hvia hn v, exec_swap hs hf hpa ha hvia hn v⟩
  · refine ⟨?_, ?_, ?_⟩
    · change execFetchadd pa n v via s = _
      rw [execFetchadd, atomicOp_refused _ hvia]
    · change execSwap pa n v via s = _
      rw [execSwap, atomicOp_refused _ hvia]
    · change execCas pa n cmp new via s = _
      rw [execCas, atomicOp_refused _ hvia]

end Sys2Proof.HostAccesses
end

section
/-! SUPPORT. Errors, poison, injectors and the registers of the reliability block (23 R420 to R430). -/

namespace Sys2Proof.Reliability

open Sys2Proof Sys2Proof.Machine Sys2Proof.Laws Sys2Proof.DeviceSteps

/-! ### Poison and errors in shared state -/

section
variable {s : State} {src : Nat} (hsrc : src ≤ 6)
include hsrc

/-- A lost control store of a sequencer leaves no record (log 29). -/
theorem exec_poison_store {sq : Nat} (ht : granuleThere s (.store sq) = true) :
    exec (.poison (.store sq) src) s = .next (deviceStepped (poisonGranule s (.store sq) src)) := by
  change execPoison (.store sq) src s = _
  simp [execPoison, ht, hsrc.not_gt, afterStep_eq]

theorem exec_poison {loc : Granule} (ht : granuleThere s loc = true) (hloc : ∀ sq, loc ≠ .store sq) :
    exec (.poison loc src) s = .next (deviceStepped
      (errRecord (poisonGranule s loc src) 2 (granuleCore s loc) 0 1 (BitVec.ofNat 64 (granuleLine loc)) (BitVec.ofNat 64 src))) := by
  change execPoison loc src s = _
  have hgo : (!granuleThere s loc || decide (6 < src)) = false := by simp [ht, hsrc]
  rw [execPoison, if_neg (by simp [hgo])]
  cases loc with
  | store sq => exact absurd rfl (hloc sq)
  | _ => rfl

end

section
variable (s : State) {row col : Nat} (hrow : row < 8) (hcol : col < 14)
include hrow hcol

theorem exec_shared_bay {bay : Nat} (hbay : bay < 12) :
    exec (.shared (.bay row col bay)) s = .next (deviceStepped (settleAll (sharedRecord 1 (coreField (14 * row + col)) 0
      (strikeCore (zeroHolder s (14 * row + col) bay) (14 * row + col) 0)))) :=
  if_neg (by simp [Config.rows, Config.cols, Config.bays]; omega)

theorem exec_shared_l1 {set : Nat} (hset : set < 128) :
    let core := 14 * row + col
    let dirty := l1Dirty s core set
    let lost := (l1SetOf s core set).foldl (fun s e => dropL1 s (some e.cluster) e.hank e.ply e.line) (dirty.foldl (poisonCached 2) s)
    exec (.shared (.l1 row col set)) s = .next (deviceStepped (settleAll
      (sharedRecord (if dirty = [] then 1 else 2) (coreField core) 0 (strikeCore lost core 2)))) := by
  change execShared (.l1 row col set) s = _
  simp only [execShared, List.isEmpty_iff]
  exact if_neg (by simp [Config.rows, Config.cols]; omega)

theorem exec_shared_l2 {set : Nat} (hset : set < 512) (hon : clusterEnabled s (clusterOf (14 * row + col)) = true) :
    let lines := l2SetOf s (14 * row + col) set
    exec (.shared (.l2 row col set)) s = .next (deviceStepped (settleAll
      (sharedRecord (if lines = [] then 1 else 2) (coreField (14 * row + col)) 0
        (lines.foldl (fun s e => abortTrackers (strikeL2 s e) e.line) s, 0, 0)))) := by
  change execShared (.l2 row col set) s = _
  simp only [execShared, List.isEmpty_iff]
  exact if_neg (by simp [Config.rows, Config.cols, hon]; omega)

end

theorem exec_shared_versionDir (s : State) {h : Nat} (hh : h < 8) : exec (.shared (.versionDir h)) s
    = .next (deviceStepped (settleAll (sharedRecord 3 0xFF h ((fellHank s h).1, 0, (fellHank s h).2)))) :=
  if_neg hh.not_ge

/-! ### Links and injectors -/

theorem exec_linkfail {s : State} {link : BitVec 20} {what : Transfer} (hbit : bitN link.toNat 15 = false) (hbits : bitsN link.toNat 3 2 = 0)
    (hkind : selKind link.toNat ≠ 3) (hlink : linkThere link.toNat = true) (hg : granuleThere s (transferGranule what) = true)
    (hc : linkCarries s link.toNat what = true) :
    exec (.linkfail link what) s = .next (deviceStepped (errRecord
      (setPoison s (transferGranule what) (if selKind link.toNat = 2 then 4 else 6)) 2 (linkCore link.toNat) 0 4
      (BitVec.ofNat 64 (granuleLine (transferGranule what))) (BitVec.ofNat 64 link.toNat))) :=
  if_neg (by simp [hbit, hbits, hkind, hlink, hg, hc])

/-- An injector passes the flits that it meets on the line (R429). -/
theorem exec_inject {s : State} {ix : Nat} {hit : InjectHit} (hin : ix ∈ injectors s ix hit) (hpa : 128 * hitLine hit < Config.physBytes) :
    exec (.inject ix hit) s = .next (deviceStepped (passFlit ix hit false 4 s)) :=
  if_neg (by simp [hin, hpa])

theorem acceptFlit_none (s : State) (hit : InjectHit) : acceptFlit s hit [] = s := by
  simp [acceptFlit]

/-- One injector that fires acts on the flit as its selector says: it corrupts it or delays it. -/
theorem acceptFlit_one (s : State) (hit : InjectHit) (ix v : Nat) :
    acceptFlit s hit [(ix, v)] =
      if selAction v = 1 then corruptFlit s (injReg s ix 2) hit
      else if selAction v = 3 then { s with err := { s.err with delayed := s.err.delayed ++ [(ix, hitFlight hit)] } } else s := by
  by_cases h1 : selAction v = 1
  · simp [acceptFlit, h1]
  · by_cases h3 : selAction v = 3 <;> simp [acceptFlit, h1, h3]

/-- A flit that no fired injector makes a link retry is accepted at once. -/
theorem passFlit_of_no_retry {s : State} {i : Nat} {hit : InjectHit} (n : Nat)
    (hr : (((injectors s i hit).foldl (countFlit hit) (s, [])).2.find? fun p => makesRetry p.2) = none) :
    passFlit i hit false n s = acceptFlit ((injectors s i hit).foldl (countFlit hit) (s, [])).1 hit
      ((injectors s i hit).foldl (countFlit hit) (s, [])).2 := by
  cases n <;> simp [passFlit, hr]

section
variable {s : State} {ix : Nat} {hit : InjectHit} (hin : injectors s ix hit = [ix])
include hin

theorem passFlit_of_counts (n : Nat) (hn : injCount s ix + 1 < (injReg s ix 3).toNat % 2 ^ 32) :
    passFlit ix hit false n s = setCount s ix (injCount s ix + 1) := by
  have hcount : (injectors s ix hit).foldl (countFlit hit) (s, []) = (setCount s ix (injCount s ix + 1), []) := by
    rw [hin]
    exact if_pos hn
  rw [passFlit_of_no_retry n (by simp [hcount]), hcount, acceptFlit_none]

/-- The state after an injector fires: its count of firings is one more, it is disarmed unless it repeats, and a record is left. -/
def firedState (s : State) (ix : Nat) (hit : InjectHit) : State :=
  let v := injReg s ix 0
  let n := (injReg s ix 3).toNat
  let t := setInj s ix 3 (BitVec.ofNat 64 ((n / 2 ^ 32 + 1) % 2 ^ 32 * 2 ^ 32 + n % 2 ^ 32))
  errRecord (if selRepeat v.toNat then setCount t ix 0 else setInj t ix 0 (v &&& ~~~0x300000)) 0 (linkCore v.toNat) 0 11
    (BitVec.ofNat 64 (128 * hitLine hit)) (BitVec.ofNat 64 ix)

theorem passFlit_of_fires (n : Nat) (hn : (injReg s ix 3).toNat % 2 ^ 32 ≤ injCount s ix + 1) (hr : makesRetry (injReg s ix 0).toNat = false) :
    passFlit ix hit false n s = acceptFlit (firedState s ix hit) hit [(ix, (injReg s ix 0).toNat)] := by
  have hcount : (injectors s ix hit).foldl (countFlit hit) (s, []) = (firedState s ix hit, [(ix, (injReg s ix 0).toNat)]) := by
    rw [hin]
    exact if_neg hn.not_gt
  rw [passFlit_of_no_retry n (by simp [hcount, hr]), hcount]

end

/-! ### The block's registers -/

section
variable {s : State} {x : RegWrite} (hs : s.sysc.stage = 6) (hvf : x.vf = false)
include hs hvf

theorem exec_injselWrite {ix : Nat} (hix : ix < 32) (hm : fitsMask (mergeWrite x (injReg s ix 0)) 0xFFFF00FF7FF3 = true)
    (hlink : linkThere (mergeWrite x (injReg s ix 0)).toNat = true)
    (hact : selAction (mergeWrite x (injReg s ix 0)).toNat = 0 ∨ (injReg s ix 3).toNat % 2 ^ 32 ≠ 0) :
    let v := mergeWrite x (injReg s ix 0)
    exec (.injselWrite ix x) s = .next (deviceStepped (setInj (if selAction v.toNat = 0 then s else setCount s ix 0) ix 0 v)) := by
  have hgo : (selAction (mergeWrite x (injReg s ix 0)).toNat == 0 || (injReg s ix 3).toNat % 2 ^ 32 != 0) = true := by simpa using hact
  change execInjselWrite ix x s = _
  simp only [execInjselWrite, inRun_of_stage hs, hvf, decide_eq_true hix, hm, hlink, hgo, Bool.not_false, Bool.and_self, if_true, afterStep_eq]

theorem exec_errbaseWrite (hm : fitsMask (mergeWrite x (s.rel.read 0)) 0xFFFFFFFFF8000 = true) :
    exec (.errbaseWrite x) s = .next (deviceStepped
      { s with rel := (s.rel.set 0 (mergeWrite x (s.rel.read 0))).set 0x010 0, err := { s.err with tail := 0 } }) := by
  change execErrbaseWrite x s = _
  simp only [execErrbaseWrite, setRel, inRun_of_stage hs, hvf, hm, Bool.not_false, Bool.and_self, if_true, afterStep_eq]

theorem exec_cecountWrite : exec (.cecountWrite x) s = .next (deviceStepped { s with rel := s.rel.set 0x020 0 }) := by
  change execCecountWrite x s = _
  simp only [execCecountWrite, setRel, inRun_of_stage hs, hvf, Bool.not_false, Bool.and_self, if_true, afterStep_eq]

end

/-- Settles O41, event by event. -/
theorem reliabilityStepsComplete : Obligations.ReliabilityStepsComplete := by
  unfold Obligations.ReliabilityStepsComplete
  intro s
  refine ⟨rfl, fun sq src ht hsrc => exec_poison_store hsrc ht, fun loc src ht hsrc => exec_poison hsrc ht,
    fun row col bay hrow hcol => exec_shared_bay s hrow hcol,
    fun row col set hrow hcol => ⟨exec_shared_l1 s hrow hcol, exec_shared_l2 s hrow hcol⟩, fun h => exec_shared_versionDir s,
    fun link what => exec_linkfail, fun ix hit hin hpa => ⟨fun hn => ?_, fun hn hr => ?_⟩, fun ix hit => exec_inject,
    fun x hs hvf => ⟨fun ix => exec_injselWrite hs hvf, exec_errbaseWrite hs hvf, exec_cecountWrite hs hvf⟩⟩
  · rw [exec_inject (by simp [hin]) hpa, passFlit_of_counts hin 4 hn]
  · rw [exec_inject (by simp [hin]) hpa, passFlit_of_fires hin 4 hn hr, acceptFlit_one]
    rfl

end Sys2Proof.Reliability
end

section
/-! SUPPORT. Traversal contexts, display heads and media sequencers (21 R401 to R406, 22 R416 to R418). -/

namespace Sys2Proof.ContextsDisplayMedia

open Sys2Proof Sys2Proof.Machine Sys2Proof.Laws Sys2Proof.DeviceSteps

/-! ### Traversal contexts (21 R401 to R403) -/

section
variable {s : State} {h c : Nat}

theorem exec_trctlLoad {x : RegWrite} (hok : trctlOk s h c x = true) (hx : x.val.getLsbD 0 = true) :
    exec (.trctlLoad h c x) s = .next (deviceStepped (settleAll (resetContext (modContext s h c fun k =>
      { k with busy := true, loading := true, image := x.val &&& ~~~3, badImg := false, fault := false, ndrop := 0 }) h c))) := by
  change execTrctlLoad h c x s = _
  simp only [execTrctlLoad, hx, hok, Bool.not_true, Bool.false_eq_true, if_false, afterStep_eq, imageField]

theorem exec_trctlReset {x : RegWrite} (hok : trctlOk s h c x = true) (hx : x.val.getLsbD 1 = true) :
    exec (.trctlReset h c x) s = .next (deviceStepped (settleAll (resetContext (modContext s h c fun k =>
      { k with busy := true, loading := false, image := x.val &&& ~~~3 }) h c))) := by
  change execTrctlReset h c x s = _
  simp only [execTrctlReset, hx, hok, Bool.not_true, Bool.false_eq_true, if_false, afterStep_eq, imageField]

theorem exec_traversalLoadComplete (hb : (contextNo s h c).busy = true) (hl : (contextNo s h c).loading = true) :
    exec (.traversalLoadComplete h c) s = .next (deviceStepped (modContext s h c fun k =>
      { k with
        busy := false, loading := false, loaded := imageValid s (contextNo s h c).image && !k.fault
        badImg := !imageValid s (contextNo s h c).image })) := by
  change execTraversalLoadComplete h c s = _
  simp only [execTraversalLoadComplete, hb, hl, Bool.not_true, Bool.or_self, Bool.false_eq_true, if_false, afterStep_eq]

theorem exec_traversalResetComplete (hb : (contextNo s h c).busy = true) (hl : (contextNo s h c).loading = false) :
    exec (.traversalResetComplete h c) s = .next (deviceStepped (modContext s h c fun k => { k with busy := false })) := by
  change execTraversalResetComplete h c s = _
  simp only [execTraversalResetComplete, hb, hl, Bool.not_true, Bool.or_self, Bool.false_eq_true, if_false, afterStep_eq]

/-- A context fault is of the hank that holds the core's cluster (R403). -/
theorem exec_traversalContextFault {row col : Nat} (hh : ((List.range 8).find? fun h => coreInHank s h (14 * row + col)) = some h) :
    exec (.traversalContextFault row col c) s = .next (deviceStepped (settleAll (hankEvent
      (errRecord (dropRays (modContext s h c fun k => { k with fault := true, loaded := false }) h c fun k => k == 14 * row + col)
        1 (coreField (14 * row + col)) h 7 0 (BitVec.ofNat 64 c)) h 2))) := by
  change execTraversalContextFault row col c s = _
  simp only [execTraversalContextFault, hh, afterStep_eq]

end

/-! ### Display heads (22 R416 to R418) -/

section
variable {s : State} {n : Nat} (hs : s.sysc.stage = 6)
include hs

theorem exec_headctlWrite {x : RegWrite} (hvf : x.vf = false) (hm : fitsMask (mergeWrite x ((headOf s n).regs.read 0)) 0x3FD = true)
    (hmode : bitsN (mergeWrite x ((headOf s n).regs.read 0)).toNat 6 5 ≠ 3)
    (hok : (mergeWrite x ((headOf s n).regs.read 0)).getLsbD 0 = false ∨
      (limitsOk (headOf s n) = true ∧ connectorTaken s n (bitsN (mergeWrite x ((headOf s n).regs.read 0)).toNat 3 2) = false
        ∧ streamFits (headOf s n) (mergeWrite x ((headOf s n).regs.read 0)) = true)) :
    let v := mergeWrite x ((headOf s n).regs.read 0)
    let t := modHead s n fun d => headNext d v
    exec (.headctlWrite n x) s = .next (deviceStepped (if v.getLsbD 0 then scanFrame t n 0 else t)) := by
  intro v t
  have hgo : (fitsMask v 0x3FD && bitsN v.toNat 6 5 != 3
      && (!v.getLsbD 0 || (limitsOk (headOf s n) && !connectorTaken s n (bitsN v.toNat 3 2) && streamFits (headOf s n) v))) = true := by
    rcases hok with hoff | ⟨hl, hc, hf⟩
    · simp only [v, hm, hoff, bne_iff_ne.mpr hmode, Bool.not_false, Bool.true_or, Bool.and_self]
    · simp only [v, hm, hl, hc, hf, bne_iff_ne.mpr hmode, Bool.not_false, Bool.and_self, Bool.or_true]
  change execHeadctlWrite n x s = _
  rw [execHeadctlWrite, hgo]
  simp only [inRun_of_stage hs, hvf, Bool.not_false, Bool.and_self, if_true, afterStep_eq, v, t]

theorem exec_vblank (hon : ((headOf s n).regs.read 0).getLsbD 0 = true) :
    exec (.vblank n) s = .next (deviceStepped (scanFrame (modHead s n Head.vblank) n 0)) := by
  change execVblank n s = _
  rw [execVblank, if_pos ⟨inRun_of_stage hs, hon⟩, afterStep_eq]

end

/-! ### Media sequencers (21 R404 to R406) -/

section
variable {s : State} {n h : Nat} {cell value : DWord} {first : Bool}

/-- A command without a DONE cell leaves no value (R406). -/
theorem putMedia_no_cell (hc : cell = 0) : putMedia s n h cell value first = .next (deviceStepped (modMedia s n fun q => { q with done := none })) :=
  if_pos hc

/-- A value goes into an empty DONE cell. -/
theorem putMedia_empty {l : Leaf} {c : Bytes} (hc : cell ≠ 0) (hl : cellOf s h cell.toNat = .ok l c) (hf : cellFull c = false) :
    putMedia s n h cell value first = .next (deviceStepped
      (cellWrite (modMedia s n fun q => { q with done := none }) h l (natLe 8 value.toNat ++ natLe 8 1))) := by
  simp only [putMedia, if_neg hc, hl, hf, Bool.false_eq_true, if_false, afterStep_eq]

/-- A value that finds its DONE cell full is kept. -/
theorem putMedia_full {l : Leaf} {c : Bytes} (hc : cell ≠ 0) (hl : cellOf s h cell.toNat = .ok l c) (hf : cellFull c = true) :
    putMedia s n h cell value true = .next (deviceStepped (modMedia s n fun q => { q with done := some (h, cell, value) })) := by
  simp only [putMedia, if_neg hc, hl, hf, if_true, afterStep_eq]

end

section
variable {s : State} {n : Nat} {m : MediaCmd} {ms : List MediaCmd} {u : State} (hd : (mediaOf s n).done = none) (hq : (mediaOf s n).queue = m :: ms)
include hd hq

/-- A command whose block is read runs, or gives status 1, and puts its value. -/
theorem exec_mediaCommand_read {b : Bytes}
    (hr : mediaRead m.hank (pagePieces m.blk.toNat 256) (modMedia s n fun q => { q with queue := ms, lost := false }) [] = (u, some b))
    (hb : badBlock b = true ∨ mediaHeld u m.hank b = none) :
    let r := if badBlock b then (u, 0, 1) else runMedia u m.hank b (mediaOf s n).lost
    exec (.mediaCommand n) s
      = putMedia r.1 n m.hank (BitVec.ofNat 64 (blkDone b)) (BitVec.ofNat 64 (r.2.1 * 2 ^ 32 + r.2.2)) true := by
  have hheld : (if badBlock b then none else mediaHeld u m.hank b) = none := by
    rcases hb with hb | hb <;> simp [hb]
  change execMediaCommand n s = _
  simp only [execMediaCommand, hd, hq, hr, hheld]

section
variable (hr : mediaRead m.hank (pagePieces m.blk.toNat 256) (modMedia s n fun q => { q with queue := ms, lost := false }) [] = (u, none))
include hr

/-- A command whose block is not read puts FAULT where its DONE word can be read (log 14), and no value otherwise. -/
theorem exec_mediaCommand_unread_some {cell : DWord} (hc : blockCell u m.hank m.blk.toNat = some cell) :
    exec (.mediaCommand n) s = putMedia u n m.hank cell 2 true := by
  change execMediaCommand n s = _
  simp only [execMediaCommand, hd, hq, hr, hc]

theorem exec_mediaCommand_unread_none (hc : blockCell u m.hank m.blk.toNat = none) :
    exec (.mediaCommand n) s = .next (deviceStepped u) := by
  change execMediaCommand n s = _
  simp only [execMediaCommand, hd, hq, hr, hc, afterStep_eq]

end

end

/-- Settles O39: contexts, heads and sequencers in turn. -/
theorem contextDisplayMediaStepsComplete : Obligations.ContextDisplayMediaStepsComplete := by
  unfold Obligations.ContextDisplayMediaStepsComplete
  refine ⟨fun s h c x hok => ⟨exec_trctlLoad hok, exec_trctlReset hok⟩,
    fun s h c hb => ⟨exec_traversalLoadComplete hb, exec_traversalResetComplete hb⟩, fun s row col c h => exec_traversalContextFault,
    fun s n x hs hvf => exec_headctlWrite hs hvf, fun s n hs => exec_vblank hs,
    fun s n => ⟨fun m ms u b hd hq hr hb => ?_, fun m ms u hd hq hr => ?_, fun h cell value l c hd hc hl hf => ?_⟩⟩
  · intro r value cell
    rw [exec_mediaCommand_read hd hq hr hb]
    refine ⟨fun hc => putMedia_no_cell hc, fun l c hc hl => ?_⟩
    cases hf : cellFull c with
    | false => exact putMedia_empty hc hl hf
    | true => exact putMedia_full hc hl hf
  · refine ⟨exec_mediaCommand_unread_none hd hq hr, fun cell l c hcell hc hl hf => ?_⟩
    rw [exec_mediaCommand_unread_some hd hq hr hcell]
    exact putMedia_empty hc hl hf
  · change execMediaDoneRetry n s = _
    rw [execMediaDoneRetry, hd]
    exact putMedia_empty hc hl hf

end Sys2Proof.ContextsDisplayMedia
end

section
/-! SUPPORT. The scheduler (13 R325, R329, 19 R368 to R383): what each of its steps gives where it occurs. -/

namespace Sys2Proof.SchedulerSteps

open Sys2Proof Sys2Proof.Machine Sys2Proof.Laws Sys2Proof.DeviceSteps Sys2Proof.WaveEvents

/-! ### Queues, placement and bins (19 R368 to R375) -/

/-- The state in which the head of queue (p, q) is taken, and its token, where it has one, leaves the cell (R368). -/
def takenHead (s : State) (h p q : Nat) (r : Vector DWord 16) : Option (Leaf × Bytes) → State
  | some (l, c) => cellWrite (takeHead s h p q r) h l (c.take 8 ++ natLe 8 0)
  | none => takeHead s h p q r

section
variable {s : State} {h p q : Nat} (hq : quiesced s h = false) (hn : nextQueue s h = some (p, q))
include hq hn

theorem exec_queueDispatch_unreadable (hr : headRec s h p q = .unreadable) : exec (.queueDispatch h) s
    = .next (deviceStepped (refuse (takeHead s h p q (Vector.replicate 16 0)) s.launches.length 1)) := by
  change execQueueDispatch h s = _
  simp only [execQueueDispatch, hq, hn, hr, Bool.false_eq_true, if_false, afterStep_eq]

/-- A record that is read is taken with its token, and is refused with its first reason (R368, R372). -/
theorem exec_queueDispatch_record {r : Vector DWord 16} {tok : Option (Leaf × Bytes)} {u : State} (hr : headRec s h p q = .record r tok)
    (hu : takenHead s h p q r tok = u) :
    let reason := if doneUnreadable u h r then 1 else refuseReason u h p r false
    exec (.queueDispatch h) s = .next (deviceStepped (if reason = 0 then u else refuse u s.launches.length reason)) := by
  intro reason
  subst hu
  have hexec : exec (.queueDispatch h) s = if doneUnreadable (takenHead s h p q r tok) h r then
        afterStep (refuse (takenHead s h p q r tok) s.launches.length 1)
      else
        let k := refuseReason (takenHead s h p q r tok) h p r false
        afterStep (if k = 0 then takenHead s h p q r tok else refuse (takenHead s h p q r tok) s.launches.length k) := by
    change execQueueDispatch h s = _
    rcases tok with _ | ⟨l, c⟩ <;> simp only [execQueueDispatch, hq, hn, hr, Bool.false_eq_true, if_false, takenHead] <;> rfl
  rw [hexec]
  by_cases hd : doneUnreadable (takenHead s h p q r tok) h r = true <;> simp [hd, reason, afterStep_eq]

end

section
variable {s : State} {h li : Nat} {l : Launch} {xs : List (Nat × Seat × Option Seat)} (hp : headPending s h = some (.next li))
  (hl : s.launches[li]? = some l) (hx : seatsFor s l (roomOf s h) = some xs)
include hp hl hx

/-- A launch whose ply has gone before its first team is refused with reason 11. -/
theorem exec_teamPlacement_refused (hfirst : l.nextTeam = 0) (hlive : isLive (hankOf s h) (recPly l.record) = false) :
    exec (.teamPlacement h) s = .next (deviceStepped (refuse s li 11)) := by
  change execTeamPlacement h s = _
  simp [execTeamPlacement, hp, hl, hx, hfirst, hlive, afterStep_eq]

theorem exec_teamPlacement (hlive : l.nextTeam ≠ 0 ∨ isLive (hankOf s h) (recPly l.record) = true) (hs : s.sysc.stage ≠ 15) :
    exec (.teamPlacement h) s = .next (deviceStepped (placeTeams s li l xs)) := by
  have hgo : ¬ (decide (l.nextTeam = 0) && !isLive (hankOf s h) (recPly l.record)) = true := by
    rcases hlive with hlive | hlive <;> simp [hlive]
  change execTeamPlacement h s = _
  simp only [execTeamPlacement, hp, hl, hx, if_neg hgo, if_neg hs, afterStep_eq]

end

section
variable {s : State} {h b : Nat} {k : Bin} (hb : binOf s h b = some k) (hon : binOn s h b = true)
include hb hon

theorem exec_binLaunch (hn : max 1 (recBatch k.template) ≤ k.recs.length) :
    exec (.binLaunch h b) s = .next (deviceStepped (launchBin s h k)) := by
  change execBinLaunch h b s = _
  simp only [execBinLaunch, hb, hon, decide_eq_true hn, Bool.and_self, if_true, afterStep_eq]

/-- An old record launches its bin, at the clock that its timer gives (R375, R378). -/
theorem exec_binTimerExpiry {t d : Nat} {ds : List (Nat × Nat)} (hr : k.recs = (t, d) :: ds) (ht : recTimer k.template ≠ 0) :
    exec (.binTimerExpiry h b) s
      = .next (deviceStepped (launchBin { s with clock := max s.clock (t + 1024 * recTimer k.template) } h k)) := by
  change execBinTimerExpiry h b s = _
  simp [execBinTimerExpiry, hb, hr, hon, ht, afterStep_eq]

end

/-! ### Completion values (R371) -/

section
variable {s : State} {li : Nat} {d : Done} {l : Leaf} {c : Bytes} (hd : (s.dones.find? fun d => d.launch == li) = some d)
  (hc : cellOf s d.hank d.cell.toNat = .ok l c) (hf : cellFull c = false)

include hc hf in
theorem putDone_empty : putDone s d = .next (deviceStepped
    (markHeld (cellWrite { s with dones := s.dones.filter fun e => e.launch != d.launch } d.hank l (natLe 8 d.value.toNat ++ natLe 8 1))
      d.hank d.queue)) := by
  simp only [putDone, hc, hf, Bool.false_eq_true, if_false, afterStep_eq]

include hd

theorem exec_doneTokenPut (hheld : d.held = false) (he : earlierDone s d = false) (hb : launchBusy s li = false) :
    exec (.doneTokenPut li) s = putDone s d := by
  change execDoneTokenPut li s = _
  simp [execDoneTokenPut, hd, hheld, he, hb]

theorem exec_doneTokenRetry (hheld : d.held = true) : exec (.doneTokenRetry li) s = putDone s d := by
  change execDoneTokenRetry li s = _
  simp [execDoneTokenRetry, hd, hheld]

end

/-! ### Pre-emption, saves and restores (13 R325 to R329, 19 R374, R383) -/

theorem exec_preemptRequest {s : State} {h : Nat} {p : PendingTeam} {vs : List Nat} {u : State} (hp : headPending s h = some p) :
    let going := (List.range s.teams.length).filter (askedTeam s)
    let ok := fun (ts : List Nat) => fits s h p (roomWithout s h (going ++ ts))
    ok [] = false → gather s ok (victims s h (pendingPrio s p)) [] = some vs → askTeams h (prune s ok vs.reverse vs) s = some u →
    exec (.preemptRequest h) s = .next (deviceStepped u) := by
  intro going ok hok hg ha
  change execPreemptRequest h s = _
  simp only [execPreemptRequest, hp]
  simp only [ok, going] at hok hg ha
  simp only [hok, hg, ha, Bool.false_eq_true, if_false, afterStep_eq]

section
variable {s : State} {w : Nat} {v : Wave} (hw : s.waves[w]? = some v) (hv : v.phase = .live)
include hw hv

theorem exec_promiseBroken (ha : v.preempt = .asked) (hp : recPromise (recordOf s v) = true)
    (hc : (v.clauseCount.any fun k => decide (4096 ≤ k)) = true) :
    exec (.promiseBroken w) s = .next (deviceStepped
      { s with waves := s.waves.map fun u => if u.team = v.team ∧ u.preempt = .asked then { u with preempt := .full } else u }) := by
  change execPromiseBroken w s = _
  rw [execPromiseBroken, onLive_of_live hw hv, if_pos ⟨ha, hp, hc⟩, afterStep_eq]

section
variable (hr : saveReady s w v = true) (hroom : ctxBase s v.hank + v.ctx + waveRoom v.nregs ≤ Config.physBytes)
include hr hroom

theorem exec_fullSave_single (hn : partnerOf s w v = none) :
    exec (.fullSave w) s = .next (deviceStepped (settleAll (saveWave s w))) := by
  change execFullSave w s = _
  simp only [execFullSave, onLive_of_live hw hv, hr, hn, Bool.not_true, Bool.false_eq_true, if_false, hroom.not_gt, afterStep_eq]

/-- A wave of a pair is saved with its partner (R325). -/
theorem exec_fullSave_pair {n : Nat} {x : Wave} (hn : partnerOf s w v = some n) (hx : s.waves[n]? = some x) (hrx : saveReady s n x = true) :
    exec (.fullSave w) s = .next (deviceStepped (settleAll (saveWave (saveWave s w) n))) := by
  change execFullSave w s = _
  simp only [execFullSave, onLive_of_live hw hv, hr, hn, hx, hrx, Bool.not_true, Bool.false_eq_true, if_false, if_true, hroom.not_gt, afterStep_eq]

end
end

theorem exec_teamRestore {s : State} {i : Nat} {t : Team} {ps : List (Nat × Seat)} (ht : s.teams[i]? = some t)
    (hp : headPending s t.hank = some (.saved i)) (hs : s.sysc.stage ≠ 15)
    (hr : restoreSeats s t.hank (teamRecord s i) s.teams.length (teamUnit s i) (roomOf s t.hank) [] = some ps)
    (hb : buffersFit (ps.foldl restoreTeam s) = true) :
    exec (.teamRestore i) s = .next (deviceStepped (settleAll (ps.foldl restoreTeam s))) := by
  have hgo : ¬ (headPending s t.hank ≠ some (.saved i) ∨ s.sysc.stage = 15) := by simp [hp, hs]
  change execTeamRestore i s = _
  simp only [execTeamRestore, ht, if_neg hgo, hr, hb, if_true, afterStep_eq]

/-- Settles O36, step by step. -/
theorem schedulerStepsComplete : Obligations.SchedulerStepsComplete := by
  unfold Obligations.SchedulerStepsComplete
  refine ⟨fun s h p q hq hn => ⟨exec_queueDispatch_unreadable hq hn, fun r tok hr => ?_⟩,
    fun s h li l hp hl xs hx => ⟨exec_teamPlacement_refused hp hl hx, exec_teamPlacement hp hl hx⟩,
    fun s h b k hb hon => ⟨exec_binLaunch hb hon, fun t d ds => exec_binTimerExpiry hb hon⟩,
    fun s li d l c hd hc hf => ⟨fun hheld he hb => ?_, fun hheld => ?_⟩,
    fun s h p vs u => exec_preemptRequest, fun s w v hw hv => ⟨exec_promiseBroken hw hv, fun hr hroom =>
      ⟨exec_fullSave_single hw hv hr hroom, fun n x => exec_fullSave_pair hw hv hr hroom⟩⟩, fun s i t ps => exec_teamRestore⟩
  · rcases tok with _ | ⟨l, c⟩
    · intro u reason
      exact exec_queueDispatch_record (u := u) hq hn hr rfl
    · intro u reason
      exact exec_queueDispatch_record (u := u) hq hn hr rfl
  · rw [exec_doneTokenPut hd hheld he hb, putDone_empty hc hf]
  · rw [exec_doneTokenRetry hd hheld, putDone_empty hc hf]

end Sys2Proof.SchedulerSteps
end

section
/-! SUPPORT. Taking the trap of a strand (13 R314 to R316). -/

namespace Sys2Proof.TrapEntry

open Sys2Proof Sys2Proof.Machine Sys2Proof.Laws Sys2Proof.FaultedLanes

/-! ### Parts of the model that the entry uses -/

theorem mem_of_argMin {α : Type} {key : α → Nat} {xs : List α} {x : α} (hx : argMin key xs = some x) : x ∈ xs := by
  induction xs generalizing x with
  | nil => cases hx
  | cons y ys ih =>
    rw [argMin] at hx
    split at hx
    · cases hx
      exact List.mem_cons_self
    · next z hz =>
      split at hx
      · cases hx
        exact List.mem_cons_self
      · cases hx
        exact List.mem_cons_of_mem _ (ih hz)

/-- The strand whose trap is next is one of the wave's strands. -/
theorem mem_of_nextFault {v : Wave} {t : Strand} (ht : v.nextFault = some t) : t ∈ v.strands := by
  unfold Wave.nextFault at ht
  dsimp only at ht
  split at ht
  · next u hu =>
    obtain ⟨n, -, hn⟩ := Option.bind_eq_some_iff.mp hu
    cases ht
    exact (List.mem_filter.mp (List.mem_of_find?_eq_some hn)).1
  · exact (List.mem_filter.mp (mem_of_argMin ht)).1

/-- A 64-bit value is the pair of its halves (R29). -/
theorem pair_lo_hi (a : DWord) : Word.pair (Word.lo a) (Word.hi a) = a := by
  refine BitVec.eq_of_getLsbD_eq fun i hi => ?_
  by_cases h : i < 32
  · simp [Word.pair, Word.lo, Word.hi, hi, h]
  · have hsub : i - 32 < 32 := by omega
    simp [Word.pair, Word.lo, Word.hi, hi, h, hsub, Nat.add_sub_cancel' (Nat.le_of_not_lt h)]

theorem modWave_modWave (s : State) (w : Nat) (f g : Wave → Wave) : modWave (modWave s w f) w g = modWave s w fun v => g (f v) := by
  simp [modWave, List.modify_modify_eq, Function.comp_def]

/-! ### The handler registers -/

section
variable {t : Strand} {opc : Nat} {fs : List LaneFault} {f g : LaneFault} {lanes : Mask} (more : Bool)
  (hg : argMin (·.lane) (fs.filter fun g => g.cause == f.cause && lanes.getLsbD g.lane) = some g)
include hg

/-- The fault whose access the registers name is one of the highest-priority cause. -/
theorem cause_of_first : g.cause = f.cause := by
  have hmem := (List.mem_filter.mp (mem_of_argMin hg)).2
  simp only [Bool.and_eq_true, beq_iff_eq] at hmem
  exact hmem.1

/-- The registers of a strand's trap, in the fields of the fault of its lowest lane (R315). -/
theorem trapRegsOf_strand : trapRegsOf t false opc fs f lanes more =
    { fcause := BitVec.ofNat 32 (more.toNat * 2 ^ 31 + f.cause.code), fmask := lanes.setWidth 32, fpc := Word.lo t.wordPc
      faddrlo := Word.lo g.addr, faddrhi := Word.hi g.addr
      finfo := finfoOf g false (match t.clause with | some c => c.idx | none => 0) opc } := by
  simp only [trapRegsOf, Bool.false_or, hg, Option.getD_some, Bool.false_eq_true, if_false] <;> rfl

theorem finfoOf_access (h1 : f.cause ≠ .trapInsn) (h2 : f.cause ≠ .breakpoint) (idx : Nat) : finfoOf g false idx opc =
    BitVec.ofNat 32 ((if g.wr then 2 ^ 30 else 0) + g.space.num * 2 ^ 27 + idx % 16 * 2 ^ 20 + g.detail % 64 * 2 ^ 10 + opc % 1024) := by
  have hcause := cause_of_first hg
  rw [finfoOf, if_neg (by rw [hcause]; exact not_or.mpr ⟨h1, h2⟩)]
  cases g.wr <;> simp

end

/-! ### The wave in the handler -/

/-- The handler strand of some lanes, at the trap base under the number of the strand that they leave (R316). -/
def handlerStrand (n : Nat) (lanes : Mask) (base : DWord) : Strand :=
  { num := n, mask := lanes, pc := base, clause := none, park := .none, handler := true }

/-- The strands of a wave with the handler strand in place of strand `n`. -/
def withHandler (v : Wave) (n : Nat) (lanes : Mask) (base : DWord) : List Strand :=
  v.strands.map fun t => if t.num = n then handlerStrand n lanes base else t

/-- The strand of the lanes that keep their faults (R317). -/
def leftStrand (t : Strand) (rest : Mask) (opc : Nat) (fs : List LaneFault) (n : Nat) : Strand :=
  { t with num := n, mask := rest, park := .fault opc (fs.filter fun g => rest.getLsbD g.lane) }

/-- The wave whose strand `t` has entered its handler in some lanes: the lanes of other causes stand behind, parked on their faults under
MORE (R314, R316). -/
def entered (v : Wave) (t : Strand) (opc : Nat) (fs : List LaneFault) (lanes : Mask) (base : DWord) : Wave :=
  let us := withHandler v t.num lanes base
  let n := (lowestFree 8 (us.map (·.num))).getD 0
  let rest := t.mask &&& ~~~lanes
  { v with
    strands := us ++ if rest = 0 then [] else [leftStrand t rest opc fs n]
    more := if rest = 0 then none else some n }

/-- The first strand of a number after the handler strand stands there. -/
theorem find_withHandler {v : Wave} {t : Strand} (ht : t ∈ v.strands) (lanes : Mask) (base : DWord) :
    (withHandler v t.num lanes base).find? (fun u => u.num == t.num) = some (handlerStrand t.num lanes base) := by
  unfold withHandler
  generalize v.strands = us at ht
  induction us with
  | nil => cases ht
  | cons u us ih =>
    by_cases hnum : u.num = t.num
    · simp [hnum, handlerStrand]
    · have htail : t ∈ us := (List.mem_cons.mp ht).resolve_left fun h => hnum (h ▸ rfl)
      simpa [hnum] using ih htail

theorem thread_entered {v : Wave} {t : Strand} (ht : t ∈ v.strands) (hn : t.num < 8) (opc : Nat) (fs : List LaneFault) (lanes : Mask)
    (base : DWord) : (entered v t opc fs lanes base).thread t.num = some (handlerStrand t.num lanes base) := by
  rw [Wave.thread, if_neg (Nat.ne_of_lt hn), entered, List.find?_append, find_withHandler ht, Option.some_or]

/-- The lanes of other causes are parked on their faults under MORE (R317). -/
theorem more_entered (v : Wave) {t : Strand} (opc : Nat) (fs : List LaneFault) {lanes : Mask} (base : DWord) (hrest : t.mask &&& ~~~lanes ≠ 0) :
    ∃ u ∈ (entered v t opc fs lanes base).strands, (entered v t opc fs lanes base).more = some u.num ∧ u.mask = t.mask &&& ~~~lanes
      ∧ u.pc = t.pc ∧ u.park = .fault opc (fs.filter fun g => (t.mask &&& ~~~lanes).getLsbD g.lane) := by
  simp only [entered, if_neg hrest]
  exact ⟨_, List.mem_append_right _ (List.mem_singleton_self _), rfl, rfl, rfl, rfl⟩

theorem addStrands_singleton (v : Wave) (t : Strand) : v.addStrands [t] = { v with strands := v.strands ++ [{ t with num := v.freeNum }] } := rfl

/-- The wave whose strand `t` has taken the trap of its fault `f`: it has entered the handler, with its registers and the lanes' state set
aside (R315, R316). -/
def handled (v : Wave) (t : Strand) (opc : Nat) (fs : List LaneFault) (f : LaneFault) (lanes : Mask) (base : DWord) : Wave :=
  { entered v t opc fs lanes base with
    trapRegs := trapRegsOf t false opc fs f lanes (t.mask &&& ~~~lanes != 0)
    trap := some { aside := [{ t with mask := lanes, park := .none }], isAccess := false, mask := lanes, hi := trapHi t f, back := 0
                   served := false } }

/-- The trap of a strand, with a trap base: the wave enters the handler (R314 to R316). -/
theorem takeTrap_of_strand {s : State} {w opc : Nat} {v : Wave} {t : Strand} {fs : List LaneFault} {f : LaneFault} {lanes : Mask}
    (hw : s.waves[w]? = some v) (ht : v.nextFault = some t) (hn : t.num < 8) (hpark : t.park = .fault opc fs) (hf : topFault fs = some f)
    (hbase : hreg s v.hank 0x020 ≠ 0)
    (hl : (maskOf fun l => t.mask.getLsbD l && fs.any fun g => g.lane == l && g.cause == f.cause) = lanes) :
    takeTrap s w = modWave s w fun u => handled u t opc fs f lanes (hreg s v.hank 0x020) := by
  have hfaults : t.faults = (opc, fs) := by rw [Strand.faults, hpark]
  simp only [takeTrap, hw, ht, takeStrandTrap, hfaults, hf, hl, if_neg hbase, modWave_modWave, handled]
  generalize trapRegsOf t false opc fs f lanes (t.mask &&& ~~~lanes != 0) = regs
  congr 1
  funext u
  rw [modThread_of_lt _ hn]
  by_cases hrest : t.mask &&& ~~~lanes = 0
  · simp only [entered, hrest, if_true, List.append_nil, withHandler, handlerStrand]
  · simp only [entered, hrest, if_false, addStrands_singleton, Wave.freeNum, withHandler, handlerStrand, leftStrand]

/-- The entry changes the strands, MORE and the trap's state alone. -/
theorem handled_frame (v : Wave) (t : Strand) (opc : Nat) (fs : List LaneFault) (f : LaneFault) (lanes : Mask) (base : DWord) :
    { handled v t opc fs f lanes base with strands := v.strands, trapRegs := v.trapRegs, trap := v.trap, more := v.more } = v := rfl

theorem handled_thread (v : Wave) (t : Strand) (opc : Nat) (fs : List LaneFault) (f : LaneFault) (lanes : Mask) (base : DWord) (n : Nat) :
    (handled v t opc fs f lanes base).thread n = (entered v t opc fs lanes base).thread n := by
  simp only [Wave.thread, handled, entered]

theorem handled_strands (v : Wave) (t : Strand) (opc : Nat) (fs : List LaneFault) (f : LaneFault) (lanes : Mask) (base : DWord) :
    (handled v t opc fs f lanes base).strands = (entered v t opc fs lanes base).strands := rfl

theorem handled_more (v : Wave) (t : Strand) (opc : Nat) (fs : List LaneFault) (f : LaneFault) (lanes : Mask) (base : DWord) :
    (handled v t opc fs f lanes base).more = (entered v t opc fs lanes base).more := rfl

/-- A fault that is no TRAP or BPT sets its word's address aside (R315). -/
theorem handled_trap {v : Wave} {t : Strand} {opc : Nat} {fs : List LaneFault} {f : LaneFault} {lanes : Mask} {base : DWord}
    (h1 : f.cause ≠ .trapInsn) (h2 : f.cause ≠ .breakpoint) : (handled v t opc fs f lanes base).trap =
      some { aside := [{ t with mask := lanes, park := .none }], isAccess := false, mask := lanes, hi := Word.hi t.wordPc, back := 0
             served := false } := by
  simp only [handled, trapHi, h1, h2, or_self, if_false]

/-- MORE stands in bit 31 of `%fcause` where lanes keep their faults. -/
theorem fcause_more (rest : Mask) (code : Nat) :
    (rest != 0).toNat * 2 ^ 31 + code = (if rest = 0 then 0 else 2 ^ 31) + code := by
  by_cases h : rest = 0
  · rw [if_pos h, h]
    rfl
  · rw [if_neg h, bne_iff_ne.mpr h, Bool.toNat_true, Nat.one_mul]

section
variable {v : Wave} {t : Strand} {opc : Nat} {fs : List LaneFault} {f g : LaneFault} {lanes : Mask} (base : DWord)
  (hg : argMin (·.lane) (fs.filter fun g => g.cause == f.cause && lanes.getLsbD g.lane) = some g)
include hg

theorem handled_trapRegs : (handled v t opc fs f lanes base).trapRegs =
    { fcause := BitVec.ofNat 32 ((t.mask &&& ~~~lanes != 0).toNat * 2 ^ 31 + f.cause.code), fmask := lanes.setWidth 32, fpc := Word.lo t.wordPc
      faddrlo := Word.lo g.addr, faddrhi := Word.hi g.addr
      finfo := finfoOf g false (match t.clause with | some c => c.idx | none => 0) opc } := trapRegsOf_strand _ hg

end

/-- Settles O52: the entry is one change of the wave, whose parts are read off. -/
theorem trapEntryDelivers : Obligations.TrapEntryDelivers := by
  unfold Obligations.TrapEntryDelivers
  intro s w opc v t fs f g hw ht hn hpark hf hbase lanes rest hg htrap hbpt s'
  have hs' : s' = modWave s w fun u => handled u t opc fs f lanes (hreg s v.hank 0x020) := takeTrap_of_strand hw ht hn hpark hf hbase rfl
  clear_value s' lanes
  have hv' : s'.waves[w]? = some (handled v t opc fs f lanes (hreg s v.hank 0x020)) := by
    rw [hs', getElem?_modWave, if_pos rfl, hw, Option.map_some]
  have hregs := handled_trapRegs (v := v) (t := t) (opc := opc) (hreg s v.hank 0x020) hg
  refine ⟨?_, ?_, fun k hk => ?_, _, hv', handled_frame v t opc fs f lanes _, ?_, ?_, ?_, ?_, ?_, ?_, ?_, fun hrest => ?_⟩
  · rw [hs']
    rfl
  · rw [hs', length_modWave]
  · rw [hs', getElem?_modWave, if_neg (Ne.symm hk)]
  · rw [handled_thread]
    exact thread_entered (mem_of_nextFault ht) hn opc fs lanes _
  · rw [hregs, fcause_more]
  · rw [hregs]
  · rw [hregs]
  · rw [hregs, pair_lo_hi]
  · rw [hregs, finfoOf_access hg htrap hbpt]
    cases t.clause <;> simp only [Nat.zero_mod]
  · rw [handled_trap htrap hbpt]
  · rw [handled_strands, handled_more]
    exact more_entered v opc fs _ hrest

end Sys2Proof.TrapEntry
end
